-- ==== Sys2Proof/Word.lean ====
section
/-! DEFINITION. The word types of the module and their plainest arithmetic (00_scope R8: bit 0 is least significant,
multi-byte data is little-endian). -/

namespace Sys2Proof

/-- One byte. -/
abbrev Byte := BitVec 8

/-- A byte string in ascending byte order. -/
abbrev Bytes := List Byte

/-- A sparse table: key and value pairs, keys strictly rising, no entry equal to the table's default (the canonical
form that `Machine.Tab.wf` states). An absent key reads as the default. -/
abbrev Tab (α : Type) := List (Nat × α)

/-- The `len`-bit field of a number that starts at bit `lo`. -/
def fieldNat (x lo len : Nat) : Nat := (x >>> lo) % 2 ^ len

/-- A Boolean as one bit. -/
def b2n (b : Bool) : Nat := if b then 1 else 0

end Sys2Proof
end

