-- ==== Sys2Proof/Syntax.lean ====
section
/-! DEFINITION. The commands of the block: one constructor per row of the operation table. A thread instruction
carries its logical core, its thread and its whole 64-bit word (R101); an event carries what the outside supplies. -/

namespace Sys2Proof

/-- Management transports (16, table Management transports). -/
inductive Transport where
  | mga | mgb | smbus | mailbox
  deriving DecidableEq, Repr

/-- What an ECC check newly finds wrong with a stored LPDDR sector (R252): nothing, a single-bit error of the sector,
a double error, a TAG mismatch, a single-bit or an uncorrectable error of the ECC sector, a link error corrected. -/
inductive EccFind where
  | clean | single | double | tag | eccSingle | eccDouble | link
  deriving DecidableEq, Repr

/-- Causes of a module reset (14, table Reset classes; HUB_RSTCAUSE.CLASS 1 to 3). -/
inductive ResetPin where
  | rstN | perst | mmc
  deriving DecidableEq, Repr

/-- The outcome of LPDDR training of one die (R262): the rate in use, or failure at 6,400 MT/s. -/
abbrev TrainOutcome := Option (BitVec 2)

/-- The commands. `c` is a logical core, `t` a thread, `w` an instruction word or a written register word. -/
inductive Instr where
  -- scalar, branch and system
  | nop (c t : Nat) (w : BitVec 64)
  | halt (c t : Nat) (w : BitVec 64)
  | alu (c t : Nat) (w : BitVec 64)
  | alui (c t : Nat) (w : BitVec 64)
  | movi (c t : Nat) (w : BitVec 64)
  | movk (c t : Nat) (w : BitVec 64)
  | caprd (c t : Nat) (w : BitVec 64)
  | modeset (c t : Nat) (w : BitVec 64)
  | sysrd (c t : Nat) (w : BitVec 64)
  | syswr (c t : Nat) (w : BitVec 64)
  | br (c t : Nat) (w : BitVec 64)
  | jmp (c t : Nat) (w : BitVec 64)
  | jal (c t : Nat) (w : BitVec 64)
  | jr (c t : Nat) (w : BitVec 64)
  -- descriptors
  | dld (c t : Nat) (w : BitVec 64)
  | dst (c t : Nat) (w : BitVec 64)
  | dset (c t : Nat) (w : BitVec 64)
  | dget (c t : Nat) (w : BitVec 64)
  | dadv (c t : Nat) (w : BitVec 64)
  | dmov (c t : Nat) (w : BitVec 64)
  -- vector
  | valu (c t : Nat) (w : BitVec 64)
  | vcvt (c t : Nat) (w : BitVec 64)
  | vcmp (c t : Nat) (w : BitVec 64)
  | vsel (c t : Nat) (w : BitVec 64)
  | vmovBroadcast (c t : Nat) (w : BitVec 64)
  | vmovExtract (c t : Nat) (w : BitVec 64)
  | vmovIndex (c t : Nat) (w : BitVec 64)
  | vred (c t : Nat) (w : BitVec 64)
  | vperm (c t : Nat) (w : BitVec 64)
  | plog (c t : Nat) (w : BitVec 64)
  -- load and store
  | lds (c t : Nat) (w : BitVec 64)
  | sts (c t : Nat) (w : BitVec 64)
  | ldv (c t : Nat) (w : BitVec 64)
  | stv (c t : Nat) (w : BitVec 64)
  | gather (c t : Nat) (w : BitVec 64)
  | scatter (c t : Nat) (w : BitVec 64)
  | atom (c t : Nat) (w : BitVec 64)
  | rld (c t : Nat) (w : BitVec 64)
  | rst (c t : Nat) (w : BitVec 64)
  | rldv (c t : Nat) (w : BitVec 64)
  | rstv (c t : Nat) (w : BitVec 64)
  | ratom (c t : Nat) (w : BitVec 64)
  | ratomn (c t : Nat) (w : BitVec 64)
  | puts (c t : Nat) (w : BitVec 64)
  -- pumps
  | pumpCopy (c t : Nat) (w : BitVec 64)
  | pumpToHost (c t : Nat) (w : BitVec 64)
  | pumpFromHost (c t : Nat) (w : BitVec 64)
  | pumpPut (c t : Nat) (w : BitVec 64)
  | pumpGet (c t : Nat) (w : BitVec 64)
  -- synchronisation
  | semSig (c t : Nat) (w : BitVec 64)
  | semWait (c t : Nat) (w : BitVec 64)
  | semTry (c t : Nat) (w : BitVec 64)
  | barArrive (c t : Nat) (w : BitVec 64)
  | barWait (c t : Nat) (w : BitVec 64)
  | bar (c t : Nat) (w : BitVec 64)
  | fenceL (c t : Nat) (w : BitVec 64)
  | fenceM (c t : Nat) (w : BitVec 64)
  | fenceG (c t : Nat) (w : BitVec 64)
  | stepfence (c t : Nat) (w : BitVec 64)
  | stepfenceM (c t : Nat) (w : BitVec 64)
  -- tensor and collective submit
  | matmul (c t : Nat) (w : BitVec 64)
  | conv (c t : Nat) (w : BitVec 64)
  | attend (c t : Nat) (w : BitVec 64)
  | rowstatStatistics (c t : Nat) (w : BitVec 64)
  | rowstatSoftmax (c t : Nat) (w : BitVec 64)
  | sfu (c t : Nat) (w : BitVec 64)
  | verify (c t : Nat) (w : BitVec 64)
  | commit (c t : Nat) (w : BitVec 64)
  | sampleGreedy (c t : Nat) (w : BitVec 64)
  | sampleTopkTopp (c t : Nat) (w : BitVec 64)
  | sampleTemperature (c t : Nat) (w : BitVec 64)
  | route (c t : Nat) (w : BitVec 64)
  | accopClr (c t : Nat) (w : BitVec 64)
  | accopRd (c t : Nat) (w : BitVec 64)
  | accopRdClr (c t : Nat) (w : BitVec 64)
  | csub (c t : Nat) (w : BitVec 64)
  -- thread events and the core's registers
  | instructionFetch (c t : Nat)
  /-- The response to request `r` of the thread returns. -/
  | externalResponse (c t r : Nat)
  /-- Operation `op` ends with cause `cause` at a place of kind `dest` (CTX_FAULT.DEST). -/
  | operationErrorStatus (op : Nat) (cause : BitVec 8) (dest : BitVec 4)
  | ctxCtlStart (c t : Nat)
  | ctxCtlStop (c t : Nat)
  | ctxCtlClear (c t : Nat)
  | ctxModeWrite (c t : Nat) (w : BitVec 32)
  | coreSemsigWrite (c sem : Nat) (inc : BitVec 8)
  | coreSemsetWrite (c sem : Nat) (v : BitVec 16)
  | barCfgEnable (die ch : Nat) (w : BitVec 32)
  /-- A write to the EXPERT register at BAR0 offset `off`. -/
  | expertKeyWrite (off : Nat) (key : BitVec 16)
  -- arrays, SFU and pumps
  | arrayInstructionStart (c a : Nat)
  /-- The oldest instruction in the array ends. `bad`: the check that really compares unequal, if any; `written`: how
  many outputs had been written when a check failed (R155). -/
  | arrayInstructionEnd (c a : Nat) (bad : Option Nat) (written : Nat)
  | sfuInstructionStart (c : Nat)
  | sfuInstructionComplete (c : Nat)
  /-- Pump `p` takes the transfer at the head of core `c`'s host queue (`host`) or stream queue. -/
  | pumpTransferStart (c : Nat) (host : Bool) (p : Nat)
  | pumpTransferComplete (host : Bool) (p : Nat)
  | maCtlGoSet (c a : Nat) (w : BitVec 32)
  | maCtlGoClear (c a : Nat) (w : BitVec 32)
  | maStestStart (c a : Nat)
  /-- The self-test of an array ends; `code` 0 is a pass, otherwise FAILCODE. -/
  | arraySelfTestDone (c a : Nat) (code : BitVec 8)
  | coreDike (c : Nat) (cause : BitVec 8)
  | siteJournalAppend (site : Nat)
  -- memory
  | spadEccWriteback (c word : Nat)
  /-- The controller serves sector request `id`; `e` is what the check newly finds. -/
  | lpddrSectorAccess (id : Nat) (e : EccFind)
  | lpddrEccWriteback (sector : Nat)
  | rowRemapCopyDone (die ch k : Nat)
  | remapJournalAppend (die ch k : Nat)
  | rowTrackerDecay (die ch : Nat)
  /-- Patrol scrub reads the sector at usable address 32 × `sector`. -/
  | patrolScrub (sector : Nat) (e : EccFind)
  | wckDqCheck (die ch : Nat)
  | lpdCtlGoSet (die : Nat) (w : BitVec 32)
  -- photonic interposer
  | pilPacketReceive (d dir g : Nat) (pkt : Bytes)
  | pilNak (d dir g gseq : Nat)
  | pilNakRepeat (d dir g : Nat)
  | pilReplayWaitTimeout (d dir g : Nat)
  | pilGroupCheckDone (d dir g : Nat) (failed : List Nat)
  | laneMarginSample (d dir p : Nat) (margin : BitVec 7)
  | laneLossOfLock (d dir p : Nat)
  | laneOfflineRetrainDone (d dir p : Nat) (pass : Bool)
  | laneReplacement (d dir l : Nat)
  | widthStep (d dir : Nat)
  | dluChangeover
  /-- Receivers relock on the spare unit; `lost` lists the lanes (bundle, direction, lane) that do not. -/
  | dluChangeoverDone (lost : List (Nat × Nat × Nat))
  | dluFailure
  | hubDiectlDieReset (d : Nat)
  | pilCtlGoSet (d : Nat) (w : BitVec 32)
  -- optical links
  /-- The flit's 256 bytes, and then one byte for each codeword that holds bytes of it (assumption 124). -/
  | flitReceive (l : Nat) (flit : Bytes)
  | flitNakRepeat (l : Nat)
  | laneSetChange (l : Nat) (tx : Bool)
  | laneOut (l : Nat) (mseq : BitVec 8) (lanes : BitVec 16)
  | laneOutAck (l : Nat) (mseq : BitVec 8) (lanes : BitVec 16)
  | laneIn (l : Nat) (mseq : BitVec 8) (lanes : BitVec 16)
  | laneInAck (l : Nat) (mseq : BitVec 8) (lanes : BitVec 16)
  | laneQuar (l : Nat) (mseq : BitVec 8) (lanes : BitVec 16)
  | laneReady (l : Nat) (mseq : BitVec 8) (lanes : BitVec 16)
  | retrainReq (l : Nat)
  | laneLossOfSignal (l : Nat) (lanes : BitVec 16)
  | ringRelockDone (l k : Nat) (ok : Bool)
  | ringDither
  /-- The receiver of link `l` measures lane `k`: embankment in 0.1 dB. -/
  | embankmentMeasure (l k : Nat) (emb : BitVec 8)
  | laserSample
  | changeoverTimeout (p k : Nat)
  | sourceOutputLost (p k : Nat)
  /-- The bias loop; `limit` lists the (port, wavelength) pairs with a lane at +3.0 dBm or more. -/
  | biasLoop (limit : List (Nat × Nat))
  | tklWaveForceChg (p k : Nat)
  | tklCtlGoSet (p : Nat) (w : BitVec 32)
  | portReset (p : Nat)
  | linkOffRetry (l : Nat)
  | linkLightDetect (l : Nat)
  | linkLightDone (l : Nat)
  | linkTrainDone (l : Nat) (tx rx : BitVec 16)
  | linkAlignDone (l : Nat)
  | linkRetrainDone (l : Nat) (tx rx : BitVec 16)
  | linkStageTimeout (l : Nat)
  | linkRetrainTimeout (l : Nat)
  -- fabric
  | fabCtlGoSet (w : BitVec 32)
  | fabCtlGoClear (w : BitVec 32)
  | fabCtlRediscover
  | discoveryReevaluate (l : Nat)
  | disc (l : Nat) (rec : Bytes)
  | discRecordSend (l : Nat)
  | discTimeout (l : Nat)
  | discoveryRetry (l : Nat)
  | fabRouteWrite (n : Nat) (w : BitVec 64)
  | routeDrainEnd (n : Nat)
  /-- A fabric packet (header and payload) arrives on link `l`; 48 is the turn-around of R351. -/
  | fabricForward (l : Nat) (pkt : Bytes)
  | fabricRd (l : Nat) (pkt : Bytes)
  | fabricWr (l : Nat) (pkt : Bytes)
  | fabricPut (l : Nat) (pkt : Bytes)
  | fabricAtom (l : Nat) (pkt : Bytes)
  | fabricAtomn (l : Nat) (pkt : Bytes)
  | fabricRdrsp (l : Nat) (pkt : Bytes)
  | fabricAck (l : Nat) (pkt : Bytes)
  | fabricTimeout (id : Nat)
  | atomicLineIdleRelease (line : Nat)
  -- time
  | ttAnnounce (l : Nat) (hops : BitVec 6) (locked : Bool) (gm : BitVec 16)
  | ttAnnounceSend
  | ttExchangeStart
  | ttSync (l : Nat) (t1 t2 : BitVec 64)
  | ttDreq (l : Nat) (t3 t4 : BitVec 64)
  | ttDresp (l : Nat) (t4 : BitVec 64) (asym : BitVec 32)
  | timebaseParentLoss
  | stepEdge
  | rackclkLoss
  | tbCtlGoSet (w : BitVec 32)
  -- collective engine
  | collectiveDescriptorAccept (c : Nat)
  /-- A collective packet's payload (header and body) arrives on link `l`. -/
  | open (l : Nat) (pkt : Bytes)
  | exp (l : Nat) (pkt : Bytes)
  | tv (l : Nat) (pkt : Bytes)
  | win (l : Nat) (pkt : Bytes)
  | spec (l : Nat) (pkt : Bytes)
  | res (l : Nat) (pkt : Bytes)
  | data (l : Nat) (pkt : Bytes)
  | cnt (l : Nat) (pkt : Bytes)
  | bucketComplete (tag : Nat)
  | stepTimeout (tag : Nat)
  | stepAbort (l : Nat) (tag : BitVec 12) (attempt : BitVec 8) (g : BitVec 4) (k : BitVec 32)
  | fenceArrive (l : Nat) (g : BitVec 4) (k : BitVec 32)
  | fenceRelease (l : Nat) (g : BitVec 4) (k : BitVec 32)
  | colCtlGoSet (w : BitVec 32)
  | colCtlGoClear (w : BitVec 32)
  | colTreeEnSet (e : Nat) (w : BitVec 128)
  | colTreeEnClear (e : Nat) (w : BitVec 128)
  | colGroupEnSet (g : Nat) (w : BitVec 64)
  | colGroupEnClear (g : Nat) (w : BitVec 64)
  -- host interface
  /-- A configuration request at byte offset `off` of the configuration space; `wr` the written doubleword. -/
  | configurationRequest (off : Nat) (wr : Option (BitVec 32))
  | d3hotEntry
  | functionLevelReset
  /-- The BAR2 size is written: 2^`sz` GiB, `sz` 0 to 6. -/
  | bar2SizeWrite (sz : Nat)
  | bar0Write (off : Nat) (d : Bytes)
  /-- A BAR2 access of `len` bytes at `off`; `wr` the bytes written, none for a read. -/
  | bar2Access (off len : Nat) (wr : Option Bytes)
  | devCtlGoSet (w : BitVec 32)
  | devIrqsetWrite (v : BitVec 10)
  | msixUnmask (v : BitVec 10)
  | sqCfgGoSet (q : Nat) (w : BitVec 64)
  | sqCfgGoClear (q : Nat) (w : BitVec 64)
  | sqTailDoorbell (q : Nat) (i : BitVec 16)
  | cqHeadDoorbell (q : Nat) (i : BitVec 16)
  /-- The hub fetches the next SQ entry of queue `q`, whose turn it is. -/
  | sqEntryFetch (q : Nat)
  /-- The oldest command of queue `q` that has not started starts. -/
  | commandNop (q : Nat)
  | launch (q : Nat)
  | load (q : Nat)
  | copyIn (q : Nat)
  | copyOut (q : Nat)
  | signal (q : Nat)
  | commandFence (q : Nat)
  /-- Started command number `n` of queue `q` completes. -/
  | commandComplete (q n : Nat)
  | cqCoalesceTimeout (q : Nat)
  | hostAbort (p : Nat)
  -- control of the hub, debug and perturbation
  | hubCorerstWrite (w : BitVec 32)
  | hubDikeSelfTest (c : Nat)
  | hubDikeDike (c : Nat)
  | errDbgdataRead
  | perturbCtlGoSet
  | perturbCtlGoClear
  | perturbEntWrite (i : Nat) (w : BitVec 128)
  | mmcMbxSubmit (w : BitVec 32)
  | mmcMbxAck
  | pwrCapWrite (w : BitVec 32)
  /-- A host write of `size` 4 or 8 bytes to a register without a behaviour of its own. -/
  | registerWrite (off size : Nat) (v : BitVec 64)
  -- start-up
  | standbyPowerOn
  | mmcFirmwareVerify
  | mainPowerSequencing
  | powerSequenceTimeout
  | hubFirmwareLoad
  /-- Bundle training; `bad` lists the lanes (bundle, direction, lane) that do not pass; `dluOk` DLU0 (or DLU1) lights. -/
  | bundleTraining (bad : List (Nat × Nat × Nat)) (dluOk : Bool)
  | featureLevelWrite
  | dieRelease
  /-- LPDDR training: the outcome per die; `hppr` lists the journal rows with a free hPPR resource and whether the row
  then verifies; `stepTwoOk` the rows whose interrupted hPPR verifies first (R261). -/
  | lpddrTraining (out : List TrainOutcome) (hppr : List (Nat × Bool)) (stepTwoOk : List Nat)
  /-- Self-test of start-up step 9; `bad` lists the failing sites. -/
  | scratchpadSelfTest (bad : List Nat)
  | pcieControllerReady
  /-- Port lasers start; `failed` lists the spare wavelengths (unit, wavelength) failing the start-up test. -/
  | portLaserStart (failed : List (Nat × Nat))
  | timebaseLockTimeout
  | readySet
  | moduleReset (pin : ResetPin)
  /-- A hub-led die reset of die `d` ends, with its lanes' and LPDDR training's outcome. -/
  | hubLedDieResetEnd (d : Nat) (bad : List (Nat × Nat × Nat)) (rate : TrainOutcome) (badSites : List Nat)
  -- management: a frame arrives on a transport
  | info (tr : Transport) (f : Bytes)
  | telemetry (tr : Transport) (f : Bytes)
  | logread (tr : Transport) (f : Bytes)
  | regread (tr : Transport) (f : Bytes)
  | identity (tr : Transport) (f : Bytes)
  | attest (tr : Transport) (f : Bytes)
  | reset (tr : Transport) (f : Bytes)
  | power (tr : Transport) (f : Bytes)
  | powercap (tr : Transport) (f : Bytes)
  | updateBegin (tr : Transport) (f : Bytes)
  | updateData (tr : Transport) (f : Bytes)
  | updateVerify (tr : Transport) (f : Bytes)
  | updateCommit (tr : Transport) (f : Bytes)
  | updateAbort (tr : Transport) (f : Bytes)
  | updateSessionTimeout
  | ownerSet (tr : Transport) (f : Bytes)
  | ownerClear (tr : Transport) (f : Bytes)
  | netcfg (tr : Transport) (f : Bytes)
  /-- An SMBus Block Write 0x10; `pecOk` false when a PEC is present and fails. -/
  | smbusFragmentWrite (d : Bytes) (pecOk : Bool)
  | smbusSubmit
  | smbusFragmentRead
  | smbusStatusRead
  | eventRelay (src : BitVec 16) (f : Bytes)
  | networkEchoReply (tr : Transport) (f : Bytes)
  -- power and temperature
  /-- The capping loop runs; `mean` is the input power over the last 10 ms in W. -/
  | cappingEvaluation (mean : Nat)
  /-- The peak limiter sees the mean input power over the last 1 ms, in W, and whether it has stayed below 3,500 W for
  10 ms. -/
  | peakLimit (mean : Nat) (calm : Bool)
  | cclkStep (d : Nat)
  | inputOutOfRange
  /-- Rail `r` of the table Rails (0 to 10) leaves 5 % of its set point. -/
  | railOutOfRange (r : Nat)
  | pwrEnLow
  | pwrEnHigh
  /-- Channel `ch` is sampled: its reading in 1/16 °C, or none. -/
  | thermalSample (ch : Nat) (v : Option Int)
  | throttleStepDown (ch : Nat)
  | throttleStepUp (ch : Nat)
  /-- The flow estimate: mean input power over the second, in W. -/
  | flowEstimate (mean : Nat)
  | auxiliaryFeedLoss
  | refclkFailure
  | rackclkPresent
  | startUpStepTimeout (step : Nat)
  | spareLineSettled (p k : Nat) (ok : Bool)
  | laneRetrained (l k : Nat) (ok : Bool)
  | badFrame (tr : Transport) (f : Bytes)
  deriving DecidableEq, Repr

end Sys2Proof
end

