-- ==== Sys2Proof/Machine/Bits.lean ====
section
/-! DEFINITION. Byte order, sign extension, the CRCs (00 R8, R537), Philox-4x32-10 (02, Deterministic stochastic
rounding) and SHAKE256 (16). -/

namespace Sys2Proof.Machine

/-- `n` bytes of a number, little-endian (R8). -/
def toLE : Nat → Nat → Bytes
  | 0, _ => []
  | n + 1, x => BitVec.ofNat 8 (x % 256) :: toLE n (x / 256)

/-- The number a little-endian byte string spells. -/
def fromLE : Bytes → Nat
  | [] => 0
  | b :: bs => b.toNat + 256 * fromLE bs

/-- Bytes `lo` to `lo + n - 1` of a byte string. -/
def slice {α : Type} (l : List α) (lo n : Nat) : List α := (l.drop lo).take n

/-- The little-endian field of `n` bytes at offset `lo`. -/
def leField (b : Bytes) (lo n : Nat) : Nat := fromLE (slice b lo n)

/-- The signed value of the low `n` bits. -/
def signedNat (n x : Nat) : Int := if x % 2 ^ n < 2 ^ (n - 1) then (x % 2 ^ n : Nat) else (x % 2 ^ n : Nat) - (2 ^ n : Nat)

/-- A signed number as `n` bits. -/
def wrapInt (n : Nat) (x : Int) : Nat := (x % (2 ^ n : Nat)).toNat

/-- `m` rounded up to a quotient by `d`. -/
def ceilDiv (m d : Nat) : Nat := (m + d - 1) / d

/-- All elements of 0 … n − 1 that satisfy `p`. -/
def selectBelow (n : Nat) (p : Nat → Bool) : List Nat := (List.range n).filter p

/-- The number whose bit `i` is `p i`, for `i` below `n`. -/
def bitsOf (n : Nat) (p : Nat → Bool) : Nat := (List.range n).foldl (fun a i => a + if p i then 2 ^ i else 0) 0

/-- `x` with its bit `i` set to `b`. -/
def setBit (x i : Nat) (b : Bool) : Nat := if x.testBit i = b then x else if b then x + 2 ^ i else x - 2 ^ i

/-- `m` clamped from above: a counter that saturates. -/
def satAdd (m n limit : Nat) : Nat := min (m + n) limit

/-- One bit of a most-significant-first CRC. -/
def crcBitM (w poly : Nat) (r : Nat) : Nat :=
  if r.testBit (w - 1) then ((r <<< 1) % 2 ^ w) ^^^ poly else (r <<< 1) % 2 ^ w

/-- One byte of a non-reflected CRC of width `w`. -/
def crcByteM (w poly : Nat) (r : Nat) (b : Byte) : Nat :=
  (List.range 8).foldl (fun x _ => crcBitM w poly x) (r ^^^ (b.toNat <<< (w - 8)))

/-- One bit of a reflected CRC. -/
def crcBitL (rpoly r : Nat) : Nat := if r.testBit 0 then (r >>> 1) ^^^ rpoly else r >>> 1

/-- One byte of a reflected CRC. -/
def crcByteL (rpoly r : Nat) (b : Byte) : Nat := (List.range 8).foldl (fun x _ => crcBitL rpoly x) (r ^^^ b.toNat)

/-- CRC-16 of PIL packet headers (R537). -/
def crc16 (bs : Bytes) : Nat := bs.foldl (crcByteM 16 0x1021) 0xFFFF

/-- CRC-32 of flit trailers and boot pointer records (R537). -/
def crc32 (bs : Bytes) : Nat := (bs.foldl (crcByteL 0xEDB88320) 0xFFFFFFFF) ^^^ 0xFFFFFFFF

/-- CRC-32C of packets (R537). -/
def crc32c (bs : Bytes) : Nat := (bs.foldl (crcByteL 0x82F63B78) 0xFFFFFFFF) ^^^ 0xFFFFFFFF

/-- CRC-64/ECMA-182 of collective digests (R537), continued from `r`. -/
def crc64 (r : Nat) (bs : Bytes) : Nat := bs.foldl (crcByteM 64 0x42F0E1EBA9EA3693) r

/-- One Philox round on the counter words. -/
def philoxRound (k0 k1 : Nat) (c : Nat × Nat × Nat × Nat) : Nat × Nat × Nat × Nat :=
  let p0 := 0xD2511F53 * c.1
  let p1 := 0xCD9E8D57 * c.2.2.1
  ((p1 >>> 32) ^^^ c.2.1 ^^^ k0, p1 % 2 ^ 32, (p0 >>> 32) ^^^ c.2.2.2 ^^^ k1, p0 % 2 ^ 32)

/-- `n` Philox rounds with the key stepped after each. -/
def philoxRounds : Nat → Nat → Nat → Nat × Nat × Nat × Nat → Nat × Nat × Nat × Nat
  | 0, _, _, c => c
  | n + 1, k0, k1, c =>
    philoxRounds n ((k0 + 0x9E3779B9) % 2 ^ 32) ((k1 + 0xBB67AE85) % 2 ^ 32) (philoxRound k0 k1 c)

/-- Philox-4x32 with 10 rounds: key (64 bits) and four counter words (PRESUMED: the published generator,
assumption 11). -/
def philox (key c0 c1 c2 c3 : Nat) : Nat × Nat × Nat × Nat :=
  philoxRounds 10 (key % 2 ^ 32) ((key >>> 32) % 2 ^ 32) (c0 % 2 ^ 32, c1 % 2 ^ 32, c2 % 2 ^ 32, c3 % 2 ^ 32)

/-- The generator word of a stochastic rounding (02, table Stochastic-rounding generator inputs). -/
def srWord (seed tensor idx : Nat) : BitVec 32 :=
  BitVec.ofNat 32 (philox seed (idx % 2 ^ 32) (idx >>> 32) tensor 0x53524E44).1

/-- Rotation of a 64-bit number. -/
def rotl64 (x n : Nat) : Nat := ((x <<< n) % 2 ^ 64) ||| (x >>> (64 - n))

/-- The walk of step rho: after `n` moves from lane (1, 0), with `k` moves made before, the rotation of lane `i`; move `k`
turns the lane it stands on by the triangular number of `k + 1` (PRESUMED: FIPS 202, assumption 11). -/
def rhoWalk (i : Nat) : Nat → Nat → Nat → Nat → Nat
  | 0, _, _, _ => 0
  | n + 1, k, x, y =>
    if x + 5 * y = i then (k + 1) * (k + 2) / 2 % 64 else rhoWalk i n (k + 1) y ((2 * x + 3 * y) % 5)

/-- The rotation of lane x + 5 y; lane 0 is not turned. -/
def rhoTurn (i : Nat) : Nat := rhoWalk i 24 0 1 0

/-- `n` steps of the feedback register of step iota, x^8 + x^6 + x^5 + x^4 + 1. -/
def iotaReg : Nat → Nat
  | 0 => 1
  | n + 1 =>
    let r := 2 * iotaReg n
    if r < 256 then r else r ^^^ 0x171

/-- What round `n` adds to lane 0: bit 2^j − 1 is bit 0 of the register after 7 n + j steps. -/
def iotaWord (n : Nat) : Nat :=
  ((List.range 7).map fun j => if (iotaReg (7 * n + j)).testBit 0 then 2 ^ (2 ^ j - 1) else 0).sum

/-- One Keccak round on 25 lanes. -/
def keccakRound (a : List Nat) (rc : Nat) : List Nat :=
  let g := fun (l : List Nat) i => l.getD i 0
  let c := (List.range 5).map fun x => g a x ^^^ g a (x + 5) ^^^ g a (x + 10) ^^^ g a (x + 15) ^^^ g a (x + 20)
  let d := (List.range 5).map fun x => g c ((x + 4) % 5) ^^^ rotl64 (g c ((x + 1) % 5)) 1
  let t := (List.range 25).map fun i => g a i ^^^ g d (i % 5)
  -- lane (x, y) of the result of rho and pi comes from lane (x + 3 y, x)
  let b := (List.range 25).map fun i =>
    let x := i % 5
    let y := i / 5
    let src := (x + 3 * y) % 5 + 5 * x
    rotl64 (g t src) (rhoTurn src)
  (List.range 25).map fun i =>
    let x := i % 5
    let y5 := i - x
    let v := g b i ^^^ ((g b ((x + 1) % 5 + y5) ^^^ (2 ^ 64 - 1)) &&& g b ((x + 2) % 5 + y5))
    if i = 0 then v ^^^ rc else v

/-- Keccak-f[1600]. -/
def keccakF (a : List Nat) : List Nat := (List.range 24).foldl (fun a n => keccakRound a (iotaWord n)) a

/-- Absorbs one 136-byte block. -/
def keccakAbsorb (a : List Nat) (blk : Bytes) : List Nat :=
  keccakF ((List.range 25).map fun i => a.getD i 0 ^^^ if i < 17 then leField blk (8 * i) 8 else 0)

/-- Absorbs `n` blocks of 136 bytes. -/
def keccakAbsorbAll : Nat → List Nat → Bytes → List Nat
  | 0, a, _ => a
  | n + 1, a, bs => keccakAbsorbAll n (keccakAbsorb a (bs.take 136)) (bs.drop 136)

/-- The message padded for SHAKE256. -/
def shakePad (m : Bytes) : Bytes :=
  let n := 136 - m.length % 136
  if n = 1 then m ++ [0x9F#8] else m ++ [0x1F#8] ++ List.replicate (n - 2) 0#8 ++ [0x80#8]

/-- The first `n` bytes, at most 136, of SHAKE256. -/
def shake256 (m : Bytes) (n : Nat) : Bytes :=
  let p := shakePad m
  let a := keccakAbsorbAll (p.length / 136) (List.replicate 25 0) p
  ((a.take 17).flatMap (toLE 8)).take n

end Sys2Proof.Machine
end

