-- ==== Sys2Proof/Config.lean ====
section
/-! DEFINITION. What the manual leaves open: free values (no body: nothing can be proved of their value) and the
functions that the manual names without giving them. Each is applied to operands or to the plain counter
`State.freeCtr`. -/

namespace Sys2Proof.Config

/-- Free 64-bit value number `n` (assumption 2). -/
opaque freeWord : Nat → BitVec 64

/-- Free byte `i` of free value number `n` (assumption 2). -/
opaque freeByte : Nat → Nat → Byte

/-- Free choice number `n`, where the manual allows one of two whole actions (assumption 2, R81, R523). -/
opaque freeBool : Nat → Bool

/-- Falcon-1024 verification: public key, message, signature (R486, R495). The manual names the scheme and does not
give it (assumption 12). -/
opaque falconVerify : Bytes → Bytes → Bytes → Bool

/-- Falcon-1024 padded signature of the identity key over a message, 1,280 bytes (R499; assumption 12). -/
opaque falconSign : Bytes → Bytes

/-- The PL2 image that the loader makes of a PL1 image, or none where a PL1 feature has no PL2 equivalent
(R97, R98). The manual does not give the PL1 format (assumption 13). -/
opaque pl1Translate : Bytes → Option Bytes

/-- The fields of a management request whose widths the manual does not give, or none where they are not there
(16, table Commands; assumption 57). -/
opaque mgmtArgs : Nat → Bytes → Option (List Nat)

/-- The image bytes of an UPDATE_DATA request. -/
opaque mgmtData : Bytes → Bytes

/-- The payload of a response whose layout the manual does not give, from the items that it lists. -/
opaque mgmtBody : Nat → List Bytes → Bytes

/-- NETCFG: the collectors (port, address) and the RELAY node of a payload. -/
opaque netCollectors : Bytes → List (Nat × Bytes)
opaque netRelay : Bytes → BitVec 16

/-- The answer of a management port to an ARP, NDP or ICMP echo request: port, IDENT, addressing, request. -/
opaque netReply : Nat → Bytes → Bytes → Bytes → Bytes

/-- The three certificates, each preceded by its length (R498). -/
opaque certificates : Bytes

end Sys2Proof.Config
end

