-- ==== Sys2Proof/Machine/State.lean ====
section
/-! DEFINITION. The state of the module, as plain data: every register, buffer, counter, mode and pin that the manual
names, the commands that wait, and the two reasons types. Registers that only compute a value from other state
(CTX_STATE, CAP_CORE, …) have no field: `Machine/Registers.lean` computes them. -/

namespace Sys2Proof.Machine

/-! ## Fixed at manufacture, and the environment -/

/-- What the fuses and the build of a module fix (00 R2, 01 R17, 09 table steppings, 16 R550). -/
structure Fuses where
  /-- Grade 144 (144 cores) in place of grade 160 (R2). -/
  grade144 : Bool
  /-- 16 GiB packages in place of 32 GiB (R2). -/
  l16 : Bool
  /-- Stepping byte of the hub die: 0xA1, 0xB0 or another (09). -/
  hubStep : BitVec 8
  /-- Stepping byte of each compute die; a die not listed is 0xB0. -/
  dieStep : Tab (BitVec 8)
  /-- Spare core sites (R17). -/
  spareSites : List Nat
  /-- The serial number, as ASCII characters (R550). -/
  serial : Bytes
  /-- Start bias of each wavelength, in 0.25 mA: port × 16 + wavelength, spare unit u at port 8 + u (10). -/
  startBias : Tab (BitVec 9)
  /-- ROM key hashes of the vendor keys, and KEY_REVOKED (R495). -/
  fwKeys : List Bytes
  revoked : BitVec 4
  /-- DEBUG_LOCKED is burnt (R501). -/
  debugLocked : Bool
  deriving DecidableEq, Repr

/-! ## Threads and cores (03, 04) -/

/-- Thread states (03, table Thread states). -/
inductive TState where
  | free | ready | waitMem | waitSync | done | stopped | faulted | fenced
  deriving DecidableEq, Repr

/-- What a thread in WAIT_SYNC waits for. -/
inductive Wait where
  | sem (s n : Nat)
  /-- The release of generation `gen` of channel `ch` (R90). -/
  | bar (ch gen : Nat)
  /-- Step group `g` to reach `k`; the status goes to S register `rd` (R92). -/
  | step (g : Nat) (k : BitVec 32) (rd : Nat)
  deriving DecidableEq, Repr

/-- CTX_MODE. -/
structure CtxMode where
  sfuCompat : Bool
  pl1 : Bool
  array : BitVec 2
  prio : BitVec 2
  deriving DecidableEq, Repr

/-- CTX_FAULT and CTX_FAULTPC. -/
structure FaultRec where
  cause : BitVec 8
  unit : BitVec 3
  dest : BitVec 4
  valid : Bool
  pc : BitVec 23
  deriving DecidableEq, Repr

/-- The register files of a thread (03, table Per-thread register files). V: lane i at bits [32 i + 31 : 32 i]. -/
structure Regs where
  s : Tab (BitVec 64)
  d : Tab (BitVec 256)
  v : Tab (BitVec 2048)
  p : Tab (BitVec 64)
  deriving DecidableEq, Repr

/-- The fetch buffer: the scratchpad sector it holds and its uncorrectable words (R59). -/
structure FetchBuf where
  sector : Nat
  data : BitVec 256
  bad : BitVec 4
  deriving DecidableEq, Repr

/-- An access that is part of an external request. -/
inductive PartOp where
  | rd
  | wr (d : Bytes)
  | atom (aop width : Nat) (val cmp : BitVec 64)
  deriving DecidableEq, Repr

/-- One part of an external request: at most one 32-byte sector of this module, or one fabric packet. `sid` is its
sector request; parts that joined a load share it (R248). -/
structure Part where
  sid : Nat
  /-- Device address on the node. -/
  addr : Nat
  len : Nat
  op : PartOp
  /-- Node of a remote access. -/
  node : Option (BitVec 16)
  /-- Offset of the part in the value returned. -/
  off : Nat
  /-- Further lanes that name the same word (R238). -/
  also : List Nat
  /-- Ticks at issue (R249). -/
  time : Nat
  /-- A store to the sector has closed this load to joining (R248). -/
  closed : Bool
  /-- What the sector request of a load returned: the sector's bytes and its bad words. -/
  snap : Option (Bytes × BitVec 4)
  /-- Data once performed. -/
  res : Option Bytes
  /-- Error status, with DEST. -/
  err : Option (BitVec 8 × BitVec 4)
  deriving DecidableEq, Repr

/-- Where the data of an external request goes. -/
inductive ReqDst where
  | none
  | s (rd width : Nat) (signed : Bool)
  /-- Lanes of a V register: `lanes` the lanes loaded, `sup` those superseded since (R539). -/
  | v (rd : Nat) (lanes sup : BitVec 64)
  deriving DecidableEq, Repr

/-- An outstanding external instruction (R72). -/
structure Req where
  id : Nat
  pc : BitVec 64
  dst : ReqDst
  /-- A later instruction has written the S register: the value is discarded (R539). -/
  superseded : Bool
  parts : List Part
  deriving DecidableEq, Repr

/-- A message (PUTS, RATOMN) not acknowledged yet (R357). -/
structure Msg where
  /-- Its fabric request. -/
  id : Nat
  pc : BitVec 64
  /-- It holds a thread slot and a sector slot (R72, R126). -/
  slot : Bool
  deriving DecidableEq, Repr

/-- A thread context. -/
structure Thread where
  state : TState
  /-- The final state a stopping thread enters once its last request completes (R60). -/
  stopping : Option TState
  wait : Option Wait
  /-- Sector slots needed in WAIT_MEM (R73). -/
  memNeed : Nat
  pc : BitVec 64
  fpstat : BitVec 4
  mode : CtxMode
  fault : FaultRec
  args : Tab (BitVec 64)
  regs : Regs
  fetch : Option FetchBuf
  reqs : List Req
  msgs : List Msg
  /-- Per barrier channel, 1 + the generation in which the thread last arrived; 0 for none (R90). -/
  arrived : Tab Nat
  deriving DecidableEq, Repr

/-- An asynchronous operation: a tensor, pump or collective-submit instruction from its issue to its end (R107). -/
structure AsyncOp where
  id : Nat
  core : Nat
  thread : Nat
  pc : BitVec 64
  word : BitVec 64
  /-- The descriptor registers at issue. -/
  d : Tab (BitVec 256)
  ra : BitVec 64
  rb : BitVec 64
  /-- CTX_MODE.SFU_COMPAT at issue (R63). -/
  compat : Bool
  /-- Array at issue (R112). -/
  array : Nat
  /-- Its core was diked or reset since: it signals nothing and records nothing (R546). -/
  mute : Bool
  deriving DecidableEq, Repr

/-- Output bytes of a unit, not yet written: device address and data. -/
structure OutW where
  addr : Nat
  data : Bytes
  deriving DecidableEq, Repr

/-- A SFU-queue instruction in execution. -/
structure SfuRun where
  op : Nat
  writes : List OutW
  flags : BitVec 4
  deriving DecidableEq, Repr

/-- A core, by logical number. -/
structure Core where
  sems : Tab (BitVec 16)
  semOvf : BitVec 64
  /-- Waiting SEM.WAIT in issue order: semaphore, thread, count (R87). -/
  waiters : List (Nat × Nat × Nat)
  unlocked : Bool
  reason : BitVec 8
  diked : Bool
  /-- A self-test was abandoned by a core reset: suspect until it runs again (R162). -/
  retest : Bool
  sfuQ : List Nat
  sfuRun : Option SfuRun
  sfuGrants : BitVec 32
  pumpQ : List Nat
  hostQ : List Nat
  colQ : List Nat
  spdCorr : BitVec 16
  spdUncorr : BitVec 16
  spdLastUe : BitVec 23
  spdUeValid : Bool
  /-- CCLK count of the die at the core's last reset (04, System values). -/
  cclkBase : Nat
  deriving DecidableEq, Repr

/-! ## Arrays and banks (02, 05) -/

/-- One accumulation bank element: A96 with its side state, and the FP32 value of BF16 and FP16 modes (R37, R45). -/
structure Elem where
  a : BitVec 96
  wexp : BitVec 10
  cmax : BitVec 10
  empty : Bool
  nan : Bool
  pinf : Bool
  ninf : Bool
  terms : Nat
  f32 : BitVec 32
  deriving DecidableEq, Repr

/-- What a bank has accumulated since its last clear: nothing, unscaled or scaled A96 with product offset `f`, FP32, a
mixture of these whose value the manual does not state (assumption 30), or unspecified values and term counts
(R155, R182). -/
inductive BankKind where
  | clear
  | unscaled
  | scaled (f : Int)
  | float
  | mixed
  | free
  deriving DecidableEq, Repr

structure Bank where
  kind : BankKind
  inexact : Bool
  elems : Tab Elem
  deriving DecidableEq, Repr

/-- A check that an array compares (05, table Checks by mode). -/
structure Check where
  /-- MA_CHKLOG.KIND. -/
  kind : BitVec 3
  /-- Its sides are formed from something: not every output it covers is left out (R154). -/
  live : Bool
  /-- Its sides, formed from the operands as read, differ by more than R152 allows. -/
  differs : Bool
  deriving DecidableEq, Repr

/-- An array instruction in execution. -/
structure ArrRun where
  op : Nat
  /-- MA_STATUS.MODE. -/
  mode : BitVec 3
  /-- MATMUL, CONV or ATTEND: counted by MA_OPS and the suspect window. -/
  counted : Bool
  bank : Option Nat
  /-- Whether the outputs depend on the bank's earlier contents. -/
  readsBank : Bool
  writes : List OutW
  flags : BitVec 4
  /-- The checks it compares, in order. -/
  checks : List Check
  /-- Checks skipped under R153. -/
  skips : Nat
  /-- Sector slots that its fetches from outside the scratchpad hold (R74). -/
  slots : Nat
  deriving DecidableEq, Repr

/-- A matrix array with its registers. -/
structure Arr where
  queue : List Nat
  run : List ArrRun
  go : Bool
  chkEn : Bool
  chkWindow : BitVec 16
  chkFail : Bool
  suspect : Bool
  held : Bool
  stestBusy : Bool
  /-- START was written and the executing instruction has not ended yet. -/
  stestWait : Bool
  stestDone : Bool
  stestPass : Bool
  failcode : BitVec 8
  reason : BitVec 8
  log : BitVec 32
  since : BitVec 16
  armed : Bool
  ops : BitVec 32
  skip : BitVec 32
  deriving DecidableEq, Repr

/-! ## Dies: LPDDR, barriers, pumps (03, 08) -/

/-- LPD_REMAP. -/
structure RemapEnt where
  valid : Bool
  st : BitVec 2
  rank : BitVec 1
  bg : BitVec 2
  ba : BitVec 2
  row : BitVec 17
  cecount : BitVec 16
  deriving DecidableEq, Repr

/-- A row tracker entry: row key and count (R257). -/
structure Track where
  row : Nat
  count : Nat
  deriving DecidableEq, Repr

/-- LPD_ERRLOG. -/
structure LpdErr where
  addr : BitVec 43
  chan : BitVec 5
  eccsec : Bool
  tagerr : Bool
  cls : BitVec 3
  valid : Bool
  deriving DecidableEq, Repr

/-- The LPD block of a die. -/
structure Lpd where
  go : Bool
  rate : BitVec 2
  scrubEn : Bool
  scrubHours : BitVec 8
  ageMax : BitVec 10
  trained : Bool
  rateNow : BitVec 2
  /-- Channels above 85 °C. -/
  hot : BitVec 24
  full : Bool
  reason : BitVec 8
  corr : BitVec 32
  uncorr : BitVec 16
  link : BitVec 16
  err : LpdErr
  thresh : BitVec 8
  remapEn : Bool
  /-- Entry k of channel c at key c × 512 + k. -/
  remap : Tab RemapEnt
  /-- Tracked rows of each channel, oldest first. -/
  tracker : Tab (List Track)
  /-- One more than the row open in a bank: channel × 32 + rank × 16 + bank group × 4 + bank (R249). -/
  rows : Tab Nat
  /-- Channels whose write queue is being drained (R249). -/
  drain : BitVec 24
  unlocked : Bool
  deriving DecidableEq, Repr

/-- A barrier channel. -/
structure Bar where
  count : BitVec 11
  scope : Bool
  enable : Bool
  gen : BitVec 16
  /-- Arrivals recorded toward the current generation and later ones. -/
  arrivals : Nat
  deriving DecidableEq, Repr

/-- A compute die. -/
structure Die where
  lpd : Lpd
  bars : Tab Bar
  barReason : BitVec 8
  /-- CCLK frequency in 0.05 GHz units (17). -/
  freq : Nat
  /-- CCLK cycles since power-on. -/
  cycles : Nat
  /-- Held in reset (R13). -/
  inReset : Bool
  /-- Under a hub-led die reset of its own (R453). -/
  led : Bool
  /-- Stopped by hub firmware (DIE_STOP requests, R283). -/
  stopped : Bool
  deriving DecidableEq, Repr

/-- A pump transfer in execution. `host` selects the host pumps; `pump` is the die's or the module's pump number. -/
structure PumpRun where
  host : Bool
  die : Nat
  pump : Nat
  /-- The thread operation, or the queue command (queue, number), it serves. -/
  op : Option Nat
  cmd : Option (Nat × Nat)
  /-- What is still to be written on this module at completion. -/
  writes : List OutW
  /-- Host bus writes at completion. -/
  hostWrites : List OutW
  /-- Remote transfer: fabric requests not answered yet, with the address of the piece they carry. -/
  waiting : List (Nat × Nat)
  err : Option (BitVec 8 × BitVec 4)
  moved : Nat
  deriving DecidableEq, Repr

/-! ## Memory -/

/-- All addressed memory, by device address, a scratchpad byte under its logical window; absent bytes read 0 (08 training
fill; assumption 3).
ECC marks lie beside it: per scratchpad or cistern word (address / 8): 1 a correctable error, 2 the same with a
write-back due, 3 uncorrectable; per LPDDR data sector (address / 32): bits 0 single, 1 double, 2 TAG, 3 write-back
due; per ECC group (die, group packed): 1 single, 2 uncorrectable (R239, R240, R252 to R255). -/
structure Mem where
  cells : Tab Byte
  wordErr : Tab Nat
  secErr : Tab Nat
  grpErr : Tab Nat
  /-- Host memory, which the host pumps and queues reach (assumption 3). -/
  host : Tab Byte
  deriving DecidableEq, Repr

/-! ## Error reporting and perturbation (15) -/

/-- PERTURB_ENT, with its count of eligible events. -/
structure PerturbEnt where
  en : Bool
  tgt : BitVec 4
  action : BitVec 4
  place : BitVec 16
  amount : BitVec 16
  period : BitVec 32
  count : BitVec 16
  hits : BitVec 16
  events : Nat
  deriving DecidableEq, Repr

structure Err where
  pend : BitVec 14
  mask : BitVec 14
  next : BitVec 7
  read : BitVec 7
  lost : BitVec 16
  log : Tab (BitVec 256)
  seq : BitVec 32
  dbgCore : BitVec 8
  dbgThread : BitVec 5
  dbgFile : BitVec 3
  dbgIndex : BitVec 10
  dbgDenied : Bool
  perturbGo : Bool
  ents : Tab PerturbEnt
  deriving DecidableEq, Repr

/-! ## Host interface (13) -/

/-- A queue command: its number, its 64 bytes, and its completion once known. -/
structure Cmd where
  n : Nat
  data : Bytes
  status : BitVec 8
  cause : BitVec 8
  detail : BitVec 64
  /-- It may complete: every effect is in place. -/
  ready : Bool
  /-- Contexts that a LAUNCH with WAIT awaits: core × 32 + thread. -/
  ctxs : List Nat
  /-- LOAD and COPY: source address, device address and length of each piece; a translated image in place of host memory;
  the measurement entry of a LOAD (R433). -/
  plan : List (Nat × Nat × Nat)
  image : Option Bytes
  meas : Bytes
  deriving DecidableEq, Repr

/-- One submission queue and its completion queue. -/
structure Queue where
  sqBase : BitVec 64
  cqBase : BitVec 64
  go : Bool
  sqLog2 : BitVec 4
  cqLog2 : BitVec 4
  vector : BitVec 10
  ien : Bool
  coalCount : BitVec 8
  coalTime : BitVec 16
  head : BitVec 16
  cqTail : BitVec 16
  phase : Bool
  error : Bool
  reason : BitVec 8
  tail : BitVec 16
  cqHead : BitVec 16
  fetched : List Cmd
  started : List Cmd
  finished : List Cmd
  /-- Entries since the last interrupt that the head doorbell has not released. -/
  unacked : Nat
  deriving DecidableEq, Repr

structure Dev where
  go : Bool
  qpumps : BitVec 4
  ready : Bool
  /-- READY has been set since the last reset (R419). -/
  everReady : Bool
  stopped : Bool
  speed : BitVec 3
  width : BitVec 5
  tag10 : Bool
  reason : BitVec 8
  stopReason : BitVec 8
  winBase : BitVec 18
  errCount : BitVec 16
  errKind : BitVec 3
  errOffset : BitVec 36
  errValid : Bool
  notifyVec : BitVec 10
  notifyEn : Bool
  unlocked : Bool
  deriving DecidableEq, Repr

/-- PCIe function state and MSI-X. -/
structure Pcie where
  ready : Bool
  /-- Command register. -/
  command : BitVec 16
  bar0 : BitVec 64
  bar2 : BitVec 64
  bar2Size : Nat
  d3 : Bool
  /-- MSI-X table entries: address, data, vector control; the mask bit is 1 after reset. -/
  msix : Tab (BitVec 128)
  pba : BitVec 1024
  /-- The value of the last configuration read. -/
  cfgData : BitVec 32
  /-- The value of the last BAR read. -/
  readData : Bytes
  queues : Tab Queue
  nextCmd : Nat
  /-- The last configuration request was answered with retry status (R412). -/
  cfgRetry : Bool
  /-- The queue served last (R428). -/
  lastQ : Nat
  /-- Commands that wait for a host pump, in order of arrival: queue, number (R435). -/
  pumpWait : List (Nat × Nat)
  deriving DecidableEq, Repr

/-- What leaves the module. -/
inductive Out where
  | msix (addr : BitVec 64) (data : BitVec 32)
  /-- A flit sent on link `l`. -/
  | flit (l : Nat) (d : Bytes)
  /-- A packet sent or resent inside the module on bundle `d`, direction `dir`, lane group `g`. -/
  | pil (d dir g : Nat) (pkt : Bytes)
  /-- A datagram on management port `p` to an address. -/
  | frame (p : Nat) (dst : Bytes) (d : Bytes)
  deriving DecidableEq, Repr

/-! ## Photonic interposer (09) -/

/-- Retry states of a transmitting lane group; REPLAY begins and ends within one command. -/
inductive GState where
  | run | wait | check | off
  deriving DecidableEq, Repr

/-- One lane group of one direction: its transmitter and its receiver. -/
structure Grp where
  state : GState
  /-- GSEQ of the next new packet. -/
  txNext : BitVec 7
  /-- Packets not acknowledged, oldest first. -/
  held : List Bytes
  /-- Replays in a row without the acknowledged GSEQ advancing. -/
  replays : Nat
  /-- GSEQ expected by the receiver. -/
  rxNext : BitVec 7
  /-- The receiver discards until the expected GSEQ arrives. -/
  nakked : Bool
  deriving DecidableEq, Repr

/-- A lane event that waits its turn (R282): logical lane `lane` has failed, or is retired for offline retraining. -/
structure LaneEv where
  lane : Nat
  failed : Bool
  deriving DecidableEq, Repr

/-- One direction of a bundle. -/
structure Dir where
  groups : Tab Grp
  /-- BSEQ the transmitter assigns next, and the receiver delivers next. -/
  txB : BitVec 16
  rxB : BitVec 16
  /-- Packets held for a missing BSEQ. -/
  reorder : List (Nat × Bytes)
  /-- Receive buffers: packets handed to the VC queues and not taken from them yet, by VC (R272 to R274). -/
  queues : Tab (List Bytes)
  /-- Credits that the transmitter has spent and not got back, by VC. -/
  spent : Tab Nat
  /-- Packets of a group under CHECK or removed that wait for room in another group (R281). -/
  moved : List Bytes
  /-- Physical lane + 1 of a logical lane that does not sit on its own number. -/
  map : Tab Nat
  /-- Removed lane groups. -/
  off : BitVec 16
  failed : Tab Bool
  /-- Lanes being retrained offline. -/
  retrain : List Nat
  margin : Tab (BitVec 7)
  events : List LaneEv
  deriving DecidableEq, Repr

/-- A bundle: PIL registers and its two directions. -/
structure Bundle where
  go : Bool
  replayLimit : BitVec 8
  marginMin : BitVec 8
  trained : Bool
  unusable : Bool
  reason : BitVec 8
  crcErr : BitVec 16
  replays : BitVec 16
  swaps : BitVec 8
  steps : BitVec 4
  dluChg : BitVec 4
  unlocked : Bool
  d2h : Dir
  h2d : Dir
  deriving DecidableEq, Repr

/-- Interposer laser units: the active one, which have failed (laser journal), whether a changeover is under way. -/
structure Dlu where
  active : Bool
  failed0 : Bool
  failed1 : Bool
  changing : Bool
  /-- Lanes that failed during the changeover: bundle, direction, physical lane (R286). -/
  later : List (Nat × Nat × Nat)
  deriving DecidableEq, Repr

def Grp.init : Grp := ⟨.run, 0, [], 0, 0, false⟩

def Dir.init : Dir where
  groups := []
  txB := 0
  rxB := 0
  reorder := []
  queues := []
  spent := []
  moved := []
  map := []
  off := 0
  failed := []
  retrain := []
  margin := []
  events := []

def Bundle.init : Bundle where
  go := false
  replayLimit := 8
  marginMin := 20
  trained := false
  unusable := false
  reason := 0
  crcErr := 0
  replays := 0
  swaps := 0
  steps := 0
  dluChg := 0
  unlocked := false
  d2h := Dir.init
  h2d := Dir.init

def Dlu.init : Dlu := ⟨false, false, false, false, []⟩

/-! ## Optical links and lasers (10) -/

/-- Link states (10, table Link states). -/
inductive LState where
  | off | light | train | align | exch | active | isolated | retrain | breached
  deriving DecidableEq, Repr

/-- A flit held for replay: its sequence number, TYPE, payload field, and the packets that begin in it (VC, bytes). -/
structure Flit where
  seq : BitVec 16
  type : Nat
  payload : Bytes
  packets : List (Nat × Bytes)
  deriving DecidableEq, Repr

/-- A change of a lane set that takes effect at the 32nd slot (R318). -/
structure LaneChange where
  tx : Bool
  add : Bool
  lanes : BitVec 16
  deriving DecidableEq, Repr

/-- A link end. -/
structure Link where
  state : LState
  /-- In OFF after a timeout, waiting to retry (R327, R548). -/
  retry : Bool
  txMask : BitVec 16
  rxMask : BitVec 16
  reason : BitVec 8
  txNext : BitVec 16
  rxNext : BitVec 16
  /-- A flit was discarded, and the expected FSEQ has not arrived since (R321). -/
  nakked : Bool
  /-- The next header sent carries NAK (R321). -/
  nakDue : Bool
  /-- The lane whose embankment the next header reports (R299). -/
  rpt : BitVec 4
  /-- The place among the working lanes at which each flit of a 16-lane stream starts (R317). -/
  stream : Nat
  held : List Flit
  /-- The receive buffers: packets in order of arrival, and whether the hub has turned to them (R325). -/
  inq : List (Bool × Bytes)
  /-- The part of a packet that continues in the next DATA flit (11 R346). -/
  rxPart : Bytes
  /-- Replays in a row without ACKSEQ advancing. -/
  replays : Nat
  /-- Packets that wait for credits, replay entries or the link (VC, bytes). -/
  queue : List (Nat × Bytes)
  /-- Sideband messages that wait. -/
  sideband : List Bytes
  /-- Credits spent and not returned, per VC. -/
  spent : Tab Nat
  crcErr : BitVec 16
  replayCnt : BitVec 16
  fecUncorr : BitVec 12
  mislocks : BitVec 8
  retrains : BitVec 4
  sbDrop : BitVec 8
  fecCorr : BitVec 48
  mseq : BitVec 8
  changes : List LaneChange
  /-- Embankments of the transmit lanes as the far end reports them, 0xFF for none. -/
  emb : Tab (BitVec 8)
  /-- Embankments of the receive lanes as measured here. -/
  rxEmb : Tab (BitVec 8)
  /-- Receive lanes quarantined and relocking; transmit lanes whose modulator relocks (R313, R314). -/
  quar : BitVec 16
  relock : BitVec 16
  /-- Transmit lanes removed on LANE_QUAR that the far end has not reported ready. -/
  await : BitVec 16
  /-- The state that RETRAIN was entered from. -/
  prior : LState
  deriving DecidableEq, Repr

/-- Stages of a changeover (10, table Changeover sequence), and of a retirement, which only drains. -/
inductive ChgStage where
  | drain | settle | relock | restore
  deriving DecidableEq, Repr

/-- A changeover or retirement under way. -/
structure Chg where
  stage : ChgStage
  retire : Bool
  /-- It has gone back to the primary (R308). -/
  revert : Bool
  /-- Local link indices that the stage still awaits, and all that take part. -/
  links : BitVec 6
  all : BitVec 6
  /-- Bias of the primary when it began. -/
  bias : BitVec 9
  deriving DecidableEq, Repr

/-- TKL_WAVE. -/
structure Wave where
  bias : BitVec 9
  spare : Bool
  retired : Bool
  chg : Option Chg
  emb : BitVec 8
  /-- A reset has discarded a changeover, which starts again once the port has an ACTIVE link (R309). -/
  again : Bool
  deriving DecidableEq, Repr

/-- A lane event that waits for the end of a changeover (R308): a quarantine found here, one reported by the far end,
a relock that ends. -/
inductive LinkEv where
  | lost (l : Nat) (lanes : BitVec 16)
  | quar (l : Nat) (lanes : BitVec 16)
  | relocked (l k : Nat) (ok : Bool)
  deriving DecidableEq, Repr

/-- A port: TKL_CTL, LAS_CTL and its wavelengths. -/
structure Port where
  go : Bool
  replayLimit : BitVec 8
  minLanes : BitVec 5
  embHold : BitVec 8
  embChg : BitVec 8
  biasChg : BitVec 7
  autoChg : Bool
  reason : BitVec 8
  unlocked : Bool
  waves : Tab Wave
  /-- The port lasers run (14 step 11). -/
  lit : Bool
  events : List LinkEv
  deriving DecidableEq, Repr

/-- LAS_SPARE0 or LAS_SPARE1, with the changeover (port, wavelength) under way and those that wait (R305). -/
structure Spare where
  used : BitVec 16
  port : BitVec 32
  failed : BitVec 16
  active : Option (Nat × Nat)
  queue : List (Nat × Nat)
  deriving DecidableEq, Repr

def Link.init : Link where
  state := .off
  retry := false
  txMask := 0
  rxMask := 0
  reason := 0
  txNext := 0
  rxNext := 0
  nakked := false
  nakDue := false
  rpt := 0
  stream := 0
  held := []
  inq := []
  rxPart := []
  replays := 0
  queue := []
  sideband := []
  spent := []
  crcErr := 0
  replayCnt := 0
  fecUncorr := 0
  mislocks := 0
  retrains := 0
  sbDrop := 0
  fecCorr := 0
  mseq := 0
  changes := []
  emb := []
  rxEmb := []
  quar := 0
  relock := 0
  await := 0
  prior := .active

def Wave.init : Wave := ⟨0, false, false, none, 0xFF, false⟩

def Port.init : Port where
  go := false
  replayLimit := 8
  minLanes := 12
  embHold := 30
  embChg := 10
  biasChg := 85
  autoChg := true
  reason := 0
  unlocked := false
  waves := []
  lit := false
  events := []

def Spare.init : Spare := ⟨0, 0, 0, none, []⟩

/-! ## Fabric (11) -/

/-- FAB_ROUTE: the software fields, and HOLD. -/
structure Route where
  w : BitVec 64
  hold : Bool
  deriving DecidableEq, Repr

/-- FAB_DISCST and the state of discovery on a link. -/
structure Disc where
  minor : BitVec 4
  mine : BitVec 2
  theirs : BitVec 2
  reason : BitVec 8
  observed : Bool
  node : BitVec 16
  link : BitVec 6
  /-- The end holds a record of its neighbour (RXOK). -/
  rxok : Bool
  /-- The link has left EXCH, or timed out in it, since GO was set (R345). -/
  left : Bool
  /-- Discovery is to run again once the link's RETRAIN ends (R342). -/
  again : Bool
  deriving DecidableEq, Repr

/-- Whom a fabric request answers. -/
inductive Owner where
  /-- The remote part at offset `off` of request `req` of a thread. -/
  | part (c t req off : Nat)
  /-- A message (PUTS, RATOMN) of a thread. -/
  | msg (c t : Nat)
  /-- The transfer of stream pump `p`. -/
  | pump (p : Nat)
  deriving DecidableEq, Repr

/-- An outstanding fabric request. -/
structure FabReq where
  id : Nat
  owner : Owner
  eng : BitVec 16
  type : Nat
  node : BitVec 16
  addr : Nat
  len : Nat
  tag : BitVec 15
  /-- The payload after the header. -/
  body : Bytes
  /-- The hub has accepted it: it has crossed its die's bundle (01 R14). -/
  atHub : Bool
  /-- On a link: timed (R356). -/
  sent : Bool
  deriving DecidableEq, Repr

/-- A line held by the remote-atomic unit; `waited` counts operations while a local access waits (R368). -/
structure ALine where
  line : Nat
  waited : Option Nat
  deriving DecidableEq, Repr

structure Fab where
  go : Bool
  acceptObs : Bool
  timeout : BitVec 16
  drain : BitVec 8
  nodeId : BitVec 16
  discDone : Bool
  reason : BitVec 8
  timeouts : BitVec 16
  late : BitVec 16
  drops : BitVec 16
  e2e : BitVec 16
  hot : BitVec 8
  bcast : BitVec 48
  unlocked : Bool
  plan : Tab (BitVec 256)
  record : Tab (BitVec 512)
  disc : Tab Disc
  repl : Tab (BitVec 256)
  route : Tab Route
  reqs : List FabReq
  /-- Packets of this module's hub that wait under HOLD, and 49 for their source (R349). -/
  held : List (Nat × Bytes)
  /-- Tags of requests that ended without a response, which a late response may still carry (R356). -/
  dead : List Nat
  lines : List ALine
  deriving DecidableEq, Repr

def Route.init : Route := ⟨0, false⟩

def Disc.init : Disc := ⟨0, 0, 0, 0, false, 0, 0, false, false, false⟩

def Fab.init : Fab where
  go := false
  acceptObs := false
  timeout := 100
  drain := 60
  nodeId := 0xFFFF
  discDone := false
  reason := 0
  timeouts := 0
  late := 0
  drops := 0
  e2e := 0
  hot := 4
  bcast := 0
  unlocked := false
  plan := []
  record := []
  disc := []
  repl := []
  route := []
  reqs := []
  held := []
  dead := []
  lines := []

/-! ## Time (11) -/

/-- The last TT_ANNOUNCE of a link. -/
structure Announce where
  hops : BitVec 6
  locked : Bool
  gm : BitVec 16
  deriving DecidableEq, Repr

structure Tb where
  time : BitVec 64
  source : BitVec 2
  gm : Bool
  arm : Bool
  go : Bool
  locked : Bool
  holdover : Bool
  conflict : Bool
  /-- The RACKCLK pin runs. -/
  rackclk : Bool
  parent : BitVec 6
  hasParent : Bool
  hops : BitVec 6
  offset : BitVec 16
  gmNode : BitVec 16
  reason : BitVec 8
  steps : BitVec 8
  stepval : BitVec 64
  asym : Tab (BitVec 16)
  unlocked : Bool
  ann : Tab (Option Announce)
  /-- LOCKED has been set since the last reset (R372). -/
  everLocked : Bool
  /-- T1, T2 and T3 of the exchange in progress. -/
  t1 : Option (BitVec 64)
  t2 : BitVec 64
  t3 : BitVec 64
  /-- Exchanges in a row with |o| ≤ 4 ns, and with |o| > 20 ns. -/
  good : Nat
  bad : Nat
  /-- Correction still to be slewed, in ns. -/
  slew : Int
  deriving DecidableEq, Repr

def Tb.init : Tb where
  time := 0
  source := 0
  gm := false
  arm := false
  go := false
  locked := false
  holdover := false
  conflict := false
  rackclk := false
  parent := 0
  hasParent := false
  hops := 0
  offset := 0
  gmNode := 0
  reason := 0
  steps := 0
  stepval := 0
  asym := []
  unlocked := false
  ann := []
  everLocked := false
  t1 := none
  t2 := 0
  t3 := 0
  good := 0
  bad := 0
  slew := 0

/-! ## Collective engine (12) -/

/-- The parameters of a bucket, DEPTH and CHUNK with their defaults filled in, MODE without ENDSTEP. -/
structure CPar where
  op : Nat
  ifmt : Nat
  ofmt : Nat
  mode : Nat
  depth : Nat
  n : Nat
  count : Nat
  chunk : Nat
  deriving DecidableEq, Repr

/-- A local contribution: its operation, place, addresses, the bytes read from scount and SRC, and per offset of DST one
more than the byte written (R405). -/
structure Contrib where
  op : Nat
  core : Nat
  rank : Nat
  src : Nat
  dst : Nat
  cist : Nat
  dcap : Nat
  aux : Nat
  scnt : Bytes
  data : Bytes
  wrote : Tab Nat
  clip : Bool
  deriving DecidableEq, Repr

/-- Windows being added, by element of the chunk: sums, special flags (bit 0 NAN, 1 PINF, 2 NINF), contributions with
ALLNEGZERO, and the count of R393. -/
structure WAcc where
  win : Tab Int
  flags : Tab Nat
  neg : Tab Nat
  got : Nat
  trunc : Bool
  ovf : Bool
  deriving DecidableEq, Repr

/-- A chunk of a bucket: exponent maxima by link, emax per block once decided, sums by slice, elements delivered. -/
structure CChunk where
  begun : Bool
  sent : Bool
  mx : List (Nat × List Int)
  ts : Option (List Int)
  accs : Tab WAcc
  rounded : Bool
  got : Nat
  deriving DecidableEq, Repr

/-- An OPEN received on a link: contributions, ranks, and its parameters with group and step. -/
structure COpen where
  link : Nat
  contrib : Nat
  ranks : List Nat
  par : CPar
  grp : BitVec 4
  step : BitVec 32
  deriving DecidableEq, Repr

/-- An open bucket. `par` is none while only EXP has arrived (R384). -/
structure Bucket where
  tag : Nat
  attempt : BitVec 8
  grp : BitVec 4
  step : BitVec 32
  par : Option CPar
  tree : Option Nat
  locals : List Contrib
  opens : List COpen
  /-- OPEN has been sent (or, at the root, all OPEN are in). -/
  started : Bool
  /-- The checks of R388 have passed. -/
  checked : Bool
  /-- Cistern slots have been claimed or refused (R391). -/
  claimed : Bool
  admitted : Bool
  slots : Nat
  trunc : Bool
  ovf : Bool
  mism : Bool
  nan : Nat
  chunks : Tab CChunk
  flight : List Nat
  delivered : Nat
  /-- Packets that wait for the local descriptors: link (64 this module) and payload. -/
  early : List (Nat × Bytes)
  /-- ALL_TO_ALL_V: counts by source and destination rank, whether rcount is written, elements received. -/
  cnts : List (Nat × Nat × Nat)
  rcount : Bool
  vgot : Nat
  deriving DecidableEq, Repr

/-- The last bucket of a tag that ended (R384, R402). -/
structure Gone where
  valid : Bool
  attempt : BitVec 8
  grp : BitVec 4
  step : BitVec 32
  late : Bool
  deriving DecidableEq, Repr

/-- A fence round of a step group: step, STEPFENCE.M counted, children heard, FENCE_ARRIVE sent (R404). -/
structure Round where
  k : BitVec 32
  count : Nat
  heard : List Nat
  sent : Bool
  deriving DecidableEq, Repr

/-- COL_GROUP with its counter, the dies with ENDSTEP per step, and its rounds. -/
structure Group where
  w : BitVec 32
  step : BitVec 32
  ends : List (BitVec 32 × Nat)
  rounds : List Round
  deriving DecidableEq, Repr

structure Col where
  go : Bool
  admitEn : Bool
  timeout : BitVec 16
  reason : BitVec 8
  reject : BitVec 8
  digestNext : BitVec 8
  late : BitVec 16
  timeouts : BitVec 16
  overflows : BitVec 16
  discards : BitVec 16
  unlocked : Bool
  trees : Tab (BitVec 128)
  /-- COL_MEMBER of entry e, member i, at key e × 64 + i. -/
  members : Tab (BitVec 8)
  groups : Tab Group
  digests : Tab (BitVec 256)
  buckets : List Bucket
  gone : Tab Gone
  /-- Buckets that were aborted, until a descriptor of the tag with another attempt is accepted (R402). -/
  aborted : List (Nat × Gone)
  deriving DecidableEq, Repr

def CChunk.init : CChunk := ⟨false, false, [], none, [], false, 0⟩

def WAcc.init : WAcc := ⟨[], [], [], 0, false, false⟩

def Gone.init : Gone := ⟨false, 0, 0, 0, false⟩

def Group.init : Group := ⟨0, 0, [], []⟩

def Col.init : Col where
  go := false
  admitEn := true
  timeout := 200
  reason := 0
  reject := 0
  digestNext := 0
  late := 0
  timeouts := 0
  overflows := 0
  discards := 0
  unlocked := false
  trees := []
  members := []
  groups := []
  digests := []
  buckets := []
  gone := []
  aborted := []

/-- A boot pointer record as it is read (16, table Boot pointer record). -/
structure BPtr where
  /-- Its CRC holds. -/
  valid : Bool
  seq : BitVec 32
  /-- Slot B. -/
  slotB : Bool
  confirmed : Bool
  fails : BitVec 8
  prevB : Bool
  deriving DecidableEq, Repr

/-- The open update session (R490). -/
structure Session where
  num : Nat
  tr : Transport
  /-- KIND mask. -/
  mask : BitVec 2
  /-- UPDATE_VERIFY answered OK and no UPDATE_DATA has arrived since. -/
  verified : Bool
  deriving DecidableEq, Repr

/-- The host mailbox. -/
structure Mbx where
  ien : Bool
  vector : BitVec 10
  len : BitVec 14
  busy : Bool
  resp : Bool
  refused : Bool
  rlen : BitVec 14
  req : Tab Byte
  rsp : Tab Byte
  deriving DecidableEq, Repr

/-- The SMBus transport: request buffer, response, the response bytes already read, PEC error, the last byte or block
read by the controller. -/
structure Smb where
  req : Bytes
  busy : Bool
  resp : Option Bytes
  read : Nat
  pecErr : Bool
  out : Bytes
  deriving DecidableEq, Repr

/-- The management controller (16). -/
structure Mmc where
  /-- The event log, the next event number, and the number from which SMBus LOGREAD has not read. -/
  events : List (Nat × Bytes)
  eventNo : Nat
  smbRead : Nat
  /-- Collectors: port, address. -/
  collectors : List (Nat × Bytes)
  /-- NETCFG: relay node and the addressing of the ports. -/
  relay : BitVec 16
  net : Bytes
  /-- Event frames due to the RELAY node (R484). -/
  relayQ : List Bytes
  ownerKey : Option Bytes
  ownerSeq : Nat
  /-- The last signed request accepted, and its response (R487). -/
  signed : Option (Bytes × Bytes)
  /-- Requests that are held, in order of arrival (R489). -/
  held : List (Transport × Bytes)
  session : Option Session
  sessions : Nat
  /-- ATTEST requests begun since power-on (R490). -/
  attests : Nat
  /-- The boot pointer records of the two flash copies, 16 bytes each. -/
  ptr0 : Bytes
  ptr1 : Bytes
  /-- Bytes of the slots, by flash address; an erased byte reads 0xFF (assumption 4). -/
  flash : Tab Byte
  /-- Fused minimum SVN: MMC image, hub image (R497). -/
  minMmc : Nat
  minHub : Nat
  mext : Bytes
  meas : List Bytes
  /-- Bytes 0x40 to 0x4F of the attestation report at the last READY (R501). -/
  hubInfo : Bytes
  mbx : Mbx
  smb : Smb
  deriving DecidableEq, Repr

def Mbx.init : Mbx := ⟨false, 0, 0, false, false, false, 0, [], []⟩

def Smb.init : Smb := ⟨[], false, none, 0, false, []⟩

/-- The reference image at a flash address: KIND, KEY 0, VERSION 0, SVN 0, an empty body with its digest; erased key and
signature (assumption 4). -/
def refImage (a kind : Nat) : Tab Byte :=
  (toLE 4 0x494D4742 ++ toLE 16 kind).zipIdx.map (fun e => (a + e.2, e.1)) ++
  (toLE 32 0x2f76d56e64270cb5821bb862ea52cd3f24eb3e74eb3f3b23138da80b2bddb946).zipIdx.map fun e => (a + 0x20 + e.2, e.1)

/-- The controller of the reference module at power-on: slot A confirmed, both slots hold the reference images. -/
def Mmc.init : Mmc where
  events := []
  eventNo := 0
  smbRead := 0
  collectors := []
  relay := 0xFFFF
  net := []
  relayQ := []
  ownerKey := none
  ownerSeq := 0
  signed := none
  held := []
  session := none
  sessions := 0
  attests := 0
  ptr0 := [0x01, 0x00, 0x00, 0x00, 0x00, 0x01, 0x00, 0x00, 0x00, 0x00, 0x00, 0x00, 0xB4, 0x81, 0x07, 0x46]
  ptr1 := List.replicate 16 0xFF
  flash := refImage 0x400000 1 ++ refImage 0x900000 2 ++ refImage 0x2800000 1 ++ refImage 0x2D00000 2
  minMmc := 0
  minHub := 0
  mext := List.replicate 32 0
  meas := []
  hubInfo := []
  mbx := Mbx.init
  smb := Smb.init

/-! ## Start-up, power and temperature (14, 17, 18) -/

/-- How far start-up has come, what the controller holds of it, and the pins. -/
structure Boot where
  /-- Steps completed since the point at which start-up was last entered: bit n for step n. -/
  done : BitVec 16
  /-- The MMC ROM is in recovery (step 2). -/
  recovery : Bool
  /-- The MMC firmware came from slot B (R496). -/
  slotB : Bool
  /-- PWR_GOOD: main power is up. -/
  main : Bool
  /-- The hub PLLs have locked in step 4 (R445). -/
  pll : Bool
  /-- The stop reason that the MMC holds, 0 for none (R504); the channel, or the rail, concerned. -/
  stop : BitVec 8
  stopCh : Nat
  /-- POWER off has executed (R533). -/
  off : Bool
  /-- The pins PWR_EN, COMPAT_T12 and NIDP[3:0]. -/
  pwrEn : Bool
  pinCompat : Bool
  pinNidp : BitVec 4
  /-- HUB_RSTCAUSE. -/
  rstClass : BitVec 3
  rstCount : BitVec 8
  deriving DecidableEq, Repr

/-- The pins as their pulls leave them (R520). -/
def Boot.init : Boot where
  done := 0
  recovery := false
  slotB := false
  main := false
  pll := false
  stop := 0
  stopCh := 0
  off := false
  pwrEn := false
  pinCompat := false
  pinNidp := 15
  rstClass := 0
  rstCount := 0

/-- A temperature channel: reading in 1/16 °C, samples without a reading in a row. -/
structure Chan where
  value : Int
  miss : Nat
  fault : Bool
  fast : Bool
  deriving DecidableEq, Repr

/-- A site: state, and the thermal frequency it asks for in 0.05 GHz units. -/
structure Site where
  warn : Bool
  throt : Bool
  freq : Nat
  deriving DecidableEq, Repr

structure Pwr where
  /-- Owner cap, PWR_CAP. -/
  ownerCap : BitVec 12
  hostCap : BitVec 12
  fmin : BitVec 5
  dutymin : BitVec 4
  /-- Level of the capping loop, counted from full; evaluations in a row below 97 % of the cap. -/
  level : Nat
  below : Nat
  /-- Frequency and duty of the capping loop as its last evaluation left them (R518). -/
  loopFreq : Nat
  loopDuty : Nat
  pin : BitVec 12
  capEff : BitVec 12
  floor : Bool
  peak : Bool
  peakCnt : BitVec 16
  chans : Tab Chan
  sites : Tab Site
  lowflow : Bool
  /-- Estimates in a row below 3.6 L/min, and at or above 3.8 L/min. -/
  low : Nat
  high : Nat
  deriving DecidableEq, Repr

def Chan.init : Chan := ⟨0, 0, false, false⟩

def Site.init : Site := ⟨false, false, 24⟩

def Pwr.init : Pwr where
  ownerCap := 0
  hostCap := 0
  fmin := 12
  dutymin := 2
  level := 0
  below := 0
  loopFreq := 24
  loopDuty := 8
  pin := 0
  capEff := 3200
  floor := false
  peak := false
  peakCnt := 0
  chans := []
  sites := []
  lowflow := false
  low := 0
  high := 0

/-- A dike that the site journal does not hold yet: site, core, cause, MA_STEST of the failing array (R466). -/
structure DikeRec where
  site : Nat
  core : Nat
  cause : BitVec 8
  detail : Nat
  deriving DecidableEq, Repr

/-- HUB_DIKE: status, and the core and array whose self-test is in progress (R470). -/
structure HubDike where
  busy : Bool
  pass : Bool
  diked : Bool
  core : Nat
  arr : Nat
  deriving DecidableEq, Repr

def HubDike.init : HubDike := ⟨false, false, false, 0, 0⟩

/-- What the remap journal says of a row: entered, an hPPR begun, repaired (R260, R261). -/
inductive JMark where
  | entered | started | repaired
  deriving DecidableEq, Repr

/-- A row of the remap journal in the management flash. -/
structure JournalRow where
  die : Nat
  ch : Nat
  ent : RemapEnt
  mark : JMark
  deriving DecidableEq, Repr

/-! ## The state -/

structure State where
  fuses : Fuses
  /-- COMPAT_T12 as sampled at start-up (R6). -/
  compat : Bool
  /-- The straps NIDP[3:0] (11 R333). -/
  nidp : BitVec 4
  /-- Version of the hub firmware that runs (16). -/
  hubFw : BitVec 32
  threads : Tab Thread
  cores : Tab Core
  arrs : Tab Arr
  banks : Tab Bank
  dies : Tab Die
  ops : List AsyncOp
  pumps : List PumpRun
  /-- Heads of the cores' stream queues, core and operation, in the order in which they became heads (R127). -/
  pumpHeads : List (Nat × Nat)
  mem : Mem
  /-- Site + 1 that replaces the manufacture site of a logical core (R467). -/
  replaced : Tab Nat
  /-- Journalled sites, the substitutions' journal included (R466). -/
  siteJournal : List Nat
  dikes : List DikeRec
  hubDike : HubDike
  /-- Regions last loaded with an image: logical core, offset, size, PL1 (R100). -/
  regions : List (Nat × Nat × Nat × Bool)
  err : Err
  dev : Dev
  pcie : Pcie
  tb : Tb
  mmc : Mmc
  boot : Boot
  pwr : Pwr
  /-- CAP_ID.FEATURE_LEVEL once the hub has written it (R290, R291). -/
  feature : Option (BitVec 16)
  bundles : Tab Bundle
  dlu : Dlu
  links : Tab Link
  ports : Tab Port
  spare0 : Spare
  spare1 : Spare
  /-- The laser journal in flash: port, wavelength, retired or on the spare (R303, R306). -/
  laserJournal : List (Nat × Nat × Bool)
  fab : Fab
  col : Col
  remapJournal : List JournalRow
  out : List Out
  /-- Ticks of 20 ns since power-on (assumption 6). -/
  ticks : Nat
  nextId : Nat
  freeCtr : Nat
  pending : List Instr
  deriving DecidableEq, Repr

/-! ## Reset values -/

/-- A thread context at reset; the strap gives SFU_COMPAT, ARRAY is t mod 4 (R100). -/
def Thread.init (compat : Bool) (t : Nat) : Thread where
  state := .free
  stopping := none
  wait := none
  memNeed := 0
  pc := 0
  fpstat := 0
  mode := ⟨compat, false, BitVec.ofNat 2 t, 0⟩
  fault := ⟨0, 0, 0, false, 0⟩
  args := []
  regs := ⟨[], [], [], []⟩
  fetch := none
  reqs := []
  msgs := []
  arrived := []

def Core.init : Core where
  sems := []
  semOvf := 0
  waiters := []
  unlocked := false
  reason := 0
  diked := false
  retest := false
  sfuQ := []
  sfuRun := none
  sfuGrants := 0
  pumpQ := []
  hostQ := []
  colQ := []
  spdCorr := 0
  spdUncorr := 0
  spdLastUe := 0
  spdUeValid := false
  cclkBase := 0

def Elem.init : Elem := ⟨0, 0, 0, true, false, false, false, 0, 0⟩

def Bank.init : Bank := ⟨.clear, false, []⟩

def Arr.init : Arr where
  queue := []
  run := []
  go := false
  chkEn := true
  chkWindow := 1024
  chkFail := false
  suspect := false
  held := false
  stestBusy := false
  stestWait := false
  stestDone := false
  stestPass := false
  failcode := 0
  reason := 0
  log := 0
  since := 0
  armed := false
  ops := 0
  skip := 0

def LpdErr.init : LpdErr := ⟨0, 0, false, false, 0, false⟩

def RemapEnt.init : RemapEnt := ⟨false, 0, 0, 0, 0, 0, 0⟩

def Lpd.init : Lpd where
  go := false
  rate := 3
  scrubEn := true
  scrubHours := 24
  ageMax := 512
  trained := false
  rateNow := 0
  hot := 0
  full := false
  reason := 0
  corr := 0
  uncorr := 0
  link := 0
  err := LpdErr.init
  thresh := 16
  remapEn := true
  remap := []
  tracker := []
  rows := []
  drain := 0
  unlocked := false

def Bar.init : Bar := ⟨0, false, false, 0, 0⟩

/-- A die after a power-on or module reset: held in reset (R13), CCLK at its nominal 1.20 GHz. -/
def Die.init : Die where
  lpd := Lpd.init
  bars := []
  barReason := 0
  freq := 24
  cycles := 0
  inReset := true
  led := false
  stopped := false

def PerturbEnt.init : PerturbEnt := ⟨false, 0, 0, 0, 0, 0, 0, 0, 0⟩

def Err.init : Err where
  pend := 0
  mask := 0
  next := 0
  read := 0
  lost := 0
  log := []
  seq := 0
  dbgCore := 0
  dbgThread := 0
  dbgFile := 0
  dbgIndex := 0
  dbgDenied := false
  perturbGo := false
  ents := []

def Queue.init : Queue where
  sqBase := 0
  cqBase := 0
  go := false
  sqLog2 := 0
  cqLog2 := 0
  vector := 0
  ien := false
  coalCount := 1
  coalTime := 0
  head := 0
  cqTail := 0
  phase := true
  error := false
  reason := 0
  tail := 0
  cqHead := 0
  fetched := []
  started := []
  finished := []
  unacked := 0

def Dev.init : Dev where
  go := false
  qpumps := 8
  ready := false
  everReady := false
  stopped := false
  speed := 0
  width := 0
  tag10 := false
  reason := 0
  stopReason := 0
  winBase := 0
  errCount := 0
  errKind := 0
  errOffset := 0
  errValid := false
  notifyVec := 0
  notifyEn := false
  unlocked := false

/-- The MSI-X entry at reset: address and data 0, mask bit 1. -/
def msixInit : BitVec 128 := 0x00000001000000000000000000000000#128

def Pcie.init : Pcie where
  ready := false
  command := 0
  bar0 := 0
  bar2 := 0
  bar2Size := 0
  d3 := false
  msix := []
  pba := 0
  cfgData := 0
  readData := []
  queues := []
  nextCmd := 0
  cfgRetry := false
  lastQ := 63
  pumpWait := []


def Mem.init : Mem := ⟨[], [], [], [], []⟩

/-- SHAKE256-256 of 1,793 erased bytes: the reference module's key hash (assumption 4). -/
def refKeyHash : Bytes := toLE 32 0x92745d544f0c34670dcae3ebb9f93c7d5ff46c6f7a88c1f4fb62754b951271b0

/-- The fuses of the reference module: grade 160, L32, every die of stepping B0, the highest-numbered sites of each die
spare (assumption 4). -/
def Fuses.init : Fuses where
  grade144 := false
  l16 := false
  hubStep := 0xB0
  dieStep := []
  spareSites := [40, 41, 42, 43, 84, 85, 86, 87, 128, 129, 130, 131, 172, 173, 174, 175]
  serial := []
  startBias := []
  fwKeys := List.replicate 4 refKeyHash
  revoked := 0
  debugLocked := true

def State.reset : State where
  fuses := Fuses.init
  compat := false
  nidp := 15
  hubFw := 0
  threads := []
  cores := []
  arrs := []
  banks := []
  dies := []
  ops := []
  pumps := []
  pumpHeads := []
  mem := Mem.init
  replaced := []
  siteJournal := []
  dikes := []
  hubDike := HubDike.init
  regions := []
  err := Err.init
  dev := Dev.init
  pcie := Pcie.init
  tb := Tb.init
  mmc := Mmc.init
  boot := Boot.init
  pwr := Pwr.init
  feature := none
  bundles := []
  dlu := Dlu.init
  links := []
  ports := []
  spare0 := Spare.init
  spare1 := Spare.init
  laserJournal := []
  fab := Fab.init
  col := Col.init
  remapJournal := []
  out := []
  ticks := 0
  nextId := 0
  freeCtr := 0
  pending := []

/-! ## Outcomes -/

/-- Why the block stops with a fault. No command of this model raises one: every failure that the manual describes is a
next state. Safe. -/
inductive Fault where
  /-- Never raised. Safe. -/
  | none
  deriving DecidableEq, Repr

/-- Why a command has no meaning. -/
inductive Refusal where
  /-- Raised only by an arm of `exec` whose row has no meaning yet. Safe. -/
  | notModelled (mnemonic : String)
  /-- Raised by every command whose operands name nothing the module has (`Instr.WellFormed` is false). Safe. -/
  | illFormed
  deriving DecidableEq, Repr

end Sys2Proof.Machine
end

