-- ==== Sys2Proof/Machine/Tab.lean ====
section
/-! DEFINITION. Sparse tables in one canonical form: keys strictly rising, no entry equal to the default. They hold
memory, register files and every numbered set of registers. -/

namespace Sys2Proof.Machine

/-- The entry of key `k`, or the default `d`. -/
def Tab.get {α : Type} (d : α) : Tab α → Nat → α
  | [], _ => d
  | (j, v) :: m, k => if j = k then v else Tab.get d m k

/-- The table without key `k`. -/
def Tab.erase {α : Type} : Tab α → Nat → Tab α
  | [], _ => []
  | (j, v) :: m, k => if j = k then Tab.erase m k else (j, v) :: Tab.erase m k

/-- The table with `(k, v)` put before the first larger key. -/
def Tab.insert {α : Type} (k : Nat) (v : α) : Tab α → Tab α
  | [] => [(k, v)]
  | (j, u) :: m => if k < j then (k, v) :: (j, u) :: m else (j, u) :: Tab.insert k v m

/-- The table with key `k` reading `v`; writing the default removes the entry. -/
def Tab.set {α : Type} [DecidableEq α] (d : α) (m : Tab α) (k : Nat) (v : α) : Tab α :=
  if v = d then Tab.erase m k else Tab.insert k v (Tab.erase m k)

/-- Keys strictly rising from `lo`, no entry equal to the default. -/
def Tab.wfFrom {α : Type} [DecidableEq α] (d : α) : Nat → Tab α → Bool
  | _, [] => true
  | lo, (k, v) :: m => decide (lo ≤ k) && decide (v ≠ d) && Tab.wfFrom d (k + 1) m

/-- The canonical form. -/
def Tab.wf {α : Type} [DecidableEq α] (d : α) (m : Tab α) : Bool := Tab.wfFrom d 0 m

/-- The table without the keys that satisfy `p`. -/
def Tab.drop {α : Type} (p : Nat → Bool) (m : Tab α) : Tab α := m.filter fun e => !p e.1

/-- `n` consecutive entries from key `k`. -/
def Tab.range {α : Type} (d : α) (m : Tab α) (k n : Nat) : List α := (List.range n).map fun i => Tab.get d m (k + i)

/-- Writes a list at consecutive keys from `k`. -/
def Tab.setRange {α : Type} [DecidableEq α] (d : α) : Tab α → Nat → List α → Tab α
  | m, _, [] => m
  | m, k, v :: vs => Tab.setRange d (Tab.set d m k v) (k + 1) vs

end Sys2Proof.Machine
end

