-- ==== Sys2Proof/Machine/Ops.lean ====
section
/-! DEFINITION. The named operations every family shares: access to the numbered parts of State, the geometry of cores
and sites, notifications and messages, perturbation, semaphores, and taking an exception (15 R460, 03 R60, R84 to R87,
04 R105 to R107). -/

namespace Sys2Proof.Machine

/-! ## Numbered parts -/

/-- Thread `t` of logical core `c`. -/
def State.thread (s : State) (c t : Nat) : Thread := Tab.get (Thread.init s.compat t) s.threads (c * 32 + t)

/-- `s` with thread `t` of core `c` replaced. -/
def State.setThread (s : State) (c t : Nat) (th : Thread) : State :=
  { s with threads := Tab.set (Thread.init s.compat t) s.threads (c * 32 + t) th }

def State.modThread (s : State) (c t : Nat) (f : Thread → Thread) : State := s.setThread c t (f (s.thread c t))

def State.core (s : State) (c : Nat) : Core := Tab.get Core.init s.cores c

def State.setCore (s : State) (c : Nat) (x : Core) : State := { s with cores := Tab.set Core.init s.cores c x }

def State.modCore (s : State) (c : Nat) (f : Core → Core) : State := s.setCore c (f (s.core c))

def State.arr (s : State) (c a : Nat) : Arr := Tab.get Arr.init s.arrs (c * 4 + a)

def State.setArr (s : State) (c a : Nat) (x : Arr) : State := { s with arrs := Tab.set Arr.init s.arrs (c * 4 + a) x }

def State.modArr (s : State) (c a : Nat) (f : Arr → Arr) : State := s.setArr c a (f (s.arr c a))

def State.bank (s : State) (c a b : Nat) : Bank := Tab.get Bank.init s.banks (c * 16 + a * 4 + b)

def State.setBank (s : State) (c a b : Nat) (x : Bank) : State :=
  { s with banks := Tab.set Bank.init s.banks (c * 16 + a * 4 + b) x }

def State.die (s : State) (d : Nat) : Die := Tab.get Die.init s.dies d

def State.setDie (s : State) (d : Nat) (x : Die) : State := { s with dies := Tab.set Die.init s.dies d x }

def State.modDie (s : State) (d : Nat) (f : Die → Die) : State := s.setDie d (f (s.die d))

def State.modLpd (s : State) (d : Nat) (f : Lpd → Lpd) : State := s.modDie d fun x => { x with lpd := f x.lpd }

/-- A fresh number: of a request, an operation or a packet. -/
def State.fresh (s : State) : Nat × State := (s.nextId, { s with nextId := s.nextId + 1 })

/-- The number of the next free value, consumed (assumption 2). -/
def State.takeFree (s : State) : Nat × State := (s.freeCtr, { s with freeCtr := s.freeCtr + 1 })

/-- Sends something out of the module. -/
def State.emit (s : State) (o : Out) : State := { s with out := s.out ++ [o] }

/-! ## Geometry (00 R2, 01 R16 to R18) -/

/-- Enabled cores per die, E (R17). -/
def State.perDie (s : State) : Nat := if s.fuses.grade144 then 36 else 40

/-- CAP_CORE.LCORES (R18, R56). -/
def State.lcores (s : State) : Nat := s.perDie * 4

/-- The die of a logical core. -/
def State.dieOf (s : State) (c : Nat) : Nat := c / s.perDie

/-- The sites of die `d` that were enabled at manufacture, ascending (R17). -/
def State.enabledSites (s : State) (d : Nat) : List Nat :=
  ((List.range 44).map (44 * d + ·)).filter fun x => !s.fuses.spareSites.contains x

/-- The physical site that carries logical core `c` (R17, R467). -/
def State.siteOf (s : State) (c : Nat) : Nat :=
  match Tab.get 0 s.replaced c with
  | 0 => (s.enabledSites (s.dieOf c)).getD (c % s.perDie) 0
  | n + 1 => n

/-- The live core a physical site carries, if any. -/
def State.coreAtSite (s : State) (site : Nat) : Option Nat :=
  (List.range s.lcores).find? fun c => s.siteOf c == site

/-- Logical core `c` is assigned and not diked. -/
def State.live (s : State) (c : Nat) : Bool := decide (c < s.lcores) && !(s.core c).diked

/-- The die of core `c` is out of reset: nothing on a die in reset acts, and requests to it end with ADDR_INVALID
(R13, R289, R453). -/
def State.awake (s : State) (c : Nat) : Bool := !(s.die (s.dieOf c)).inReset

/-- Scratchpad bytes of a core, 48 MiB. -/
def spadSize : Nat := 0x3000000

def windowBase : Nat := 0x014000000000
def physBase : Nat := 0x010000000000
def cisternBase : Nat := 0x018000000000
def cisternSize : Nat := 0x4000000
def regBase : Nat := 0x01F000000000
def regSize : Nat := 0x10000000

/-- The device address of offset `off` in the window of logical core `c`. -/
def spadAddr (c off : Nat) : Nat := windowBase + c * 0x4000000 + off

/-- Usable LPDDR bytes of one die, Z of R245. -/
def State.lpdZ (s : State) : Nat := if s.fuses.l16 then 0x1680000000 else 0x2D00000000

/-- The first address above the usable LPDDR range. -/
def State.lpdTop (s : State) : Nat := 4 * s.lpdZ

/-! ## MSI-X, notifications (13 R424, 15 R460 to R463, 16 R492) -/

/-- Sends the message of vector `v`, or sets its PBA bit while it is masked or cannot be sent (R424). -/
def State.msixSend (s : State) (v : Nat) : State :=
  let e := Tab.get msixInit s.pcie.msix v
  if e.getLsbD 96 || !s.pcie.command.getLsbD 2 || s.pcie.d3 then
    { s with pcie := { s.pcie with pba := s.pcie.pba ||| (1#1024 <<< v) } }
  else s.emit (.msix (e.extractLsb' 0 64) (e.extractLsb' 64 32))

/-- A management event frame (16, table Management frame). -/
def eventFrame (n : Nat) (source : Nat) (payload : Bytes) : Bytes :=
  toLE 2 0x4D47 ++ [1#8, 2#8] ++ toLE 2 0 ++ toLE 2 payload.length ++ toLE 8 n ++ toLE 2 0 ++ [0#8, 0#8]
    ++ toLE 2 source ++ List.replicate 10 0#8 ++ payload

/-- The MMC logs an event, sends it to every collector and, by fabric, to the RELAY node; the SMBus alert follows from
`smbRead` (R484, R492). -/
def State.mmcEvent (s : State) (payload : Bytes) : State :=
  let m := s.mmc
  let f := eventFrame m.eventNo 0xFFFF payload
  let ev := m.events ++ [(m.eventNo, f)]
  { s with
    mmc := { m with
      events := ev.drop (ev.length - 256)
      eventNo := m.eventNo + 1
      relayQ := if m.relay = 0xFFFF then m.relayQ else m.relayQ ++ [f] }
    out := s.out ++ m.collectors.map fun c => .frame c.1 c.2 f }

/-- The 256 bits of an ERR_LOG entry (15, ERR_LOG). -/
def errEntry (time : BitVec 64) (kind : Nat) (injected : Bool) (place code detail seq : Nat) : BitVec 256 :=
  BitVec.ofNat 256 (time.toNat + kind % 256 * 2 ^ 64 + b2n injected * 2 ^ 72 + place % 2 ^ 16 * 2 ^ 80
    + code % 256 * 2 ^ 96 + detail % 2 ^ 64 * 2 ^ 128 + seq % 2 ^ 32 * 2 ^ 192)

/-- A notification: log entry, pending bit, message, and the MMC (R460 to R463). -/
def State.notify (s : State) (kind : Nat) (injected : Bool) (place code detail : Nat) : State :=
  let e := s.err
  let ent := errEntry s.tb.time kind injected place code detail e.seq.toNat
  let full := (e.next - e.read) == 64
  let was := e.pend.getLsbD kind
  let e' : Err := { e with
    log := if full then e.log else Tab.set 0 e.log (e.next.toNat % 64) ent
    next := if full then e.next else e.next + 1
    lost := if full then BitVec.ofNat 16 (satAdd e.lost.toNat 1 0xFFFF) else e.lost
    seq := e.seq + 1
    pend := e.pend ||| (1#14 <<< kind) }
  let s := { s with err := e' }
  let s := if !was && !e.mask.getLsbD kind && s.dev.notifyEn then s.msixSend s.dev.notifyVec.toNat else s
  s.mmcEvent (toLE 32 ent.toNat)

/-! ## Perturbation (15 R476 to R480) -/

/-- Offers one eligible event to entry `e`: whether it acts, and the entry after (PERIOD, COUNT, HITS). -/
def PerturbEnt.offer (e : PerturbEnt) : Bool × PerturbEnt :=
  let n := e.events + 1
  let per := max 1 e.period.toNat
  if n % per = 0 then
    let e := { e with events := n, hits := BitVec.ofNat 16 (satAdd e.hits.toNat 1 0xFFFF) }
    if e.count = 0 then (true, e)
    else (true, { e with count := e.count - 1, en := decide (e.count ≠ 1) })
  else (false, { e with events := n })

/-- Offers an event to the entries from `i` on; the OR of the amounts that act, or none. -/
def perturbFrom (tgt action : Nat) (place : Nat → Bool) : Nat → Nat → Tab PerturbEnt → Option Nat × Tab PerturbEnt
  | 0, _, m => (none, m)
  | n + 1, i, m =>
    let e := Tab.get PerturbEnt.init m i
    if e.en && e.tgt == BitVec.ofNat 4 tgt && e.action == BitVec.ofNat 4 action && place e.place.toNat then
      let r := e.offer
      let q := perturbFrom tgt action place n (i + 1) (Tab.set PerturbEnt.init m i r.2)
      (if r.1 then some (e.amount.toNat ||| q.1.getD 0) else q.1, q.2)
    else perturbFrom tgt action place n (i + 1) m

/-- An eligible event of a target at the places `place` holds of: the combined AMOUNT of the entries that act on it,
or none (R477). -/
def State.perturbBy (s : State) (tgt action : Nat) (place : Nat → Bool) : Option Nat × State :=
  if s.err.perturbGo then
    let r := perturbFrom tgt action place 64 0 s.err.ents
    (r.1, { s with err := { s.err with ents := r.2 } })
  else (none, s)

/-- An eligible event at one place. -/
def State.perturb (s : State) (tgt action place : Nat) : Option Nat × State := s.perturbBy tgt action (· == place % 2 ^ 16)

/-- Credits that CREDIT_HOLD entries withhold at a place (R479). -/
def State.withheld (s : State) (tgt : Nat) (place : Nat → Bool) : Nat :=
  if s.err.perturbGo then
    s.err.ents.foldl (fun n e => if e.2.en && e.2.tgt == BitVec.ofNat 4 tgt && e.2.action == 2 && place e.2.place.toNat
      then n + e.2.amount.toNat else n) 0
  else 0

/-! ## Stopping a thread (03 R60, 04 R105, R107) -/

/-- A stopping thread enters its final state once no external request or message is outstanding
(R60, R357). -/
def Thread.settle (th : Thread) : Thread :=
  match th.stopping with
  | some f => if th.reqs.isEmpty && th.msgs.isEmpty then { th with state := f, stopping := none, wait := none } else th
  | none => th

/-- Begins to stop a thread toward final state `f` (R60). -/
def Thread.stopTo (th : Thread) (f : TState) : Thread := Thread.settle { th with stopping := some f }

/-- Writes CTX_FAULT and CTX_FAULTPC unless a record is already valid. -/
def Thread.record (th : Thread) (cause : BitVec 8) (unit : BitVec 3) (dest : BitVec 4) (pc : BitVec 64) : Thread :=
  if th.fault.valid then th
  else { th with fault := ⟨cause, unit, dest, true, pc.extractLsb' 3 23⟩ }

/-- TAKING AN EXCEPTION at issue or fetch: the record, then the stop; the instruction has no effect (R105, R60). -/
def Thread.except (th : Thread) (cause : BitVec 8) (unit : BitVec 3) (dest : BitVec 4) : Thread :=
  (th.record cause unit dest th.pc).stopTo .faulted

/-- An error status of a request or operation reaches the thread (R60, R107): FREE, FENCED and FAULTED threads keep
their state; a thread in DONE or STOPPED changes to FAULTED. -/
def Thread.errorStatus (th : Thread) (cause : BitVec 8) (unit : BitVec 3) (dest : BitVec 4) (pc : BitVec 64) : Thread :=
  match th.state with
  | .free | .fenced | .faulted => th
  | _ => (th.record cause unit dest pc).stopTo .faulted

/-! ## Semaphores (03 R84 to R88) -/

/-- Removes the waiters of thread `t`. -/
def Core.dropWaiter (c : Core) (t : Nat) : Core := { c with waiters := c.waiters.filter fun w => w.2.1 != t }

/-- Serves the waiters of semaphore `sem` in order while the first is satisfied (R87): the threads released. -/
def serveWaiters (sem : Nat) : List (Nat × Nat × Nat) → Nat → List (Nat × Nat × Nat) × Nat × List Nat
  | [], v => ([], v, [])
  | w :: ws, v =>
    if w.1 = sem then
      if w.2.2 ≤ v then
        let r := serveWaiters sem ws (v - w.2.2)
        (r.1, r.2.1, w.2.1 :: r.2.2)
      else (w :: ws, v, [])
    else
      let r := serveWaiters sem ws v
      (w :: r.1, r.2.1, r.2.2)

/-- Ends the wait of a thread in WAIT_SYNC. -/
def Thread.wake (th : Thread) : Thread :=
  if th.state = .waitSync then Thread.settle { th with state := .ready, wait := none } else th

/-- Wakes several threads of core `c`. -/
def State.wakeAll (s : State) (c : Nat) (ts : List Nat) : State := ts.foldl (fun s t => s.modThread c t Thread.wake) s

/-- Semaphore `sem` of core `c` takes value `v`; its waiters are served (R87). -/
def State.semPut (s : State) (c sem v : Nat) : State :=
  let k := s.core c
  let r := serveWaiters sem k.waiters v
  (s.setCore c { k with sems := Tab.set 0 k.sems sem (BitVec.ofNat 16 r.2.1), waiters := r.1 }).wakeAll c r.2.2

/-- Adds `n` to semaphore `sem` of core `c`, saturating with CORE_SEMOVF (R84 to R87). A diked core takes none. -/
def State.semAdd (s : State) (c sem n : Nat) : State :=
  let k := s.core c
  if k.diked || n == 0 then s
  else
    let v := (Tab.get 0 k.sems sem).toNat + n
    let s := if 0xFFFF < v then s.setCore c { k with semOvf := k.semOvf ||| (1#64 <<< sem) } else s
    s.semPut c sem (min v 0xFFFF)

/-- Thread `t` of core `c` waits no longer: the waiters that it blocked are served (R84, R87). -/
def State.leaveWait (s : State) (c t : Nat) : State :=
  let k := s.core c
  let s := s.setCore c (k.dropWaiter t)
  match k.waiters.find? fun w => w.2.1 == t with
  | some w => s.semPut c w.1 (Tab.get 0 k.sems w.1).toNat
  | none => s

/-- An error status reaches thread `t` of core `c`; a wait it was in is abandoned (R60, R107). -/
def State.threadError (s : State) (c t : Nat) (cause : BitVec 8) (unit : BitVec 3) (dest : BitVec 4)
    (pc : BitVec 64) : State :=
  let old := s.thread c t
  let th := old.errorStatus cause unit dest pc
  let s := s.setThread c t th
  if th.state = .waitSync ∧ th.stopping.isNone = true then s
  else if old.state = .waitSync then s.leaveWait c t
  else s.modCore c fun k => k.dropWaiter t

/-! ## Asynchronous operations (04 R107, R128 to R130) -/

def State.op? (s : State) (id : Nat) : Option AsyncOp := s.ops.find? fun o => o.id == id

/-- The operation leaves the module. -/
def State.dropOp (s : State) (id : Nat) : State := { s with ops := s.ops.filter fun o => o.id != id }

/-- A context has unfinished tensor, pump or collective-submit operations (R64, R108). Operations of a diked or reset
core no longer count (R546). -/
def State.unfinished (s : State) (c t : Nat) : Bool :=
  s.ops.any fun o => o.core == c && o.thread == t && !o.mute

/-- The semaphore and NOSEM of an operation's word: P, T and C formats. -/
def opSem (w : BitVec 64) : Option Nat :=
  let opc := w.toNat / 2 ^ 56
  let g := fieldNat w.toNat
  let (sem, no) := if opc = 0x60 then (g 33 6, g 32 1) else if opc = 0x90 then (g 32 6, g 31 1) else (g 28 6, g 27 1)
  if no = 1 then none else some sem

/-- CTX_FAULT.UNIT of an operation's word: 4 tensor, 5 pump, 7 collective submit. -/
def opUnit (w : BitVec 64) : BitVec 3 :=
  let opc := w.toNat / 2 ^ 56
  if opc = 0x60 then 5 else if opc = 0x90 then 7 else 4

/-- An operation completes: it signals its semaphore once and is finished (R82, R128 to R130). -/
def State.opComplete (s : State) (o : AsyncOp) : State :=
  let s := s.dropOp o.id
  if o.mute then s else match opSem o.word with
    | some sem => s.semAdd o.core sem 1
    | none => s

/-- An operation ends with an exception at start or an error status: no signal, and its thread records it (R107). -/
def State.opFail (s : State) (o : AsyncOp) (cause : BitVec 8) (dest : BitVec 4) : State :=
  let s := s.dropOp o.id
  if o.mute then s else s.threadError o.core o.thread cause (opUnit o.word) dest o.pc

/-- Sets CTX_FPSTAT bits of the thread that issued an operation. -/
def State.opFlags (s : State) (o : AsyncOp) (f : BitVec 4) : State :=
  if o.mute then s else s.modThread o.core o.thread fun th => { th with fpstat := th.fpstat ||| f }

/-! ## Queue heads -/

/-- The cores' stream queues and their heads in order: heads that are gone leave, new ones join behind (R127). -/
def State.syncHeads (s : State) : State :=
  let old := s.pumpHeads.filter fun e => (s.core e.1).pumpQ.head? == some e.2
  let new := (List.range s.lcores).filterMap fun c =>
    match (s.core c).pumpQ.head? with
    | some id => if old.contains (c, id) then none else some (c, id)
    | none => none
  { s with pumpHeads := old ++ new }

/-! ## Slots (03 R72 to R74) -/

/-- Instruction slots of a thread in use. -/
def Thread.slots (th : Thread) : Nat := th.reqs.length + (th.msgs.filter Msg.slot).length

/-- All outstanding parts of a core's threads. -/
def State.coreParts (s : State) (c : Nat) : List Part :=
  (List.range 32).flatMap fun t => (s.thread c t).reqs.flatMap Req.parts

/-- Sector slots in use by a core: of requests, of messages, and of array instructions. -/
def State.slotsUsed (s : State) (c : Nat) : Nat :=
  ((s.coreParts c).map Part.sid).eraseDups.length
    + ((List.range 32).map fun t => ((s.thread c t).msgs.filter Msg.slot).length).sum
    + ((List.range 4).map fun a => ((s.arr c a).run.map ArrRun.slots).sum).sum

/-- Threads of core `c` leave WAIT_MEM once the slots they need are free (R73). -/
def State.releaseMem (s : State) (c : Nat) : State :=
  let used := s.slotsUsed c
  (List.range 32).foldl (fun s t =>
    let th := s.thread c t
    if th.state = .waitMem ∧ th.slots < 8 ∧ used + th.memNeed ≤ 256 then
      s.setThread c t { th with state := .ready, memNeed := 0 } else s) s

/-! ## Cause codes (04, table Cause codes) -/

def cIllegal : BitVec 8 := 0x01
def cExpert : BitVec 8 := 0x02
def cDesc : BitVec 8 := 0x03
def cPair : BitVec 8 := 0x04
def cCap : BitVec 8 := 0x05
def cAlign : BitVec 8 := 0x06
def cAddrForm : BitVec 8 := 0x07
def cBarDisabled : BitVec 8 := 0x08
def cPcRange : BitVec 8 := 0x09
def cAccLimit : BitVec 8 := 0x0A
def cEcc : BitVec 8 := 0x20
def cAddrInvalid : BitVec 8 := 0x21
def cDiked : BitVec 8 := 0x22
def cUnreach : BitVec 8 := 0x23
def cFabTimeout : BitVec 8 := 0x24
def cChkFail : BitVec 8 := 0x25
def cHostAbort : BitVec 8 := 0x26

end Sys2Proof.Machine
end

