-- ==== Sys2Proof/Machine/Caps.lean ====
section
/-! DEFINITION. The capability registers, computed at each read (03, Capability registers; R56, R57). -/

namespace Sys2Proof.Machine

/-- CAP_TENSOR.MAX_TREE: 64 when every compute die is B0 (R291, bit 0). -/
def State.maxTree (s : State) : Nat := if (s.feature.getD 0).getLsbD 0 then 64 else 32

/-- CAP_LIVEi: bit j for logical core 64 i + j. -/
def State.capLive (s : State) (i : Nat) : Nat := bitsOf 64 fun j => s.live (64 * i + j)

/-- Assigned logical cores that are not diked. -/
def State.liveCount (s : State) : Nat := (selectBelow s.lcores s.live).length

/-- CAP_FABRIC.NODE_ID (R336). -/
def Fab.node (f : Fab) : BitVec 16 := if f.go && f.discDone then f.nodeId else 0xFFFF

/-- The capability register with an index; 0 for an index that is not listed (R57), and 0 until the
common feature level is written (13 R419). -/
def State.capReg (s : State) (idx : Nat) : BitVec 64 :=
  if s.feature.isNone then 0 else match idx with
  | 0x00 => BitVec.ofNat 64 (0x0002 + (s.feature.getD 0).toNat * 2 ^ 16)
  | 0x01 => BitVec.ofNat 64 (s.lcores + s.liveCount * 2 ^ 16 + 32 * 2 ^ 32 + 64 * 2 ^ 40 + 64 * 2 ^ 48 + 8 * 2 ^ 56)
  | 0x02 => BitVec.ofNat 64 (49152 + 256 * 2 ^ 20 + (if s.fuses.l16 then 360 else 720) * 2 ^ 32)
  | 0x03 => BitVec.ofNat 64 (0x01FF + s.maxTree * 2 ^ 16 + 256 * 2 ^ 24 + 18 * 2 ^ 33 + 8 * 2 ^ 38 + 511 * 2 ^ 42
      + 7 * 2 ^ 52 + 14 * 2 ^ 56)
  | 0x04 => BitVec.ofNat 64 (16384 + 4 * 2 ^ 24 + 24 * 2 ^ 32)
  | 0x05 => BitVec.ofNat 64 (s.fab.node.toNat + 2 * 2 ^ 16 + 63 * 2 ^ 20 + 16 * 2 ^ 32)
  | 0x08 => BitVec.ofNat 64 (s.capLive 0)
  | 0x09 => BitVec.ofNat 64 (s.capLive 1)
  | 0x0A => BitVec.ofNat 64 (s.capLive 2)
  | _ => 0

end Sys2Proof.Machine
end

