-- ==== Sys2Proof/Machine/Flags.lean ====
section
/-! DEFINITION. The flags of the arithmetic status register CTX_FPSTAT (02, Arithmetic status). Every conversion and
operation of `Fmt.lean` answers with the bits it sets; they are sticky. -/

namespace Sys2Proof.Machine

/-- Bit 0: a bank with INEXACT was read out. -/
def fpInexact : BitVec 4 := 1
/-- Bit 1: a finite value rounded above the destination's largest finite magnitude. -/
def fpOverflow : BitVec 4 := 2
/-- Bit 2: an invalid operation, or a NaN or infinity that the destination cannot hold. -/
def fpInvalid : BitVec 4 := 4
/-- Bit 3: a NaN was written. -/
def fpNanOut : BitVec 4 := 8

/-- All the flags of a list of results. -/
def orFlags {α : Type} (l : List (α × BitVec 4)) : BitVec 4 := l.foldl (fun a r => a ||| r.2) 0

end Sys2Proof.Machine
end

