-- ==== Sys2Proof/Machine/Fmt.lean ====
section
/-! DEFINITION. Number formats, exact values, rounding and conversion (02_number_formats R26 to R36). -/

namespace Sys2Proof.Machine

/-- The exact value of a floating-point code: (−1)^neg × m × 2^e, an infinity or a NaN. -/
inductive FVal where
  | nan
  | inf (neg : Bool)
  | fin (neg : Bool) (m : Nat) (e : Int)
  deriving DecidableEq, Repr

/-- A binary format: mantissa width, exponent width, bias, and the code of the largest finite magnitude. -/
structure FFmt where
  mb : Nat
  eb : Nat
  bias : Int
  maxCode : Nat
  /-- Infinities exist (FP32, FP16, BF16, E5M2). -/
  hasInf : Bool
  /-- NaNs exist. -/
  hasNan : Bool
  /-- Overflow follows the rounding mode; the 8-bit and 4-bit formats saturate (R33). -/
  ieee : Bool
  canonNan : Nat
  deriving DecidableEq, Repr

def fp32 : FFmt := ⟨23, 8, 127, 0x7F7FFFFF, true, true, true, 0x7FC00000⟩
def fp16 : FFmt := ⟨10, 5, 15, 0x7BFF, true, true, true, 0x7E00⟩
def bf16 : FFmt := ⟨7, 8, 127, 0x7F7F, true, true, true, 0x7FC0⟩
def e5m2 : FFmt := ⟨2, 5, 15, 0x7B, true, true, false, 0x7E⟩
def e4m3 : FFmt := ⟨3, 4, 7, 0x7E, false, true, false, 0x7F⟩
def e2m1 : FFmt := ⟨1, 2, 1, 0x7, false, false, false, 0⟩

/-- The floating-point format of an FMT code (04, table Format codes). -/
def ffmtOf : Nat → Option FFmt
  | 0 => some fp32
  | 1 => some fp16
  | 2 => some bf16
  | 3 => some e4m3
  | 4 => some e5m2
  | 5 => some e2m1
  | _ => none

/-- Element size in half-bytes (04, table Format codes). -/
def fmtNibbles : Nat → Nat
  | 0 => 8 | 1 => 4 | 2 => 4 | 3 => 2 | 4 => 2 | 5 => 1 | 6 => 2 | 7 => 8 | 8 => 32 | _ => 2

/-- Element size in bytes; 1 for E2M1, whose rows are packed under R30. -/
def fmtBytes (f : Nat) : Nat := max 1 (fmtNibbles f / 2)

/-- The value of a code (02, tables Bit layouts and Special encodings). -/
def decodeF (f : FFmt) (c : Nat) : FVal :=
  let neg := c.testBit (f.mb + f.eb)
  let mag := c % 2 ^ (f.mb + f.eb)
  let ex := mag >>> f.mb
  let man := mag % 2 ^ f.mb
  if f.maxCode < mag then
    if f.hasInf && man == 0 then .inf neg else .nan
  else if ex = 0 then .fin neg man (1 - f.bias - f.mb)
  else .fin neg (man + 2 ^ f.mb) (ex - f.bias - f.mb)

/-- Rounding modes (R31). -/
inductive RMode where
  | rne | rz | ru | rd | sr
  deriving DecidableEq, Repr

/-- The mode of an RM code; codes 5 to 7 are reserved (R31, R32). -/
def rmodeOf : Nat → Option RMode
  | 0 => some .rne
  | 1 => some .rz
  | 2 => some .ru
  | 3 => some .rd
  | 4 => some .sr
  | _ => none

/-- Whether the magnitude floor + r / d rounds away from zero (R31, R35); `draw` is the generator word. -/
def roundsUp (rm : RMode) (neg : Bool) (floorOdd : Bool) (r d : Nat) (draw : BitVec 32) : Bool :=
  if r = 0 then false
  else match rm with
    | .rne => decide (d < 2 * r) || (decide (2 * r = d) && floorOdd)
    | .rz => false
    | .ru => !neg
    | .rd => neg
    | .sr => decide (draw.toNat < r * 2 ^ 32 / d)

/-- m × 2^e as a count of units 2^q, rounded. -/
def roundUnits (rm : RMode) (neg : Bool) (m : Nat) (e q : Int) (draw : BitVec 32) : Nat :=
  if q ≤ e then m <<< (e - q).toNat
  else
    let d := 2 ^ (q - e).toNat
    let fl := m / d
    fl + b2n (roundsUp rm neg (fl % 2 == 1) (m % d) d draw)

/-- floor(log2) of m × 2^e, m not 0. -/
def flog2 (m : Nat) (e : Int) : Int := (Nat.log2 m : Int) + e

/-- Conversion to a floating-point format (R31, R33): the code and the CTX_FPSTAT bits it sets. -/
def convF (f : FFmt) (rm : RMode) (draw : BitVec 32) : FVal → Nat × BitVec 4
  | .nan => (f.canonNan, fpNanOut)
  | .inf neg =>
    if f.hasInf then ((f.maxCode + 1) + b2n neg * 2 ^ (f.mb + f.eb), 0)
    else (f.canonNan, fpInvalid ||| fpNanOut)
  | .fin neg m e =>
    let sgn := b2n neg * 2 ^ (f.mb + f.eb)
    if m = 0 then (sgn, 0)
    else
      let qmin := 1 - f.bias - f.mb
      let q := max (flog2 m e - f.mb) qmin
      let n := roundUnits rm neg m e q draw
      let code := (q - qmin).toNat * 2 ^ f.mb + n
      if code ≤ f.maxCode then (sgn + code, 0)
      else
        let toInf := f.ieee && match rm with
          | .rne => true
          | .ru => !neg
          | .rd => neg
          | _ => false
        (sgn + if toInf then f.maxCode + 1 else f.maxCode, fpOverflow)

/-- Conversion to a two's-complement integer of `n` bits (R33). -/
def convI (n : Nat) (rm : RMode) (draw : BitVec 32) : FVal → Nat × BitVec 4
  | .nan => (0, fpInvalid)
  | .inf neg => (if neg then 2 ^ (n - 1) else 2 ^ (n - 1) - 1, fpInvalid)
  | .fin neg m e =>
    let k := roundUnits rm neg m e 0 draw
    if neg then
      if k ≤ 2 ^ (n - 1) then (wrapInt n (-(k : Int)), 0) else (2 ^ (n - 1), fpOverflow)
    else if k < 2 ^ (n - 1) then (k, 0) else (2 ^ (n - 1) - 1, fpOverflow)

/-- Conversion to the format with an FMT code. -/
def convFmt (fmt : Nat) (rm : RMode) (draw : BitVec 32) (v : FVal) : Nat × BitVec 4 :=
  match ffmtOf fmt with
  | some f => convF f rm draw v
  | none => convI (if fmt = 6 then 8 else 32) rm draw v

/-- The value of an integer. -/
def fvalOfInt (x : Int) : FVal := .fin (decide (x < 0)) x.natAbs 0

/-- The value of an element code of a format (R26). -/
def decodeFmt (fmt c : Nat) : FVal :=
  match ffmtOf fmt with
  | some f => decodeF f c
  | none => fvalOfInt (signedNat (if fmt = 7 then 32 else 8) c)

/-- A value times 2^k. -/
def FVal.scale (k : Int) : FVal → FVal
  | .fin s m e => .fin s m (e + k)
  | v => v

/-- The value of a block-scaled element (R29). -/
def scaledVal (f : FFmt) (c s : Nat) : FVal :=
  if s = 0xFF then .nan else (decodeF f c).scale ((s : Int) - 127)

def FVal.isNan : FVal → Bool
  | .nan => true
  | _ => false

def FVal.isInf : FVal → Bool
  | .inf _ => true
  | _ => false

def FVal.isFin : FVal → Bool
  | .fin _ _ _ => true
  | _ => false

def FVal.isZero : FVal → Bool
  | .fin _ m _ => m == 0
  | _ => false

def FVal.isNeg : FVal → Bool
  | .inf n => n
  | .fin n _ _ => n
  | .nan => false

def FVal.neg : FVal → FVal
  | .nan => .nan
  | .inf s => .inf !s
  | .fin s m e => .fin (!s) m e

/-- Exact product; `none` is the invalid operation 0 × ∞. -/
def FVal.mul : FVal → FVal → Option FVal
  | .nan, _ => some .nan
  | _, .nan => some .nan
  | .inf s, .inf t => some (.inf (s != t))
  | .inf s, .fin t m _ => if m = 0 then none else some (.inf (s != t))
  | .fin t m _, .inf s => if m = 0 then none else some (.inf (s != t))
  | .fin s m e, .fin t n f => some (.fin (s != t) (m * n) (e + f))

/-- The signed integer (−1)^s × m. -/
def sgnInt (s : Bool) (m : Nat) : Int := if s then -(m : Int) else m

/-- Exact sum, with the zero sign of IEEE 754 in mode `rm`; `none` is ∞ − ∞. -/
def FVal.add (rm : RMode) : FVal → FVal → Option FVal
  | .nan, _ => some .nan
  | _, .nan => some .nan
  | .inf s, .inf t => if s = t then some (.inf s) else none
  | .inf s, _ => some (.inf s)
  | _, .inf t => some (.inf t)
  | .fin s m e, .fin t n f =>
    let q := min e f
    let x := sgnInt s (m <<< (e - q).toNat) + sgnInt t (n <<< (f - q).toNat)
    if x = 0 then
      some (.fin (if m = 0 ∧ n = 0 ∧ s = t then s else decide (rm = .rd)) 0 0)
    else some (.fin (decide (x < 0)) x.natAbs q)

/-- Order of finite values, −0 below +0 (R120); infinities at the ends. -/
def FVal.ltTot : FVal → FVal → Bool
  | .inf s, .inf t => s && !t
  | .inf s, _ => s
  | _, .inf t => !t
  | .fin s m e, .fin t n f =>
    let q := min e f
    let x := sgnInt s (m <<< (e - q).toNat)
    let y := sgnInt t (n <<< (f - q).toNat)
    decide (x < y) || (decide (x = y) && s && !t)
  | _, _ => false

/-- Numeric equality, −0 equal to +0; a NaN equals nothing. -/
def FVal.eqNum : FVal → FVal → Bool
  | .inf s, .inf t => s == t
  | .fin s m e, .fin t n f =>
    let q := min e f
    decide (sgnInt s (m <<< (e - q).toNat) = sgnInt t (n <<< (f - q).toNat))
  | _, _ => false

/-- Numeric order; false with a NaN. -/
def FVal.ltNum (x y : FVal) : Bool := x.ltTot y && !x.eqNum y

/-- One exact operation rounded once: an invalid operation gives the canonical NaN with INVALID and NAN_OUT. A result that
overflows sets OVERFLOW, as R33 says of a conversion; whether it means this rounding too is open (assumption 103). -/
def roundOp (f : FFmt) (rm : RMode) (draw : BitVec 32) : Option FVal → Nat × BitVec 4
  | none => (f.canonNan, fpInvalid ||| fpNanOut)
  | some v => convF f rm draw v

/-- Addition of two codes of format `f`. -/
def addF (f : FFmt) (rm : RMode) (draw : BitVec 32) (x y : Nat) : Nat × BitVec 4 :=
  roundOp f rm draw ((decodeF f x).add rm (decodeF f y))

/-- Multiplication of two codes. -/
def mulF (f : FFmt) (rm : RMode) (draw : BitVec 32) (x y : Nat) : Nat × BitVec 4 :=
  roundOp f rm draw ((decodeF f x).mul (decodeF f y))

/-- Fused multiply-add; a NaN operand gives NaN with NAN_OUT only (assumption 14). -/
def fmaV (rm : RMode) (x y z : FVal) : Option FVal :=
  if x.isNan || y.isNan || z.isNan then some .nan
  else match x.mul y with
    | none => none
    | some p => p.add rm z

/-- MIN and MAX (R120): canonical NaN with a NaN input, −0 below +0. -/
def minMaxF (f : FFmt) (isMax : Bool) (x y : Nat) : Nat × BitVec 4 :=
  let a := decodeF f x
  let b := decodeF f y
  if a.isNan || b.isNan then (f.canonNan, fpNanOut)
  else if isMax then (if a.ltTot b then y else x, 0)
  else (if b.ltTot a then y else x, 0)

/-- Quantisation of a block of up to 32 values to block-scaled E4M3 or E2M1 (R33, R34): scale code, element codes,
flags. `draw i` is the generator word of element `i`. -/
def quantBlock (fmt : Nat) (rm : RMode) (draw : Nat → BitVec 32) (vs : List FVal) : Nat × List Nat × BitVec 4 :=
  let f := if fmt = 5 then e2m1 else e4m3
  if vs.any fun v => v.isNan || v.isInf then
    (0xFF, vs.map fun _ => 0,
      fpNanOut ||| if vs.any FVal.isInf then fpInvalid else 0)
  else
    let lg : Option Int := vs.foldl (fun acc v => match v with
      | .fin _ m e => if m = 0 then acc else match acc with
        | none => some (flog2 m e)
        | some g => some (max g (flog2 m e))
      | _ => acc) none
    match lg with
    | none => (0x7F, vs.map fun v => (convF f rm 0 v).1, 0)
    | some g =>
      let e := max (-127) (min 127 (g - if fmt = 5 then 2 else 8))
      let rs := (vs.zipIdx).map fun p => convF f rm (draw p.2) (p.1.scale (-e))
      ((e + 127).toNat, rs.map Prod.fst, rs.foldl (fun a r => a ||| r.2) 0)

end Sys2Proof.Machine
end

