-- ==== Sys2Proof/Machine/PilOps.lean ====
section
/-! DEFINITION. Bundles of the photonic interposer: accessors, lane maps, widths and spares, and the PIL registers' read
values (09 R269, PIL_CTL to PIL_MARGIN). Directions: 0 D2H, 1 H2D. -/

namespace Sys2Proof.Machine

def State.bundle (s : State) (d : Nat) : Bundle := Tab.get Bundle.init s.bundles d

def State.setBundle (s : State) (d : Nat) (b : Bundle) : State := { s with bundles := Tab.set Bundle.init s.bundles d b }

def State.modBundle (s : State) (d : Nat) (f : Bundle → Bundle) : State := s.setBundle d (f (s.bundle d))

def Bundle.dir (b : Bundle) (i : Nat) : Dir := if i = 0 then b.d2h else b.h2d

def Bundle.modDir (b : Bundle) (i : Nat) (f : Dir → Dir) : Bundle :=
  if i = 0 then { b with d2h := f b.d2h } else { b with h2d := f b.h2d }

def State.modDir (s : State) (d i : Nat) (f : Dir → Dir) : State := s.modBundle d fun b => b.modDir i f

def Dir.grp (r : Dir) (g : Nat) : Grp := Tab.get Grp.init r.groups g

def Dir.modGrp (r : Dir) (g : Nat) (f : Grp → Grp) : Dir :=
  { r with groups := Tab.set Grp.init r.groups g (f (r.grp g)) }

/-- Physical lane of logical lane `l`. -/
def Dir.phys (r : Dir) (l : Nat) : Nat :=
  match Tab.get 0 r.map l with
  | 0 => l
  | n + 1 => n

/-- Logical lanes that carry traffic: those of groups not removed. -/
def Dir.logical (r : Dir) : List Nat := selectBelow 256 fun l => !r.off.getLsbD (l / 16)

def Dir.isFailed (r : Dir) (p : Nat) : Bool := Tab.get false r.failed p

/-- Good physical lanes that are not mapped (R269); a lane under offline retraining is not yet good. -/
def Dir.spares (r : Dir) : List Nat :=
  let m := r.logical.map r.phys
  selectBelow 272 fun p => !r.isFailed p && !r.retrain.contains p && !m.contains p

/-- Good physical lanes. -/
def Dir.good (r : Dir) : Nat := (selectBelow 272 fun p => !r.isFailed p).length

/-- Lane groups removed: WIDTH in PIL_STATUS. -/
def Dir.steps (r : Dir) : Nat := (selectBelow 16 r.off.getLsbD).length

/-- PIL_CTL. -/
def Bundle.ctlWord (b : Bundle) : Nat := b2n b.go + b.replayLimit.toNat * 2 ^ 8 + b.marginMin.toNat * 2 ^ 16

/-- The other interposer laser unit is fitted and good. -/
def Dlu.spareOk (u : Dlu) : Bool := if u.active then !u.failed0 else !u.failed1

/-- PIL_STATUS. -/
def Bundle.statusWord (b : Bundle) (u : Dlu) : Nat :=
  let live := if b.trained then
      b.d2h.steps * 4 + b.h2d.steps * 32 + min 31 b.d2h.spares.length * 2 ^ 8 + min 31 b.h2d.spares.length * 2 ^ 13
        + b2n u.active * 2 ^ 18 + b2n u.spareOk * 2 ^ 19
    else 0
  b2n b.trained + b2n b.unusable * 2 + live + b.reason.toNat * 2 ^ 24

def State.pilStatus (s : State) (d : Nat) : Nat := (s.bundle d).statusWord s.dlu

/-- The bundle carries packets. -/
def State.pilUp (s : State) (d : Nat) : Bool := (s.bundle d).trained && (s.bundle d).go && !s.dlu.changing

/-! ## Packets that acknowledge and return credits (R273, R275) -/

/-- A field of a packet header. -/
def pilFld (p : Bytes) (lo n : Nat) : Nat := fieldNat (leField p 0 12) lo n

/-- Completes a header with its CRC, payload and PCRC. -/
def pilPacket (hdr : Nat) (payload : Bytes) : Bytes :=
  let h := toLE 10 hdr
  let d := payload ++ List.replicate (48 - payload.length) 0
  h ++ toLE 2 (crc16 h) ++ d ++ toLE 4 (crc32c d)

/-- A lane group of direction `i` that carries packets: group `g`, or the lowest while `g` is removed. -/
def Dir.via (r : Dir) (g : Nat) : Nat :=
  if r.off.getLsbD g then ((List.range 16).find? fun k => !r.off.getLsbD k).getD g else g

/-- An IDLE packet of direction `i`: the header bits `extra`. -/
def State.pilIdle (s : State) (d i g extra : Nat) : State :=
  let r := (s.bundle d).dir i
  let k := r.via g
  s.emit (.pil d i k (pilPacket (r.txB.toNat + (r.grp k).txNext.toNat * 2 ^ 16 + extra) []))

/-- An acknowledgement of group `g` of direction `i`, on the other direction: its receiver has taken every packet below
the GSEQ that it expects (R275). -/
def State.pilAck (s : State) (d i g : Nat) : State :=
  s.pilIdle d (1 - i) g (2 ^ 57 + (((s.bundle d).dir i).grp g).rxNext.toNat * 2 ^ 58 + g * 2 ^ 65)

/-- The switch takes what the receive buffers of VC `vc` of direction `i` hold, and the credits return, 31 in a packet
(R273, R274). -/
def State.pilTakeVc (s : State) (d i vc : Nat) : State :=
  let n := (Tab.get [] ((s.bundle d).dir i).queues vc).length
  if n = 0 then s
  else (List.range ((n + 30) / 31)).foldl (fun s k => s.pilIdle d (1 - i) 0 (vc * 2 ^ 69 + min 31 (n - 31 * k) * 2 ^ 71))
    (s.modDir d i fun r => { r with queues := Tab.set [] r.queues vc [] })

/-- Every tick the switch takes the packets that have been delivered (assumption 115). -/
def State.pilTick (s : State) : State :=
  s.bundles.foldl (fun s e =>
    if s.pilUp e.1 then (List.range 8).foldl (fun s k => s.pilTakeVc e.1 (k / 4) (k % 4)) s else s) s

/-- PIL_ERRCNT. -/
def Bundle.errWord (b : Bundle) : Nat :=
  b.crcErr.toNat + b.replays.toNat * 2 ^ 16 + b.swaps.toNat * 2 ^ 32 + b.steps.toNat * 2 ^ 40 + b.dluChg.toNat * 2 ^ 44

/-- PIL_LANEMAP. -/
def Dir.laneWord (r : Dir) (l : Nat) : Nat := r.phys l + b2n (r.off.getLsbD (l / 16)) * 2 ^ 9

/-- PIL_MARGIN, one byte; all of it reads 0 without LANE_MARGIN (R291). -/
def State.marginByte (s : State) (d i p : Nat) : Nat :=
  let r := (s.bundle d).dir i
  if (s.feature.getD 0).getLsbD 2 then (Tab.get 0 r.margin p).toNat + b2n (r.isFailed p) * 128 else 0

end Sys2Proof.Machine
end

