-- ==== Sys2Proof/Machine/Memory.lean ====
section
/-! DEFINITION. The device address space and its contents: places (01, Device address map, R23), scratchpad words and
their ECC (08 R239, R240), LPDDR sectors, inline ECC, the row tracker and remapping (08 R245 to R259). Memory cells of
a core's scratchpad are kept under its logical window's address; a physical site addresses the same cells. -/

namespace Sys2Proof.Machine

/-- Where a device address lies. -/
inductive Place where
  /-- Offset in the scratchpad of a logical core. -/
  | spad (c off : Nat)
  | lpd (u : Nat)
  | cis (a : Nat)
  | reg (off : Nat)
  deriving DecidableEq, Repr

/-- The address under which the bytes of a place are kept; registers have none. -/
def Place.key : Place → Nat
  | .spad c off => spadAddr c off
  | .lpd u => u
  | .cis a => a
  | .reg _ => 0

/-- The place of one device address, or the error status of R18, R23 and R264. -/
def State.place (s : State) (a : Nat) : Except (BitVec 8) Place :=
  if a < s.lpdTop then
    if (s.die (a / s.lpdZ)).lpd.go then .ok (.lpd a) else .error cAddrInvalid
  else if a < physBase then .error cAddrInvalid
  else if a < physBase + 176 * 0x4000000 then
    let off := (a - physBase) % 0x4000000
    match s.coreAtSite ((a - physBase) / 0x4000000) with
    | some c => if (s.core c).diked || !s.awake c || decide (spadSize ≤ off) then .error cAddrInvalid else .ok (.spad c off)
    | none => .error cAddrInvalid
  else if a < windowBase then .error cAddrInvalid
  else if a < windowBase + s.lcores * 0x4000000 then
    let c := (a - windowBase) / 0x4000000
    let off := (a - windowBase) % 0x4000000
    if spadSize ≤ off ∨ s.awake c = false then .error cAddrInvalid
    else if (s.core c).diked then .error cDiked else .ok (.spad c off)
  else if cisternBase ≤ a ∧ a < cisternBase + cisternSize then .ok (.cis a)
  else if regBase ≤ a ∧ a < regBase + regSize then .ok (.reg (a - regBase))
  else .error cAddrInvalid

/-- Two places lie in one memory. -/
def Place.same : Place → Place → Bool
  | .spad c _, .spad c' _ => c == c'
  | .lpd _, .lpd _ => true
  | .cis _, .cis _ => true
  | .reg _, .reg _ => true
  | _, _ => false

/-- The place of `n` bytes from `a`; they must lie in one place (assumption 21). -/
def State.placeOf (s : State) (a n : Nat) : Except (BitVec 8) Place :=
  match s.place a, s.place (a + (n - 1)) with
  | .ok p, .ok q => if p.same q then .ok p else .error cAddrInvalid
  | .error e, _ => .error e
  | _, .error e => .error e

/-- The register offset of `n` bytes that all lie in the register range. -/
def State.regAt (s : State) (a n : Nat) : Option Nat :=
  if n = 0 then none
  else match s.placeOf a n with
    | .ok (.reg off) => some off
    | _ => none

/-- The memory key of a device address; an address without a place stands for itself. -/
def State.canon (s : State) (a : Nat) : Nat :=
  match s.place a with
  | .ok (.reg off) => regBase + off
  | .ok p => p.key
  | .error _ => a

/-- The address is an access to the issuing core's own scratchpad (R123; its window is the whole stride, assumption 101). -/
def State.own (s : State) (c a : Nat) : Bool :=
  (decide (spadAddr c 0 ≤ a) && decide (a < spadAddr c 0 + 0x4000000))
    || (decide (physBase + s.siteOf c * 0x4000000 ≤ a) && decide (a < physBase + (s.siteOf c + 1) * 0x4000000))

/-- CTX_FAULT.DEST for an address, seen from core `c` (03, CTX_FAULT); none where the manual names no place. -/
def State.destOf (s : State) (c a : Nat) : Option (BitVec 4) :=
  if a < 0x00C000000000 then some 2
  else if physBase ≤ a ∧ a < physBase + 176 * 0x4000000 then
    if spadSize ≤ (a - physBase) % 0x4000000 then none
    else some (if s.coreAtSite ((a - physBase) / 0x4000000) = some c then 0 else 1)
  else if windowBase ≤ a ∧ a < windowBase + s.lcores * 0x4000000 then
    if spadSize ≤ (a - windowBase) % 0x4000000 then none
    else some (if (a - windowBase) / 0x4000000 = c then 0 else 1)
  else if cisternBase ≤ a ∧ a < cisternBase + cisternSize then some 3
  else none

/-- DEST for an address, a free value where the manual names no place (assumption 22). -/
def State.destVal (s : State) (c a : Nat) : BitVec 4 × State :=
  match s.destOf c a with
  | some d => (d, s)
  | none =>
    let r := s.takeFree
    ((Config.freeWord r.1).extractLsb' 0 4, r.2)

/-! ## Bundles on the way (01 R14) -/

/-- The bundles between die `d` and a device address carry packets. An address without a place needs none. -/
def State.pathUp (s : State) (d a : Nat) : Bool :=
  match s.place a with
  | .error _ => true
  | .ok (.spad c _) => d == s.dieOf c || (s.pilUp d && s.pilUp (s.dieOf c))
  | .ok (.lpd u) => d == u / s.lpdZ || (s.pilUp d && s.pilUp (u / s.lpdZ))
  | .ok _ => s.pilUp d

/-- The same from the hub. -/
def State.hubPath (s : State) (a : Nat) : Bool :=
  match s.place a with
  | .ok (.spad c _) => s.pilUp (s.dieOf c)
  | .ok (.lpd u) => s.pilUp (u / s.lpdZ)
  | _ => true

/-! ## Lines that the remote-atomic unit holds (11 R367, R368) -/

/-- A line that the unit holds among the `n` bytes from key `a`: a local access to it waits. -/
def State.lineAt (s : State) (a n : Nat) : Option Nat :=
  (s.fab.lines.find? fun l => decide (64 * l.line < a + n) && decide (a < 64 * l.line + 64)).map ALine.line

/-- A local access waits on line `x`: the unit may serve 4,096 operations more. -/
def State.lineWait (s : State) (x : Nat) : State :=
  { s with fab := { s.fab with lines := s.fab.lines.map fun l =>
      if l.line = x then { l with waited := some (l.waited.getD 0) } else l } }

/-- The pieces can be reached from die `d`, or from the hub: the bundles on the way carry packets (01 R14). -/
def State.segsUp (s : State) (d : Option Nat) (segs : List (Nat × Nat)) : Bool :=
  segs.all fun e =>
    let up := fun a => match d with
      | some d => s.pathUp d a
      | none => s.hubPath a
    up e.1 && up (e.1 + (e.2 - 1))

/-- The first line among the pieces that the remote-atomic unit holds (11 R367). -/
def State.segsLine (s : State) (segs : List (Nat × Nat)) : Option Nat :=
  segs.findSome? fun e => s.lineAt (s.canon e.1) e.2

/-- Where outputs go. -/
def outSegs (l : List OutW) : List (Nat × Nat) := l.map fun w => (w.addr, w.data.length)

/-- Accesses of a unit of die `d`, or of the hub: they wait until the bundles on the way are up and the remote-atomic unit
holds no line of theirs (01 R14, 11 R367). -/
def State.ifReach (s : State) (d : Option Nat) (segs : List (Nat × Nat)) (f : State → State) : State :=
  if !s.segsUp d segs then s
  else match s.segsLine segs with
    | some x => s.lineWait x
    | none => f s

/-! ## Bytes -/

/-- `n` bytes from key `k`. -/
def State.bytes (s : State) (k n : Nat) : Bytes := Tab.range 0 s.mem.cells k n

def State.setBytes (s : State) (k : Nat) (d : Bytes) : State :=
  { s with mem := { s.mem with cells := Tab.setRange 0 s.mem.cells k d } }

/-- `n` bytes of host memory. -/
def State.hostBytes (s : State) (k n : Nat) : Bytes := Tab.range 0 s.mem.host k n

def State.setHostBytes (s : State) (k : Nat) (d : Bytes) : State :=
  { s with mem := { s.mem with host := Tab.setRange 0 s.mem.host k d } }

/-! ## Scratchpad and cistern words (R239, R240) -/

/-- SPD_ECC as one word. -/
def Core.spdEcc (k : Core) : Nat :=
  k.spdCorr.toNat + k.spdUncorr.toNat * 2 ^ 16 + k.spdLastUe.toNat * 2 ^ 32 + b2n k.spdUeValid * 2 ^ 63

/-- Counts `n` corrected words of core `c`. -/
def State.countCorr (s : State) (c n : Nat) : State :=
  if n = 0 then s
  else s.modCore c fun k => { k with spdCorr := BitVec.ofNat 16 (satAdd k.spdCorr.toNat n 0xFFFF) }

/-- Counts an uncorrectable word and raises SPAD_UE (R240, R460). -/
def State.countUe (s : State) (c word : Nat) (injected : Bool) : State :=
  let s := s.modCore c fun k => { k with
    spdUncorr := BitVec.ofNat 16 (satAdd k.spdUncorr.toNat 1 0xFFFF)
    spdLastUe := BitVec.ofNat 23 word
    spdUeValid := true }
  s.notify 2 injected c 0x20 (s.core c).spdEcc

/-- The keys of the words of [k, k + n) whose mark satisfies `p`. -/
def State.markedWords (s : State) (k n : Nat) (p : Nat → Bool) : List Nat :=
  (s.mem.wordErr.filter fun e => decide (k / 8 ≤ e.1) && decide (e.1 ≤ (k + (n - 1)) / 8) && p e.2).map Prod.fst

def State.setWordMark (s : State) (w v : Nat) : State :=
  { s with mem := { s.mem with wordErr := Tab.set 0 s.mem.wordErr w v } }

/-- Reads `n` scratchpad bytes of core `c` at `off`: corrected words are counted and due for write-back; an
uncorrectable word ends the read with ECC_UNCORR. ECC_FLIP of PERTURB acts on the read path only (R478). -/
def State.readSpad (s : State) (c off n : Nat) : Except (BitVec 8) Bytes × State :=
  let k := spadAddr c off
  let (flip, s) := (s.perturb 1 1 c).2.perturb 1 6 c
  let good := s.markedWords k n fun v => v == 1 || v == 2
  let bad := s.markedWords k n fun v => v == 3
  let s := good.foldl (fun s w => s.setWordMark w 2) s
  let one := match flip with | some a => !a.testBit 0 | none => false
  let two := match flip with | some a => a.testBit 0 | none => false
  let s := s.countCorr c (good.length + b2n (one && bad.isEmpty))
  let s := bad.foldl (fun s w => s.countUe c (w - spadAddr c 0 / 8) false) s
  let s := if two && bad.isEmpty then s.countUe c (off / 8) true else s
  if !bad.isEmpty || two then (.error cEcc, s) else (.ok (s.bytes k n), s)

/-- Reads the sector at `off` of core `c`'s scratchpad word by word: which words are uncorrectable. ECC_FLIP strikes word
`hit` of it (R59, R240, R478). -/
def State.sectorRead (s : State) (c off hit : Nat) : BitVec 4 × State :=
  let k := spadAddr c off
  let (flip, s) := (s.perturb 1 1 c).2.perturb 1 6 c
  let good := s.markedWords k 32 fun v => v == 1 || v == 2
  let bad := s.markedWords k 32 fun v => v == 3
  let s := good.foldl (fun s w => s.setWordMark w 2) s
  let one := match flip with | some a => !a.testBit 0 | none => false
  let two := match flip with | some a => a.testBit 0 | none => false
  let s := s.countCorr c (good.length + b2n (one && bad.isEmpty))
  let s := bad.foldl (fun s w => s.countUe c (w - spadAddr c 0 / 8) false) s
  let s := if two && bad.isEmpty then s.countUe c (off / 8 + hit) true else s
  (BitVec.ofNat 4 (bitsOf 4 fun i => bad.contains (k / 8 + i) || (two && i == hit)), s)

/-- Writes scratchpad bytes: whole words clear their marks; a narrower store reads, corrects or fails its word
(R239, R240). -/
def State.writeSpad (s : State) (c off : Nat) (d : Bytes) : Except (BitVec 8) Unit × State :=
  let k := spadAddr c off
  let n := d.length
  let marked := s.markedWords k n fun _ => true
  let partial? := fun w => decide (8 * w < k) || decide (k + n < 8 * w + 8)
  let bad := marked.filter fun w => partial? w && Tab.get 0 s.mem.wordErr w == 3
  let fixd := marked.filter fun w => partial? w && Tab.get 0 s.mem.wordErr w != 3
  let s := s.countCorr c fixd.length
  if bad.isEmpty then
    let s := marked.foldl (fun s w => s.setWordMark w 0) s
    (.ok (), s.setBytes k d)
  else (.error cEcc, bad.foldl (fun s w => s.countUe c (w - spadAddr c 0 / 8) false) s)

/-! ## LPDDR (R245, R252 to R259) -/

/-- Where a usable address lies in LPDDR memory (R245). -/
structure LpdLoc where
  die : Nat
  chan : Nat
  rank : Nat
  bg : Nat
  ba : Nat
  row : Nat
  col : Nat
  deriving DecidableEq, Repr

def State.lpdLoc (s : State) (u : Nat) : LpdLoc :=
  let o := u % s.lpdZ
  let sec := o / 32
  let g := sec / 15
  let i := sec % 15
  let j := g / 24
  let row := fieldNat j 6 17
  ⟨u / s.lpdZ, g % 24, if s.fuses.l16 then 0 else fieldNat j 23 1, fieldNat j 0 2, fieldNat j 2 2 ^^^ row % 4, row,
    fieldNat j 4 2 * 512 + (i * 32 + o % 32)⟩

/-- One number for the row of a channel: rank, bank group, bank, row. -/
def LpdLoc.rowKey (l : LpdLoc) : Nat := l.row + 2 ^ 17 * (l.ba + 4 * (l.bg + 4 * l.rank))

/-- Entry `k` of channel `ch`. -/
def Lpd.ent (l : Lpd) (ch k : Nat) : RemapEnt := Tab.get RemapEnt.init l.remap (ch * 512 + k)

/-- The row key of a remap entry. -/
def RemapEnt.rowKey (e : RemapEnt) : Nat := e.row.toNat + 2 ^ 17 * (e.ba.toNat + 4 * (e.bg.toNat + 4 * e.rank.toNat))

/-- Remap entries in use on a channel. -/
def Lpd.used (l : Lpd) (ch : Nat) : Nat :=
  (l.remap.filter fun e => decide (ch * 512 ≤ e.1) && decide (e.1 < ch * 512 + 512) && e.2.valid).length

/-- Whether the row already has an entry. -/
def Lpd.remapped (l : Lpd) (ch row : Nat) : Bool :=
  l.remap.any fun e => decide (ch * 512 ≤ e.1) && decide (e.1 < ch * 512 + 512) && e.2.valid && e.2.rowKey == row

/-- A pattern for one LPDDR notification: PLACE [1:0] die, [12:8] channel. -/
def lpdPlace (d ch : Nat) : Nat := d + ch * 256

/-- LPD_STATUS. -/
def Lpd.status (l : Lpd) : Nat :=
  b2n l.trained + l.rateNow.toNat * 2 + b2n (l.hot != 0) * 8 + b2n l.full * 16 + l.reason.toNat * 2 ^ 8
    + ((List.range 24).foldl (fun m c => max m (l.used c)) 0) * 2 ^ 16

/-- All entries of the channel are in use: REMAP_FULL (R259). -/
def State.remapFull (s : State) (d ch : Nat) : State :=
  if (s.die d).lpd.used ch = 512 ∧ (s.die d).lpd.full = false then
    let s := s.modLpd d fun l => { l with full := true }
    s.notify 4 false (lpdPlace d ch) 0 (s.die d).lpd.status
  else s

/-- Begins to remap a row, or sets REMAP_FULL with the last entry (R257 to R259). -/
def State.remapRow (s : State) (d ch row count : Nat) : State :=
  let l := (s.die d).lpd
  if l.remapped ch row then s
  else match (List.range 512).find? fun k => !(l.ent ch k).valid with
    | none => s.remapFull d ch
    | some k =>
      let e : RemapEnt := ⟨true, 0, BitVec.ofNat 1 (row / 2 ^ 21), BitVec.ofNat 2 (row / 2 ^ 19),
        BitVec.ofNat 2 (row / 2 ^ 17), BitVec.ofNat 17 row, BitVec.ofNat 16 count⟩
      (s.modLpd d fun l => { l with remap := Tab.set RemapEnt.init l.remap (ch * 512 + k) e }).remapFull d ch

/-- The entry to replace: the lowest count, the oldest on a tie (R257). -/
def lowestTrack : List Track → Nat
  | [] => 0
  | t :: ts => ts.foldl (fun m x => min m x.count) t.count

/-- Removes the first entry with count `n`. -/
def dropTrack (n : Nat) : List Track → List Track
  | [] => []
  | t :: ts => if t.count = n then ts else t :: dropTrack n ts

/-- Remaps the rows of a channel whose count exceeds THRESH while REMAP_EN is 1 (R257). -/
def State.remapDue (s : State) (d ch : Nat) : State :=
  let l := (s.die d).lpd
  if l.remapEn then
    ((Tab.get [] l.tracker ch).filter fun t => decide (l.thresh.toNat < t.count)).foldl
      (fun s t => s.remapRow d ch t.row t.count) s
  else s

/-- A correctable error in a row (R257). -/
def State.trackRow (s : State) (d ch row : Nat) : State :=
  let l := (s.die d).lpd
  let ts := Tab.get [] l.tracker ch
  let ts' : List Track :=
    if ts.any fun t => t.row == row then ts.map fun t => if t.row = row then { t with count := t.count + 1 } else t
    else if ts.length < 32 then ts ++ [⟨row, 1⟩]
    else dropTrack (lowestTrack ts) ts ++ [⟨row, 1⟩]
  (s.modLpd d fun l => { l with tracker := Tab.set [] l.tracker ch ts' }).remapDue d ch

/-- LPD_ERRLOG as one word. -/
def LpdErr.word (e : LpdErr) : Nat :=
  e.addr.toNat * 32 + e.chan.toNat * 2 ^ 48 + b2n e.eccsec * 2 ^ 53 + b2n e.tagerr * 2 ^ 54 + e.cls.toNat * 2 ^ 56
    + b2n e.valid * 2 ^ 63

/-- An uncorrectable sector: counted, logged, LPD_UE raised (R252, R254, LPD_ERRLOG). -/
def State.lpdUe (s : State) (sec : Nat) (eccsec tagerr : Bool) (cls : Nat) (injected : Bool) : State :=
  let loc := s.lpdLoc (sec * 32)
  let e : LpdErr := ⟨BitVec.ofNat 43 sec, BitVec.ofNat 5 loc.chan, eccsec, tagerr, BitVec.ofNat 3 cls, true⟩
  let s := s.modLpd loc.die fun l => { l with
    uncorr := BitVec.ofNat 16 (satAdd l.uncorr.toNat 1 0xFFFF)
    err := if l.err.valid then l.err else e }
  s.notify 3 injected (lpdPlace loc.die loc.chan) 0x20 e.word

/-- A corrected sector read: counted, tracked, due for write-back (R253). -/
def State.lpdCe (s : State) (sec : Nat) (writeBack : Bool) : State :=
  let loc := s.lpdLoc (sec * 32)
  let s := s.modLpd loc.die fun l => { l with corr := BitVec.ofNat 32 (satAdd l.corr.toNat 1 0xFFFFFFFF) }
  let s := if writeBack then
    { s with mem := { s.mem with secErr := Tab.set 0 s.mem.secErr sec (Tab.get 0 s.mem.secErr sec ||| 8) } } else s
  s.trackRow loc.die loc.chan loc.rowKey

/-- The ECC check of a read of sector `sec` (R252): false when uncorrectable. -/
def State.checkSector (s : State) (sec cls : Nat) : Bool × State :=
  let loc := s.lpdLoc (sec * 32)
  let (flip, s) := (s.perturb 2 3 (lpdPlace loc.die loc.chan)).2.perturb 2 6 (lpdPlace loc.die loc.chan)
  let m := Tab.get 0 s.mem.secErr sec
  let g := Tab.get 0 s.mem.grpErr (sec / 15)
  let two := match flip with | some a => a.testBit 0 | none => false
  if g = 2 then (false, s.lpdUe sec true false cls false)
  else if m.testBit 2 then (false, s.lpdUe sec false true cls false)
  else if m.testBit 1 then (false, s.lpdUe sec false false cls false)
  else if two then (false, s.lpdUe sec false false cls true)
  else if m.testBit 0 || g == 1 || flip.isSome then (true, s.lpdCe sec (m.testBit 0 || g == 1))
  else (true, s)

/-- Checks the `n` sectors from `sec` in turn. -/
def State.checkSectors : Nat → State → Nat → Nat → Bool × State
  | 0, s, _, _ => (true, s)
  | n + 1, s, sec, cls =>
    let r := s.checkSector sec cls
    if r.1 then State.checkSectors n r.2 (sec + 1) cls else (false, r.2)

/-- The number of sectors that [u, u + n) touches. -/
def sectorsOf (u n : Nat) : Nat := if n = 0 then 0 else (u + (n - 1)) / 32 - u / 32 + 1

/-- Reads LPDDR bytes for requester class `cls` (R252 to R254). -/
def State.readLpd (s : State) (u n cls : Nat) : Except (BitVec 8) Bytes × State :=
  let r := State.checkSectors (sectorsOf u n) s (u / 32) cls
  if r.1 then (.ok (r.2.bytes u n), r.2) else (.error cEcc, r.2)

/-- Clears the marks of a sector that is written. -/
def State.clearSector (s : State) (sec : Nat) : State :=
  { s with mem := { s.mem with secErr := Tab.set 0 s.mem.secErr sec 0 } }

/-- Writes the part of `d` (starting at `u`) that falls on one sector; `whole` group writes skip the ECC sector's check
(R255). -/
def State.writeSector (s : State) (u : Nat) (d : Bytes) (cls : Nat) : Bool × State :=
  let sec := u / 32
  if d.length = 32 then
    if Tab.get 0 s.mem.grpErr (sec / 15) = 2 then (false, s.lpdUe sec true false cls false)
    else
      let s := { s with mem := { s.mem with grpErr := Tab.set 0 s.mem.grpErr (sec / 15) 0 } }
      (true, (s.clearSector sec).setBytes u d)
  else
    let r := s.checkSector sec cls
    if r.1 then
      let s := { r.2 with mem := { r.2.mem with grpErr := Tab.set 0 r.2.mem.grpErr (sec / 15) 0 } }
      (true, (s.clearSector sec).setBytes u d)
    else (false, r.2)

/-- Writes LPDDR bytes sector by sector (at most `fuel` sectors); a whole ECC group written by a stream pump rebuilds
the group (R255). -/
def State.writeLpd : Nat → State → Nat → Bytes → Nat → Except (BitVec 8) Unit × State
  | 0, s, _, _, _ => (.ok (), s)
  | fuel + 1, s, u, d, cls =>
    if d.isEmpty then (.ok (), s)
    else if cls = 1 ∧ u % 480 = 0 ∧ 480 ≤ d.length then
      let s := { s with mem := { s.mem with
        grpErr := Tab.set 0 s.mem.grpErr (u / 480) 0
        secErr := Tab.drop (fun k => k / 15 == u / 480) s.mem.secErr } }
      State.writeLpd fuel (s.setBytes u (d.take 480)) (u + 480) (d.drop 480) cls
    else
      let n := min d.length (32 - u % 32)
      let r := s.writeSector u (d.take n) cls
      if r.1 then State.writeLpd fuel r.2 (u + n) (d.drop n) cls else (.error cEcc, r.2)

/-! ## Any place but registers -/

/-- Reads `n` bytes of a place other than the registers. -/
def State.readPlace (s : State) (p : Place) (n cls : Nat) : Except (BitVec 8) Bytes × State :=
  match p with
  | .spad c off => s.readSpad c off n
  | .lpd u => s.readLpd u n cls
  | .cis a =>
    if (s.markedWords a n fun v => v == 3).isEmpty then (.ok (s.bytes a n), s) else (.error cEcc, s)
  | .reg _ => (.error cAddrInvalid, s)

/-- Writes bytes to a place other than the registers. -/
def State.writePlace (s : State) (p : Place) (d : Bytes) (cls : Nat) : Except (BitVec 8) Unit × State :=
  match p with
  | .spad c off => s.writeSpad c off d
  | .lpd u => State.writeLpd (d.length + 1) s u d cls
  | .cis a =>
    (.ok (), ((s.markedWords a d.length fun _ => true).foldl (fun s w => s.setWordMark w 0) s).setBytes a d)
  | .reg _ => (.error cAddrInvalid, s)

/-- Reads `n` bytes at a device address for a unit; the register range is no operand (assumption 21). -/
def State.readMem (s : State) (a n cls : Nat) : Except (BitVec 8) Bytes × State :=
  if n = 0 then (.ok [], s)
  else match s.placeOf a n with
    | .error e => (.error e, s)
    | .ok p => s.readPlace p n cls

/-- Writes bytes at a device address for a unit. -/
def State.writeMem (s : State) (a : Nat) (d : Bytes) (cls : Nat) : Except (BitVec 8) Unit × State :=
  if d.isEmpty then (.ok (), s)
  else match s.placeOf a d.length with
    | .error e => (.error e, s)
    | .ok p => s.writePlace p d cls

/-- What a sector request reads: the sector's bytes and its bad words (R248, R252). -/
def State.readSector (s : State) (p : Place) (hit cls : Nat) : Except (BitVec 8) (Bytes × BitVec 4) × State :=
  match p with
  | .spad c off =>
    let r := s.sectorRead c (off / 32 * 32) hit
    (.ok (r.2.bytes (spadAddr c (off / 32 * 32)) 32, r.1), r.2)
  | .lpd u =>
    let r := s.checkSector (u / 32) cls
    if r.1 then (.ok (r.2.bytes (u / 32 * 32) 32, 0), r.2) else (.error cEcc, r.2)
  | .cis a =>
    let k := a / 32 * 32
    let bad := s.markedWords k 32 fun v => v == 3
    (.ok (s.bytes k 32, BitVec.ofNat 4 (bitsOf 4 fun i => bad.contains (k / 8 + i))), s)
  | .reg _ => (.error cAddrInvalid, s)

/-- Writes outputs in turn, stopping at the first error, with the address that failed. -/
def State.writeOuts : State → List OutW → Nat → Option (BitVec 8 × Nat) × State
  | s, [], _ => (none, s)
  | s, w :: ws, cls =>
    match s.writeMem w.addr w.data cls with
    | (.ok _, s) => State.writeOuts s ws cls
    | (.error e, s) => (some (e, w.addr), s)

/-- The operation's old value and new value (04, table Atomic operations; R126): `width` bytes, `v` the operand, `cmp`
the compare value. -/
def atomVal (aop width : Nat) (old v cmp : Nat) : Nat :=
  let m := 2 ^ (8 * width)
  let o := old % m
  let x := v % m
  let so := signedNat (8 * width) o
  let sx := signedNat (8 * width) x
  match aop with
  | 0 => (o + x) % m
  | 1 => x
  | 2 => if o = cmp % m then x else o
  | 3 => o &&& x
  | 4 => o ||| x
  | 5 => o ^^^ x
  | 6 => if sx < so then x else o
  | 7 => if so < sx then x else o
  | 8 => if x < o then x else o
  | _ => if o < x then x else o

/-- Puts bytes in a place that was just read, as the second half of one read-modify-write: nothing is checked or counted
again, and correctable marks go (R241, R250). -/
def State.putPlace (s : State) (p : Place) (d : Bytes) : State :=
  match p with
  | .lpd u =>
    let s := { s with mem := { s.mem with grpErr := Tab.set 0 s.mem.grpErr (u / 480) 0 } }
    (s.clearSector (u / 32)).setBytes u d
  | .reg _ => s
  | p => ((s.markedWords p.key d.length fun _ => true).foldl (fun s w => s.setWordMark w 0) s).setBytes p.key d

/-- An atomic on a place of memory: the old value; an atomic on the register range ends with ADDR_INVALID
(assumption 23). -/
def State.atomPlace (s : State) (p : Place) (aop width : Nat) (v cmp : Nat) (cls : Nat) :
    Except (BitVec 8) Bytes × State :=
  match s.readPlace p width cls with
  | (.error e, s) => (.error e, s)
  | (.ok old, s) => (.ok old, s.putPlace p (toLE width (atomVal aop width (fromLE old) v cmp)))

end Sys2Proof.Machine
end

