-- ==== Sys2Proof/Machine/Operands.lean ====
section
/-! DEFINITION. Instruction words: formats and fields (04 R101), legality (R102, R116, R201, R538), guards (R103),
source registers (R67), and tile descriptors (R113 to R119). -/

namespace Sys2Proof.Machine

/-! ## Fields (R101) -/

/-- Bits [lo + len − 1 : lo] of an instruction word. -/
def ifld (w : BitVec 64) (lo len : Nat) : Nat := fieldNat w.toNat lo len

def iOp (w : BitVec 64) : Nat := ifld w 56 8
def iPg (w : BitVec 64) : Nat := ifld w 53 3
def iPn (w : BitVec 64) : Bool := ifld w 52 1 == 1
/-- RD of formats R, I, L, B, M, S. -/
def iRd (w : BitVec 64) : Nat := ifld w 47 5
/-- RA of formats R, I, B, M, S. -/
def iRa (w : BitVec 64) : Nat := ifld w 42 5
/-- RB of formats R, B, M. -/
def iRb (w : BitVec 64) : Nat := ifld w 37 5
def iRc (w : BitVec 64) : Nat := ifld w 32 5
/-- SUB of format R. -/
def iSub (w : BitVec 64) : Nat := ifld w 26 6
def iRm (w : BitVec 64) : Nat := ifld w 23 3
def iFt (w : BitVec 64) : Nat := ifld w 20 3
/-- SUB and IMM of format I. -/
def iSubI (w : BitVec 64) : Nat := ifld w 36 6
def iImm (w : BitVec 64) : Nat := ifld w 0 36
def iSh (w : BitVec 64) : Nat := ifld w 45 2
def iImmL (w : BitVec 64) : Nat := ifld w 0 45
def iCond (w : BitVec 64) : Nat := ifld w 34 3
def iOffB (w : BitVec 64) : Nat := ifld w 0 32
def iWidth (w : BitVec 64) : Nat := ifld w 34 3
def iAop (w : BitVec 64) : Nat := ifld w 30 4
/-- OFF of formats M and D. -/
def iOff (w : BitVec 64) : Nat := ifld w 0 30
/-- DD and DA of formats D, P, T; RA of formats D and P. -/
def iDd (w : BitVec 64) : Nat := ifld w 48 4
def iDa (w : BitVec 64) : Nat := ifld w 44 4
def iDb (w : BitVec 64) : Nat := ifld w 40 4
def iDc (w : BitVec 64) : Nat := ifld w 36 4
def iRaD (w : BitVec 64) : Nat := ifld w 39 5
def iField (w : BitVec 64) : Nat := ifld w 34 5
def iSubD (w : BitVec 64) : Nat := ifld w 30 4
/-- ID, SUB, N of format S. -/
def iId (w : BitVec 64) : Nat := ifld w 36 6
def iSubS (w : BitVec 64) : Nat := ifld w 32 4
def iN (w : BitVec 64) : Nat := ifld w 24 8
/-- SUB and PSEL of format P. -/
def iSubP (w : BitVec 64) : Nat := ifld w 29 3
def iPsel (w : BitVec 64) : Nat := ifld w 25 4
/-- BANK, Q, MODE, SUB, FLAGS of format T. -/
def iBank (w : BitVec 64) : Nat := ifld w 34 2
def iQ (w : BitVec 64) : Int := signedNat 8 (ifld w 19 8)
def iMode (w : BitVec 64) : Nat := ifld w 16 3
def iSubT (w : BitVec 64) : Nat := ifld w 8 8
def iFlags (w : BitVec 64) : Nat := ifld w 0 8
/-- GRP of format C; RA and RB of format C. -/
def iRaC (w : BitVec 64) : Nat := ifld w 47 5
def iRbC (w : BitVec 64) : Nat := ifld w 42 5
def iGrp (w : BitVec 64) : Nat := ifld w 38 4

/-- An `n`-bit field sign-extended to 64 bits. -/
def sext64 (n x : Nat) : BitVec 64 := BitVec.ofInt 64 (signedNat n x)

/-! ## Which row of the operation table a word spells -/

/-- The listed opcodes (R104, table Opcode map). -/
def listedOps : List Nat :=
  [0x00, 0x01, 0x02, 0x03, 0x04, 0x05, 0x06, 0x07, 0x08, 0x09, 0x10, 0x11, 0x12, 0x13, 0x20, 0x21, 0x22, 0x23, 0x24,
   0x25, 0x30, 0x31, 0x32, 0x33, 0x34, 0x35, 0x36, 0x37, 0x50, 0x51, 0x52, 0x53, 0x54, 0x55, 0x56, 0x58, 0x59, 0x5A,
   0x5B, 0x5C, 0x5D, 0x5E, 0x60, 0x68, 0x69, 0x6A, 0x6B, 0x70, 0x71, 0x72, 0x73, 0x74, 0x75, 0x76, 0x77, 0x78, 0x79,
   0x90]

/-- The SUB value that divides an opcode into several rows, and how many it lists. -/
def rowSub (w : BitVec 64) : Nat × Nat :=
  match iOp w with
  | 0x34 => (iSub w, 3)
  | 0x60 => (iSubP w, 5)
  | 0x68 => (iSubS w, 3)
  | 0x69 => (iSubS w, 3)
  | 0x6A => (iSubS w, 3)
  | 0x6B => (iSubS w, 2)
  | 0x73 => (iSubT w, 2)
  | 0x77 => (iSubT w, 3)
  | 0x79 => (iSubT w, 3)
  | _ => (0, 1)

/-- The word names no row: its OP, or the SUB that selects the row, is not listed. It raises ILLEGAL (R102). -/
def unlisted (w : BitVec 64) : Bool := !listedOps.contains (iOp w) || decide ((rowSub w).2 ≤ (rowSub w).1)

/-- The word belongs to the row (opcode, SUB), or to none. -/
def rowFits (op sub : Nat) (w : BitVec 64) : Bool :=
  unlisted w || (iOp w == op && (rowSub w).1 == sub)

/-! ## Legality (R102) -/

/-- SUB codes of the scalar operations (04, table Scalar operations). -/
def aluSubs : List Nat :=
  [0, 1, 2, 3, 4, 5, 6, 7, 8, 9, 0xA, 0xB, 0xC, 0xD, 0xE, 0x10, 0x11, 0x12, 0x14, 0x15, 0x16, 0x17]

/-- VALU SUB codes of FT INT32 (R120). -/
def valuInt : List Nat := [0, 1, 2, 4, 5, 8, 9, 0xA, 0xB, 0xC, 0xD, 0xE, 0xF]

/-- Descriptor field codes (R116). -/
def descFields : List Nat := [0, 1, 2, 3, 4, 5, 6, 7, 8, 9, 0xA, 0xB, 0x10, 0x11, 0x12, 0x13]

def isV (n : Nat) : Bool := decide (n < 16)
def isP (n : Nat) : Bool := decide (n < 8)

/-- R-format legality: reserved bits, RM (R32), FT, SUB, unused fields. -/
def legalR (w : BitVec 64) : Bool :=
  let rd := iRd w; let ra := iRa w; let rb := iRb w; let rc := iRc w; let sub := iSub w; let ft := iFt w
  ifld w 0 20 == 0 && decide (iRm w < 5) && match iOp w with
  | 0x02 => aluSubs.contains sub && rc == 0 && ft == 0
  | 0x30 => isV rd && isV ra && isV rb && isV rc &&
      if ft < 3 then decide (sub < 8) else ft == 3 && valuInt.contains sub
  | 0x31 => isV rd && isV ra && isV rb && decide (ft < 4) && [0, 1, 2, 3, 4, 6, 7].contains sub
      && (iRm w == 4 || rc == 0) &&
      let pair := ft == 1 || ft == 2
      let t16 := sub == 1 || sub == 2
      if pair then (if t16 then rb == 0 else decide (rb < 2)) else (t16 || rb == 0)
  | 0x32 => isP rd && isV ra && isV rb && decide (ft < 4) && decide (sub < if ft = 3 then 8 else 6)
      && decide (rc < if ft = 1 ∨ ft = 2 then 2 else 1)
  | 0x33 => isV rd && isV ra && isV rb && isP rc && sub == 0 && ft == 0
  | 0x34 => ft == 0 && rc == 0 && match sub with
      | 0 => isV rd
      | 1 => isV ra
      | 2 => isV rd
      | _ => false
  | 0x35 => isV ra && rb == 0 && rc == 0 && decide (sub < 6) && ft == 0
  | 0x36 => isV rd && isV ra && isV rb && rc == 0 && sub == 0 && ft == 0
  | 0x37 => isP rd && rc == 0 && ft == 0 && decide (sub < 6) && (sub == 5 || isP ra) && isP rb
  | _ => false

/-- I- and L-format legality. -/
def legalI (w : BitVec 64) : Bool :=
  match iOp w with
  | 0x00 => ifld w 0 52 == 0
  | 0x01 => ifld w 0 52 == 0
  | 0x03 => aluSubs.contains (iSubI w) && decide (iSubI w < 0x14)
  | 0x04 => iSh w == 0
  | 0x05 => ifld w 16 29 == 0
  | 0x06 => iRa w == 0 && iSubI w == 0 && ifld w 8 28 == 0
  | 0x07 => iRd w == 0 && iRa w == 0 && iSubI w == 0 && ifld w 5 3 == 0 && ifld w 11 25 == 0
  | 0x08 => iRa w == 0 && decide (iSubI w < 6) && iImm w == 0
  | 0x09 => iRd w == 0 && iSubI w == 3 && iImm w == 0
  | _ => false

/-- B-format legality. -/
def legalB (w : BitVec 64) : Bool :=
  ifld w 32 2 == 0 && match iOp w with
  | 0x10 => iRd w == 0 && decide (iCond w < 6)
  | 0x11 => iRd w == 0 && iRa w == 0 && iRb w == 0 && iCond w == 0
  | 0x12 => iRa w == 0 && iRb w == 0 && iCond w == 0
  | 0x13 => iRb w == 0 && iCond w == 0
  | _ => false

/-- D-format legality (R116). -/
def legalD (w : BitVec 64) : Bool :=
  iSubD w == 0 && match iOp w with
  | 0x20 => iField w == 0 && iDa w == 0
  | 0x21 => iField w == 0 && iDd w == 0
  | 0x22 => descFields.contains (iField w) && iDa w == 0 && iOff w == 0
  | 0x23 => descFields.contains (iField w) && iDd w == 0 && iOff w == 0
  | 0x24 => iField w == 0
  | 0x25 => iField w == 0 && iRaD w == 0 && iOff w == 0
  | _ => false

/-- M-format legality (04, Load, store and atomic instructions). -/
def legalM (w : BitVec 64) : Bool :=
  let rb0 := iRb w == 0
  match iOp w with
  | 0x50 => decide (iWidth w < 4) && decide (iAop w < 2) && rb0
  | 0x51 => decide (iWidth w < 4) && iAop w == 0 && rb0
  | 0x52 => iWidth w == 2 && iAop w == 0 && rb0 && isV (iRd w)
  | 0x53 => iWidth w == 2 && iAop w == 0 && rb0 && isV (iRd w)
  | 0x54 => iWidth w == 2 && iAop w == 0 && isV (iRb w) && isV (iRd w)
  | 0x55 => iWidth w == 2 && iAop w == 0 && isV (iRb w) && isV (iRd w)
  | 0x56 => (iWidth w == 2 || iWidth w == 3) && decide (iAop w < 10)
  | 0x58 => decide (iWidth w < 4) && decide (iAop w < 2) && rb0
  | 0x59 => decide (iWidth w < 4) && iAop w == 0 && rb0
  | 0x5A => iWidth w == 2 && iAop w == 0 && rb0 && isV (iRd w)
  | 0x5B => iWidth w == 2 && iAop w == 0 && rb0 && isV (iRd w)
  | 0x5C => (iWidth w == 2 || iWidth w == 3) && decide (iAop w < 10)
  | 0x5D => (iWidth w == 2 || iWidth w == 3) && decide (iAop w < 10)
  | 0x5E => decide (iWidth w < 4) && iAop w == 0 && rb0
  | _ => false

/-- S-, P- and C-format legality (R127, Synchronisation instructions). -/
def legalS (w : BitVec 64) : Bool :=
  match iOp w with
  | 0x68 => decide (iSubS w < 3) && iN w != 0 && iRa w == 0 && ifld w 0 24 == 0
  | 0x69 => decide (iSubS w < 3) && iN w == 0 && iRa w == 0 && iRd w == 0 && ifld w 0 24 == 0
  | 0x6A => decide (iSubS w < 3) && iN w == 0 && iRa w == 0 && iRd w == 0 && iId w == 0 && ifld w 0 24 == 0
  | 0x6B => decide (iSubS w < 2) && iN w == 0 && decide (iId w < 16) && ifld w 0 24 == 0
  | 0x60 => decide (iSubP w < 5) && (iPsel w == 0 || decide (8 ≤ iPsel w)) && ifld w 0 25 == 0
  | 0x90 => ifld w 0 31 == 0
  | _ => false

/-- T-format legality (R131, R148, R201, R538, R541). -/
def legalT (w : BitVec 64) : Bool :=
  let dd := iDd w; let da := iDa w; let db := iDb w; let dc := iDc w; let fl := iFlags w
  let noMQ := iMode w == 0 && ifld w 19 8 == 0
  let mat := decide (iMode w < 4) && iSubT w == 0 && dc == 0 && decide (fl < 8) && fl / 2 != 3
    && (fl / 2 != 0 || dd == 0)
  match iOp w with
  | 0x70 => mat
  | 0x71 => mat && iMode w != 2
  | 0x72 => noMQ && iSubT w == 0 && fl == 0
  | 0x73 => noMQ && iBank w == 0 && decide (iSubT w < 2) && fl == 0 && db == 0 && dc == 0
  | 0x74 => noMQ && iBank w == 0 && decide (iSubT w < 10) && decide (fl < 8) && (fl.testBit 0 || db == 0)
      && (fl.testBit 1 || dc == 0) && (!fl.testBit 2 || fl.testBit 0 || fl.testBit 1)
  | 0x75 => noMQ && iBank w == 0 && iSubT w == 0 && fl == 0 && dc == 0
  | 0x76 => noMQ && iBank w == 0 && iSubT w == 0 && fl == 0 && dd == 0 && dc == 0
  | 0x77 => noMQ && iBank w == 0 && decide (iSubT w < 3) && fl == 0 && db == 0
  | 0x78 => noMQ && iBank w == 0 && iSubT w == 0 && fl == 0 && db == 0
  | 0x79 => iMode w == 0 && decide (iSubT w < 3) && fl == 0 && da == 0 && db == 0 && dc == 0
  | _ => false

/-- The word is a legal instruction (R102). -/
def legal (w : BitVec 64) : Bool :=
  let op := iOp w
  if op = 0x02 ∨ (0x30 ≤ op ∧ op ≤ 0x37) then legalR w
  else if op < 0x0A then legalI w
  else if op < 0x20 then legalB w
  else if op < 0x30 then legalD w
  else if 0x50 ≤ op ∧ op < 0x60 then legalM w
  else if 0x70 ≤ op ∧ op < 0x80 then legalT w
  else legalS w

/-- CTX_FAULT.UNIT of an opcode; a branch counts as scalar. Descriptor instructions and reserved opcodes have no code there
(assumption 24). -/
def unitOf (op : Nat) : Option (BitVec 3) :=
  if !listedOps.contains op || (decide (0x20 ≤ op) && decide (op < 0x30)) then none
  else some (if op < 0x20 then 1 else if op < 0x50 then 2 else if op < 0x60 then 3 else if op < 0x68 then 5 else if op < 0x70 then 6
    else if op < 0x90 then 4 else 7)

/-- Vector instructions and vector memory instructions take their guard per lane (R103). -/
def laneGuarded (op : Nat) : Bool :=
  (decide (0x30 ≤ op) && decide (op < 0x38)) || [0x52, 0x53, 0x54, 0x55, 0x5A, 0x5B].contains op

/-! ## Registers (03 R67, R539) -/

/-- S0 reads 0. -/
def Regs.getS (r : Regs) (n : Nat) : BitVec 64 := if n = 0 then 0 else Tab.get 0 r.s n

/-- Writes to S0 are discarded. -/
def Regs.setS (r : Regs) (n : Nat) (v : BitVec 64) : Regs := if n = 0 then r else { r with s := Tab.set 0 r.s n v }

def Regs.getD (r : Regs) (n : Nat) : BitVec 256 := Tab.get 0 r.d n

def Regs.setD (r : Regs) (n : Nat) (v : BitVec 256) : Regs := { r with d := Tab.set 0 r.d n v }

def Regs.getV (r : Regs) (n : Nat) : BitVec 2048 := Tab.get 0 r.v n

def Regs.setV (r : Regs) (n : Nat) (v : BitVec 2048) : Regs := { r with v := Tab.set 0 r.v n v }

/-- P0 reads all ones. -/
def Regs.getP (r : Regs) (n : Nat) : BitVec 64 := if n = 0 then BitVec.allOnes 64 else Tab.get 0 r.p n

/-- Writes to P0 are discarded. -/
def Regs.setP (r : Regs) (n : Nat) (v : BitVec 64) : Regs := if n = 0 then r else { r with p := Tab.set 0 r.p n v }

/-- Lane `i` of a V register value. -/
def lane (v : BitVec 2048) (i : Nat) : BitVec 32 := v.extractLsb' (32 * i) 32

/-- The V register value with lane `i` given by `f i` where `g i`, unchanged elsewhere. -/
def setLanes (v : BitVec 2048) (g : Nat → Bool) (f : Nat → BitVec 32) : BitVec 2048 :=
  BitVec.ofNat 2048 ((List.range 64).foldl (fun a i =>
    a + (if g i then (f i).toNat else (lane v i).toNat) * 2 ^ (32 * i)) 0)

/-- Loads outstanding to an S register are discarded when a later instruction writes it (R539). -/
def Req.overS (n : Nat) (r : Req) : Req :=
  match r.dst with
  | .s rd _ _ => if rd = n then { r with superseded := true } else r
  | _ => r

/-- Lanes of loads outstanding to a V register are discarded when a later instruction writes them (R539). -/
def Req.overV (n : Nat) (lanes : BitVec 64) (r : Req) : Req :=
  match r.dst with
  | .v rd ls sup => if rd = n then { r with dst := .v rd ls (sup ||| lanes) } else r
  | _ => r

/-- An instruction writes an S register. -/
def Thread.putS (th : Thread) (n : Nat) (v : BitVec 64) : Thread :=
  { th with regs := th.regs.setS n v, reqs := th.reqs.map (Req.overS n) }

/-- An instruction writes the lanes `g` of a V register. -/
def Thread.putV (th : Thread) (n : Nat) (g : Nat → Bool) (f : Nat → BitVec 32) : Thread :=
  { th with regs := th.regs.setV n (setLanes (th.regs.getV n) g f),
            reqs := th.reqs.map (Req.overV n (BitVec.ofNat 64 (bitsOf 64 g))) }

def Thread.putP (th : Thread) (n : Nat) (v : BitVec 64) : Thread := { th with regs := th.regs.setP n v }

def Thread.putD (th : Thread) (n : Nat) (v : BitVec 256) : Thread := { th with regs := th.regs.setD n v }

/-- A source register that an external load may still have to write. -/
inductive Src where
  | s (n : Nat)
  | v (n : Nat)
  deriving DecidableEq, Repr

/-- The S and V registers an instruction reads. -/
def sources (w : BitVec 64) : List Src :=
  let rd := iRd w; let ra := iRa w; let rb := iRb w; let rc := iRc w; let sub := iSub w
  match iOp w with
  | 0x02 => [.s ra, .s rb]
  | 0x03 => [.s ra]
  | 0x05 => [.s rd]
  | 0x09 => [.s ra]
  | 0x10 => [.s ra, .s rb]
  | 0x13 => [.s ra]
  | 0x20 => [.s (iRaD w)]
  | 0x21 => [.s (iRaD w)]
  | 0x22 => [.s (iRaD w)]
  | 0x24 => [.s (iRaD w)]
  | 0x30 => [.v ra] ++ (if iFt w < 3 ∧ 6 ≤ sub then [] else [.v rb]) ++ if iFt w < 3 ∧ sub = 3 then [.v rc] else []
  | 0x31 => (if iRm w = 4 then [.s rc] else []) ++
      if (sub = 1 ∨ sub = 2) ∧ (iFt w = 0 ∨ iFt w = 3) then [.v ra, .v rb] else [.v ra]
  | 0x32 => [.v ra, .v rb]
  | 0x33 => [.v ra, .v rb]
  | 0x34 => if sub = 0 then [.s ra] else if sub = 1 then [.v ra, .s rb] else []
  | 0x35 => [.v ra]
  | 0x36 => [.v ra, .v rb]
  | 0x37 => if sub = 5 then [.s ra] else []
  | 0x50 => [.s ra]
  | 0x51 => [.s rd, .s ra]
  | 0x52 => [.s ra]
  | 0x53 => [.v rd, .s ra]
  | 0x54 => [.s ra, .v rb]
  | 0x55 => [.v rd, .s ra, .v rb]
  | 0x56 => [.s rd, .s ra] ++ if iAop w = 2 then [.s rb] else []
  | 0x58 => [.s ra]
  | 0x59 => [.s rd, .s ra]
  | 0x5A => [.s ra]
  | 0x5B => [.v rd, .s ra]
  | 0x5C => [.s rd, .s ra] ++ if iAop w = 2 then [.s rb] else []
  | 0x5D => [.s rd, .s ra] ++ if iAop w = 2 then [.s rb] else []
  | 0x5E => [.s rd, .s ra]
  | 0x60 => if iSubP w = 0 then [] else [.s (iRaD w)]
  | 0x6B => [.s ra]
  | 0x90 => [.s (iRaC w), .s (iRbC w)]
  | _ => []

/-- A load outstanding to a source register: the instruction cannot issue yet (R67). -/
def Thread.srcPending (th : Thread) (x : Src) : Bool :=
  th.reqs.any fun r => match r.dst, x with
    | .s rd _ _, .s n => rd == n && n != 0
    | .v rd _ _, .v n => rd == n
    | _, _ => false

/-- The guard of a scalar instruction (R103). -/
def Thread.guard (th : Thread) (w : BitVec 64) : Bool := (th.regs.getP (iPg w)).getLsbD 0 != iPn w

/-- The guard of lane `i` (R103). -/
def Thread.laneGuard (th : Thread) (w : BitVec 64) (i : Nat) : Bool := (th.regs.getP (iPg w)).getLsbD i != iPn w

/-! ## Tile descriptors (R113 to R119) -/

/-- A tile descriptor, unpacked. `word` keeps the 256 bits. -/
structure Desc where
  base : Nat
  fmt : Nat
  rm : Nat
  scaled : Bool
  kind : Nat
  ext : Bool
  dim0 : Nat
  dim1 : Nat
  planes : Nat
  stride1 : Nat
  /-- Bytes from one plane to the next. -/
  stride2 : Nat
  soff : Nat
  word : Nat
  deriving DecidableEq, Repr

def descOf (d : BitVec 256) : Desc :=
  let x := d.toNat
  let g := fieldNat x
  { base := g 0 48
    fmt := g 48 4
    rm := g 52 3
    scaled := g 55 1 == 1
    kind := g 56 3
    ext := g 59 1 == 1
    dim0 := g 64 20
    dim1 := g 84 32
    planes := g 116 12 + 1
    stride1 := g 128 32
    stride2 := 32 * g 160 32
    soff := g 192 16
    word := x }

/-- Data bytes of a row. -/
def Desc.dataBytes (d : Desc) : Nat := (d.dim0 * fmtNibbles d.fmt + 1) / 2

/-- Bytes of a row, the scales at SOFF included (R115). -/
def Desc.rowBytes (d : Desc) : Nat := if d.scaled then max d.dataBytes (d.soff + d.dim0 / 32) else d.dataBytes

/-- Address of row `r` of plane `p`. -/
def Desc.rowAddr (d : Desc) (p r : Nat) : Nat := d.base + p * d.stride2 + r * d.stride1

/-- Elements of the whole tile. -/
def Desc.count (d : Desc) : Nat := d.planes * d.dim1 * d.dim0

/-- Reserved bits of the layout that KIND gives (R113, R168, R184, R198). -/
def Desc.reservedBad (d : Desc) : Bool :=
  let g := fieldNat d.word
  g 60 4 != 0 || match d.kind with
  | 0 => g 208 48 != 0
  | 1 => g 208 48 != 0
  | 2 => g 116 12 != 0 || g 176 80 != 0
  | 3 => g 71 185 != 0
  | 4 => g 88 40 != 0 || g 176 80 != 0
  | _ => true

/-- The format checks of R115 that every layout shares. -/
def Desc.fmtBad (d : Desc) (tensor : Bool) : Bool :=
  decide (9 < d.fmt) || (d.scaled && d.fmt != 3 && d.fmt != 5) || (!d.scaled && d.fmt == 5)
    || d.base % fmtBytes d.fmt != 0 || (tensor && d.base % 32 != 0)

/-- The checks of R115 on a TENSOR or WINDOW layout. -/
def Desc.shapeBad (d : Desc) (dest : Bool) : Bool :=
  d.dim0 == 0 || d.dim1 == 0 || (d.scaled && d.dim0 % 32 != 0) || (d.fmt == 5 && d.dim0 % 2 != 0)
    || (dest && ((decide (1 < d.dim1) && decide (d.stride1 < d.rowBytes))
        || (decide (1 < d.planes) && decide (d.stride2 < (d.dim1 - 1) * d.stride1 + d.rowBytes))))
    || decide (2 ^ 48 < d.rowAddr (d.planes - 1) (d.dim1 - 1) + d.rowBytes)

/-- EXT and RM of a destination or source (R117, R118): `true` when DESC_INVALID. -/
def Desc.extBad (d : Desc) (dest : Bool) : Bool :=
  if dest then d.ext != (d.rm == 4) else d.ext != (d.kind == 1)

/-- A TENSOR descriptor fails R115 (R117 and R118 included). -/
def Desc.tensorBad (d : Desc) (dest tensor : Bool) : Bool :=
  d.kind != 0 || d.reservedBad || d.extBad dest || d.fmtBad tensor || d.shapeBad dest

/-- A physical-site address form (R95): any of `n` bytes from `a` lies in a physical-site window. -/
def physSpan (a n : Nat) : Bool := decide (physBase < a + n) && decide (a < physBase + 176 * 0x4000000)

/-- The first of `n` rows of `len` bytes, `st` apart from `a`, that reaches the physical-site windows is in them. -/
def physRows (a st n len : Nat) : Bool :=
  let r := if physBase < a + len ∨ st = 0 then 0 else (physBase + 1 - (a + len) + st - 1) / st
  decide (r < n) && physSpan (a + r * st) len

/-- A tile whose BASE or any of whose rows has the physical-site address form. -/
def Desc.phys (d : Desc) : Bool :=
  physSpan d.base 1 || (List.range d.planes).any fun p => physRows (d.rowAddr p 0) d.stride1 d.dim1 d.rowBytes

/-- The stochastic-rounding draw of element (p, r, c) of a destination (R36, R118), from the extension register. -/
def srDraw (ext : BitVec 256) (p r c : Nat) : BitVec 32 :=
  let g := fieldNat ext.toNat
  srWord (g 0 64) (g 64 32) ((g 128 64 + p * g 192 64 + r * g 96 32 + c) % 2 ^ 64)

end Sys2Proof.Machine
end

