-- ==== Sys2Proof/Machine/Issue.lean ====
section
/-! DEFINITION. The issue of a thread instruction (03 R59, R60, R67, R73; 04 R102, R103, R105, R106): everything that
all instructions share, over a body that says what this one does. -/

namespace Sys2Proof.Machine

open Host (Outcome)

/-- What the body of an instruction answers. -/
inductive Eff where
  /-- An exception at issue (R105). -/
  | exc (cause : BitVec 8)
  /-- Its unit queue is full, or another unit holds it: it stays READY (R67, R136). -/
  | hold
  /-- It waits on line `x`, which the remote-atomic unit holds (11 R367): it stays READY. -/
  | line (x : Nat)
  /-- It needs `n` sector slots and a thread slot that are not free (R73). -/
  | slots (n : Nat)
  /-- It issues, with this state; the program counter has already advanced. -/
  | done (s : State)
  deriving DecidableEq, Repr

/-- The thread can issue: READY, or in WAIT_MEM with another try, and not stopping (R60, R73). -/
def Thread.canIssue (th : Thread) : Bool :=
  (th.state == .ready || th.state == .waitMem) && th.stopping.isNone

/-- The fetch buffer marks the word at CTX_PC uncorrectable (R59). -/
def Thread.fetchBad (th : Thread) : Bool :=
  match th.fetch with
  | some b => decide (b.sector = th.pc.toNat / 32) && b.bad.getLsbD (th.pc.toNat / 8 % 4)
  | none => false

/-- Takes an exception on thread `t` of core `c` (R105). -/
def State.except (s : State) (c t : Nat) (cause : BitVec 8) (unit : BitVec 3) : State :=
  s.modThread c t fun th => Thread.except { th with state := .ready } cause unit 0

/-- The same where CTX_FAULT may give the instruction's unit no code: UNIT is then a free value (assumption 24). -/
def State.exceptAt (s : State) (c t : Nat) (cause : BitVec 8) : Option (BitVec 3) → State
  | some unit => s.except c t cause unit
  | none =>
    let f := s.takeFree
    f.2.except c t cause ((Config.freeWord f.1).extractLsb' 0 3)

/-- The state in which the body runs: the thread READY, its program counter past the instruction. -/
def State.advance (s : State) (c t : Nat) : State :=
  s.modThread c t fun th => { th with state := .ready, pc := th.pc + 8 }

/-- Applies what the body answered. -/
def State.effect (s : State) (c t : Nat) (unit : Option (BitVec 3)) : Eff → State
  | .exc cause => s.exceptAt c t cause unit
  | .hold => s
  | .line x => s.lineWait x
  | .slots n => s.modThread c t fun th => { th with state := .waitMem, memNeed := n }
  | .done s' => s'

/-- The issue of word `w` by thread `t` of core `c`; `body` gets the thread before and the advanced state. -/
def issueState (c t : Nat) (w : BitVec 64) (s : State) (body : Thread → State → Eff) : State :=
  let th := s.thread c t
  let u := unitOf (iOp w)
  if !th.canIssue || !s.awake c then s
  else if spadSize ≤ th.pc.toNat then s.except c t cPcRange 0
  else if th.fetchBad then s.except c t cEcc 0
  else if unlisted w || !legal w then s.exceptAt c t cIllegal u
  else if (sources w).any th.srcPending then s
  else if !laneGuarded (iOp w) && !th.guard w then s.advance c t
  else s.effect c t u (body th (s.advance c t))

/-- The command for a row (opcode, SUB): refused when the core or thread does not exist or the word spells another
row. -/
def issue (op sub c t : Nat) (w : BitVec 64) (s : State) (body : Thread → State → Eff) : Outcome State Fault Refusal :=
  if c < s.lcores ∧ t < 32 ∧ rowFits op sub w then .next (issueState c t w s body) else .refused .illFormed

/-- A body that only changes the thread. -/
def effThread (c t : Nat) (s : State) (f : Thread → Thread) : Eff := .done (s.modThread c t f)

/-- The thread starts a wait (WAIT_SYNC). -/
def Thread.startWait (th : Thread) (w : Wait) : Thread := { th with state := .waitSync, wait := some w }

end Sys2Proof.Machine
end

