-- ==== Sys2Proof/Machine/TensorIssue.lean ====
section
/-! DEFINITION. The issue of tensor, pump and collective-submit instructions: descriptor checks (04 R115, R117, R119,
R131 to R133, R538, R541; 05 R148, R149; 06 R168, R171, R184; 07 R202, R220, R221), queues (R136), and the operation
that enters them. -/

namespace Sys2Proof.Machine

open Host (Outcome)

/-! ## Queues -/

/-- The unit queues of a core (R136). -/
inductive UnitQ where
  | array (a : Nat)
  | sfu
  | pump
  | host
  | col
  deriving DecidableEq, Repr

def State.unitQ (s : State) (c : Nat) : UnitQ → List Nat
  | .array a => (s.arr c a).queue
  | .sfu => (s.core c).sfuQ
  | .pump => (s.core c).pumpQ
  | .host => (s.core c).hostQ
  | .col => (s.core c).colQ

/-- Queue depth (R136). -/
def UnitQ.depth : UnitQ → Nat
  | .array _ => 8
  | .sfu => 8
  | .pump => 4
  | .host => 2
  | .col => 4

def State.setUnitQ (s : State) (c : Nat) (q : UnitQ) (l : List Nat) : State :=
  match q with
  | .array a => s.modArr c a fun x => { x with queue := l }
  | .sfu => s.modCore c fun x => { x with sfuQ := l }
  | .pump => (s.modCore c fun x => { x with pumpQ := l }).syncHeads
  | .host => s.modCore c fun x => { x with hostQ := l }
  | .col => s.modCore c fun x => { x with colQ := l }

/-- The operation of an instruction word issued by thread `t` of core `c` (R63, R107, R112). -/
def mkOp (id c t : Nat) (th : Thread) (w ra rb : BitVec 64) : AsyncOp where
  id := id
  core := c
  thread := t
  pc := th.pc
  word := w
  d := th.regs.d
  ra := ra
  rb := rb
  compat := th.mode.sfuCompat
  array := th.mode.array.toNat
  mute := false

/-- Enters a queue; while it is full the instruction is not eligible to issue (R136). -/
def State.enqueue (s : State) (c t : Nat) (th : Thread) (w ra rb : BitVec 64) (q : UnitQ)
    (bad : Option (BitVec 8)) : Eff :=
  if q.depth ≤ (s.unitQ c q).length then .hold
  else match bad with
    | some e => .exc e
    | none =>
      let r := s.fresh
      let s := { r.2 with ops := r.2.ops ++ [mkOp r.1 c t th w ra rb] }
      .done (s.setUnitQ c q (s.unitQ c q ++ [r.1]))

/-! ## Descriptor checks -/

/-- Descriptor register `n` of a register set. -/
def descAt (d : Tab (BitVec 256)) (n : Nat) : Desc := descOf (Tab.get 0 d n)

/-- The first cause in the order of R106. -/
def firstCause (illegal expert form align desc pair cap : Bool) : Option (BitVec 8) :=
  if illegal then some cIllegal
  else if expert then some cExpert
  else if form then some cAddrForm
  else if align then some cAlign
  else if desc then some cDesc
  else if pair then some cPair
  else if cap then some cCap
  else none

/-- An extension register is absent or named as another operand (R117). -/
def extClash (d : Tab (BitVec 256)) (ns : List Nat) : Bool :=
  ns.any fun n => (descAt d n).ext && (n == 15 || ns.contains (n + 1))

/-- Two descriptors agree in DIM0, DIM1 and DIM2M1. -/
def Desc.sameShape (x y : Desc) : Bool := x.dim0 == y.dim0 && x.dim1 == y.dim1 && x.planes == y.planes

/-- Checks of a KIND PAGED, TREE or LIST descriptor that R115 and R168 keep; `n` bytes lie at BASE, the last of them
within 48 bits. -/
def Desc.specialBad (d : Desc) (kind n : Nat) (dest : Bool) : Bool :=
  d.kind != kind || d.reservedBad || d.extBad dest || d.scaled || d.base % 32 != 0 || decide (2 ^ 48 < d.base + n)

/-- POOL0, POOL1 and KV heads of a PAGED descriptor (R168). -/
def Desc.pool (d : Desc) (x : Nat) : Nat := fieldNat d.word (if x = 0 then 64 else 128) 48

def Desc.kvh (d : Desc) : Nat := fieldNat d.word 112 4 + 1

/-- A PAGED descriptor fails R168. What it spans is its header, 0x80 bytes: the block table's length and the pages stand
in memory (assumption 109). -/
def Desc.pagedBad (d : Desc) : Bool :=
  d.specialBad 2 0x80 false || !([1, 2, 3, 4].contains d.fmt) || d.pool 0 % 32 != 0 || d.pool 1 % 32 != 0

/-- NODES of a TREE descriptor (R184). -/
def Desc.nodes (d : Desc) : Nat := fieldNat d.word 64 7

/-- A TREE descriptor fails R184. -/
def Desc.treeBad (d : Desc) : Bool := d.specialBad 3 (8 * d.nodes) false || d.fmt != 9 || d.nodes == 0

/-- CAP and TOKREC of a LIST descriptor (R198). -/
def Desc.listCap (d : Desc) : Nat := fieldNat d.word 64 24

def Desc.tokrec (d : Desc) : Nat := fieldNat d.word 128 48

/-- A LIST descriptor of `e` experts fails R198: its counts and lists lie at BASE. -/
def Desc.listBad (d : Desc) (e : Nat) : Bool := d.specialBad 4 (32 * ceilDiv (4 * e) 32 + e * d.listCap * 8) true || d.fmt != 9 || d.listCap == 0 || d.tokrec % 32 != 0

/-- Physical-site forms in a PAGED, TREE or LIST descriptor: BASE with its `n` bytes, and the addresses POOL0, POOL1 or
TOKREC that the instruction takes from it (R95). -/
def Desc.pagedPhys (d : Desc) : Bool := physSpan d.base 0x80 || physSpan (d.pool 0) 1 || physSpan (d.pool 1) 1

def Desc.treePhys (d : Desc) : Bool := physSpan d.base (8 * d.nodes)

def Desc.listPhys (d : Desc) (e : Nat) : Bool :=
  physSpan d.base (32 * ceilDiv (4 * e) 32 + e * d.listCap * 8) || physSpan d.tokrec 1

/-- A RAW8 source of at least `n` bytes in one row: its shape. -/
def Desc.rawShapeBad (d : Desc) (n : Nat) : Bool := decide (d.dim0 < n) || d.dim1 != 1 || d.planes != 1

/-- RAW8 without scales. -/
def Desc.isRaw (d : Desc) : Bool := d.fmt == 9 && !d.scaled

/-! ## Operand pairs (02, table Operand pairs and their products) -/

/-- How an array multiplies two formats. -/
inductive Pair where
  /-- Unscaled 8-bit formats: exact in units of 2^−32. -/
  | exact
  /-- Scaled formats with product offset `f`. -/
  | scaled (f : Int)
  /-- BF16 or FP16. -/
  | half
  deriving DecidableEq, Repr

def pairOf (x y : Desc) : Option Pair :=
  if x.scaled != y.scaled then none
  else if x.scaled then
    if x.fmt = 3 ∧ y.fmt = 3 then some (.scaled (-18))
    else if (x.fmt = 3 ∧ y.fmt = 5) ∨ (x.fmt = 5 ∧ y.fmt = 3) then some (.scaled (-10))
    else if x.fmt = 5 ∧ y.fmt = 5 then some (.scaled (-2)) else none
  else if (x.fmt = 3 ∨ x.fmt = 4) ∧ (y.fmt = 3 ∨ y.fmt = 4) then some .exact
  else if x.fmt = 6 ∧ y.fmt = 6 then some .exact
  else if (x.fmt = 1 ∨ x.fmt = 2) ∧ x.fmt = y.fmt then some .half
  else none

/-- A readout may write the format (R541); `half` excludes the A96 container. -/
def Desc.readoutBad (d : Desc) (half : Bool) : Bool :=
  if d.scaled then d.fmt != 3 && d.fmt != 5
  else !([0, 1, 2, 3, 4, 6, 7, 8].contains d.fmt) || (half && d.fmt == 8)

/-- WS held K, held N, AS capacity, OS tile side, K per OS step (04, table Array capacity by format). -/
structure Caps where
  kt : Nat
  nt : Nat
  asCap : Nat
  side : Nat
  step : Nat
  deriving DecidableEq, Repr

def capsOf : Pair → Caps
  | .half => ⟨64, 64, 4096, 64, 1⟩
  | .scaled f => if f = -2 then ⟨256, 128, 32768, 128, 2⟩ else ⟨128, 128, 16384, 128, 1⟩
  | .exact => ⟨128, 128, 16384, 128, 1⟩

/-- ACC_ELEMS. -/
def accElems : Nat := 16384

/-- FLAGS of MATMUL and CONV. -/
def fClr (w : BitVec 64) : Bool := (iFlags w).testBit 0
def fRo (w : BitVec 64) : Bool := (iFlags w).testBit 1
def fStream (w : BitVec 64) : Bool := (iFlags w).testBit 2

/-- The stationary mode: 1 WS, 2 AS, 3 OS; AUTO chooses from the shapes (R133, R148). -/
def modeOf (w : BitVec 64) (conv : Bool) (p : Pair) (m k : Nat) : Nat :=
  if iMode w ≠ 0 then iMode w
  else if !conv && decide (m ≤ 16) && decide (m * k ≤ (capsOf p).asCap) then 2
  else if fStream w then 1 else 3

/-- CAP_LIMIT of MATMUL and CONV (R131, R133, R135). -/
def productCap (w : BitVec 64) (conv : Bool) (p : Pair) (m n k : Nat) : Bool :=
  (!fStream w && decide (accElems < m * n))
    || (iMode w == 2 && (decide (16 < m) || decide ((capsOf p).asCap < m * k)))
    || (modeOf w conv p m k == 1 && fStream w && decide (16384 / ceilDiv k (capsOf p).kt < n))

/-! ### The window of CONV (R119) -/

/-- A window extension. -/
structure Win where
  kw : Nat
  kh : Nat
  sw : Nat
  sh : Nat
  dw : Nat
  dh : Nat
  pl : Nat
  pr : Nat
  pt : Nat
  pb : Nat
  causal : Bool
  bad : Bool
  deriving DecidableEq, Repr

def winOf (e : BitVec 256) : Win :=
  let g := fieldNat e.toNat
  let causal := g 56 1 == 1
  { kw := g 0 4 + 1
    kh := if causal then 1 else g 4 4 + 1
    sw := g 8 4 + 1
    sh := g 12 4 + 1
    dw := g 16 4 + 1
    dh := g 20 4 + 1
    pl := if causal then g 0 4 * (g 16 4 + 1) else g 24 8
    pr := if causal then 0 else g 32 8
    pt := if causal then 0 else g 40 8
    pb := if causal then 0 else g 48 8
    causal := causal
    bad := g 57 199 != 0 || (causal && (g 4 4 != 0 || g 24 32 != 0)) }

/-- Output positions along one axis: floor((n + pads − d (k − 1) − 1) / s) + 1, 0 when the window does not fit. -/
def outLen (n pads k d s : Nat) : Nat := if n + pads < d * (k - 1) + 1 then 0 else (n + pads - d * (k - 1) - 1) / s + 1

def Win.taps (v : Win) : Nat := v.kw * v.kh

def Win.ow (v : Win) (x : Desc) : Nat := outLen x.dim1 (v.pl + v.pr) v.kw v.dw v.sw

def Win.oh (v : Win) (x : Desc) : Nat := outLen x.planes (v.pt + v.pb) v.kh v.dh v.sh

/-! ## The checks of each instruction -/

/-- A reserved RM in the destination descriptor (R32). -/
def Desc.rmBad (d : Desc) : Bool := decide (4 < d.rm)

def checkMatmul (locked : Bool) (d : Tab (BitVec 256)) (w : BitVec 64) : Option (BitVec 8) :=
  let dd := descAt d (iDd w); let da := descAt d (iDa w); let db := descAt d (iDb w)
  let out := fRo w || fStream w
  let m := da.dim1; let n := db.dim1; let k := da.dim0
  let pair := pairOf da db
  firstCause (out && dd.rmBad)
    (locked && (iMode w != 0 || da.phys || db.phys || (out && dd.phys))) false false
    (da.tensorBad false true || db.tensorBad false true || da.dim0 != db.dim0 || da.planes != 1 || db.planes != 1
      || (out && (dd.tensorBad true true || dd.dim0 != n || dd.dim1 != m || dd.planes != 1))
      || extClash d (if out then [iDd w, iDa w, iDb w] else [iDa w, iDb w]))
    (match pair with
      | none => true
      | some p => out && dd.readoutBad (p == .half))
    (match pair with
      | none => false
      | some p => productCap w false p m n k)

def checkConv (locked : Bool) (d : Tab (BitVec 256)) (w : BitVec 64) : Option (BitVec 8) :=
  let dd := descAt d (iDd w); let da := descAt d (iDa w); let db := descAt d (iDb w)
  let v := winOf (Tab.get 0 d (iDa w + 1))
  let out := fRo w || fStream w
  let ow := v.ow da; let oh := v.oh da
  let n := db.dim1 / v.taps
  let pair := pairOf da db
  firstCause (out && dd.rmBad)
    (locked && (iMode w != 0 || da.phys || db.phys || (out && dd.phys))) false false
    (da.kind != 1 || da.reservedBad || !da.ext || da.fmtBad true || da.shapeBad false || iDa w == 15 || v.bad
      || ow == 0 || oh == 0 || db.tensorBad false true || db.dim0 != da.dim0 || db.planes != 1
      || db.dim1 % v.taps != 0 || n == 0
      || (out && (dd.tensorBad true true || dd.dim0 != n || dd.dim1 != ow || dd.planes != oh))
      || extClash d (if out then [iDd w, iDa w, iDb w] else [iDa w, iDb w]))
    (match pair with
      | none => true
      | some p => out && dd.readoutBad (p == .half))
    (match pair with
      | none => false
      | some p => productCap w true p (ow * oh) n (da.dim0 * v.taps))

def checkAttend (locked : Bool) (d : Tab (BitVec 256)) (w : BitVec 64) : Option (BitVec 8) :=
  let dd := descAt d (iDd w); let da := descAt d (iDa w); let db := descAt d (iDb w); let dc := descAt d (iDc w)
  firstCause dd.rmBad (locked && (dd.phys || da.phys || db.pagedPhys || dc.phys)) false false
    (dd.tensorBad true true || da.tensorBad false true || db.pagedBad || dc.tensorBad false true
      || dd.dim0 != 128 || dd.planes != 1 || da.dim0 != 128 || da.planes != 1 || dc.rawShapeBad 64
      || extClash d [iDd w, iDa w, iDb w, iDc w])
    (da.scaled || (da.fmt != 0 && da.fmt != db.fmt) || !([0, 1, 2, 3, 4].contains dd.fmt) || !dc.isRaw)
    false

def checkAccop (locked : Bool) (d : Tab (BitVec 256)) (w : BitVec 64) : Option (BitVec 8) :=
  if iSubT w = 0 then none
  else
    let dd := descAt d (iDd w)
    firstCause dd.rmBad (locked && dd.phys) false false
      (dd.tensorBad true true || dd.planes != 1 || extClash d [iDd w]) (dd.readoutBad false)
      (decide (accElems < dd.dim0 * dd.dim1))

/-- The operand formats of R202. -/
def Desc.sfuFmtBad (d : Desc) : Bool := if d.scaled then d.fmt != 3 && d.fmt != 5 else !([0, 1, 2, 3, 4].contains d.fmt)

/-- Bias or scale operand (R220): shape and format. -/
def Desc.auxShapeBad (x da : Desc) (percol : Bool) : Bool :=
  if percol then x.dim0 != da.dim0 || x.dim1 != 1 || x.planes != 1
  else x.dim0 != 1 || x.dim1 != da.dim1 || x.planes != da.planes

def Desc.auxFmtBad (x : Desc) : Bool := x.scaled || !([0, 1, 2].contains x.fmt)

def checkSfu (locked : Bool) (d : Tab (BitVec 256)) (w : BitVec 64) : Option (BitVec 8) :=
  let dd := descAt d (iDd w); let da := descAt d (iDa w); let db := descAt d (iDb w); let dc := descAt d (iDc w)
  let fb := (iFlags w).testBit 0; let fc := (iFlags w).testBit 1; let pc := (iFlags w).testBit 2
  firstCause dd.rmBad (locked && (dd.phys || da.phys || (fb && db.phys) || (fc && dc.phys))) false false
    (dd.tensorBad true true || da.tensorBad false true || !dd.sameShape da
      || (fb && (db.tensorBad false true || db.auxShapeBad da pc))
      || (fc && (dc.tensorBad false true || dc.auxShapeBad da pc))
      || extClash d ([iDd w, iDa w] ++ (if fb then [iDb w] else []) ++ if fc then [iDc w] else []))
    (da.sfuFmtBad || dd.sfuFmtBad || (fb && db.auxFmtBad) || (fc && dc.auxFmtBad))
    false

def checkRowstat (locked : Bool) (d : Tab (BitVec 256)) (w : BitVec 64) : Option (BitVec 8) :=
  let stat := iSubT w == 0
  -- SUB 0 ignores DD.RM (R221)
  let dd := let x := descAt d (iDd w); if stat then { x with rm := 0 } else x
  let da := descAt d (iDa w)
  firstCause dd.rmBad (locked && (dd.phys || da.phys)) false false
    (dd.tensorBad true true || da.tensorBad false true
      || (if stat then decide (dd.dim0 < 32) || dd.dim1 != da.dim1 || dd.planes != da.planes else !dd.sameShape da)
      || extClash d [iDd w, iDa w])
    (da.sfuFmtBad || if stat then !dd.isRaw else dd.sfuFmtBad)
    false

def checkVerify (locked : Bool) (maxTree : Nat) (d : Tab (BitVec 256)) (w : BitVec 64) : Option (BitVec 8) :=
  let dd := descAt d (iDd w); let da := descAt d (iDa w); let db := descAt d (iDb w)
  firstCause dd.rmBad (locked && (dd.phys || da.treePhys || db.phys)) false false
    (dd.tensorBad true true || da.treeBad || db.tensorBad false true || dd.rawShapeBad 80
      || db.dim0 != 1 || db.dim1 != da.nodes || db.planes != 1 || extClash d [iDd w, iDa w, iDb w])
    (!dd.isRaw || db.fmt != 7) (decide (maxTree < da.nodes))

def checkCommit (locked : Bool) (d : Tab (BitVec 256)) (w : BitVec 64) : Option (BitVec 8) :=
  let da := descAt d (iDa w); let db := descAt d (iDb w)
  firstCause false (locked && (da.pagedPhys || db.phys)) false false
    (da.pagedBad || db.tensorBad false true || db.rawShapeBad 80 || extClash d [iDa w, iDb w]) (!db.isRaw) false

def checkSample (locked : Bool) (d : Tab (BitVec 256)) (w : BitVec 64) : Option (BitVec 8) :=
  let dd := descAt d (iDd w); let da := descAt d (iDa w); let dc := descAt d (iDc w)
  firstCause dd.rmBad (locked && (dd.phys || da.phys || dc.phys)) false false
    (dd.tensorBad true true || da.tensorBad false true || dc.tensorBad false true || da.planes != 1
      || dd.dim0 != 1 || dd.dim1 != da.dim1 || dd.planes != 1 || extClash d [iDd w, iDa w, iDc w])
    (dd.fmt != 7 || da.auxFmtBad || !dc.isRaw) (decide (2 ^ 18 < da.dim0))

def checkRoute (locked : Bool) (d : Tab (BitVec 256)) (w : BitVec 64) : Option (BitVec 8) :=
  let dd := descAt d (iDd w); let da := descAt d (iDa w); let dc := descAt d (iDc w)
  firstCause dd.rmBad (locked && (dd.listPhys da.dim0 || da.phys || dc.phys)) false false
    (dd.listBad da.dim0 || da.tensorBad false true || dc.tensorBad false true || da.planes != 1
      || extClash d [iDd w, iDa w, iDc w])
    (da.fmt != 0 || !dc.isRaw) (decide (512 < da.dim0))

/-! ## The instructions -/

/-- Issue to the array of CTX_MODE.ARRAY. -/
def tensorArray (op sub c t : Nat) (w : BitVec 64) (s : State)
    (check : Bool → Tab (BitVec 256) → BitVec 64 → Option (BitVec 8)) : Outcome State Fault Refusal :=
  issue op sub c t w s fun th s =>
    s.enqueue c t th w 0 0 (.array th.mode.array.toNat) (check (!(s.core c).unlocked) th.regs.d w)

/-- Issue to the SFU queue. -/
def tensorSfu (op sub c t : Nat) (w : BitVec 64) (s : State)
    (check : Bool → Tab (BitVec 256) → BitVec 64 → Option (BitVec 8)) : Outcome State Fault Refusal :=
  issue op sub c t w s fun th s => s.enqueue c t th w 0 0 .sfu (check (!(s.core c).unlocked) th.regs.d w)

def execMatmul (c t : Nat) (w : BitVec 64) (s : State) : Outcome State Fault Refusal :=
  tensorArray 0x70 0 c t w s checkMatmul

def execConv (c t : Nat) (w : BitVec 64) (s : State) : Outcome State Fault Refusal :=
  tensorArray 0x71 0 c t w s checkConv

def execAttend (c t : Nat) (w : BitVec 64) (s : State) : Outcome State Fault Refusal :=
  tensorArray 0x72 0 c t w s checkAttend

def execRowstatStatistics (c t : Nat) (w : BitVec 64) (s : State) : Outcome State Fault Refusal :=
  tensorSfu 0x73 0 c t w s checkRowstat

def execRowstatSoftmax (c t : Nat) (w : BitVec 64) (s : State) : Outcome State Fault Refusal :=
  tensorSfu 0x73 1 c t w s checkRowstat

def execSfu (c t : Nat) (w : BitVec 64) (s : State) : Outcome State Fault Refusal :=
  tensorSfu 0x74 0 c t w s checkSfu

def execVerify (c t : Nat) (w : BitVec 64) (s : State) : Outcome State Fault Refusal :=
  tensorSfu 0x75 0 c t w s fun l d w => checkVerify l s.maxTree d w

def execCommit (c t : Nat) (w : BitVec 64) (s : State) : Outcome State Fault Refusal :=
  tensorSfu 0x76 0 c t w s checkCommit

def execSampleGreedy (c t : Nat) (w : BitVec 64) (s : State) : Outcome State Fault Refusal :=
  tensorSfu 0x77 0 c t w s checkSample

def execSampleTopkTopp (c t : Nat) (w : BitVec 64) (s : State) : Outcome State Fault Refusal :=
  tensorSfu 0x77 1 c t w s checkSample

def execSampleTemperature (c t : Nat) (w : BitVec 64) (s : State) : Outcome State Fault Refusal :=
  tensorSfu 0x77 2 c t w s checkSample

def execRoute (c t : Nat) (w : BitVec 64) (s : State) : Outcome State Fault Refusal :=
  tensorSfu 0x78 0 c t w s checkRoute

def execAccopClr (c t : Nat) (w : BitVec 64) (s : State) : Outcome State Fault Refusal :=
  tensorArray 0x79 0 c t w s checkAccop

def execAccopRd (c t : Nat) (w : BitVec 64) (s : State) : Outcome State Fault Refusal :=
  tensorArray 0x79 1 c t w s checkAccop

def execAccopRdClr (c t : Nat) (w : BitVec 64) (s : State) : Outcome State Fault Refusal :=
  tensorArray 0x79 2 c t w s checkAccop

/-! ## Pumps and collective submit (R127, R129) -/

/-- The checks of PUMP: a TO_HOST ignores DD and a FROM_HOST ignores DA, but for the agreement of R127. -/
def checkPump (locked : Bool) (d : Tab (BitVec 256)) (w : BitVec 64) : Option (BitVec 8) :=
  let dd := descAt d (iDd w); let da := descAt d (iDa w)
  let useD := iSubP w != 1
  let useA := iSubP w != 2
  firstCause (useD && dd.rmBad) (locked && (iPsel w != 0 || (useD && dd.phys) || (useA && da.phys))) false false
    ((useD && dd.tensorBad true false) || (useA && da.tensorBad false false)
      || (useD && useA && (dd.fmt != da.fmt || dd.scaled != da.scaled || !dd.sameShape da))
      || extClash d ((if useD then [iDd w] else []) ++ if useA then [iDa w] else []))
    false false

def pumpIssue (sub c t : Nat) (w : BitVec 64) (s : State) : Outcome State Fault Refusal :=
  issue 0x60 sub c t w s fun th s =>
    s.enqueue c t th w (th.regs.getS (iRaD w)) 0 (if sub = 1 ∨ sub = 2 then .host else .pump)
      (checkPump (!(s.core c).unlocked) th.regs.d w)

def execPumpCopy (c t : Nat) (w : BitVec 64) (s : State) : Outcome State Fault Refusal := pumpIssue 0 c t w s
def execPumpToHost (c t : Nat) (w : BitVec 64) (s : State) : Outcome State Fault Refusal := pumpIssue 1 c t w s
def execPumpFromHost (c t : Nat) (w : BitVec 64) (s : State) : Outcome State Fault Refusal := pumpIssue 2 c t w s
def execPumpPut (c t : Nat) (w : BitVec 64) (s : State) : Outcome State Fault Refusal := pumpIssue 3 c t w s
def execPumpGet (c t : Nat) (w : BitVec 64) (s : State) : Outcome State Fault Refusal := pumpIssue 4 c t w s

/-- CSUB (R129): the descriptor lies at RA in the own scratchpad. -/
def execCsub (c t : Nat) (w : BitVec 64) (s : State) : Outcome State Fault Refusal :=
  issue 0x90 0 c t w s fun th s =>
    let ra := th.regs.getS (iRaC w)
    s.enqueue c t th w ra (th.regs.getS (iRbC w)) .col
      (firstCause false false (decide (spadSize < ra.toNat + 64)) (ra.toNat % 64 != 0) false false false)

end Sys2Proof.Machine
end

