-- ==== Sys2Proof/Machine/Tile.lean ====
section
/-! DEFINITION. Operand tiles: reading rows of elements and writing results through a descriptor (04 R113, R114; 02 R30,
R34), for the array, the SFU queue and ATTEND. An access error carries its cause and CTX_FAULT.DEST. -/

namespace Sys2Proof.Machine

/-- A computation on the state that may end with an error status or a start exception. -/
abbrev Run (α : Type) := Except (BitVec 8 × BitVec 4) α × State

def Run.andThen {α β : Type} (r : Run α) (f : α → State → Run β) : Run β :=
  match r with
  | (.error e, s) => (.error e, s)
  | (.ok a, s) => f a s

/-- An exception at start, with no address. -/
def Run.stop {α : Type} (cause : BitVec 8) (s : State) : Run α := (.error (cause, 0), s)

/-- Runs `f` over a list, collecting results. -/
def Run.mapList {α β : Type} (f : α → State → Run β) : List α → State → Run (List β)
  | [], s => (.ok [], s)
  | a :: as, s =>
    match f a s with
    | (.error e, s) => (.error e, s)
    | (.ok b, s) =>
      match Run.mapList f as s with
      | (.error e, s) => (.error e, s)
      | (.ok bs, s) => (.ok (b :: bs), s)

/-- A unit of core `c` reads `n` bytes. -/
def State.unitRead (s : State) (c a n : Nat) : Run Bytes :=
  match s.readMem a n 0 with
  | (.ok d, s) => (.ok d, s)
  | (.error e, s) =>
    let r := s.destVal c a
    (.error (e, r.1), r.2)

/-- A unit of core `c` writes bytes. -/
def State.unitWrite (s : State) (c a : Nat) (d : Bytes) : Run Unit :=
  match s.writeMem a d 0 with
  | (.ok _, s) => (.ok (), s)
  | (.error e, s) =>
    let r := s.destVal c a
    (.error (e, r.1), r.2)

/-- Performs outputs in turn. -/
def State.unitWrites (s : State) (c : Nat) (l : List OutW) : Run Unit :=
  match s.writeOuts l 0 with
  | (none, s) => (.ok (), s)
  | (some (e, a), s) =>
    let r := s.destVal c a
    (.error (e, r.1), r.2)

/-- Does `f` to the state where a computation stops. -/
def Run.onStop {α : Type} (r : Run α) (f : State → State) : Run α :=
  match r with
  | (.error e, s) => (.error e, f s)
  | r => r

/-- Outputs written before an error stops operation `o`, a free number of them, and free ones of their flags: the
operation ends where the failing response reaches the unit (R542; assumption 33). -/
def State.partialWrites (s : State) (o : AsyncOp) (l : List OutW) (fl : BitVec 4) : State :=
  let f := s.takeFree
  let g := f.2.takeFree
  ((g.2.unitWrites o.core (l.take ((Config.freeWord f.1).toNat % (l.length + 1)))).2).opFlags o
    (fl &&& (Config.freeWord g.1).extractLsb' 0 4)

/-- A row of codes and of block scale codes. -/
abbrev Row := List Nat × List Nat

/-- Element codes of row bytes. -/
def codesOf (fmt n : Nat) (d : Bytes) : List Nat :=
  if fmt = 5 then (List.range n).map fun i => fieldNat (d.getD (i / 2) 0).toNat (4 * (i % 2)) 4
  else (List.range n).map fun i => leField d (fmtBytes fmt * i) (fmtBytes fmt)

/-- The bytes of element codes. -/
def packCodes (fmt : Nat) (l : List Nat) : Bytes :=
  if fmt = 5 then
    (List.range ((l.length + 1) / 2)).map fun i => BitVec.ofNat 8 (l.getD (2 * i) 0 % 16 + 16 * (l.getD (2 * i + 1) 0 % 16))
  else l.flatMap (toLE (fmtBytes fmt))

/-- Reads row `r` of plane `p`: its codes and, when scaled, its scales (R114). -/
def State.readRow (s : State) (c : Nat) (d : Desc) (p r : Nat) : Run Row :=
  (s.unitRead c (d.rowAddr p r) d.dataBytes).andThen fun b s =>
    if d.scaled then
      (s.unitRead c (d.rowAddr p r + d.soff) (d.dim0 / 32)).andThen fun sc s =>
        (.ok (codesOf d.fmt d.dim0 b, sc.map BitVec.toNat), s)
    else (.ok (codesOf d.fmt d.dim0 b, []), s)

/-- Reads elements `lo` to `hi − 1` of a row, block boundaries when scaled. -/
def State.readPart (s : State) (c : Nat) (d : Desc) (p r lo hi : Nat) : Run Row :=
  let n := fmtNibbles d.fmt
  (s.unitRead c (d.rowAddr p r + lo * n / 2) ((hi - lo) * n / 2)).andThen fun b s =>
    if d.scaled then
      (s.unitRead c (d.rowAddr p r + d.soff + lo / 32) ((hi - lo) / 32)).andThen fun sc s =>
        (.ok (codesOf d.fmt (hi - lo) b, sc.map BitVec.toNat), s)
    else (.ok (codesOf d.fmt (hi - lo) b, []), s)

/-- Reads every row of a plane. -/
def State.readRows (s : State) (c : Nat) (d : Desc) : Run (List Row) :=
  Run.mapList (fun r s => s.readRow c d 0 r) (List.range d.dim1) s

/-- The values of a row, block scales applied (R29). -/
def rowVals (d : Desc) (x : Row) : List FVal :=
  if d.scaled then
    let f := if d.fmt = 5 then e2m1 else e4m3
    x.1.zipIdx.map fun e => scaledVal f e.1 (x.2.getD (e.2 / 32) 0)
  else x.1.map (decodeFmt d.fmt)

/-- Columns `lo` to `hi − 1` of row `r` of plane `p` of a destination from their values: the writes, with one rounding
each (R31 to R36), and the flags. A scaled piece starts and ends at block boundaries. -/
def outPiece (d : Desc) (ext : BitVec 256) (p r lo hi : Nat) (v : Nat → FVal) : List OutW × BitVec 4 :=
  let a := d.rowAddr p r
  let rm := (rmodeOf d.rm).getD .rne
  let dr := fun c => if rm = .sr then srDraw ext p r c else 0
  if d.scaled then
    let bs := (List.range ((hi - lo) / 32)).map fun j =>
      quantBlock d.fmt rm (fun i => dr (lo + 32 * j + i)) ((List.range 32).map fun i => v (lo + 32 * j + i))
    let w : List OutW := [⟨a + lo * fmtNibbles d.fmt / 2, packCodes d.fmt (bs.flatMap fun b => b.2.1)⟩,
      ⟨a + d.soff + lo / 32, bs.map fun b => BitVec.ofNat 8 b.1⟩]
    (w, bs.foldl (fun f b => f ||| b.2.2) 0)
  else
    let rs := (List.range (hi - lo)).map fun i => convFmt d.fmt rm (dr (lo + i)) (v (lo + i))
    ([⟨a + lo * fmtBytes d.fmt, packCodes d.fmt (rs.map Prod.fst)⟩], orFlags rs)

/-- The same columns filled with free bytes of free number `n`, from index `k` on: the next index and the writes. -/
def freePiece (d : Desc) (n k p r lo hi : Nat) : Nat × List OutW :=
  let a := d.rowAddr p r
  let len := (hi - lo) * fmtNibbles d.fmt / 2
  let fb := fun (k len : Nat) => (List.range len).map fun i => Config.freeByte n (k + i)
  let w : OutW := ⟨a + lo * fmtNibbles d.fmt / 2, fb k len⟩
  if d.scaled then
    (k + len + (hi - lo) / 32, [w, ⟨a + d.soff + lo / 32, fb (k + len) ((hi - lo) / 32)⟩])
  else (k + len, [w])

end Sys2Proof.Machine
end

