-- ==== Sys2Proof/Machine/Array.lean ====
section
/-! DEFINITION. Exact accumulation and readout in the arrays (02 R37 to R45; 05 R138, R143, R150, R152 to R154, R543),
and what MATMUL, CONV and ACCOP compute. -/

namespace Sys2Proof.Machine

/-! ## A96 (R37, R38, R42) -/

/-- The signed content of an element. -/
def Elem.int (e : Elem) : Int := e.a.toInt

/-- Adds one product to the special flags or, in units of 2^−32, to A (unscaled modes): the element, INVALID. -/
def addExact (e : Elem) (x y : FVal) : Elem × BitVec 4 :=
  let e := { e with terms := e.terms + 1 }
  match x.mul y with
  | none => ({ e with nan := true }, fpInvalid)
  | some .nan => ({ e with nan := true }, 0)
  | some (.inf s) => (if s then { e with ninf := true } else { e with pinf := true }, 0)
  | some (.fin s m q) => ({ e with a := BitVec.ofInt 96 (e.int + sgnInt s (m <<< (q + 32).toNat)) }, 0)

/-- `v` divided by 2^k, truncated toward zero, and whether non-zero bits drop. -/
def truncShift (v : Int) (k : Nat) : Int × Bool :=
  (Int.tdiv v (2 ^ k : Nat), decide (Int.tmod v (2 ^ k : Nat) ≠ 0))

/-- One block of a scaled accumulation (R38): combined scale exponent `c`, exact sum `p`; and whether bits dropped. -/
def addBlock (e : Elem) (c p : Int) (allZero : Bool) : Elem × Bool :=
  let e := { e with terms := e.terms + 32 }
  if allZero then (e, false)
  else
    let w0 := if e.empty then c else e.wexp.toInt
    let m0 := if e.empty then c else e.cmax.toInt
    let cm := max m0 c
    let lo := max (min w0 c) (cm - 16)
    let r := if w0 < lo then truncShift e.int (lo - w0).toNat else (e.int * (2 ^ (w0 - lo).toNat : Nat), false)
    let q := if lo ≤ c then (p * (2 ^ (c - lo).toNat : Nat), false) else truncShift p (lo - c).toNat
    ({ e with
        a := BitVec.ofInt 96 (r.1 + q.1)
        wexp := BitVec.ofInt 10 lo
        cmax := BitVec.ofInt 10 cm
        empty := false }, r.2 || q.2)

/-- The sum of the finite products of a block in units of 2^f, whether all are zero, and the special flags. A NaN product
adds nothing to the sum, so a block whose only other products are zero counts as all zero (assumption 102). -/
def blockSum (f : Int) : List (FVal × FVal) → Elem → Int × Bool × Elem
  | [], e => (0, true, e)
  | (x, y) :: l, e =>
    match x.mul y with
    | some (.fin s m q) =>
      let r := blockSum f l e
      (sgnInt s (m <<< (q - f).toNat) + r.1, m == 0 && r.2.1, r.2.2)
    | _ => blockSum f l { e with nan := true }

/-- One element of a scaled product: blocks of 32 in ascending order; whether bits dropped. -/
def addScaled (f : Int) (fa fb : FFmt) (x y : Row) (k : Nat) (e : Elem) : Elem × Bool :=
  (List.range (k / 32)).foldl (fun r j =>
    let sa := x.2.getD j 0
    let sb := y.2.getD j 0
    let c : Int := (sa : Int) + (sb : Int) - 254
    if sa = 0xFF ∨ sb = 0xFF then ({ r.1 with terms := r.1.terms + 32, nan := true }, r.2)
    else
      let ps := (List.range 32).map fun i =>
        (decodeF fa (x.1.getD (32 * j + i) 0), decodeF fb (y.1.getD (32 * j + i) 0))
      let b := blockSum f ps r.1
      let q := addBlock b.2.2 c b.1 b.2.1
      (q.1, r.2 || q.2)) (e, false)

/-- One FP32 step in RNE; only an invalid operation sets flags (R45). -/
def f32Step (r : Option FVal) : Nat × BitVec 4 :=
  let q := roundOp fp32 .rne 0 r
  (q.1, if q.2 &&& fpInvalid = 0 then 0 else fpInvalid ||| fpNanOut)

/-- Adds `x` to an FP32 code. -/
def f32Add (acc x : Nat) : Nat × BitVec 4 := f32Step ((decodeF fp32 acc).add .rne (decodeF fp32 x))

/-- One pass of R45 over products `ps` (FP32 codes): the pass sum. -/
def passSum : List (Nat × BitVec 4) → Nat × BitVec 4
  | [] => (0, 0)
  | p :: ps => ps.foldl (fun r q => let a := f32Add r.1 q.1; (a.1, r.2 ||| q.2 ||| a.2)) p

/-- Splits a list into passes of `n`. -/
def chunks {α : Type} (n : Nat) : Nat → List α → List (List α)
  | 0, _ => []
  | fuel + 1, l => if l.isEmpty then [] else l.take n :: chunks n fuel (l.drop n)

/-- One element of a BF16 or FP16 product from FP32 code `acc` with passes of `kp` products (R45, R543). -/
def addHalf (f : FFmt) (kp : Nat) (x y : List Nat) (acc : Nat) : Nat × BitVec 4 :=
  let ps := (x.zip y).map fun p => f32Step ((decodeF f p.1).mul (decodeF f p.2))
  (chunks kp (ps.length + 1) ps).foldl (fun r c =>
    let s := passSum c
    let a := f32Add r.1 s.1
    (a.1, r.2 ||| s.2 ||| a.2)) (acc, 0)

/-! ## Banks -/

def Bank.elem (b : Bank) (i : Nat) : Elem := Tab.get Elem.init b.elems i

def Bank.setElem (b : Bank) (i : Nat) (e : Elem) : Bank := { b with elems := Tab.set Elem.init b.elems i e }

/-- ACCOP CLR (R132). -/
def Bank.clear : Bank := Bank.init

/-- The kind of a bank once a mode has accumulated into it; modes of different kinds, among them scaled pairs with
different `f`, leave a mixture (assumption 30). -/
def BankKind.join (k m : BankKind) : BankKind :=
  match k with
  | .clear => m
  | .free => .free
  | .mixed => .mixed
  | k => if k = m then k else .mixed

/-- The exact value of an element (R37, R43). -/
def elemVal (k : BankKind) (e : Elem) : FVal :=
  match k with
  | .float => decodeF fp32 e.f32.toNat
  | _ =>
    if e.nan || (e.pinf && e.ninf) then .nan
    else if e.pinf then .inf false
    else if e.ninf then .inf true
    else (fvalOfInt e.int).scale (match k with
      | .scaled f => e.wexp.toInt + f
      | _ => -32)

/-- The A96 container of an element (R44); `fr` supplies the exponent of an element that no block has entered in a
scaled mode, which the manual does not give (assumption 31). -/
def container (k : BankKind) (inexact : Bool) (q : Int) (fr : BitVec 10) (e : Elem) : Nat :=
  let lsb : BitVec 10 := match k with
    | .scaled f => if e.empty then fr else BitVec.ofInt 10 (e.wexp.toInt + f + q)
    | _ => BitVec.ofInt 10 (-32 + q)
  e.a.toNat + lsb.toNat * 2 ^ 96 + b2n e.nan * 2 ^ 106 + b2n e.pinf * 2 ^ 107 + b2n e.ninf * 2 ^ 108
    + b2n inexact * 2 ^ 109

/-! ## Readout (R43, R44) -/

/-- A piece of the output: row, first column, end column. -/
abbrev Piece := Nat × Nat × Nat

/-- Reads pieces of a bank out to `d`, whose rows run through its planes; `n` is the output width and `fr` a free
number. A container copies NAN and sets no NAN_OUT (assumption 105). -/
def readout (d : Desc) (ext : BitVec 256) (b : Bank) (n : Nat) (q : Int) (fr : Nat) (ps : List Piece) :
    List OutW × BitVec 4 :=
  let unspecified := b.kind == .free || b.kind == .mixed
  let r := ps.foldl (fun (acc : Nat × List OutW × BitVec 4) pc =>
    let (m, lo, hi) := pc
    let p := m / d.dim1
    let row := m % d.dim1
    if unspecified then
      let f := freePiece d fr acc.1 p row lo hi
      (f.1, acc.2.1 ++ f.2, acc.2.2)
    else if d.fmt = 8 then
      let bs := (List.range (hi - lo)).flatMap fun i =>
        toLE 16 (container b.kind b.inexact q
          (BitVec.ofNat 10 ((Config.freeByte fr (2 * (m * n + lo + i))).toNat
            + 256 * (Config.freeByte fr (2 * (m * n + lo + i) + 1)).toNat)) (b.elem (m * n + lo + i)))
      (acc.1, acc.2.1 ++ [⟨d.rowAddr p row + 16 * lo, bs⟩], acc.2.2)
    else
      let o := outPiece d ext p row lo hi fun c => (elemVal b.kind (b.elem (m * n + c))).scale q
      (acc.1, acc.2.1 ++ o.1, acc.2.2 ||| o.2)) (0, [], 0)
  let fl := if unspecified then (Config.freeWord fr).extractLsb' 0 4 else r.2.2
  (r.2.1, fl ||| if b.inexact then fpInexact else 0)

/-! ## Products -/

/-- What an array instruction is found to do when it starts. -/
structure ArrOut where
  bank : Option (Nat × Bank)
  writes : List OutW
  flags : BitVec 4
  checks : List Check
  skips : Nat
  readsBank : Bool
  deriving DecidableEq, Repr

/-- Output tiles of a mode: row bounds and column bounds, in order. -/
def tilesOf (mode : Nat) (cp : Caps) (m n : Nat) : List (Nat × Nat × Nat × Nat) :=
  match mode with
  | 1 => (List.range (ceilDiv n cp.nt)).map fun j => (0, m, j * cp.nt, min n ((j + 1) * cp.nt))
  | 2 => [(0, m, 0, n)]
  | _ => (List.range (ceilDiv m cp.side)).flatMap fun i => (List.range (ceilDiv n cp.side)).map fun j =>
      (i * cp.side, min m ((i + 1) * cp.side), j * cp.side, min n ((j + 1) * cp.side))

/-- Output pieces in the order they complete (R144): rows of tiles in WS and OS, columns (or column blocks of a scaled
destination) in AS. -/
def piecesOf (mode : Nat) (cp : Caps) (m n : Nat) (scaled : Bool) : List Piece :=
  if mode = 2 then
    let g := if scaled then 32 else 1
    (List.range (n / g)).flatMap fun j => (List.range m).map fun i => (i, j * g, (j + 1) * g)
  else (tilesOf mode cp m n).flatMap fun t => (List.range (t.2.1 - t.1)).map fun i => (t.1 + i, t.2.2.1, t.2.2.2)

/-- The products of rows `a` and `b` added into bank `bk`: the bank, the elements whose accumulation dropped bits, the
flags (R37 to R45, R138). -/
def accumulate (pr : Pair) (mode : Nat) (da db : Desc) (a b : List Row) (k : Nat) (bk : Bank) :
    Bank × List Nat × BitVec 4 :=
  let n := b.length
  let fa := (ffmtOf da.fmt).getD e4m3
  let fb := (ffmtOf db.fmt).getD e4m3
  let kp := if mode = 1 then 64 else if mode = 2 then k else 1
  (a.zipIdx).foldl (fun r x => (b.zipIdx).foldl (fun (r : Bank × List Nat × BitVec 4) y =>
    let i := x.2 * n + y.2
    let e := r.1.elem i
    match pr with
    | .exact =>
      let q := (x.1.1.zip y.1.1).foldl (fun (q : Elem × BitVec 4) p =>
        let z := addExact q.1 (decodeFmt da.fmt p.1) (decodeFmt db.fmt p.2)
        (z.1, q.2 ||| z.2)) (e, 0)
      (r.1.setElem i q.1, r.2.1, r.2.2 ||| q.2)
    | .scaled f =>
      let q := addScaled f fa fb x.1 y.1 k e
      (r.1.setElem i q.1, if q.2 then i :: r.2.1 else r.2.1, r.2.2)
    | .half =>
      let q := addHalf fa kp x.1.1 y.1.1 e.f32.toNat
      (r.1.setElem i { e with f32 := BitVec.ofNat 32 q.1, terms := e.terms + k }, r.2.1, r.2.2 ||| q.2)) r)
    (bk, [], 0)

/-- R41: the accumulation would raise an element's term count above 2^24; for a bank of unspecified term counts the
outcome is a free choice `ch`. -/
def overTerms (bk : Bank) (mn k : Nat) (ch : Bool) : Bool :=
  decide (2 ^ 24 < k) ||
    if bk.kind = .free then ch else bk.elems.any fun e => decide (e.1 < mn) && decide (2 ^ 24 < e.2.terms + k)

def Pair.kind : Pair → BankKind
  | .exact => .unscaled
  | .scaled f => .scaled f
  | .half => .float

/-! ## Checks (05 R152 to R154) -/

/-- A finite value in units of 2^lsb; every other value counts as 0. -/
def unitsAt (lsb : Int) : FVal → Int
  | .fin s m e => sgnInt s (m <<< (e - lsb).toNat)
  | _ => 0

/-- The sum of FP32 codes in order, each addition rounded under RNE. -/
def f32Sum : List Nat → Nat
  | [] => 0
  | x :: l => l.foldl (fun a y => (f32Add a y).1) x

/-- The magnitude of an FP32 code. -/
def f32Abs (c : Nat) : Nat := c % 2 ^ 31

/-- R152 for 16-bit formats: |S − C| ≤ 2^−12 × max(|S|, |C|, Σ|terms|), on FP32 codes. -/
def within (s c t : Nat) : Bool :=
  s == c || match (decodeF fp32 s).add .rne (decodeF fp32 c).neg with
    | some (.fin _ m e) =>
      let d : FVal := .fin false m (e + 12)
      [f32Abs s, f32Abs c, t].any fun x => !(decodeF fp32 x).ltNum d && !(decodeF fp32 x).isNan
    | _ => false

/-- The two sides of a comparison: in exact modes integers at a common lsb, in 16-bit modes S, C and Σ|terms| as FP32
codes. -/
inductive Sides where
  | exact (s c : Int)
  | half (s c terms : Nat)
  deriving DecidableEq, Repr

def Sides.differ : Sides → Bool
  | .exact s c => s != c
  | .half s c t => !within s c t

/-- What the checks of an instruction are formed from: the operand values, the FP32 outputs of one pass in 16-bit modes,
and which outputs are kept (R154). -/
structure ChkIn where
  half : Bool
  os : Bool
  fa : FFmt
  a : Nat → Nat → FVal
  b : Nat → Nat → FVal
  ca : Nat → Nat → Nat
  cb : Nat → Nat → Nat
  keep : Nat → Nat → Bool

/-- The output (m, n) of an instruction over the reduction indices `ks`, in a 16-bit mode (R45, R543). -/
def ChkIn.out (x : ChkIn) (ks : List Nat) (m n : Nat) : Nat :=
  (addHalf x.fa (if x.os then 1 else ks.length + 1) (ks.map (x.ca m)) (ks.map (x.cb n)) 0).1

/-- Exact sum of values; none of them is infinite or NaN where the sum is used. -/
def exactSum (l : List FVal) : FVal := l.foldl (fun a v => if v.isNan || v.isInf then a else (a.add .rne v).getD a) vZero0
where
  /-- Positive zero. -/
  vZero0 : FVal := .fin false 0 0

/-- The sides of a comparison of the outputs `outs` against a line of checksum cells: cell `k` of `ks` multiplies `f k` by
the exact sum of the values `g k`. The order of additions within the FP32 sides is the model's (assumption 107). -/
def ChkIn.sides (x : ChkIn) (ks : List Nat) (outs : List (Nat × Nat)) (f : Nat → FVal) (g : Nat → List FVal) : Sides :=
  if outs.isEmpty then .exact 0 0
  else if x.half then
    let os := outs.map fun p => x.out ks p.1 p.2
    let c := ks.map fun k => (f32Step ((f k).mul (exactSum (g k)))).1
    .half (f32Sum os) (f32Sum c) (f32Sum (os.map f32Abs))
  else
    .exact ((outs.map fun p => (ks.map fun k => unitsAt (-200) (x.a p.1 k) * unitsAt (-200) (x.b p.2 k)).sum).sum)
      (ks.map fun k => unitsAt (-200) (f k) * ((g k).map (unitsAt (-200))).sum).sum

/-- Row `m` of the outputs in columns `ns` against the checksum column. -/
def ChkIn.row (x : ChkIn) (ks ns : List Nat) (m : Nat) : Sides :=
  let kept := ns.filter (x.keep m)
  x.sides ks (kept.map fun n => (m, n)) (x.a m) fun k => kept.map fun n => x.b n k

/-- Column `n` of the outputs in rows `ms` against the checksum row. -/
def ChkIn.col (x : ChkIn) (ks ms : List Nat) (n : Nat) : Sides :=
  let kept := ms.filter fun m => x.keep m n
  x.sides ks (kept.map fun m => (m, n)) (x.b n) fun k => kept.map fun m => x.a m k

/-- Two sides added: totals against the corner. -/
def Sides.add : Sides → Sides → Sides
  | .exact s c, .exact t d => .exact (s + t) (c + d)
  | .half s c x, .half t d y => .half (f32Add s t).1 (f32Add c d).1 (f32Add x y).1
  | .half s c x, .exact _ _ => .half s c x
  | .exact _ _, .half s c x => .half s c x

/-- The total of the outputs against the corner. -/
def ChkIn.total (x : ChkIn) (ks ms ns : List Nat) : Sides :=
  (ms.map (x.row ks ns)).foldl Sides.add (.exact 0 0)

/-- A line of held values summed twice: by the unit row or from the latched cells, and when it was loaded. Values that
are infinite or NaN are left out (assumption 107). -/
def ChkIn.held (x : ChkIn) (vs : List FVal) : Sides :=
  if x.half then
    let cs := (vs.filter fun v => !v.isNan && !v.isInf).map fun v => (convF fp32 .rne 0 v).1
    .half (f32Sum cs) (convF fp32 .rne 0 (exactSum vs)).1 (f32Sum (cs.map f32Abs))
  else .exact (vs.map (unitsAt (-200))).sum (unitsAt (-200) (exactSum vs))

/-- One check of the table Checks by mode: kind, the outputs it covers as row and column bounds (none for a hold check),
and its comparisons. -/
structure ChkDef where
  kind : BitVec 3
  cover : Option (Nat × Nat × Nat × Nat)
  sides : Unit → List Sides

def span (lo hi : Nat) : List Nat := (List.range (hi - lo)).map (lo + ·)

/-- The checks of an instruction, in comparison order (05, table Checks by mode). -/
def checksOf (x : ChkIn) (mode : Nat) (cp : Caps) (m n k : Nat) : List ChkDef :=
  match mode with
  | 1 => (tilesOf 1 cp m n).flatMap fun t => (List.range (ceilDiv k cp.kt)).flatMap fun j =>
      let ks := span (j * cp.kt) (min k ((j + 1) * cp.kt))
      let ns := span t.2.2.1 t.2.2.2
      ((List.range m).map fun i => ⟨0#3, some (i, i + 1, t.2.2.1, t.2.2.2), fun _ => [x.row ks ns i]⟩)
        ++ [⟨1#3, none, fun _ => ns.map (fun c => x.held (ks.map (x.b c)))
          ++ [x.held (ks.map fun r => exactSum (ns.map fun c => x.b c r))]⟩]
  | 2 =>
    let ks := List.range k
    let ns := List.range n
    [⟨2#3, none, fun _ => (List.range m).map (fun i => x.held (ks.map (x.a i)))
        ++ ks.map fun r => x.held ((List.range m).map fun i => x.a i r)⟩,
      ⟨3#3, some (0, m, 0, n), fun _ => (List.range m).map (x.row ks ns)⟩]
  | _ => (tilesOf 3 cp m n).map fun t =>
      let ks := List.range k
      let ms := span t.1 t.2.1
      let ns := span t.2.2.1 t.2.2.2
      ⟨4#3, some t, fun _ => ns.map (x.col ks ms) ++ ms.map (x.row ks ns) ++ [x.total ks ms ns]⟩

/-- Output `i` of rows of `n` is covered. -/
def ChkDef.covers (c : ChkDef) (n i : Nat) : Bool :=
  match c.cover with
  | none => false
  | some (m0, m1, n0, n1) => decide (m0 ≤ i / n) && decide (i / n < m1) && decide (n0 ≤ i % n) && decide (i % n < n1)

/-- An output left out of both sides: an element with a special flag (R154), and in 16-bit modes an infinite or NaN
element (assumption 107). -/
def leftOut (k : BankKind) (e : Elem) : Bool :=
  if k = .float then (let v := decodeF fp32 e.f32.toNat; v.isNan || v.isInf) else e.nan || e.pinf || e.ninf

/-- The check as the array holds it. -/
def ChkDef.held (c : ChkDef) (x : ChkIn) : Check :=
  { kind := c.kind
    live := match c.cover with
      | none => true
      | some (m0, m1, n0, n1) => (span m0 m1).any fun m => (span n0 n1).any (x.keep m)
    differs := (c.sides ()).any Sides.differ }

/-- A matrix product once its operands are read: `m` rows of A, `n` rows of B, checks enabled or not. Only elements that
dropped bits in this instruction skip its checks (assumption 106); a STREAM instruction that drops bits sets INEXACT in
the flags and in every container (assumption 104). -/
def product (w : BitVec 64) (pr : Pair) (conv : Bool) (dd da db : Desc) (ext : BitVec 256) (a b : List Row) (k : Nat)
    (bk : Bank) (chk : Bool) (fr : Nat) : ArrOut :=
  let m := a.length
  let n := b.length
  let mode := modeOf w conv pr m k
  let cp := capsOf pr
  let fresh := fStream w || fClr w
  let b0 := if fresh then Bank.clear else bk
  let r := accumulate pr mode da db a b k b0
  let b1 : Bank := { r.1 with kind := b0.kind.join pr.kind, inexact := b0.inexact || !r.2.1.isEmpty }
  let o := if fStream w || fRo w then
      readout dd ext b1 n (iQ w) fr (piecesOf mode cp m n dd.scaled)
    else ([], 0)
  let va := a.map (rowVals da)
  let vb := b.map (rowVals db)
  let x : ChkIn := {
    half := pr == .half
    os := mode != 1 && mode != 2
    fa := (ffmtOf da.fmt).getD e4m3
    a := fun i j => (va.getD i []).getD j .nan
    b := fun i j => (vb.getD i []).getD j .nan
    ca := fun i j => (a.getD i ([], [])).1.getD j 0
    cb := fun i j => (b.getD i ([], [])).1.getD j 0
    keep := fun i j => !leftOut pr.kind (b1.elem (i * n + j)) }
  let cs := if chk then checksOf x mode cp m n k else []
  let hit := fun (c : ChkDef) => r.2.1.any (c.covers n)
  { bank := if fStream w then none else some (iBank w, b1)
    writes := o.1
    flags := r.2.2 ||| o.2
    checks := (cs.filter fun c => !hit c).map fun c => c.held x
    skips := (cs.filter hit).length
    readsBank := !fresh && (fStream w || fRo w) }

/-! ### CONV (R119, R148 to R151) -/

/-- Elements `lo` to `hi − 1` of the input row of a tap, or zeros for a padded tap (R150). -/
def State.tapRow (s : State) (c : Nat) (d : Desc) (v : Win) (oy ox t lo hi : Nat) : Run Row :=
  let x : Int := (ox * v.sw + t % v.kw * v.dw : Nat) - (v.pl : Int)
  let y : Int := (oy * v.sh + t / v.kw * v.dh : Nat) - (v.pt : Int)
  if 0 ≤ x ∧ x < d.dim1 ∧ 0 ≤ y ∧ y < d.planes then s.readPart c d y.toNat x.toNat lo hi
  else (.ok (List.replicate (hi - lo) 0, if d.scaled then List.replicate ((hi - lo) / 32) 0x7F else []), s)

/-- Joins the rows of consecutive taps. -/
def joinRows (l : List Row) : Row := (l.flatMap Prod.fst, l.flatMap Prod.snd)

/-- The runs of elements that a reduction range takes from the taps, in ascending tap order: tap, first and end
channel. -/
def tapRuns (c lo hi : Nat) : List (Nat × Nat × Nat) :=
  (span (lo / c) (ceilDiv hi c)).map fun t => (t, max lo (t * c) - t * c, min hi ((t + 1) * c) - t * c)

/-- The rows of A gathered from parts read in some order: `parts` holds, for each read, its output row and what it read;
the reads of one row stand in ascending reduction index. -/
def gatherRows (n : Nat) (parts : List (Nat × Row)) : List Row :=
  (List.range n).map fun m => joinRows ((parts.filter fun p => p.1 == m).map Prod.snd)

/-- The A operand of a convolution: one row for each output position. In OS the generator takes the taps in order and for
each the output positions; in WS it takes the held K tiles in order, for each the output positions, and for each the
taps within the tile (R151). -/
def State.convA (s : State) (c : Nat) (d : Desc) (v : Win) (ws : Bool) (kt : Nat) : Run (List Row) :=
  let ow := v.ow d
  let n := ow * v.oh d
  let reads : List (Nat × Nat × Nat × Nat) :=
    if ws then (List.range (ceilDiv (d.dim0 * v.taps) kt)).flatMap fun j => (List.range n).flatMap fun m =>
      (tapRuns d.dim0 (j * kt) (min (d.dim0 * v.taps) ((j + 1) * kt))).map fun r => (m, r)
    else (List.range v.taps).flatMap fun t => (List.range n).map fun m => (m, t, 0, d.dim0)
  (Run.mapList (fun r s => (s.tapRow c d v (r.1 / ow) (r.1 % ow) r.2.1 r.2.2.1 r.2.2.2).andThen fun x s =>
    (.ok (r.1, x), s)) reads s).andThen fun l s => (.ok (gatherRows n l), s)

/-- The B operand: kernel row o × taps + t for channel o and tap t. -/
def kernelRows (taps n : Nat) (l : List Row) : List Row :=
  (List.range n).map fun o => joinRows (slice l (o * taps) taps)

/-! ### Starts -/

/-- MATMUL when the array begins it. -/
def State.startMatmul (s : State) (o : AsyncOp) (conv : Bool) : Run ArrOut :=
  let w := o.word
  let dd := descAt o.d (iDd w); let da := descAt o.d (iDa w); let db := descAt o.d (iDb w)
  let v := winOf (Tab.get 0 o.d (iDa w + 1))
  let ext := Tab.get 0 o.d (iDd w + 1)
  let bk := s.bank o.core o.array (iBank w)
  let pr := (pairOf da db).getD .exact
  let m := if conv then v.ow da * v.oh da else da.dim1
  let n := if conv then db.dim1 / v.taps else db.dim1
  let k := if conv then da.dim0 * v.taps else da.dim0
  let fr := s.takeFree
  let s := fr.2
  if overTerms (if fStream w || fClr w then Bank.clear else bk) (m * n) k (Config.freeBool fr.1) then
    Run.stop cAccLimit s
  else
    ((if conv then s.convA o.core da v (modeOf w conv pr m k == 1) (capsOf pr).kt else s.readRows o.core da)).andThen fun a s =>
      (s.readRows o.core db).andThen fun b s =>
        let b := if conv then kernelRows v.taps n b else b
        (.ok (product w pr conv dd da db ext a b k bk (s.arr o.core o.array).chkEn fr.1), s)

/-- ACCOP when the array begins it (R132, R541). -/
def State.startAccop (s : State) (o : AsyncOp) : Run ArrOut :=
  let w := o.word
  let dd := descAt o.d (iDd w)
  let ext := Tab.get 0 o.d (iDd w + 1)
  let bk := s.bank o.core o.array (iBank w)
  let fr := s.takeFree
  let s := fr.2
  let sub := iSubT w
  -- a bank of mixed or unspecified contents: whether it counts as 16-bit is a free choice
  let half := match bk.kind with
    | .float => true
    | .free => Config.freeBool fr.1
    | .mixed => Config.freeBool fr.1
    | _ => false
  if sub ≠ 0 ∧ dd.fmt = 8 ∧ half = true then Run.stop cPair s
  else
    let r := if sub = 0 then ([], 0) else
      readout dd ext bk dd.dim0 (iQ w) fr.1 ((List.range dd.dim1).map fun m => (m, 0, dd.dim0))
    (.ok { bank := if sub = 1 then none else some (iBank w, Bank.clear)
           writes := r.1, flags := r.2, checks := [], skips := 0, readsBank := sub ≠ 0 }, s)

end Sys2Proof.Machine
end

