-- ==== Sys2Proof/Machine/SfuMath.lean ====
section
/-! DEFINITION. The special functions to the bit (07 R206 to R219): the SFU internal format SIF, the seed tables, the
procedures, the clamp, the composed functions, and the T12 compatibility mode (R230). Irrational constants and table
entries are their mathematical values truncated to 48 significant bits, as R206 says. -/

namespace Sys2Proof.Machine

/-! ## SIF (R206) -/

/-- Rounds toward zero to SIF. -/
def sif : FVal → FVal
  | .fin s m e =>
    if m = 0 then .fin s 0 0
    else
      let l := Nat.log2 m
      let g : Int := (l : Int) + e
      if 2047 < g then .inf s
      else if g < -2046 then .fin s 0 0
      else if 47 < l then .fin s (m >>> (l - 47)) (e + ((l - 47 : Nat) : Int))
      else .fin s m e
  | v => v

/-- SIF multiplication; an invalid operation gives NaN. -/
def sMul (x y : FVal) : FVal := sif ((x.mul y).getD .nan)

/-- SIF addition. -/
def sAdd (x y : FVal) : FVal := sif ((x.add .rz y).getD .nan)

/-- Exact difference of finite values. -/
def xSub (x y : FVal) : FVal := (x.add .rz y.neg).getD .nan

def vOne : FVal := .fin false 1 0
def vTwo : FVal := .fin false 2 0
def vHalf : FVal := .fin false 1 (-1)
def vZero : FVal := .fin false 0 0

/-- floor(v × 2^k) of a finite value. -/
def floorAt (k : Int) : FVal → Int
  | .fin s m e => if 0 ≤ e + k then sgnInt s (m <<< (e + k).toNat) else sgnInt s m / ((2 ^ (-(e + k)).toNat : Nat) : Int)
  | _ => 0

/-- ceil(v) of a finite value. -/
def ceilF (v : FVal) : Int := -floorAt 0 v.neg

/-- An integer times 2^e. -/
def fvalAt (x : Int) (e : Int) : FVal := .fin (decide (x < 0)) x.natAbs e

/-- The larger value. -/
def fMax (x y : FVal) : FVal := if x.ltNum y then y else x

def fMin (x y : FVal) : FVal := if y.ltNum x then y else x

/-! ## Constants (R208, R211) -/

def sifC1 : FVal := .fin false 0xB17217F7D1CF (-48)
def sifC2 : FVal := .fin false 0xF5FDEFFC162C (-50)
def sifC3 : FVal := .fin false 0xE35846B82505 (-52)
def sifLg : FVal := .fin false 0xB8AA3B295C17 (-47)
def sifThird : FVal := .fin false 0xAAAAAAAAAAAA (-49)
def sifG1 : FVal := .fin false 0xCC42299EA1B2 (-47)
def sifG3 : FVal := .fin false 0x922279526C5A (-51)

/-- EXPTAB: 2^((k − 32) / 64), in units of 2^−48 for k below 32 and of 2^−47 from 32. -/
def expTab : List Nat :=
  [0xB504F333F9DE, 0xB6FD91E328D1, 0xB8FBAF4762FB, 0xBAFF5AB2133E,
   0xBD08A39F580C, 0xBF1799B67A73, 0xC12C4CCA6670, 0xC346CCDA2497,
   0xC5672A115506, 0xC78D74C8ABB9, 0xC9B9BD866E2F, 0xCBEC14FEF272,
   0xCE248C151F84, 0xD06333DAEF2B, 0xD2A81D91F12A, 0xD4F35AABCFED,
   0xD744FCCAD69D, 0xD99D15C278AF, 0xDBFBB797DAF2, 0xDE60F4825E0E,
   0xE0CCDEEC2A94, 0xE33F8972BE8A, 0xE5B906E77C83, 0xE8396A503C4B,
   0xEAC0C6E7DD24, 0xED4F301ED994, 0xEFE4B99BDCDA, 0xF281773C59FF,
   0xF5257D152486, 0xF7D0DF730AD1, 0xFA83B2DB722A, 0xFD3E0C0CF486] ++
  [0x800000000000, 0x8164D1F3BC03, 0x82CD8698AC2B, 0x843A28C3ACDE,
   0x85AAC367CC48, 0x871F61969E8D, 0x88980E8092DA, 0x8A14D575496E,
   0x8B95C1E3EA8B, 0x8D1ADF5B7E5B, 0x8EA4398B45CD, 0x9031DC431466,
   0x91C3D373AB11, 0x935A2B2F13E6, 0x94F4EFA8FEF7, 0x96942D372018,
   0x9837F0518DB8, 0x99E0459320B7, 0x9B8D39B9D54E, 0x9D3ED9A72CFF,
   0x9EF5326091A1, 0xA0B0510FB971, 0xA27043030C49, 0xA43515AE09E6,
   0xA5FED6A9B151, 0xA7CD93B4E965, 0xA9A15AB4EA7C, 0xAB7A39B5A93E,
   0xAD583EEA42A1, 0xAF3B78AD690A, 0xB123F581D2AC, 0xB311C412A911]

/-- LOGSEED: log2(1 + (2 k + 1) / 128) as significand and exponent. -/
def logSeed : List (Nat × Int) :=
  [(0xB7F285B77842, -54), (0x88E68EA899A0, -52), (0xE26FD5C8555A, -52), (0x9D517EE93F8E, -51),
   (0xC8C50B72319A, -51), (0xF397608BFD2D, -51), (0x8EE68CBAA95B, -50), (0xA3B54FCC1FBA, -50),
   (0xB83A16A77813, -50), (0xCC76E83BF386, -50), (0xE06DB66ECA6F, -50), (0xF4205F3A7352, -50),
   (0x83C856DD8180, -49), (0x8D602D948F83, -49), (0x96D887E26CD5, -49), (0xA03231D8D822, -49),
   (0xA96DEFE264B5, -49), (0xB28C7F233BDD, -49), (0xBB8E95D3F7D9, -49), (0xC474E3970591, -49),
   (0xCD4011C8F119, -49), (0xD5F0C3CBF8FA, -49), (0xDE87974F3C81, -49), (0xE7052491D2C3, -49),
   (0xEF69FEA211B2, -49), (0xF7B6B3994711, -49), (0xFFEBCCD41FFC, -49), (0x8404E793FB81, -48),
   (0x88089D8A9E47, -48), (0x8C01467B94BB, -48), (0x8FEF1E987409, -48), (0x93D2602C2E5F, -48)] ++
  [(0x97AB43AF59F9, -48), (0x9B79FFDB6C8B, -48), (0x9F3EC9BCFB80, -48), (0xA2F9D4C51039, -48),
   (0xA6AB52D99E76, -48), (0xAA5374652A1C, -48), (0xADF26865A8A1, -48), (0xB1885C7AA982, -48),
   (0xB5157CF2D078, -48), (0xB899F4D8AB63, -48), (0xBC15EDFEED32, -48), (0xBF89910C1678, -48),
   (0xC2F5058593D9, -48), (0xC65871DA59DD, -48), (0xC9B3FB6D0559, -48), (0xCD07C69D8702, -48),
   (0xD053F6D26089, -48), (0xD398AE817906, -48), (0xD6D60F388E41, -48), (0xDA0C39A54804, -48),
   (0xDD3B4D9CF24B, -48), (0xE0636A23E2EE, -48), (0xE384AD748F0E, -48), (0xE69F35065448, -48),
   (0xE9B31D93F98E, -48), (0xECC08321EB30, -48), (0xEFC781043579, -48), (0xF2C831E44116, -48),
   (0xF5C2AFC65447, -48), (0xF8B7140EDBB1, -48), (0xFBA577877D7D, -48), (0xFE8DF263F957, -48)]

/-- log2(1 + j / 32) for j = 1 to 31, as significand and exponent: the knots of the T12 logarithm. -/
def logKnot : List (Nat × Int) :=
  [(0xB5D69BAC77EC, -52), (0xB31FB7D64898, -51), (0x8462C466D3CF, -50), (0xAE00D1CFDEB4, -50),
   (0xD67AF16DA764, -50), (0xFDE0B5C81340, -50), (0x92203D587039, -49), (0xA4D3C25E68DC, -49),
   (0xB7110E6CE866, -49), (0xC8DDD448F8B8, -49), (0xDA3F5FB9C415, -49), (0xEB3A9F019750, -49),
   (0xFBD42B465836, -49), (0x86082806B1D5, -48), (0x8DF988F4AE80, -48), (0x95C01A39FBD6, -48),
   (0x9D5D9FD5010B, -48), (0xA4D3C25E68DC, -48), (0xAC241134C4E9, -48), (0xB35004723C46, -48),
   (0xBA58FEB2703A, -48), (0xC1404EADF383, -48), (0xC80730B00016, -48), (0xCEAECFEA8085, -48),
   (0xD53847AC00A6, -48), (0xDBA4A47AA996, -48), (0xE1F4E5170D02, -48), (0xE829FB693044, -48),
   (0xEE44CD59FFAB, -48), (0xF446359B1353, -48), (0xFA2F045E7832, -48)]

def expSeed (k : Nat) : FVal := .fin false (expTab.getD k 0) (if k < 32 then -48 else -47)

def logSeedVal (k : Nat) : FVal := let p := logSeed.getD k (0, 0); .fin false p.1 p.2

/-- Nearest integer of a / b, ties to even. -/
def rneDiv (a b : Nat) : Nat :=
  let q := a / b
  let r := a % b
  if b < 2 * r ∨ (2 * r = b ∧ q % 2 = 1) then q + 1 else q

/-- floor(√n), bit by bit from 2^b. -/
def isqrtFrom : Nat → Nat → Nat → Nat
  | 0, _, r => r
  | b + 1, n, r => isqrtFrom b n (if (r + 2 ^ b) * (r + 2 ^ b) ≤ n then r + 2 ^ b else r)

def isqrt (n : Nat) : Nat := isqrtFrom (Nat.log2 n / 2 + 1) n 0

def rcpSeed (k : Nat) : FVal := .fin false (rneDiv (4096 * 128) (129 + 2 * k)) (-12)

/-- RSQSEED: 4,096 / √a rounded, a = (65 + 2 k) / 64 or (2 k + 1) / 32; the root is never a tie. -/
def rsqSeed (k : Nat) : FVal :=
  let q := if k < 32 then 4 * 4096 * 4096 * 64 / (65 + 2 * k) else 4 * 4096 * 4096 * 32 / (2 * k + 1)
  .fin false ((isqrt q + 1) / 2) (-12)

/-! ## Refinement and clamps (R208, R214, R215) -/

/-- Applies `f` n times. -/
def iter {α : Type} : Nat → (α → α) → α → α
  | 0, _, x => x
  | n + 1, f, x => iter n f (f x)

def rcpY (m : FVal) (k steps : Nat) : FVal := iter steps (fun y => sMul y (sAdd vTwo (sMul m y).neg)) (rcpSeed k)

def rsqY (m : FVal) (k steps : Nat) : FVal :=
  iter steps (fun y => sMul (sMul y (sAdd (.fin false 3 0) (sMul m (sMul y y)).neg)) vHalf) (rsqSeed k)

/-- EXP2 of the reduced argument f in segment k. -/
def expY (f : FVal) (k steps : Nat) : FVal :=
  let r := xSub f (fvalAt ((k : Int) - 32) (-6))
  let t := expSeed k
  let y := sAdd t (sMul t (sMul sifC1 r))
  if steps = 2 then sAdd y (sMul t (sMul (sMul r r) (sAdd sifC2 (sMul sifC3 r)))) else y

/-- The largest SIF value below a value. -/
def sifPred : FVal → FVal
  | .fin s m e =>
    if m = 0 then .fin true 1 (-2046)
    else
      let l := Nat.log2 m
      let g : Int := (l : Int) + e
      let n := m <<< (47 - l)
      if s then .fin true (n + 1) (g - 47)
      else if m = 2 ^ l then .fin false (2 ^ 48 - 1) (g - 48) else .fin false (n - 1) (g - 47)
  | v => v

/-- The segment below segment `k`. -/
def segBelow (k : Nat) : Nat := (k + 63) % 64

/-- CLAMP[k] of EXP2. -/
def expClamp (k steps : Nat) : FVal :=
  let c := expY (sifPred (if k = 0 then vHalf else fvalAt ((k : Int) - 32) (-6))) (segBelow k) steps
  if k = 0 then c.scale (-1) else c

/-- EXP2 of a SIF value between −2,046 and 2,048 (R208). -/
def exp2Proc (x : FVal) (steps : Nat) : FVal :=
  let n := floorAt 0 ((x.add .rz vHalf).getD .nan)
  let f := xSub x (fvalAt n 0)
  let k := (floorAt 6 f + 32).toNat
  sif ((fMax (expY f k steps) (expClamp k steps)).scale n)

def logY (m : FVal) (k steps : Nat) : FVal :=
  iter steps (fun y => sAdd y (sMul (sAdd (sMul m (exp2Proc y.neg 2)) vOne.neg) sifLg)) (logSeedVal k)

/-- The seam into segment k of the reduced argument in [1, 2). -/
def seam1 (k : Nat) : FVal := if k = 0 then vTwo else .fin false (64 + k) (-6)

def rcpClamp (k steps : Nat) : FVal :=
  let c := rcpY (sifPred (seam1 k)) (segBelow k) steps
  if k = 0 then c.scale 1 else c

def rsqClamp (k steps : Nat) : FVal :=
  let q : FVal := if k = 0 then .fin false 4 0 else if k ≤ 32 then .fin false (32 + k) (-5) else .fin false k (-4)
  let c := rsqY (sifPred q) (segBelow k) steps
  if k = 0 then c.scale 1 else c

def logClamp (k steps : Nat) : FVal :=
  let c := logY (sifPred (seam1 k)) (segBelow k) steps
  if k = 0 then sAdd c vOne.neg else c

/-- decompose: exponent and significand in [1, 2) of a finite non-zero value. -/
def decompose (m : Nat) (e : Int) : Int × FVal := ((Nat.log2 m : Int) + e, .fin false m (-(Nat.log2 m : Int)))

def rcpProc (s : Bool) (m : Nat) (e : Int) (steps : Nat) : FVal :=
  let d := decompose m e
  if m = 2 ^ Nat.log2 m then sif (.fin s 1 (-d.1))
  else
    let k := (floorAt 6 d.2 - 64).toNat
    match (fMin (rcpY d.2 k steps) (rcpClamp k steps)).scale (-d.1) with
    | .fin _ n q => sif (.fin s n q)
    | v => v

/-- RSQRT's reduction: even exponent and significand in [1, 4). -/
def reduce4 (m : Nat) (e : Int) : Int × FVal :=
  let d := decompose m e
  if d.1 % 2 = 0 then d else (d.1 - 1, d.2.scale 1)

def rsqSeg (v : FVal) : Nat := if v.ltNum vTwo then (floorAt 5 v - 32).toNat else (floorAt 4 v).toNat

def rsqProc (m : Nat) (e : Int) (steps : Nat) : FVal :=
  let d := reduce4 m e
  if d.2.eqNum vOne then .fin false 1 (-(d.1 / 2))
  else
    let k := rsqSeg d.2
    sif ((fMin (rsqY d.2 k steps) (rsqClamp k steps)).scale (-(d.1 / 2)))

def logProc (m : Nat) (e : Int) (steps : Nat) : FVal :=
  let d := decompose m e
  if m = 2 ^ Nat.log2 m then fvalOfInt d.1
  else
    let k := (floorAt 6 d.2 - 64).toNat
    sAdd (fvalOfInt d.1) (fMax (logY d.2 k steps) (logClamp k steps))

/-- √(m × 2^e): truncated to SIF, or with so many bits and a sticky bit that every destination rounds it as it rounds
the exact root (R208, R210). -/
def sqrtProc (m : Nat) (e : Int) (trunc : Bool) : FVal :=
  let l := Nat.log2 m
  let k : Int := 200 + l - ((l : Int) + e) / 2
  let n := m <<< (e + 2 * k).toNat
  let r := isqrt n
  if trunc then sif (.fin false r (-k))
  else if r * r = n then .fin false r (-k) else .fin false (2 * r + 1) (-k - 1)

/-! ## Special values (R209, R211) -/

/-- The finite value of EXP2 for x ≥ 2,048, and the one for x ≤ −2,046, as they enter step 3 of R219. -/
def vBig : FVal := .fin false 1 1000
def vTiny : FVal := .fin false 1 (-1000)

/-- A root or logarithm of −∞ or of a negative value. -/
def invalidNan : FVal × BitVec 4 := (.nan, fpInvalid)

/-- RCP of any SIF value. -/
def rcpF (steps : Nat) : FVal → FVal
  | .nan => .nan
  | .inf s => .fin s 0 0
  | .fin s m e => if m = 0 then .inf s else rcpProc s m e steps

/-- EXP2 of any SIF value; `top`: the SFU function itself, not an inner primitive. -/
def exp2F (steps : Nat) (top : Bool) : FVal → FVal
  | .nan => .nan
  | .inf s => if s then vZero else .inf false
  | .fin s m e =>
    if m = 0 then vOne
    else if 2048 ≤ floorAt 0 (.fin s m e) then (if top then vBig else .inf false)
    else if ceilF (.fin s m e) ≤ -2046 then (if top then vTiny else vZero)
    else exp2Proc (.fin s m e) steps

/-- LOG2 of a SIF value that is not negative. -/
def log2F (steps : Nat) : FVal → FVal
  | .nan => .nan
  | .inf _ => .inf false
  | .fin _ m e => if m = 0 then .inf true else logProc m e steps

/-- The five simple functions by code: RCP, RSQRT, SQRT, EXP2, LOG2. -/
def simpleF (code steps : Nat) (truncRoot : Bool) (x : FVal) : FVal × BitVec 4 :=
  if code = 0 then (rcpF steps x, 0)
  else if code = 3 then (exp2F steps true x, 0)
  else if x.isNan then (.nan, 0)
  else if x.isNeg && !x.isZero then invalidNan
  else match code, x with
    | 1, .inf _ => (vZero, 0)
    | 1, .fin s m e => (if m = 0 then .inf s else rsqProc m e steps, 0)
    | 2, .fin s m e => (if m = 0 then .fin s 0 0 else sqrtProc m e truncRoot, 0)
    | 2, v => (v, 0)
    | _, v => (log2F steps v, 0)

/-! ## Composed functions (R211, R212, R216) -/

/-- 2^−12. -/
def vSwitch : FVal := .fin false 1 (-12)

def tanhLow (a : FVal) : FVal := sMul a (sAdd vOne (sMul (sMul a a) sifThird).neg)

/-- The value every TANH magnitude from 2^−12 is raised to (R216). -/
def tanhRaise : FVal := tanhLow (sifPred vSwitch)

def FVal.abs : FVal → FVal
  | .inf _ => .inf false
  | .fin _ m e => .fin false m e
  | .nan => .nan

def tanhF (x : FVal) : FVal :=
  let a := x.abs
  let v := if a.ltNum vSwitch then tanhLow a
    else
      let em := sAdd (exp2F 2 false (sMul (sMul vTwo a) sifLg).neg) vOne.neg
      fMax (sMul em.neg (rcpF 2 (sAdd vTwo em))) tanhRaise
  if x.isNeg then v.neg else v

def sigmoidF (x : FVal) : FVal := rcpF 2 (sAdd vOne (exp2F 2 false (sMul x sifLg).neg))

def geluF (x : FVal) : FVal := sMul x (sigmoidF (sMul x (sAdd sifG1 (sMul (sMul sifG3 x) x))))

def softU (x : FVal) : FVal := exp2F 2 false (sMul x sifLg)

def softLow (u : FVal) : FVal := sMul u (sAdd vOne (sMul u vHalf).neg)

/-- Halves the interval (lo, hi) of n such that u(−n × 2^−44) crosses 2^−12. -/
def softSearch : Nat → Nat → Nat → Nat
  | 0, _, hi => hi
  | f + 1, lo, hi =>
    let mid := (lo + hi) / 2
    if hi ≤ lo + 1 then hi
    else if (softU (.fin true mid (-44))).ltNum vSwitch then softSearch f lo mid else softSearch f mid hi

/-- The value of the lower method at the largest SIF x whose u is below 2^−12, which lies between −9 and −8 (R216). -/
def softRaise : FVal := softLow (softU (.fin true (softSearch 50 (8 * 2 ^ 44) (9 * 2 ^ 44)) (-44)))

/-- SOFTPLUS for x ≤ 0. -/
def softNeg (x : FVal) : FVal :=
  let u := softU x
  if u.ltNum vSwitch then softLow u else fMax (sMul sifC1 (log2F 2 (sAdd vOne u))) softRaise

/-- The value every SOFTPLUS result for x > 0 is raised to (R216). -/
def softRaise0 : FVal := softNeg vZero

def softplusF (x : FVal) : FVal := if x.isNeg then softNeg x else fMax (sAdd x (softNeg x.neg)) softRaise0

/-- The composed functions by code 5 to 9, special values included. -/
def composedF (code : Nat) (x : FVal) : FVal :=
  match x with
  | .nan => .nan
  | .inf s =>
    if s then (match code with
      | 5 => vOne.neg
      | 6 => vZero
      | 9 => vZero
      | _ => .fin true 0 0)
    else (match code with
      | 5 => vOne
      | 6 => vOne
      | _ => .inf false)
  | .fin s m e =>
    if m = 0 then (match code with
      | 6 => vHalf
      | 9 => sifC1
      | _ => .fin s 0 0)
    else match code with
      | 5 => tanhF (.fin s m e)
      | 6 => sigmoidF (.fin s m e)
      | 7 => sMul (.fin s m e) (sigmoidF (.fin s m e))
      | 8 => geluF (.fin s m e)
      | _ => softplusF (.fin s m e)

/-! ## T12 compatibility mode (R230; DEDUCED where its table is brief, assumption 32) -/

/-- Rounds to FP32 under RNE. -/
def r32 (v : FVal) : FVal := decodeF fp32 (convF fp32 .rne 0 v).1

def cMul (x y : FVal) : FVal := r32 ((x.mul y).getD .nan)

def cAdd (x y : FVal) : FVal := r32 ((x.add .rne y).getD .nan)

/-- The linear seed between knots P[j] and P[j + 1] at reduced argument u. -/
def cSeed (p : Nat → FVal) (u : FVal) (j : Nat) : FVal :=
  cAdd (p j) (cMul (cMul (cAdd (p (j + 1)) (p j).neg) (.fin false 32 0)) (cAdd u (fvalAt (-(j : Int)) (-5))))

/-- FP32 RNE of a / b. -/
def r32Div (a b : Nat) : FVal :=
  let n := a * 2 ^ 80
  r32 (.fin false (2 * (n / b) + b2n (n % b != 0)) (-81))

def cRcpKnot (j : Nat) : FVal := r32Div 32 (32 + j)

/-- FP32 RNE of 1 / √(a / 16). -/
def cRootKnot (a : Nat) : FVal :=
  let n := 16 * 2 ^ 160 / a
  let r := isqrt n
  r32 (.fin false (2 * r + b2n (r * r * a != 16 * 2 ^ 160)) (-81))

/-- RSQRT at reduced argument j / 32: 1 / √(1 + j / 16) below 16, 1 / √(2 + (j − 16) / 8) from 16. -/
def cRsqKnot (j : Nat) : FVal := cRootKnot (if j < 16 then 16 + j else 2 * j)

/-- 2^(j / 32) rounded to FP32. -/
def cExpKnot (j : Nat) : FVal :=
  if j = 0 then vOne
  else if j < 16 then r32 (.fin false (2 * expTab.getD (32 + 2 * j) 0 + 1) (-48))
  else if j < 32 then r32 (.fin false (2 * expTab.getD (2 * j - 32) 0 + 1) (-48)) else vTwo

def cLogKnot (j : Nat) : FVal :=
  if j = 0 then vZero
  else if j = 32 then vOne
  else let p := logKnot.getD (j - 1) (0, 0); r32 (.fin false (2 * p.1 + 1) (p.2 - 1))

def c1 : FVal := r32 sifC1
def c2 : FVal := r32 sifC2
def cLg : FVal := r32 sifLg

def cRcp : FVal → FVal
  | .nan => .nan
  | .inf s => .fin s 0 0
  | .fin s m e =>
    if m = 0 then .inf s
    else
      let d := decompose m e
      let u := xSub d.2 vOne
      let y := cSeed cRcpKnot u (floorAt 5 u).toNat
      let y := cMul y (cAdd vTwo (cMul d.2 y).neg)
      match r32 (y.scale (-d.1)) with
      | .fin _ n q => .fin s n q
      | .inf _ => .inf s
      | .nan => .nan

/-- RSQRT of a positive finite value. -/
def cRsq (m : Nat) (e : Int) : FVal :=
  let d := reduce4 m e
  let u := if d.2.ltNum vTwo then (xSub d.2 vOne).scale (-1) else d.2.scale (-2)
  let y := cSeed cRsqKnot u (floorAt 5 u).toNat
  let y := cMul (cMul y (cAdd (.fin false 3 0) (cMul d.2 (cMul y y)).neg)) vHalf
  r32 (y.scale (-(d.1 / 2)))

/-- EXP2; `top` as in `exp2F`. Its knot j is the one nearest to x − n, which is rounded to FP32 like every step: with the
knot below, the error passes the bound of R230 (assumption 32). -/
def cExp (top : Bool) (x : FVal) : FVal :=
  match r32 x with
  | .nan => .nan
  | .inf s => if s then vZero else .inf false
  | .fin s m e =>
    let v : FVal := .fin s m e
    if m = 0 then vOne
    else if 2048 ≤ floorAt 0 v then (if top then vBig else .inf false)
    else if ceilF v ≤ -2046 then (if top then vTiny else vZero)
    else
      let n := floorAt 0 v
      let g := cAdd v (fvalAt n 0).neg
      let j := (floorAt 0 (((g.scale 5).add .rz vHalf).getD .nan)).toNat
      let r := cAdd g (fvalAt j (-5)).neg
      let y := cMul (cExpKnot j) (cAdd vOne (cMul r (cAdd c1 (cMul r c2))))
      r32 (y.scale n)

/-- LOG2 of a value that is not negative. -/
def cLog : FVal → FVal
  | .nan => .nan
  | .inf _ => .inf false
  | .fin _ m e =>
    if m = 0 then .inf true
    else
      let d := decompose m e
      let u := xSub d.2 vOne
      let y := cSeed cLogKnot u (floorAt 5 u).toNat
      let y := cAdd y (cMul (cAdd (cMul d.2 (cExp false y.neg)) vOne.neg) cLg)
      cAdd (fvalOfInt d.1) y

/-- The largest FP32 value below a positive FP32 value. -/
def f32Below (v : FVal) : FVal := decodeF fp32 ((convF fp32 .rne 0 v).1 - 1)

def cSigmoid (x : FVal) : FVal := cRcp (cAdd vOne (cExp false (cMul x cLg).neg))

/-- The input of SILU's step-back, 0x3FA2_5E9F (R231). -/
def siluSeam : Nat := 0x3FA25E9F

/-- SILU: at the input of the step-back the result is 1 ulp below that of the next smaller FP32 input (R231; assumption
32). -/
def cSilu (x : FVal) : FVal :=
  if x = decodeF fp32 siluSeam then
    let y := decodeF fp32 (siluSeam - 1)
    f32Below (cMul y (cSigmoid y))
  else cMul x (cSigmoid x)

/-- Every function by code, special values as in the other mode. -/
def compatF (code : Nat) (x : FVal) : FVal × BitVec 4 :=
  if x.isNan then (.nan, 0)
  else if code = 0 then (cRcp x, 0)
  else if code = 3 then (cExp true x, 0)
  else if code < 5 then
    if x.isNeg && !x.isZero then invalidNan
    else match code, x with
      | 1, .inf _ => (vZero, 0)
      | 1, .fin s m e => (if m = 0 then .inf s else cRsq m e, 0)
      | 2, .fin s m e => (if m = 0 then .fin s 0 0 else cMul (.fin s m e) (cRsq m e), 0)
      | 2, v => (v, 0)
      | _, v => (cLog v, 0)
  else match x with
    | .fin s m e =>
      if m = 0 then (composedF code x, 0)
      else
        let x : FVal := .fin s m e
        match code with
        | 5 => (cAdd vOne (cMul vTwo (cRcp (cAdd vOne (cExp false (cMul (cMul vTwo x) cLg))))).neg, 0)
        | 6 => (cSigmoid x, 0)
        | 7 => (cSilu (r32 x), 0)
        | 8 => (cMul x (cSigmoid (cMul x (cAdd (r32 sifG1) (cMul (cMul (r32 sifG3) x) x)))), 0)
        | _ => (cMul c1 (cLog (cAdd vOne (cExp false (cMul x cLg)))), 0)
    | v => (composedF code v, 0)

/-! ## The fused form (R219) -/

/-- INVALID of an addition or multiplication that gives NaN from no NaN. -/
def badFlag (r : Option FVal) : BitVec 4 := if r.isNone then fpInvalid else 0

/-- The value before the last conversion: `fp32dest` selects the steps (R207), `sr` the root under SR. -/
def sfuValue (code : Nat) (compat fp32dest sr : Bool) (x : FVal) (bias scale : Option FVal) : FVal × BitVec 4 :=
  let sum := match bias with
    | none => some x
    | some b => x.add .rz b
  let t0 := sum.getD .nan
  let scaled := fun v => match scale with
    | none => v
    | some k => if code == 3 && v == vBig && k.isZero then vZero else (k.mul v).getD .nan
  let bad := fun v => match scale with
    | none => 0
    | some k => badFlag (k.mul v)
  if compat then
    let t := match bias with
      | none => x
      | some b => r32 ((x.add .rne b).getD .nan)
    let v := compatF code t
    -- the finite extremes of EXP2 enter the scale multiplication as they are
    let w := scaled v.1
    let sumBig := x.isFin && ((bias.map FVal.isFin).getD true) && t.isInf
    let resBig := t.isFin && !t.isZero && v.1.isInf
    let outBig := v.1.isFin && ((scale.map FVal.isFin).getD true) && (r32 w).isInf
    (r32 w, badFlag sum ||| v.2 ||| bad v.1 ||| if sumBig || resBig || outBig then fpOverflow else 0)
  else
    let t := match bias with
      | none => x
      | some _ => sif t0
    let v := if code < 5 then simpleF code (if fp32dest then 2 else 1) (sr || scale.isSome) t else (composedF code t, 0)
    (match scale with
      | none => v.1
      | some _ => sif (scaled v.1), badFlag sum ||| v.2 ||| bad v.1)

/-- A special function inside ATTEND, SAMPLE or ROUTE: FP32 code of its result under RNE (R176, R207). -/
def sfu32 (code : Nat) (compat : Bool) (x : FVal) : Nat := (convF fp32 .rne 0 (sfuValue code compat true false x none none).1).1

/-- The exponential evaluators of ROWSTAT SUB 1 (R229). -/
def evalExp2 (compat : Bool) (y : FVal) : FVal := if compat then cExp false y else exp2F 2 false y

def evalRcp (compat : Bool) (y : FVal) : FVal := if compat then cRcp y else rcpF 2 y

end Sys2Proof.Machine
end

