-- ==== Sys2Proof/Machine/SfuOps.lean ====
section
/-! DEFINITION. What the instructions of the SFU queue compute when the unit begins them: SFU (07 R201 to R219), ROWSTAT
(R221 to R228), VERIFY and COMMIT (06 R184 to R187), SAMPLE (R193 to R196) and ROUTE (R197 to R199). Their outputs are
written when they complete. -/

namespace Sys2Proof.Machine

/-- What an instruction of the SFU queue will write, and its flags. -/
abbrev SfuOut := List OutW × BitVec 4

/-- Runs `f` over a list, threading a value. -/
def Run.foldList {α β : Type} (f : β → α → State → Run β) : β → List α → State → Run β
  | b, [], s => (.ok b, s)
  | b, a :: as, s =>
    match f b a s with
    | (.error e, s) => (.error e, s)
    | (.ok b, s) => Run.foldList f b as s

/-- All (plane, row) pairs of a tile. -/
def Desc.rowsOf (d : Desc) : List (Nat × Nat) :=
  (List.range d.planes).flatMap fun p => (List.range d.dim1).map fun r => (p, r)

/-! ## Overlap of a destination with an operand (R205) -/

/-- A device address lies in the rows of a tile, by the memory it names. -/
def State.inTile (s : State) (d : Desc) (a : Nat) : Bool :=
  d.rowsOf.any fun x =>
    let k := s.canon (d.rowAddr x.1 x.2)
    decide (k ≤ s.canon a) && decide (s.canon a < k + d.rowBytes)

/-- Two descriptors name exactly the same tile. -/
def Desc.sameTile (x y : Desc) : Bool :=
  x.base == y.base && x.fmt == y.fmt && x.scaled == y.scaled && x.sameShape y && x.stride1 == y.stride1
    && x.stride2 == y.stride2 && (!x.scaled || x.soff == y.soff)

/-- Outputs of `unit` bytes each, any byte of which lies in an operand, get free values. -/
def State.overlapFree (s : State) (unit : Nat) (ds : List Desc) (ws : List OutW) : List OutW × State :=
  if ds.isEmpty then (ws, s)
  else
    let fr := s.takeFree
    let hit := fun (w : OutW) (i : Nat) => (List.range unit).any fun j =>
      let k := i / unit * unit + j
      decide (k < w.data.length) && ds.any fun d => s.inTile d (w.addr + k)
    (ws.zipIdx.map fun w => { w.1 with data := w.1.data.zipIdx.map fun b =>
      if (hit w.1 b.2) = true then Config.freeByte fr.1 (2 ^ 32 * w.2 + b.2) else b.1 }, fr.2)

/-- Whether any byte of the destination rows lies in the rows of an operand. -/
def State.meets (s : State) (x y : Desc) : Bool :=
  x.rowsOf.any fun a => y.rowsOf.any fun b =>
    let k := s.canon (x.rowAddr a.1 a.2)
    let j := s.canon (y.rowAddr b.1 b.2)
    decide (k < j + y.rowBytes) && decide (j < k + x.rowBytes)

/-- The operands that a destination overlaps in a way that R205 does not allow. -/
def State.clashes (s : State) (dd da : Desc) (aux : List Desc) : List Desc :=
  (if dd.sameTile da then [] else [da].filter (s.meets dd)) ++ aux.filter (s.meets dd)

/-! ## SFU -/

/-- The columns of a row of `n` elements that starts at element `start` of the tile, cut into lane groups of 64
consecutive elements in row-major order (R203). -/
def groupCuts (start n : Nat) : List (Nat × Nat) :=
  let h := min n (64 - start % 64)
  (0, h) :: (List.range (ceilDiv (n - h) 64)).map fun i => (h + 64 * i, min n (h + 64 * (i + 1)))

/-- The outputs of row `r` of plane `p`, lane group by lane group. -/
def rowGroups (d : Desc) (ext : BitVec 256) (p r : Nat) (v : Nat → FVal) : SfuOut :=
  (groupCuts ((p * d.dim1 + r) * d.dim0) d.dim0).foldl (fun acc c =>
    let o := outPiece d ext p r c.1 c.2 v
    (acc.1 ++ o.1, acc.2 ||| o.2)) ([], 0)

/-- The bias or scale values of a row. -/
def State.auxRow (s : State) (c : Nat) (d : Desc) (used percol : Bool) (p r : Nat) : Run (List FVal) :=
  if !used then (.ok [], s)
  else (if percol then s.readRow c d 0 0 else s.readRow c d p r).andThen fun x s => (.ok (rowVals d x), s)

/-- The auxiliary value of a column. -/
def auxAt (l : List FVal) (used percol : Bool) (i : Nat) : Option FVal :=
  if used then some (l.getD (if percol then i else 0) .nan) else none

/-- A read error stops an operation whose outputs so far are `acc`. -/
def State.stopOuts (o : AsyncOp) (unit : Nat) (bad : List Desc) (acc : SfuOut) (s : State) : State :=
  let f := s.overlapFree unit bad acc.1
  f.2.partialWrites o f.1 acc.2

def State.startSfu (s : State) (o : AsyncOp) : Run SfuOut :=
  let w := o.word
  let dd := descAt o.d (iDd w); let da := descAt o.d (iDa w); let db := descAt o.d (iDb w); let dc := descAt o.d (iDc w)
  let fb := (iFlags w).testBit 0; let fc := (iFlags w).testBit 1; let pc := (iFlags w).testBit 2
  let ext := Tab.get 0 o.d (iDd w + 1)
  let bad := s.clashes dd da ((if fb then [db] else []) ++ if fc then [dc] else [])
  (Run.foldList (fun (acc : SfuOut) x s =>
    ((s.readRow o.core da x.1 x.2).andThen fun row s =>
      (s.auxRow o.core db fb pc x.1 x.2).andThen fun bs s =>
        (s.auxRow o.core dc fc pc x.1 x.2).andThen fun cs s =>
          let vs := (rowVals da row).zipIdx.map fun v =>
            sfuValue (iSubT w) o.compat (dd.fmt == 0) (dd.rm == 4) v.1 (auxAt bs fb pc v.2) (auxAt cs fc pc v.2)
          let out := rowGroups dd ext x.1 x.2 fun i => (vs.getD i (.nan, 0)).1
          ((.ok (acc.1 ++ out.1, acc.2 ||| out.2 ||| orFlags vs), s) : Run SfuOut)).onStop
      (State.stopOuts o (fmtBytes dd.fmt) bad acc)) ([], 0) da.rowsOf s).andThen fun r s =>
    let f := s.overlapFree (fmtBytes dd.fmt) bad r.1
    (.ok (f.1, r.2), f.2)

/-! ## ROWSTAT -/

/-- ceil(log2 n) for n at least 1. -/
def ceilLog2 (n : Nat) : Nat := if n ≤ 1 then 0 else Nat.log2 (n - 1) + 1

/-- The value x / 2^(t − 127) truncated toward zero, and whether bits drop (R46, R222). -/
def windowOf (t : Int) : FVal → Int × Bool
  | .fin s m e =>
    let k := e - (t - 127)
    if 0 ≤ k then (sgnInt s (m <<< k.toNat), false)
    else (sgnInt s (m >>> (-k).toNat), decide (m % 2 ^ (-k).toNat ≠ 0))
  | _ => (0, false)

/-- The largest exponent of the finite non-zero values, at least −126. -/
def emaxOf (vs : List FVal) : Int := vs.foldl (fun g v => match v with
  | .fin _ m e => if m = 0 then g else max g (flog2 m e)
  | _ => g) (-126)

/-- a × 2^e / b with a sticky bit: it rounds as the exact quotient does. -/
def divSticky (s : Bool) (a : Nat) (e : Int) (b : Nat) : FVal :=
  let n := a <<< 256
  .fin s (2 * (n / b) + b2n (n % b != 0)) (e - 257)

/-- The record of a row (R222 to R225). -/
def rowstatRecord (vs : List FVal) : Bytes × BitVec 4 :=
  let n := vs.length
  let fins := vs.filter fun v => !v.isNan && !v.isInf
  let nan := vs.any FVal.isNan
  let pinf := vs.any fun v => v.isInf && !v.isNeg
  let ninf := vs.any fun v => v.isInf && v.isNeg
  let emax := emaxOf vs
  let t := emax + (ceilLog2 n : Int) + 1
  let ws := fins.map (windowOf t)
  let s : Int := ws.foldl (fun a w => a + w.1) 0
  let q : Nat := ws.foldl (fun a w => a + (w.1 * w.1).toNat) 0
  let d := n * q - s.natAbs * s.natAbs
  let neg0 := vs.all fun v => v.isZero && v.isNeg
  let mx := match fins with
    | [] => FVal.inf true
    | x :: xs => xs.foldl (fun a b => if a.ltTot b then b else a) x
  let sneg := if s = 0 then neg0 else decide (s < 0)
  let bad := nan || (pinf && ninf)
  let sum : FVal := if bad then .nan else if pinf then .inf false else if ninf then .inf true
    else .fin sneg s.natAbs (t - 127)
  let mean : FVal := if bad then .nan else if pinf then .inf false else if ninf then .inf true
    else divSticky sneg s.natAbs (t - 127) n
  let sumsq : FVal := if nan then .nan else if pinf || ninf then .inf false else .fin false q (2 * t - 254)
  let var : FVal := if nan || pinf || ninf then .nan else divSticky false d (2 * t - 254) (n * n)
  let max : FVal := if nan then .nan else if pinf then .inf false else mx
  let rs := [sum, sumsq, max, mean, var].map (convF fp32 .rne 0)
  let flags := b2n nan + 2 * b2n pinf + 4 * b2n ninf + 8 * b2n (ws.any Prod.snd) + 16 * b2n neg0
  (rs.flatMap (fun r => toLE 4 r.1) ++ toLE 4 fins.length ++ toLE 2 (wrapInt 16 emax) ++ [BitVec.ofNat 8 flags]
    ++ List.replicate 5 0#8, orFlags rs)

/-- Pass 1 of the row softmax over chunks of 64 (R227): reference and sum. -/
def softPass1 (compat : Bool) : List (List FVal) → Option Int × Nat → Option Int × Nat
  | [], r => r
  | c :: cs, r =>
    let zs := (c.filter fun v => !v.isNan && !v.isInf).map fun v => sMul v sifLg
    match zs with
    | [] => softPass1 compat cs r
    | z :: zt =>
      let rc := ceilF (zt.foldl fMax z)
      let ref := match r.1 with
        | none => rc
        | some x => max x rc
      let a := match r.1 with
        | none => 0
        | some x => r.2 >>> (ref - x).toNat
      let a := zs.foldl (fun a z =>
        let y := floorAt 40 z - ref * 2 ^ 40
        if y < -160 * 2 ^ 40 then a else a + (floorAt 200 (evalExp2 compat (fvalAt y (-40)))).toNat) a
      softPass1 compat cs (some ref, a)

/-- The outputs of a row before the conversion to DD's format; in the compatibility mode each product is an FP32 result
first (R227, R228, R230). -/
def softmaxRow (compat : Bool) (vs : List FVal) : List FVal :=
  let p1 := softPass1 compat (chunks64 vs.length vs) (none, 0)
  match p1.1 with
  | none => vs.map fun _ => .nan
  | some ref =>
    if vs.any fun v => v.isNan || (v.isInf && !v.isNeg) then vs.map fun _ => .nan
    else
      let lf := decodeF fp32 (convF fp32 .rne 0 (.fin false p1.2 (-200))).1
      let r := evalRcp compat lf
      vs.map fun v =>
        if v.isInf then vZero
        else
          let y := floorAt 40 (sMul v sifLg) - ref * 2 ^ 40
          if y < -160 * 2 ^ 40 then vZero
          else
            let p := ((evalExp2 compat (fvalAt y (-40))).mul r).getD .nan
            if compat then r32 p else p
where
  /-- Chunks of 64 elements. -/
  chunks64 : Nat → List FVal → List (List FVal)
    | 0, _ => []
    | f + 1, l => if l.isEmpty then [] else l.take 64 :: chunks64 f (l.drop 64)

def State.startRowstat (s : State) (o : AsyncOp) : Run SfuOut :=
  let w := o.word
  let dd := descAt o.d (iDd w); let da := descAt o.d (iDa w)
  let ext := Tab.get 0 o.d (iDd w + 1)
  let bad := s.clashes dd da []
  let unit := if iSubT w = 0 then dd.dim0 else fmtBytes dd.fmt
  (Run.foldList (fun (acc : SfuOut) x s =>
    ((s.readRow o.core da x.1 x.2).andThen fun row s =>
      let vs := rowVals da row
      if iSubT w = 0 then
        let rec' := rowstatRecord vs
        ((.ok (acc.1 ++ [⟨dd.rowAddr x.1 x.2, rec'.1 ++ List.replicate (dd.dim0 - 32) 0#8⟩], acc.2 ||| rec'.2), s)
          : Run SfuOut)
      else
        let ps := softmaxRow o.compat vs
        let out := rowGroups dd ext x.1 x.2 fun i => ps.getD i .nan
        (.ok (acc.1 ++ out.1, acc.2 ||| out.2), s)).onStop (State.stopOuts o unit bad acc)) ([], 0) da.rowsOf s).andThen
    fun r s =>
      let f := s.overlapFree unit bad r.1
      (.ok (f.1, r.2), f.2)

/-! ## VERIFY and COMMIT -/

/-- The walk of R186 from node `cur`: the path after it, and the last node. -/
def verifyWalk (par tok tgt : List Nat) : Nat → Nat → List Nat × Nat
  | 0, cur => ([], cur)
  | fuel + 1, cur =>
    match (List.range tok.length).find? fun i => par.getD i 0 == cur && tok.getD i 0 == tgt.getD cur 0 with
    | none => ([], cur)
    | some c =>
      let r := verifyWalk par tok tgt fuel c
      (c :: r.1, r.2)

def State.startVerify (s : State) (o : AsyncOp) : Run SfuOut :=
  let w := o.word
  let dd := descAt o.d (iDd w); let da := descAt o.d (iDa w); let db := descAt o.d (iDb w)
  let n := da.nodes
  (s.unitRead o.core da.base (8 * n)).andThen fun b s =>
    let tok := (List.range n).map fun i => leField b (8 * i) 4
    let par := (List.range n).map fun i => leField b (8 * i + 4) 1
    let dep := (List.range n).map fun i => leField b (8 * i + 5) 1
    let bad := ((List.range n).any fun i => leField b (8 * i + 6) 2 != 0) || par.getD 0 0 != 0xFF || dep.getD 0 0 != 0
      || ((List.range n).any fun i => decide (i ≠ 0) &&
        (decide (i ≤ par.getD i 0) || dep.getD i 0 != dep.getD (par.getD i 0) 0 + 1))
    if bad then Run.stop cDesc s
    else
      (s.readRows o.core db).andThen fun rows s =>
        let tgt := rows.map fun r => r.1.getD 0 0
        let r := verifyWalk par tok tgt n 0
        let path := 0 :: r.1
        let d := toLE 4 path.length ++ toLE 4 (tgt.getD r.2 0) ++ List.replicate 8 0#8
          ++ path.map (BitVec.ofNat 8) ++ List.replicate (64 - path.length) 0xFF#8
        (.ok ([⟨dd.base, d⟩], 0), s)

/-- The sequence header (R170): CLEN, BTLEN, MOVES. Bytes 0x00 to 0x07 are one access; the reserved bytes 0x08 to 0x3F
are read after it and checked (R172). -/
def State.readHeader (s : State) (c : Nat) (d : Desc) : Run (Nat × Nat × Nat) :=
  (s.unitRead c d.base 8).andThen fun b s =>
    let clen := leField b 0 4
    let btlen := leField b 4 2
    let moves := leField b 6 1
    if btlen = 0 ∨ 16384 < btlen ∨ btlen * 128 < clen then Run.stop cAddrInvalid s
    else
      (s.unitRead c (d.base + 8) 0x38).andThen fun r s =>
        if leField b 7 1 ≠ 0 ∨ 64 < moves ∨ (r.any fun x => x != 0) then Run.stop cDesc s
        else (.ok (clen, btlen, moves), s)

/-- Header bytes 0x00 to 0x07. -/
def headerBytes (clen btlen moves : Nat) : Bytes := toLE 4 clen ++ toLE 2 btlen ++ toLE 1 moves ++ [0#8]

def State.startCommit (s : State) (o : AsyncOp) : Run SfuOut :=
  let w := o.word
  let da := descAt o.d (iDa w); let db := descAt o.d (iDb w)
  (s.readHeader o.core da).andThen fun h s =>
    (s.unitRead o.core db.base 80).andThen fun b s =>
      let acc := leField b 0 4
      if h.2.2 ≠ 0 ∨ acc = 0 ∨ 64 < acc ∨ h.2.1 * 128 < h.1 + acc ∨ leField b 8 8 ≠ 0 then Run.stop cDesc s
      else
        let path := slice b 16 acc
        let same := (List.range acc).all fun j => (path.getD j 0).toNat == j
        (.ok ([⟨da.base + 0x40, path⟩, ⟨da.base, headerBytes (h.1 + acc) h.2.1 (if same then 0 else acc)⟩], 0), s)

/-! ## SAMPLE -/

/-- FP32 product and difference under RNE. -/
def fMul (x y : FVal) : FVal := r32 ((x.mul y).getD .nan)

def fAdd (x y : FVal) : FVal := r32 ((x.add .rne y).getD .nan)

def fSub (x y : FVal) : FVal := fAdd x y.neg

/-- An FP32 result with its flags. -/
abbrev FlagVal := FVal × BitVec 4

/-- Rounds to FP32 under RNE; an invalid operation gives NaN and INVALID. -/
def flagged (r : Option FVal) : FlagVal := (r32 (r.getD .nan), badFlag r)

def vMul (x y : FVal) : FlagVal := flagged (x.mul y)
def vAdd (x y : FVal) : FlagVal := flagged (x.add .rne y)

/-- log2 e as FP32 (R193). -/
def l2e32 : FVal := decodeF fp32 0x3FB8AA3B

/-- The first candidate whose running sum exceeds `t`. -/
def firstOver (t : Nat) : List (Nat × Nat) → Nat → Option Nat
  | [], _ => none
  | (i, p) :: l, c => if t < c + p then some i else firstOver t l (c + p)

/-- The shortest non-empty prefix whose running sum C meets C × 2^32 ≥ tp × S. -/
def topP (bound : Nat) : List (Nat × Nat) → Nat → List (Nat × Nat)
  | [], _ => []
  | x :: l, c => if bound ≤ (c + x.2) * 2 ^ 32 then [x] else x :: topP bound l (c + x.2)

/-- Index of the largest value, least index on ties. -/
def argMax : List (Nat × FVal) → Option (Nat × FVal)
  | [] => none
  | x :: l => match argMax l with
    | none => some x
    | some y => if x.2.ltNum y.2 then some y else some x

/-- Orders by value descending, then by index. -/
def valueOrder (x y : Nat × FVal) : Bool := y.2.ltNum x.2 || (x.2.eqNum y.2 && decide (x.1 ≤ y.1))

/-- The token of a row (R193, R194); `draw` gives the 64-bit generator word. None when no logit can be selected. -/
def sampleRow (sub : Nat) (compat : Bool) (it : FVal) (topk : Nat) (topp : FVal) (draw : Nat) (lg : List FVal) :
    Option Nat :=
  let ok := (lg.zipIdx.map fun v => (v.2, v.1)).filter fun v => !v.2.isNan
  if sub = 0 then (argMax (ok.filter fun v => !(v.2.isInf && v.2.isNeg))).map Prod.fst
  else
    let z := ok.map fun v => (v.1, fMul v.2 it)
    match z.find? fun v => v.2.isInf && !v.2.isNeg with
    | some v => some v.1
    | none =>
      let cand := if sub = 1 then (z.mergeSort valueOrder).take topk else z
      match argMax (cand.filter fun v => !v.2.isInf) with
      | none => none
      | some mx =>
        let pf := cand.map fun v => (v.1, if v.2.isInf then 0
          else (floorAt 40 (decodeF fp32 (sfu32 3 compat (fMul (fSub v.2 mx.2) l2e32)))).toNat)
        let sum := pf.foldl (fun a x => a + x.2) 0
        let pf := if sub = 1 ∧ topp.ltNum vOne then topP ((floorAt 32 topp).toNat * sum) pf 0 else pf
        let sum2 := pf.foldl (fun a x => a + x.2) 0
        firstOver (draw * sum2 / 2 ^ 64) pf 0

/-- A 48-bit address field with its alignment (R172). -/
def badAddr (a align : Nat) : Bool := decide (2 ^ 48 ≤ a) || a % align != 0

/-- FP32 code of a positive finite value. -/
def posFinite (v : FVal) : Bool := !v.isNan && !v.isInf && !v.isNeg && !v.isZero

def State.startSample (s : State) (o : AsyncOp) : Run SfuOut :=
  let w := o.word
  let dd := descAt o.d (iDd w); let da := descAt o.d (iDa w); let dc := descAt o.d (iDc w)
  let sub := iSubT w
  (s.unitRead o.core dc.base 64).andThen fun b s =>
    let seed := leField b 0 8; let seq := leField b 8 8; let pos0 := leField b 0x10 4
    let topk := leField b 0x14 2
    let topp := decodeF fp32 (leField b 0x18 4)
    let it := decodeF fp32 (leField b 0x1C 4)
    let pa := leField b 0x20 8
    if leField b 0x16 2 ≠ 0 ∨ leField b 0x28 24 ≠ 0 ∨ badAddr pa 4 = true
        ∨ (sub = 1 ∧ (topk = 0 ∨ posFinite topp = false ∨ vOne.ltNum topp = true)) ∨ (sub ≠ 0 ∧ posFinite it = false) then
      Run.stop cDesc s
    else if sub = 1 ∧ 256 < topk then Run.stop cCap s
    else
      Run.foldList (fun (acc : SfuOut) r s =>
        (s.readRow o.core da 0 r).andThen fun row s =>
          (if pa = 0 ∨ sub = 0 then ((.ok (toLE 4 (pos0 + r)), s) : Run Bytes) else s.unitRead o.core (pa + 4 * r) 4 : Run Bytes).andThen fun pb s =>
            let g := philox seed (fromLE pb) (seq % 2 ^ 32) (seq / 2 ^ 32) 0x534D504C
            let tok := sampleRow sub o.compat it topk topp (g.2.1 * 2 ^ 32 + g.1) (rowVals da row)
            (.ok (acc.1 ++ [⟨dd.rowAddr 0 r, toLE 4 (tok.getD 0xFFFFFFFF)⟩],
              acc.2 ||| if tok.isNone then fpInvalid else 0), s)) ([], 0) (List.range da.dim1) s

/-! ## ROUTE -/

/-- Sum in list order, each addition rounded. -/
def fSum : List FVal → FVal
  | [] => vZero
  | x :: l => l.foldl fAdd x

/-- The scores of a token (R197, step 1). -/
def routeScores (sigmoid compat : Bool) (lg : List FVal) : List FVal :=
  let f := fun code v => decodeF fp32 (sfu32 code compat v)
  if sigmoid then lg.map (f 6)
  else
    let np := (lg.filter fun v => v.isInf && !v.isNeg).length
    if np ≠ 0 then lg.map fun v => if v.isNan then .nan else if v.isInf && !v.isNeg then f 0 (.fin false np 0) else vZero
    else
      match lg.filter fun v => !v.isNan && !v.isInf with
      | [] => lg.map fun v => if v.isNan then .nan else vZero
      | x :: xs =>
        let mx := xs.foldl (fun a b => if a.ltTot b then b else a) x
        let ex := lg.map fun v => if v.isNan || v.isInf then none else some (f 3 (fMul (fSub v mx) l2e32))
        let r := f 0 (fSum (ex.filterMap id))
        (lg.zip ex).map fun p => match p.2 with
          | some e => fMul e r
          | none => if p.1.isNan then .nan else vZero

/-- A weight from its score (R197, step 3), with the flags of its operations; NAN_OUT is the writing's. -/
def routeWeight (norm : Bool) (r wscale w : FVal) : FlagVal :=
  let a := if norm then vMul w r else (w, 0)
  let b := vMul a.1 wscale
  (b.1, a.2 ||| b.2 ||| (convF fp32 .rne 0 ((a.1.mul wscale).getD .nan)).2 &&& fpOverflow)

/-- The selected experts with their weights (R197, steps 2 and 3), and the flags of the operations. -/
def routeSelect (sigmoid norm compat : Bool) (k : Nat) (wscale : FVal) (bias : Option (List FVal)) (lg : List FVal) :
    List (Nat × FVal) × BitVec 4 :=
  let se := routeScores sigmoid compat lg
  let kf : List FlagVal := match bias with
    | none => se.map fun x => (x, 0)
    | some b => (se.zip b).map fun p => vAdd p.1 p.2
  let key := kf.map Prod.fst
  let sel := (((key.zipIdx.map fun v => (v.2, v.1)).filter fun v => !v.2.isNan).mergeSort valueOrder).take k
  let sum := fSum (((List.range lg.length).filter fun e => sel.any fun x => x.1 == e).map fun e => se.getD e .nan)
  let r := decodeF fp32 (sfu32 0 compat sum)
  let ws := sel.map fun x => (x.1, routeWeight norm r wscale (se.getD x.1 .nan))
  (ws.map fun x => (x.1, x.2.1), orFlags kf ||| orFlags (ws.map Prod.snd))

/-- One token: the counts, the list entries and the record, from the selection. -/
def routeToken (cap tok : Nat) (counts : List Nat) (k : Nat) (sel : List (Nat × FVal)) :
    List Nat × List (Nat × Nat × Bytes) × Bytes :=
  let ents := sel.map fun x =>
    let j := counts.getD x.1 0
    (x.1, j, toLE 4 (tok % 2 ^ 32) ++ toLE 4 (convF fp32 .rne 0 x.2).1)
  (counts.zipIdx.map fun c => c.1 + (sel.filter fun x => x.1 == c.2).length,
    ents.filter fun e => decide (e.2.1 < cap),
    (ents.flatMap fun e => toLE 8 (e.1 + (if e.2.1 < cap then e.2.1 else 0xFFFFFF) * 2 ^ 16))
      ++ (List.replicate (k - sel.length) (toLE 8 (0xFFFF + 0xFFFFFF * 2 ^ 16))).flatten)

def State.startRoute (s : State) (o : AsyncOp) : Run SfuOut :=
  let w := o.word
  let dd := descAt o.d (iDd w); let da := descAt o.d (iDa w); let dc := descAt o.d (iDc w)
  (s.unitRead o.core dc.base 32).andThen fun b s =>
    let e := leField b 0 2; let k := leField b 2 1; let fl := leField b 3 1
    let tb := leField b 4 4; let ba := leField b 8 8
    let ws := decodeF fp32 (leField b 0x10 4)
    if e ≠ da.dim0 ∨ k = 0 ∨ 4 ≤ fl ∨ badAddr ba 4 = true ∨ leField b 0x14 12 ≠ 0 then Run.stop cDesc s
    else if 8 < k then Run.stop cCap s
    else if e < k then Run.stop cDesc s
    else
      (if ba = 0 then ((.ok [], s) : Run Bytes) else s.unitRead o.core ba (4 * e) : Run Bytes).andThen fun bb s =>
        let bias := if ba = 0 then none else some ((codesOf 0 e bb).map (decodeF fp32))
        let base := dd.base + 32 * ceilDiv (4 * e) 32
        (Run.foldList (fun (acc : List Nat × List OutW × Bytes × BitVec 4) t s =>
          (s.readRow o.core da 0 t).andThen fun row s =>
            let sel := routeSelect (fl % 2 == 1) (decide (2 ≤ fl)) o.compat k ws bias (rowVals da row)
            let r := routeToken dd.listCap (tb + t) acc.1 k sel.1
            let nan := r.2.1.any fun x => (decodeF fp32 (leField x.2.2 4 4)).isNan
            (.ok (r.1, acc.2.1 ++ r.2.1.map (fun x => ⟨base + (x.1 * dd.listCap + x.2.1) * 8, x.2.2⟩), acc.2.2.1 ++ r.2.2,
              acc.2.2.2 ||| sel.2 ||| if nan then fpNanOut else 0), s))
          (List.replicate e 0, [], [], 0) (List.range da.dim1) s).andThen fun r s =>
            (.ok (⟨dd.base, r.1.flatMap (toLE 4)⟩ :: r.2.1
              ++ (if dd.tokrec = 0 then [] else [⟨dd.tokrec, r.2.2.1⟩]), r.2.2.2), s)

end Sys2Proof.Machine
end

