-- ==== Sys2Proof/Machine/Attend.lean ====
section
/-! DEFINITION. ATTEND: the paged cache (06 R167 to R170), the parameter record (R171, R172), visible rows (R173 to
R175), the rotary step (R176), relocation and appending (R177, R178, R188, R189), the softmax (R179 to R181). -/

namespace Sys2Proof.Machine

/-- The parameter record. -/
structure AttPrm where
  q : Nat
  g : Nat
  tree : Bool
  append : Bool
  rope : Bool
  interleaved : Bool
  newF32 : Bool
  rot : Nat
  scale : FVal
  mask : Nat
  rotAddr : Nat
  newK : Nat
  newV : Nat
  stats : Nat
  first : Nat
  last : Nat
  /-- A value outside its range, whatever the shapes. -/
  bad : Bool
  deriving DecidableEq, Repr

def attPrm (b : Bytes) : AttPrm :=
  let g := leField b
  let fl := g 6 1
  let tree := g 5 1 == 1
  let app := fl.testBit 0
  let rope := fl.testBit 1
  { q := g 0 4
    g := g 4 1
    tree := tree
    append := app
    rope := rope
    interleaved := fl.testBit 2
    newF32 := fl.testBit 3
    rot := g 7 1
    scale := decodeF fp32 (g 8 4)
    mask := g 0x10 8
    rotAddr := g 0x18 8
    newK := g 0x20 8
    newV := g 0x28 8
    stats := g 0x30 8
    first := g 0x38 4
    last := g 0x3C 4
    bad := g 0 4 == 0 || (!tree && decide (4096 < g 0 4)) || g 4 1 == 0 || decide (128 < g 4 1) || decide (1 < g 5 1)
      || decide (16 ≤ fl) || decide (64 < g 7 1) || g 0x0C 4 != 0 || (tree && badAddr (g 0x10 8) 8)
      || (rope && badAddr (g 0x18 8) 8) || (app && (badAddr (g 0x20 8) 1 || badAddr (g 0x28 8) 1))
      || badAddr (g 0x30 8) 8 || g 0x38 4 % 128 != 0 || g 0x3C 4 % 128 != 0 || (app && g 0x3C 4 != 0) }

/-! ## The cache -/

/-- The block table entry of a position, among the entries read. -/
def entryOf (ents : List (Nat × Nat)) (pos : Nat) : Nat :=
  ((ents.find? fun e => e.1 == pos / 128).getD (0, 0xFFFFFFFF)).2

/-- Reads the entries of the listed positions; a position beyond BTLEN or unmapped ends with ADDR_INVALID (R169,
R170). -/
def State.readEntries (s : State) (c : Nat) (d : Desc) (btlen : Nat) (pos : List Nat) : Run (List (Nat × Nat)) :=
  Run.mapList (fun e s =>
    if btlen ≤ e then Run.stop cAddrInvalid s
    else (s.unitRead c (d.base + 0x80 + 4 * e) 4).andThen fun b s =>
      if fromLE b = 0xFFFFFFFF then Run.stop cAddrInvalid s else (.ok (e, fromLE b), s))
    (pos.map (· / 128)).eraseDups s

/-- Address of the K row (`v` 0) or V row (`v` 1) of a position in head `h` (R167, R169). -/
def kvAddr (d : Desc) (ents : List (Nat × Nat)) (h pos v : Nat) : Nat :=
  let e := entryOf ents pos
  let b := fmtBytes d.fmt
  d.pool (e / 2 ^ 31) + (e % 2 ^ 31) * (d.kvh * 32768 * b) + h * 32768 * b + pos % 128 * 128 * b + v * 16384 * b

/-! ## FP32 steps with the INVALID flag -/

def vFma (x y z : FVal) : FlagVal := flagged (fmaV .rne x y z)

/-- MAX with the canonical NaN. -/
def vMax (x y : FVal) : FVal := if x.isNan || y.isNan then .nan else if x.ltTot y then y else x

/-- The rotation of a row at logical position `p` (R176), from its table row. -/
def rotateRow (prm : AttPrm) (tab : Bytes) (xs : List FVal) : List FVal × BitVec 4 :=
  if !prm.rope then (xs, 0)
  else
    let cs := fun k => decodeF fp32 (leField tab (8 * k) 4)
    let sn := fun k => decodeF fp32 (leField tab (8 * k + 4) 4)
    (List.range prm.rot).foldl (fun (r : List FVal × BitVec 4) k =>
      let i := if prm.interleaved then 2 * k else k
      let j := if prm.interleaved then 2 * k + 1 else k + 64
      let x := r.1.getD i .nan
      let y := r.1.getD j .nan
      let ys := vMul y (sn k)
      let yc := vMul y (cs k)
      let a := vFma x (cs k) ys.1.neg
      let b := vFma x (sn k) yc.1
      ((r.1.set i a.1).set j b.1, r.2 ||| ys.2 ||| yc.2 ||| a.2 ||| b.2)) (xs, 0)

/-- The rotary table row of a logical position. -/
def State.rotRow (s : State) (c : Nat) (prm : AttPrm) (p : Nat) : Run Bytes :=
  if prm.rope && prm.rot != 0 then s.unitRead c (prm.rotAddr + p * prm.rot * 8) (prm.rot * 8) else (.ok [], s)

/-- Rotates where `rot` says so and converts to the cache's FMT under RNE: codes and flags. -/
def cacheRow (prm : AttPrm) (fmt : Nat) (rot : Bool) (tab : Bytes) (xs : List FVal) : List Nat × BitVec 4 :=
  let r := if rot then rotateRow prm tab xs else (xs, 0)
  let cs := r.1.map (convFmt fmt .rne 0)
  (cs.map Prod.fst, r.2 ||| orFlags cs)

/-! ## The softmax of one query row (R179) -/

/-- Exact sum of products of an 8-bit cache, before any rounding. -/
def exactDot (xs ys : List FVal) : FlagVal :=
  let r := (xs.zip ys).foldl (fun (q : Elem × BitVec 4) p =>
    let z := addExact q.1 p.1 p.2
    (z.1, q.2 ||| z.2)) (Elem.init, 0)
  (elemVal .unscaled r.1, r.2)

/-- One pass of R45 over products of a 16-bit cache: the value of the pass itself, which no element is added to, so a
zero keeps the sign of the pass sum (assumption 108). -/
def halfDot (xs ys : List FVal) : FlagVal :=
  let r := passSum ((xs.zip ys).map fun p => f32Step (p.1.mul p.2))
  (decodeF fp32 r.1, r.2)

/-- m, l and o between blocks. -/
structure SoftSt where
  m : FVal
  l : FVal
  o : List FVal
  fl : BitVec 4
  deriving DecidableEq, Repr

/-- One visited block: its K and V rows in ascending position. -/
def softBlock (fmt : Nat) (compat : Bool) (scale : FVal) (q : List FVal) (ks vs : List (List FVal)) (st : SoftSt) :
    SoftSt :=
  let eight := fmt == 3 || fmt == 4
  let e2 := fun v => decodeF fp32 (sfu32 3 compat v)
  let sc := ks.map fun k =>
    let d := if eight then (let x := exactDot q k; (r32 x.1, x.2)) else halfDot q k
    let z := vMul d.1 scale
    (z.1, d.2 ||| z.2)
  let mb := sc.foldl (fun m x => vMax m x.1) st.m
  let da := vAdd st.m mb.neg
  let a := e2 da.1
  let ps := sc.map fun x => let d := vAdd x.1 mb.neg; (e2 d.1, d.2)
  let pq := ps.map fun p => decodeFmt fmt (convFmt fmt .rne 0 (if eight then p.1.scale 8 else p.1)).1
  let col := fun d => vs.map fun v => v.getD d .nan
  let pv := (List.range 128).map fun d =>
    if eight then (let x := exactDot pq (col d); (r32 (x.1.scale (-8)), x.2)) else halfDot pq (col d)
  let ls : FlagVal := if eight then (let x := exactDot pq (pq.map fun _ => vOne); (r32 (x.1.scale (-8)), x.2))
    else halfDot pq (pq.map fun _ => vOne)
  let o := (st.o.zip pv).map fun x => let t := vMul a x.1; let u := vAdd t.1 x.2.1; (u.1, t.2 ||| x.2.2 ||| u.2)
  let t := vMul a st.l
  let u := vAdd t.1 ls.1
  { m := mb, l := u.1, o := o.map Prod.fst,
    fl := st.fl ||| orFlags sc ||| da.2 ||| orFlags ps ||| ls.2 ||| orFlags o ||| t.2 ||| u.2 }

/-- The 128 values of the output row. -/
def softOut (compat : Bool) (st : SoftSt) : List FVal × BitVec 4 :=
  if st.l.isZero then (List.replicate 128 vZero, 0)
  else
    let r := decodeF fp32 (sfu32 0 compat st.l)
    let os := st.o.map fun x => vMul x r
    (os.map Prod.fst, orFlags os)

/-! ## The operation -/

/-- The order in which the visible rows (logical position, slot) are read. -/
def posOrder (x y : Nat × Nat) : Bool := decide (x.1 < y.1) || (x.1 == y.1 && decide (x.2 ≤ y.2))

/-- Groups consecutive visible rows into blocks of 128 logical positions: the rows of each. -/
def blocksOf : List (Nat × Nat) → List (Nat × List (Nat × Nat))
  | [] => []
  | x :: l =>
    match blocksOf l with
    | (k, ss) :: r => if k = x.1 / 128 then (k, x :: ss) :: r else (x.1 / 128, [x]) :: (k, ss) :: r
    | [] => [(x.1 / 128, [x])]

/-- A row that was read: its logical position, its K and V bytes. -/
abbrev KvRow := Nat × Bytes × Bytes

/-- The place of a row among rows of one logical position, which a valid tree mask can make (R174): a free order of their
values, whatever their slots, pages or pools (R180; assumption 108). -/
def KvRow.key (x : KvRow) : Nat × Nat :=
  let n := fromLE (x.2.1 ++ x.2.2)
  ((Config.freeWord n).toNat, n)

/-- The order of the sums of a block: by logical position, then by the free order of values. -/
def sumOrder (x y : KvRow) : Bool :=
  let j := x.key
  let k := y.key
  decide (x.1 < y.1) || (x.1 == y.1 && (decide (j.1 < k.1) || (j.1 == k.1 && decide (j.2 ≤ k.2))))

/-- Set bits of a mask word. -/
def popCount (w : Nat) : Nat := (selectBelow 64 w.testBit).length

/-- The copies of the pending relocation (R188). -/
def State.relocate (s : State) (c : Nat) (d : Desc) (ents : List (Nat × Nat)) (mv : List (Nat × Nat)) : Run Unit :=
  Run.foldList (fun _ x s =>
    if x.1 = x.2 then (.ok (), s)
    else Run.foldList (fun _ hv s =>
      (s.unitRead c (kvAddr d ents (hv / 2) x.1 (hv % 2)) (128 * fmtBytes d.fmt)).andThen fun b s =>
        s.unitWrite c (kvAddr d ents (hv / 2) x.2 (hv % 2)) b) () (List.range (2 * d.kvh)) s) () mv s

/-- Appends the new rows (R177): the flags. -/
def State.appendRows (s : State) (c : Nat) (d : Desc) (prm : AttPrm) (ents : List (Nat × Nat)) (clen : Nat)
    (lp : Nat → Nat) : Run (BitVec 4) :=
  let fmt := if prm.newF32 then 0 else d.fmt
  let e := fmtBytes fmt
  Run.foldList (fun fl x s =>
    let i := x / (2 * d.kvh)
    let h := x % (2 * d.kvh) / 2
    let v := x % 2
    (s.unitRead c ((if v = 0 then prm.newK else prm.newV) + (i * d.kvh + h) * 128 * e) (128 * e)).andThen fun b s =>
      (if v = 0 then s.rotRow c prm (lp i) else ((.ok [], s) : Run Bytes)).andThen fun tab s =>
        let r := cacheRow prm d.fmt (v == 0) tab ((codesOf fmt 128 b).map (decodeFmt fmt))
        (s.unitWrite c (kvAddr d ents h (clen + i) v) (packCodes d.fmt r.1)).andThen fun _ s => (.ok (fl ||| r.2), s))
    0 (List.range (prm.q * d.kvh * 2)) s

/-- Reads the K and V rows of a block and puts them in the order of its sums. -/
def State.readBlock (s : State) (c : Nat) (d : Desc) (ents : List (Nat × Nat)) (h : Nat) (rows : List (Nat × Nat)) :
    Run (List (List FVal × List FVal)) :=
  let vals := fun b => (codesOf d.fmt 128 b).map (decodeFmt d.fmt)
  (Run.mapList (fun p s =>
    (s.unitRead c (kvAddr d ents h p.2 0) (128 * fmtBytes d.fmt)).andThen fun kb s =>
      (s.unitRead c (kvAddr d ents h p.2 1) (128 * fmtBytes d.fmt)).andThen fun vb s =>
        ((.ok (p.1, kb, vb), s) : Run KvRow)) rows s).andThen fun l s =>
    (.ok ((l.mergeSort sumOrder).map fun x => (vals x.2.1, vals x.2.2)), s)

/-- One query row of ATTEND: its writes and flags. -/
def State.attendRow (s : State) (o : AsyncOp) (prm : AttPrm) (ents : List (Nat × Nat)) (row p : Nat)
    (blocks : List (Nat × List (Nat × Nat))) : Run SfuOut :=
  let w := o.word
  let dd := descAt o.d (iDd w); let da := descAt o.d (iDa w); let db := descAt o.d (iDb w)
  let ext := Tab.get 0 o.d (iDd w + 1)
  let h := row / prm.g % db.kvh
  (s.readRow o.core da 0 row).andThen fun x s =>
    (s.rotRow o.core prm p).andThen fun tab s =>
      let q := cacheRow prm db.fmt true tab (rowVals da x)
      let qv := q.1.map (decodeFmt db.fmt)
      (Run.foldList (fun st b s => (s.readBlock o.core db ents h b.2).andThen fun kv s =>
        (.ok (softBlock db.fmt o.compat prm.scale qv (kv.map Prod.fst) (kv.map Prod.snd) st), s))
        (⟨.inf true, vZero, List.replicate 128 vZero, 0⟩ : SoftSt) blocks s).andThen fun st s =>
          let v := softOut o.compat st
          let out := outPiece dd ext 0 row 0 128 fun i => v.1.getD i .nan
          let cm := convF fp32 .rne 0 st.m
          let cl := convF fp32 .rne 0 st.l
          let ws : List OutW := if prm.stats = 0 then [] else [⟨prm.stats + 8 * row, toLE 4 cm.1 ++ toLE 4 cl.1⟩]
          (.ok (out.1 ++ ws, q.2 ||| st.fl ||| v.2 ||| out.2 ||| if prm.stats = 0 then 0 else cm.2 ||| cl.2), s)

/-- ATTEND when the array begins it. Relocations that would start below position 0 name no address (assumption 52). -/
def State.startAttend (s : State) (o : AsyncOp) : Run ArrOut :=
  let w := o.word
  let dd := descAt o.d (iDd w); let da := descAt o.d (iDa w); let db := descAt o.d (iDb w); let dc := descAt o.d (iDc w)
  (s.unitRead o.core dc.base 64).andThen fun pb s =>
    let prm := attPrm pb
    let rows := prm.q * db.kvh * prm.g
    if prm.bad || dd.dim1 != rows || da.dim1 != rows then Run.stop cDesc s
    else if prm.tree && decide (s.maxTree < prm.q) then Run.stop cCap s
    else
      (if prm.tree then s.unitRead o.core prm.mask (8 * prm.q) else ((.ok [], s) : Run Bytes)).andThen fun mb s =>
        let mask := (List.range prm.q).map fun i => leField mb (8 * i) 8
        if prm.tree && mask.zipIdx.any fun m => !m.1.testBit m.2 || decide (2 ^ (m.2 + 1) ≤ m.1) then Run.stop cDesc s
        else
          (s.readHeader o.core db).andThen fun hd s =>
            let clen := hd.1
            let n := hd.2.2
            let hi := if prm.last = 0 then clen else prm.last
            if clen < prm.last ∨ (n ≠ 0 ∧ prm.append = false ∧ prm.first < hi ∧ clen - n < hi) then Run.stop cDesc s
            else if prm.append ∧ clen < n then Run.stop cAddrInvalid s
            else
              (if prm.append && n != 0 then s.unitRead o.core (db.base + 0x40) n else ((.ok [], s) : Run Bytes)).andThen
                fun ms s =>
                let mv := ms.zipIdx.map fun m => (clen - n + m.1.toNat, clen - n + m.2)
                let lp := fun i => if prm.tree then clen + (popCount (mask.getD i 0) - 1) else clen + i
                let prov := fun i => if prm.last ≠ 0 then [] else
                  (selectBelow (i + 1) fun j => !prm.tree || (mask.getD i 0).testBit j).map fun j => (lp j, clen + j)
                let comm := (List.range (hi - prm.first)).map fun j => (prm.first + j, prm.first + j)
                let need := comm.map Prod.fst ++ (mv.filter fun x => x.1 != x.2).flatMap (fun x => [x.1, x.2])
                  ++ (if prm.append then (List.range prm.q).map (clen + ·) else [])
                  ++ (List.range prm.q).flatMap fun i => (prov i).map Prod.snd
                (s.readEntries o.core db hd.2.1 need).andThen fun ents s =>
                  (if prm.append && n != 0 then
                    (s.relocate o.core db ents mv).andThen fun _ s =>
                      s.unitWrite o.core db.base (headerBytes clen hd.2.1 0)
                    else ((.ok (), s) : Run Unit)).andThen fun _ s =>
                    (if prm.append then s.appendRows o.core db prm ents clen lp else ((.ok 0, s) : Run (BitVec 4))).andThen
                      fun fl s =>
                      (Run.foldList (fun (acc : SfuOut) row s =>
                        let i := row / (db.kvh * prm.g)
                        let vis := (comm ++ prov i).mergeSort posOrder
                        ((s.attendRow o prm ents row (lp i) (blocksOf vis)).andThen fun r s =>
                          ((.ok (acc.1 ++ r.1, acc.2 ||| r.2), s) : Run SfuOut)).onStop
                            fun s => s.partialWrites o acc.1 acc.2) ([], fl) (List.range rows) s).andThen fun r s =>
                            (.ok { bank := some (iBank w, ⟨.free, false, []⟩), writes := r.1, flags := r.2, checks := [],
                                   skips := 0, readsBank := false }, s)

end Sys2Proof.Machine
end

