-- ==== Sys2Proof/Machine/LinkOps.lean ====
section
/-! DEFINITION. Operations on optical links that other chapters use: sending packets and sideband messages as flits,
credits, replay entries (10 R315 to R326), and breaches' hand-back (R329). -/

namespace Sys2Proof.Machine

def State.link (s : State) (l : Nat) : Link := Tab.get Link.init s.links l

def State.setLink (s : State) (l : Nat) (x : Link) : State := { s with links := Tab.set Link.init s.links l x }

def State.modLink (s : State) (l : Nat) (f : Link → Link) : State := s.setLink l (f (s.link l))

def State.port (s : State) (n : Nat) : Port := Tab.get Port.init s.ports n

def State.modPort (s : State) (n : Nat) (f : Port → Port) : State :=
  { s with ports := Tab.set Port.init s.ports n (f (s.port n)) }

/-- The port of a link (R293). -/
def portOf (l : Nat) : Nat := l / 6

/-- Lanes of a mask, ascending. -/
def lanesOf (m : BitVec 16) : List Nat := selectBelow 16 m.getLsbD

/-- Code of a link state (10, table Link states). -/
def LState.code : LState → Nat
  | .off => 0
  | .light => 1
  | .train => 2
  | .align => 3
  | .exch => 4
  | .active => 5
  | .isolated => 6
  | .retrain => 7
  | .breached => 8

/-- Links in ACTIVE. -/
def State.activeLinks (s : State) : List Nat := selectBelow 48 fun l => (s.link l).state == .active

/-- The 256 bytes of a flit (R315): sequence number, TYPE, credits returned, payload. Each header reports the next lane
(R299), and NAK where one is due (R321). -/
def flitBytes (k : Link) (seq : BitVec 16) (type crvc crcnt : Nat) (payload : Bytes) : Bytes :=
  let lane := k.rpt.toNat
  let emb := if k.rxMask.getLsbD lane then (Tab.get 0xFF k.rxEmb lane).toNat else 0xFF
  let b := toLE 16 (seq.toNat + k.rxNext.toNat * 2 ^ 16 + 2 ^ 32 + b2n k.nakDue * 2 ^ 33 + type * 2 ^ 34
    + crvc * 2 ^ 36 + crcnt * 2 ^ 38 + lane * 2 ^ 46 + emb * 2 ^ 50) ++ payload
  b ++ toLE 4 (crc32 b)

/-- A payload field of 236 bytes. -/
def payload236 (d : Bytes) : Bytes := d ++ List.replicate (236 - d.length) 0

/-- A flit goes out. -/
def State.putFlit (s : State) (l : Nat) (seq : BitVec 16) (type crvc crcnt : Nat) (payload : Bytes) : State :=
  let k := s.link l
  (s.setLink l { k with rpt := k.rpt + 1, nakDue := false }).emit (.flit l (flitBytes k seq type crvc crcnt payload))

/-- Sends an IDLE flit: an acknowledgement, a NAK, or `n` credits of a VC (R322, R325). -/
def State.sendIdle (s : State) (l crvc n : Nat) : State :=
  s.putFlit l (s.link l).txNext 0 crvc n (payload236 [])

/-- Sends a new flit: it takes the next FSEQ and a replay entry (R316, R323). -/
def State.sendFlit (s : State) (l type : Nat) (payload : Bytes) (packets : List (Nat × Bytes)) : State :=
  let q := (s.link l).txNext
  (s.putFlit l q type 0 0 payload).modLink l fun k =>
    { k with txNext := q + 1, held := k.held ++ [⟨q, type, payload, packets⟩] }

/-- The place of the lane that carries a flit's first byte. Sixteen lanes carry a flit in whole rounds, so that every
flit starts where the stream did; with fewer lanes it depends on the IDLE flits sent, which are time: a free choice
(R317). -/
def State.startLane (s : State) (l : Nat) : Nat × State :=
  if (s.link l).txMask = 0xFFFF then ((s.link l).stream, s)
  else
    let r := s.takeFree
    ((Config.freeWord r.1).toNat, r.2)

/-- The stream of flits begins anew on the lanes in service; on which of them the manual does not say: a free choice. -/
def State.newStream (s : State) (l : Nat) : State :=
  let r := s.takeFree
  r.2.modLink l fun k => { k with stream := (Config.freeWord r.1).toNat % 16 }

/-- The lane-alignment field: each byte names the lane that carries it (R312, R319). -/
def State.alignField (s : State) (l : Nat) : Bytes × State :=
  let ws := lanesOf (s.link l).txMask
  let r := s.startLane l
  ((List.range 236).map fun i => BitVec.ofNat 8 (ws.getD ((r.1 + 16 + i) % max 1 ws.length) 0 + 16 * (l % 6)), r.2)

def State.sendAlign (s : State) (l : Nat) : State :=
  let r := s.alignField l
  r.2.sendFlit l 3 r.1 []

/-- A held flit is sent again: its header is refreshed (R321), and an ALIGN flit names the lanes that carry it now. -/
def State.resend (s : State) (l : Nat) (f : Flit) : State :=
  let r := if f.type = 3 then s.alignField l else (f.payload, s)
  r.2.putFlit l f.seq f.type 0 0 r.1

/-- A flit whose FSEQ is a multiple of 4,096 is an ALIGN flit; the new flit follows it (R319). -/
def State.sendNew (s : State) (l type : Nat) (payload : Bytes) (packets : List (Nat × Bytes)) : State :=
  let s := if (s.link l).txNext.toNat % 4096 = 0 then s.sendAlign l else s
  s.sendFlit l type payload packets

/-- Replay entries in use on a port (R323). -/
def State.entriesUsed (s : State) (n : Nat) : Nat :=
  (List.range 6).foldl (fun a i => a + (s.link (6 * n + i)).held.length) 0

/-- The link has entries for `n` new flits and an ALIGN flit that falls among them (R319, R323). -/
def State.hasEntries (s : State) (l n : Nat) : Bool :=
  let k := s.link l
  let m := n + b2n (k.txNext.toNat % 4096 == 0 || (n == 2 && k.txNext.toNat % 4096 == 4095))
  decide (k.held.length + m ≤ 4096) && decide (s.entriesUsed (portOf l) + m ≤ 8192)

/-- Receive-buffer credits of a VC (10, table Link receive buffers). -/
def vcCredits (vc : Nat) : Nat :=
  match vc with
  | 0 => 1024
  | 1 => 6144
  | 2 => 6144
  | _ => 128

/-- 64-byte units of a packet (R346). -/
def unitsOf (d : Bytes) : Nat := (d.length + 63) / 64

/-- PLACE of a link's transmit side and VC (15, table Perturbation targets; [6] 0 is transmit, assumption 34). -/
def linkPlace (l dir vc : Nat) (p : Nat) : Bool := p % 512 == l + dir * 64 + vc * 128

/-- The transmitter holds credits for all units of the packet (R325, R479). -/
def State.hasCredits (s : State) (l vc n : Nat) : Bool :=
  decide (Tab.get 0 (s.link l).spent vc + n + s.withheld 5 (linkPlace l 0 vc) ≤ vcCredits vc)

/-- A VC may be sent in the link's state: MGMT from EXCH on, the others when ACTIVE. -/
def LState.carries (x : LState) (vc : Nat) : Bool :=
  x == .active || (vc == 3 && (x == .exch || x == .isolated))

/-- The header of TYPE PAD, which ends the packets of a flit; its address fields, engine, VC and tag name nothing, and
the manual does not say what they hold: the value `w` is free (R346). -/
def padHeader (w : BitVec 64) : Bytes :=
  let h := toLE 12 (w.toNat % 2 ^ 50 + 63 * 2 ^ 54 + w.toNat / 2 ^ 49 * 2 ^ 69)
  h ++ toLE 4 (crc32c h)

/-- The payload of the last flit of a packet: the rest is padding, with a header where one may start (R346). -/
def padded (d : Bytes) (w : BitVec 64) : Bytes :=
  payload236 (if d.length + 16 ≤ 236 then d ++ padHeader w else d)

/-- Puts a packet into DATA flits of its own (a packet takes one flit, or two when longer than a payload field). -/
def State.sendPacket (s : State) (l vc : Nat) (d : Bytes) : State :=
  let s := (s.perturbBy 5 1 (linkPlace l 0 vc)).2
  let s := s.modLink l fun k => { k with spent := Tab.set 0 k.spent vc (Tab.get 0 k.spent vc + unitsOf d) }
  let r := s.takeFree
  let w := Config.freeWord r.1
  if d.length ≤ 236 then r.2.sendNew l 1 (padded d w) [(vc, d)]
  else (r.2.sendNew l 1 (payload236 (d.take 236)) []).sendNew l 1 (padded (d.drop 236) w) [(vc, d)]

/-- The link can take a packet of a VC now: none of its VC and no sideband message waits before it, and it has replay
entries and credits (R323, R325, R326). -/
def State.linkTakes (s : State) (l vc : Nat) (d : Bytes) : Bool :=
  let k := s.link l
  k.state.carries vc && k.sideband.isEmpty && !(k.queue.any fun e => e.1 == vc)
    && s.hasEntries l (if d.length ≤ 236 then 1 else 2) && s.hasCredits l vc (unitsOf d)

/-- Sends the queued packets that can go, in order within each VC (R325); `blocked` holds VCs with an earlier packet
that stays. -/
def State.drainQueue (l : Nat) : State → List Nat → List (Nat × Bytes) → List (Nat × Bytes) × State
  | s, _, [] => ([], s)
  | s, blocked, (vc, d) :: q =>
    if !blocked.contains vc && (s.link l).state.carries vc && s.hasEntries l (if d.length ≤ 236 then 1 else 2)
        && s.hasCredits l vc (unitsOf d) then
      State.drainQueue l (s.sendPacket l vc d) blocked q
    else
      let r := State.drainQueue l s (vc :: blocked) q
      ((vc, d) :: r.1, r.2)

/-- A link that carries flits of packets or messages. -/
def LState.meets (x : LState) : Bool := x == .exch || x == .active || x == .isolated

/-- Sends waiting sideband messages, up to 14 in a flit (R326). -/
def State.drainSideband (l : Nat) : Nat → State → State
  | 0, s => s
  | fuel + 1, s =>
    let k := s.link l
    if k.sideband.isEmpty || !k.state.meets || !s.hasEntries l 1 then s
    else State.drainSideband l fuel
      ((s.setLink l { k with sideband := k.sideband.drop 14 }).sendNew l 2 (payload236 (k.sideband.take 14).flatten) [])

/-- Sends what can go on a link: DATA only when no sideband message waits (R326). -/
def State.flush (s : State) (l : Nat) : State :=
  let s := State.drainSideband l (s.link l).sideband.length s
  let q := (s.link l).queue
  if !(s.link l).sideband.isEmpty then s
  else
    let r := State.drainQueue l (s.modLink l fun k => { k with queue := [] }) [] q
    r.2.modLink l fun k => { k with queue := r.1 ++ k.queue }

/-- Queues a packet on a link; link 48 is the turn-around of the hub switch (R351). -/
def State.linkPut (s : State) (l vc : Nat) (d : Bytes) : State :=
  let s := s.modLink l fun k => { k with queue := k.queue ++ [(vc, d)] }
  if l < 48 then s.flush l else s

/-- The 16 bytes of a sideband message (R326): KIND, MSEQ, LANES, bits [127:32]. -/
def sbMsg (kind mseq lanes rest : Nat) : Bytes := toLE 16 (kind + mseq * 2 ^ 8 + lanes * 2 ^ 16 + rest * 2 ^ 32)

/-- Queues a sideband message with bits [127:32] `rest` and sends it. -/
def State.sendSb (s : State) (l kind lanes rest : Nat) : State :=
  let k := s.link l
  (s.setLink l { k with sideband := k.sideband ++ [sbMsg kind k.mseq.toNat lanes rest], mseq := k.mseq + 1 }).flush l

/-- An acknowledgement echoes MSEQ (R326). -/
def State.sendSbEcho (s : State) (l kind lanes : Nat) (mseq : BitVec 8) : State :=
  let k := s.link l
  (s.setLink l { k with sideband := k.sideband ++ [sbMsg kind mseq.toNat lanes 0] }).flush l

/-- LANE_OUT for lanes still in service: the set changes at the 32nd slot (R318). -/
def State.laneOutSend (s : State) (l : Nat) (lanes : BitVec 16) : State :=
  if lanes = 0 then s
  else
    let s := s.modLink l fun k => { k with changes := k.changes ++ [⟨true, false, lanes⟩] }
    s.sendSb l 0x01 lanes.toNat 0

/-- LANE_IN. -/
def State.laneInSend (s : State) (l : Nat) (lanes : BitVec 16) : State :=
  if lanes = 0 then s
  else
    let s := s.modLink l fun k => { k with changes := k.changes ++ [⟨true, true, lanes⟩] }
    s.sendSb l 0x03 lanes.toNat 0

/-- The packets of the flits that a link hands back, oldest first (R329). -/
def Link.handBack (k : Link) : List (Nat × Bytes) := k.held.flatMap Flit.packets

/-- A link with nothing held: replay entries, credits and messages are gone. Packets that it has received, and those that
wait for it, stay in the hub's buffers. -/
def Link.emptied (k : Link) : Link := { k with
  held := []
  sideband := []
  rxPart := []
  spent := []
  replays := 0
  nakked := false
  nakDue := false
  changes := []
  quar := 0
  relock := 0
  await := 0 }

end Sys2Proof.Machine
end

