-- ==== Sys2Proof/Machine/FabricOps.lean ====
section
/-! DEFINITION. Fabric packets, routes and requests (11 R346 to R370): what a hub does with a packet it sends, forwards,
loses or answers, and how a request of this module ends. -/

namespace Sys2Proof.Machine

/-! ## Packets (R346, R347) -/

/-- A fabric packet, unpacked. -/
structure Pkt where
  dst : BitVec 16
  src : BitVec 16
  eng : BitVec 16
  vc : Nat
  type : Nat
  ttl : Nat
  tag : Nat
  status : BitVec 8
  body : Bytes
  deriving DecidableEq, Repr

/-- Header and payload. -/
def Pkt.bytes (p : Pkt) : Bytes :=
  let h := toLE 12 (p.dst.toNat + p.src.toNat * 2 ^ 16 + p.eng.toNat * 2 ^ 32 + p.vc * 2 ^ 48 + p.type * 2 ^ 50
    + p.ttl * 2 ^ 54 + p.body.length * 2 ^ 60 + p.tag * 2 ^ 69 + p.status.toNat * 2 ^ 84)
  h ++ toLE 4 (crc32c (h ++ p.body)) ++ p.body

/-- A packet that its receiver keeps: CRC right, TYPE listed, reserved field 0 (R347). -/
def parsePkt (b : Bytes) : Option Pkt :=
  let x := leField b 0 12
  let g := fieldNat x
  let body := b.drop 16
  if b.length < 16 ∨ g 60 9 ≠ body.length ∨ 256 < g 60 9 ∨ g 92 4 ≠ 0 ∨ 0xA < g 50 4 ∨ g 50 4 = 0
      ∨ leField b 12 4 ≠ crc32c (b.take 12 ++ body) then none
  else some { dst := BitVec.ofNat 16 (g 0 16), src := BitVec.ofNat 16 (g 16 16), eng := BitVec.ofNat 16 (g 32 16),
              vc := g 48 2, type := g 50 4, ttl := g 54 6, tag := g 69 15, status := BitVec.ofNat 8 (g 84 8),
              body := body }

/-- A header of TYPE PAD is right: no payload, its CRC and its reserved field (R346, R347). -/
def padOk (b : Bytes) : Bool :=
  fieldNat (leField b 0 12) 60 9 == 0 && fieldNat (leField b 0 12) 92 4 == 0 && leField b 12 4 == crc32c (b.take 12)

/-- Payloads of the table Fabric packet types. -/
def rdOk (p : Pkt) : Bool := p.body.length == 10 && decide (1 ≤ leField p.body 8 2) && decide (leField p.body 8 2 ≤ 256)
def wrOk (p : Pkt) : Bool := decide (9 ≤ p.body.length)
def atomOk (p : Pkt) : Bool :=
  p.body.length == 32 && decide (leField p.body 8 1 ≤ 9) && (leField p.body 9 1 == 4 || leField p.body 9 1 == 8)

/-- A packet of a VC with payload `d` leaves the receive buffer of link `l`: the one that a flit has brought and whose turn
it is, or one that arrives with the command. Its credits return (10 R325). None when it is not its turn. -/
def State.takeBody (s : State) (l vc : Nat) (d : Bytes) : Option State :=
  let q := (s.link l).inq
  let back := fun s : State => if (s.link l).state.meets then s.sendIdle l vc ((16 + d.length + 63) / 64) else s
  match q.find? fun e => fieldNat (leField e.2 0 16) 48 2 == vc with
  | some e => if e.2.drop 16 = d then some (back (s.modLink l fun k => { k with inq := k.inq.erase e })) else none
  | none => some (back s)

/-! ## Routes (R348, R353) -/

def Route.fld (r : Route) (lo n : Nat) : Nat := fieldNat r.w.toNat lo n

def State.routeOf (s : State) (n : BitVec 16) : Route := Tab.get Route.init s.fab.route n.toNat

/-- Next hops in use, in ascending order of NHi. -/
def Route.hops (r : Route) : List Nat :=
  (selectBelow 4 fun i => (r.fld 32 4).testBit i).map fun i => r.fld (8 + 6 * i) 6

/-- The entry is in force (R348). -/
def Route.inForce (r : Route) : Bool :=
  r.fld 0 1 == 1 && r.fld 1 6 != 0 && r.fld 32 4 != 0 && r.hops.all fun l => decide (l < 48)

/-- The next hop of a packet (R348). -/
def Route.pick (r : Route) (src dst eng : BitVec 16) : Nat :=
  r.hops.getD ((src ^^^ dst ^^^ eng).toNat % r.hops.length) 0

/-- The polder of this node (R353). -/
def State.inPolder (s : State) (n : BitVec 16) : Bool :=
  n == s.fab.nodeId || ((s.routeOf n).inForce && decide ((s.routeOf n).fld 1 6 ≤ 2))

/-- A node that PUT and ATOMN reach. -/
def State.routed (s : State) (n : BitVec 16) : Bool := n == s.fab.nodeId || (s.routeOf n).inForce

/-- A node that a request of this module may name: NODE_ID reads 0xFFFF while the fabric is off (R125, R336, R337,
R353). -/
def State.reachable (s : State) (n : BitVec 16) (anyNode : Bool) : Bool :=
  s.fab.node != 0xFFFF && n != 0xFFFF && if anyNode then s.routed n else s.inPolder n

/-! ## How a request of this module ends -/

def State.modFab (s : State) (f : Fab → Fab) : State := { s with fab := f s.fab }

/-- Sets the data or the error of the remote part at offset `off` of an external request. -/
def Req.endPart (off : Nat) (data : Bytes) (status : BitVec 8) (dest : BitVec 4) (r : Req) : Req :=
  { r with parts := r.parts.map fun p => if p.off = off ∧ p.node.isSome ∧ p.res.isNone ∧ p.err.isNone then
      (if status = 0 then { p with res := some data } else { p with err := some (status, dest) }) else p }

/-- A message of a thread is acknowledged, or ends with an error status (R357). -/
def State.endMsg (s : State) (c t id : Nat) (status : BitVec 8) : State :=
  let th := s.thread c t
  match th.msgs.find? fun m => m.id == id with
  | none => s
  | some m =>
    let s := s.setThread c t { th with msgs := th.msgs.filter fun m => m.id != id }
    (if status = 0 then s.modThread c t Thread.settle else s.threadError c t status 3 4 m.pc).releaseMem c

/-- A remote piece of a stream-pump transfer returns (R357); the pieces are kept by rising address. -/
def PumpRun.piece (id : Nat) (data : Bytes) (status : BitVec 8) (r : PumpRun) : PumpRun :=
  match r.waiting.find? fun w => w.1 == id with
  | none => r
  | some w =>
    let ws := if status = 0 ∧ data ≠ [] then
        let lo := r.writes.takeWhile fun x => decide (x.addr ≤ w.2)
        lo ++ ⟨w.2, data⟩ :: r.writes.drop lo.length
      else r.writes
    let e := if status = 0 ∨ r.err.isSome = true then r.err else some (status, 4)
    { r with waiting := r.waiting.filter fun x => x.1 != id, writes := ws, err := e }

/-- Request `q` ends: its owner takes the result and it leaves the engine. -/
def State.endReq (s : State) (q : FabReq) (data : Bytes) (status : BitVec 8) : State :=
  let s := s.modFab fun f => { f with reqs := f.reqs.filter fun r => r.id != q.id }
  match q.owner with
  | .part c t req off => s.modThread c t fun th =>
      { th with reqs := th.reqs.map fun r => if r.id = req then r.endPart off data status 4 else r }
  | .msg c t => s.endMsg c t q.id status
  | .pump p =>
    { s with pumps := s.pumps.map fun r => if !r.host && r.die * 8 + r.pump == p then r.piece q.id data status else r }

/-! ## Lost packets (R350, R362) -/

/-- TYPEs that a RDRSP answers; the others are answered by an ACK (R362, table Fabric packet types). -/
def isReadType (t : Nat) : Bool := t == 1

def satInc16 (x : BitVec 16) : BitVec 16 := BitVec.ofNat 16 (satAdd x.toNat 1 0xFFFF)

def State.countDrop (s : State) : State := s.modFab fun f => { f with drops := satInc16 f.drops }

/-- Puts a response on its way; one that cannot go is discarded (R362). -/
def State.sendRsp (s : State) (p : Pkt) : State :=
  if p.dst = s.fab.nodeId then s.linkPut 48 1 p.bytes
  else
    let r := s.routeOf p.dst
    if r.hold then s.modFab fun f => { f with held := f.held ++ [(49, p.bytes)] }
    else if !r.inForce then s.countDrop
    else s.linkPut (r.pick p.src p.dst p.eng) 1 p.bytes

/-- The response to request packet `p`: it carries the requester's engine and tag (assumption 35). -/
def State.respond (s : State) (p : Pkt) (type : Nat) (status : BitVec 8) (data : Bytes) : State :=
  s.sendRsp { dst := p.src, src := s.fab.nodeId, eng := p.eng, vc := 1, type := type, ttl := 63, tag := p.tag,
              status := status, body := data }

/-- A packet is lost: no route, no hops left, or handed back by a breach (R350, R362). -/
def State.losePacket (s : State) (p : Pkt) : State :=
  let s := s.countDrop
  if p.vc ≠ 0 ∨ p.dst = 0xFFFF then s
  else if p.src = s.fab.nodeId then
    match s.fab.reqs.find? fun q => q.sent && q.eng == p.eng && q.tag.toNat == p.tag && q.type == p.type with
    | some q => (s.modFab fun f => { f with dead := f.dead ++ [p.tag] }).endReq q [] cUnreach
    | none => s
  else if isReadType p.type then s.respond p 6 cUnreach [] else s.respond p 7 cUnreach []

/-! ## Sending -/

/-- The route of a packet that leaves this hub: lost, held, or a link. `src` is the link of arrival, 49 for this
module (R348 to R350). One for the module itself is turned around (R351); a management packet goes to its firmware. -/
def State.routePacket (s : State) (src : Nat) (p : Pkt) : State :=
  let r := s.routeOf p.dst
  if p.dst = s.fab.nodeId then if p.type = 0xA then s else s.linkPut 48 p.vc p.bytes
  else if r.hold then s.modFab fun f => { f with held := f.held ++ [(src, p.bytes)] }
  else if !r.inForce then s.losePacket p
  else
    let l := r.pick p.src p.dst p.eng
    let s := (s.perturb 4 1 (4 + portOf l + p.vc * 32)).2
    s.linkPut l p.vc p.bytes

/-- Lines of 64 bytes that a write or atomic covers. -/
def FabReq.linesOf (q : FabReq) : List Nat :=
  (List.range ((q.addr + (max 1 q.len - 1)) / 64 - q.addr / 64 + 1)).map fun i => q.addr / 64 + i

/-- Write, put and atomic TYPEs. -/
def FabReq.isWrite (q : FabReq) : Bool := q.type != 1

/-- The hot-line limiter holds the request (R369). -/
def State.hotHeld (s : State) (q : FabReq) : Bool :=
  q.isWrite && q.linesOf.any fun x => decide (s.fab.hot.toNat ≤
    (s.fab.reqs.filter fun r => r.sent && r.isWrite && r.node == q.node && r.linesOf.contains x).length)

/-- An earlier request of the engine to the node still waits and must be performed first (R358, R359). -/
def State.orderHeld (earlier : List FabReq) (q : FabReq) : Bool :=
  earlier.any fun r => !r.sent && r.eng == q.eng && r.node == q.node && r.isWrite
    && (q.isWrite || (decide (r.addr < q.addr + q.len) && decide (q.addr < r.addr + r.len)))

/-- A request tag that engine `port` does not use; none when it holds 4,096 requests (R355). A tag whose response may still
come late is taken last, the oldest first (R356). -/
def State.freeTag (s : State) (port : Nat) : Option Nat :=
  let used := (s.fab.reqs.filter fun r => r.sent && r.tag.toNat / 4096 == port).map fun r => r.tag.toNat % 4096
  let dead := (s.fab.dead.filter fun t => t / 4096 == port).map (· % 4096)
  if 4096 ≤ used.length then none
  else match (List.range 4096).find? fun t => !used.contains t && !dead.contains t with
    | some t => some t
    | none => dead.find? fun t => !used.contains t

/-- Tries to send one waiting request, which waits in its engine until the link can take it (R348, R349, R351, R355, R356,
R369). -/
def State.trySend (s : State) (earlier : List FabReq) (q : FabReq) : State :=
  let r := s.routeOf q.node
  let own := q.node == s.fab.nodeId
  if !q.atHub || (!own && r.hold) || s.hotHeld q || State.orderHeld earlier q then s
  else if !own && !r.inForce then s.countDrop.endReq q [] cUnreach
  else
    let l := if own then 48 else r.pick s.fab.nodeId q.node q.eng
    let port := if own then 0 else portOf l
    match s.freeTag port with
    | none => s
    | some t =>
      if !own && !s.linkTakes l 0 (List.replicate (16 + q.body.length) 0) then s else
      let s := (s.perturb 6 1 port).2
      let hit := s.perturb 6 4 port
      let s := hit.2
      let tag := port * 4096 + t
      let s := s.modFab fun f => { f with
        dead := f.dead.filter (· != tag)
        reqs := f.reqs.map fun x => if x.id = q.id then { x with sent := true, tag := BitVec.ofNat 15 tag } else x }
      let p : Pkt := { dst := q.node, src := s.fab.nodeId, eng := q.eng, vc := 0, type := q.type, ttl := 63,
                       tag := tag, status := 0, body := q.body }
      -- the receiver of an injected packet finds its CRC wrong; at the turn-around that is this module (R347, R478)
      if own && hit.1.isSome then s.modFab fun f => { f with e2e := satInc16 f.e2e }
      else if own then s.linkPut 48 0 p.bytes
      else
        let s := (s.perturb 4 1 (4 + port)).2
        s.linkPut l 0 p.bytes

/-- Sends the waiting requests that can go, in order. -/
def State.kickFrom : State → List FabReq → List FabReq → State
  | s, _, [] => s
  | s, done, q :: qs =>
    let now := s.fab.reqs.filter fun r => done.any fun d => d.id == r.id
    let s := if q.sent then s else s.trySend now q
    State.kickFrom s (done ++ [q]) qs

/-- The die whose bundle a request crosses to the hub. -/
def State.reqDie (s : State) (q : FabReq) : Nat :=
  match q.owner with
  | .part c _ _ _ => s.dieOf c
  | .msg c _ => s.dieOf c
  | .pump p => p / 8

/-- RATOMN frees its slots once the hub has accepted it (04 R126). -/
def State.freeSlot (s : State) (q : FabReq) : State :=
  match q.owner with
  | .msg c t =>
    if q.type = 5 then
      (s.modThread c t fun th => { th with msgs := th.msgs.map fun m => if m.id = q.id then { m with slot := false } else m
        }).releaseMem c
    else s
  | _ => s

/-- The hub accepts the requests whose die's bundle carries packets (01 R14). -/
def State.hubAccept (s : State) : State :=
  let new := s.fab.reqs.filter fun q => !q.atHub && s.pilUp (s.reqDie q)
  if new.isEmpty then s
  else
    let ids := new.map FabReq.id
    new.foldl State.freeSlot
      (s.modFab fun f => { f with reqs := f.reqs.map fun q => if ids.contains q.id then { q with atHub := true } else q })

/-- Accepts and sends what can go. -/
def State.kick (s : State) : State :=
  let s := s.hubAccept
  if s.fab.go then s.kickFrom [] s.fab.reqs else s

/-- A new request of this module; the response goes to `owner`. -/
def State.newReq (s : State) (owner : Owner) (eng : BitVec 16) (type : Nat) (node : BitVec 16) (addr len : Nat)
    (body : Bytes) : Nat × State :=
  let r := s.fresh
  let q : FabReq := { id := r.1, owner := owner, eng := eng, type := type, node := node, addr := addr, len := len,
                      tag := 0, body := body, atHub := false, sent := false }
  (r.1, (r.2.modFab fun f => { f with reqs := f.reqs ++ [q] }).kick)

/-- The node a load is sent to: a replica that is nearer (R370). -/
def State.replicaOf (s : State) (node : BitVec 16) (addr : Nat) : BitVec 16 :=
  match (List.range 16).find? fun i =>
      let e := fieldNat (Tab.get 0 s.fab.repl i).toNat
      e 96 1 == 1 && e 48 16 == node.toNat && decide (e 0 48 ≤ addr) && decide (addr < e 0 48 + e 64 16 * 65536) with
  | some i =>
    let n := BitVec.ofNat 16 (fieldNat (Tab.get 0 s.fab.repl i).toNat 80 16)
    if s.inPolder n then n else node
  | none => node

/-- Payloads: RD, WR and PUT, ATOM and ATOMN (table Fabric packet types). The global address names the node in bits
[63:48]. -/
def globalBytes (node : BitVec 16) (addr : Nat) : Bytes := toLE 8 (addr % 2 ^ 48 + node.toNat * 2 ^ 48)

def rdBody (node : BitVec 16) (addr len : Nat) : Bytes := globalBytes node addr ++ toLE 2 len

def wrBody (node : BitVec 16) (addr : Nat) (d : Bytes) : Bytes := globalBytes node addr ++ d

def atomBody (node : BitVec 16) (addr aop width : Nat) (val cmp : BitVec 64) : Bytes :=
  globalBytes node addr ++ toLE 1 aop ++ toLE 1 width ++ toLE 6 0 ++ toLE 8 val.toNat ++ toLE 8 cmp.toNat

end Sys2Proof.Machine
end

