-- ==== Sys2Proof/Machine/ColOps.lean ====
section
/-! DEFINITION. The collective engine's shared operations: tree entries, packets, step counters, the end of a bucket and
aborts (12 R382 to R384, R396 to R405; 03 R92, R94). -/

namespace Sys2Proof.Machine

def State.modCol (s : State) (f : Col → Col) : State := { s with col := f s.col }

/-! ## Tree entries and groups -/

def State.tree (s : State) (e : Nat) : BitVec 128 := Tab.get 0 s.col.trees e

/-- A field of COL_TREE. -/
def trFld (w : BitVec 128) (lo n : Nat) : Nat := fieldNat w.toNat lo n

def trEn (w : BitVec 128) : Bool := w.getLsbD 0
def trDirect (w : BitVec 128) : Bool := w.getLsbD 1
def trRoot (w : BitVec 128) : Bool := w.getLsbD 2
def trLocal (w : BitVec 128) : Nat := trFld w 4 4
def trChildren (w : BitVec 128) : List Nat := selectBelow 48 fun l => w.getLsbD (16 + l)
def trMcount (w : BitVec 128) : Nat := trFld w 64 6
def trMrank (w : BitVec 128) : Nat := trFld w 70 6

/-- The link toward the root. -/
def trParent (w : BitVec 128) : Option Nat := if trRoot w then none else some (trFld w 8 6)

def State.memberReg (s : State) (e i : Nat) : BitVec 8 := Tab.get 0 s.col.members (e * 64 + i)

/-- The other members of a DIRECT entry: index and link. -/
def State.members (s : State) (e : Nat) : List (Nat × Nat) :=
  ((List.range (trMcount (s.tree e))).filter fun i => i != trMrank (s.tree e)).map fun i =>
    (i, (s.memberReg e i).toNat % 64)

/-- The links of an entry. -/
def State.treeLinks (s : State) (e : Nat) : List Nat :=
  let w := s.tree e
  if trDirect w then (s.members e).map Prod.snd
  else (trParent w).toList ++ trChildren w

def State.group (s : State) (g : Nat) : Group := Tab.get Group.init s.col.groups g

def State.setGroup (s : State) (g : Nat) (x : Group) : State :=
  s.modCol fun c => { c with groups := Tab.set Group.init c.groups g x }

def Group.en (x : Group) : Bool := x.w.getLsbD 0
def Group.dies (x : Group) : Nat := fieldNat x.w.toNat 1 4
def Group.mfence (x : Group) : Bool := x.w.getLsbD 5
def Group.ftree (x : Group) : Nat := fieldNat x.w.toNat 6 6
def Group.fcount (x : Group) : Nat := fieldNat x.w.toNat 16 13

/-! ## Packets -/

/-- The collective header (table Collective header). -/
def colHeader (kind tag attempt chunk off nelem contrib : Nat) (trunc ovf : Bool) (nan xrank : Nat) : Bytes :=
  toLE 16 (kind + tag * 2 ^ 4 + attempt * 2 ^ 16 + chunk * 2 ^ 24 + off * 2 ^ 46 + nelem * 2 ^ 64 + contrib * 2 ^ 72
    + b2n trunc * 2 ^ 93 + b2n ovf * 2 ^ 94 + nan * 2 ^ 96 + xrank * 2 ^ 104)

/-- Sends a collective payload on a link, as a COLL packet of the collective pump. -/
def State.sendCol (s : State) (l : Nat) (body : Bytes) : State :=
  if 48 ≤ l then s
  else
    let p : Pkt := { dst := (Tab.get Disc.init s.fab.disc l).node, src := s.fab.nodeId, eng := 0xC000, vc := 2, type := 9,
                     ttl := 63, tag := 0, status := 0, body := body }
    ((s.perturb 4 1 (4 + portOf l + 2 * 32)).2).linkPut l 2 p.bytes

/-- A step sideband message on a link that trains or carries traffic (table Step sideband messages). -/
def State.sendStep (s : State) (l kind tag attempt : Nat) (g : BitVec 4) (k : BitVec 32) : State :=
  if 48 ≤ l || (s.link l).state == .off || (s.link l).state == .breached then s
  else s.sendSb l kind 0 (tag + attempt * 2 ^ 12 + g.toNat * 2 ^ 20 + k.toNat * 2 ^ 32)

/-! ## Step counters (R92, R94, R404) -/

/-- Counter `c` is at least `k`, modulo 2^32. -/
def stepGe (c k : BitVec 32) : Bool := decide ((c - k).toNat < 2 ^ 31)

/-- The thread's step fence completes with `v` in its register; one that is being stopped only leaves the wait. -/
def Thread.fenceDone (v : BitVec 64) (rd : Nat) (th : Thread) : Thread :=
  Thread.wake (if th.stopping.isNone then th.putS rd v else th)

/-- Completes the step fences of group `g` whose step satisfies `p`. -/
def State.stepRelease (s : State) (g : Nat) (p : BitVec 32 → Bool) (v : BitVec 64) : State :=
  s.threads.foldl (fun s e => match e.2.wait with
    | some (.step g' k rd) =>
      if g' = g ∧ p k then s.modThread (e.1 / 32) (e.1 % 32) (Thread.fenceDone v rd) else s
    | _ => s) s

/-- Sets the counter of group `g` to `k` when it is below (R404). Fence rounds under way go on. -/
def State.setCounter (s : State) (g : Nat) (k : BitVec 32) : State :=
  let x := s.group g
  if stepGe x.step k then s
  else
    let s := s.setGroup g { x with
      step := k
      ends := x.ends.filter fun e => !stepGe k e.1 }
    s.stepRelease g (stepGe k) 0

/-- Open buckets of a step. -/
def State.openOf (s : State) (g : BitVec 4) (k : BitVec 32) : List Bucket :=
  s.col.buckets.filter fun b => b.par.isSome && b.grp == g && b.step == k

/-- A bucket of the step has ended with LATE and has not completed since (R404). -/
def State.stepHurt (s : State) (g : BitVec 4) (k : BitVec 32) : Bool :=
  s.col.aborted.any fun a => a.2.grp == g && a.2.step == k
    && let y := Tab.get Gone.init s.col.gone a.1
       !(y.valid && !y.late && y.grp == g && y.step == k)

/-- The counter takes `k` once every die has ended the step, none of its buckets is open and none has ended with LATE
(R404). -/
def State.stepCheck (s : State) (g : BitVec 4) (k : BitVec 32) : State :=
  let x := s.group g.toNat
  let ds := (x.ends.find? fun e => e.1 == k).elim 0 Prod.snd
  if x.en && (s.openOf g k).isEmpty && !s.stepHurt g k && ds &&& x.dies == x.dies then s.setCounter g.toNat k else s

/-- A step is aborted: its fences complete with LATE, and what it counted is forgotten for the repeat (R92, R93;
assumption 38). -/
def State.stepLate (s : State) (g : BitVec 4) (k : BitVec 32) : State :=
  let x := s.group g.toNat
  let s := s.setGroup g.toNat { x with
    ends := x.ends.filter fun e => e.1 != k
    rounds := x.rounds.filter fun r => r.k != k }
  s.stepRelease g.toNat (· == k) 1

/-- Every fence of a group completes with LATE (R94). -/
def State.groupLate (s : State) (g : Nat) : State :=
  (s.setGroup g { s.group g with ends := [], rounds := [] }).stepRelease g (fun _ => true) 1

/-! ## The end of a bucket (R396, R405) -/

def State.bucket? (s : State) (tag : Nat) : Option Bucket := s.col.buckets.find? fun b => b.tag == tag

/-- Replaces an open bucket. -/
def State.setBucket (s : State) (b : Bucket) : State :=
  s.modCol fun c => { c with buckets := c.buckets.map fun x => if x.tag = b.tag then b else x }

/-- The bytes written to DST, ascending. -/
def Contrib.received (c : Contrib) : Bytes := c.wrote.map fun e => BitVec.ofNat 8 (e.2 - 1)

/-- The completion record (table Completion record). -/
def Bucket.record (b : Bucket) (late : Bool) (c : Contrib) : Bytes :=
  toLE 1 (b2n late) ++ toLE 1 (b2n b.trunc + b2n b.ovf * 2 + b2n c.clip * 4 + b2n b.mism * 8) ++ toLE 2 b.tag
    ++ toLE 1 b.attempt.toNat ++ toLE 1 b.grp.toNat ++ toLE 2 0 ++ toLE 4 b.step.toNat ++ toLE 4 b.nan
    ++ toLE 8 (crc64 0 c.data) ++ toLE 8 (crc64 0 c.received) ++ List.replicate 32 0

/-- A digest ring entry (COL_DIGEST). -/
def Bucket.digest (b : Bucket) (late : Bool) (die : Nat) (c : Contrib) : BitVec 256 :=
  BitVec.ofNat 256 (b.tag + b.attempt.toNat * 2 ^ 12 + b.grp.toNat * 2 ^ 20 + 2 ^ 24 + b2n late * 2 ^ 25
    + b2n b.trunc * 2 ^ 26 + die * 2 ^ 27 + b.step.toNat * 2 ^ 32 + crc64 0 c.data * 2 ^ 64
    + crc64 0 c.received * 2 ^ 128 + b.nan % 2 ^ 32 * 2 ^ 192 + c.rank * 2 ^ 224)

/-- One local contribution ends: record, digest, signal. A contribution that ended with an error status signals
nothing. -/
def State.endContrib (s : State) (b : Bucket) (late : Bool) (c : Contrib) : State :=
  let s := (s.writeMem c.cist (b.record late c) 2).2
  let s := s.modCol fun x => { x with
    digests := Tab.set 0 x.digests x.digestNext.toNat (b.digest late (s.dieOf c.core) c)
    digestNext := x.digestNext + 1 }
  match s.op? c.op with
  | some o => s.opComplete o
  | none => s

/-- The bucket leaves the table. -/
def State.endBucket (s : State) (b : Bucket) (late : Bool) : State :=
  let y : Gone := ⟨true, b.attempt, b.grp, b.step, late⟩
  let s := s.modCol fun x => { x with
    buckets := x.buckets.filter fun y => y.tag != b.tag
    gone := Tab.set Gone.init x.gone b.tag y
    aborted := if late && !x.aborted.contains (b.tag, y) then x.aborted ++ [(b.tag, y)] else x.aborted
    late := if late then satInc16 x.late else x.late }
  b.locals.foldl (fun s c => s.endContrib b late c) s

/-! ## Aborts (R383, R398 to R403, R408, R410) -/

/-- One bucket is aborted: STEP_ABORT on its links, then its end with LATE (R400). -/
def State.abortOne (s : State) (b : Bucket) : State :=
  let ls := match b.tree with
    | some e => s.treeLinks e
    | none => []
  (ls.foldl (fun s l => s.sendStep l 0x12 b.tag b.attempt.toNat b.grp b.step) s).endBucket b true

/-- Every open bucket of a step is aborted (R400). -/
def State.abortStep (s : State) (g : BitVec 4) (k : BitVec 32) : State :=
  ((s.openOf g k).foldl State.abortOne s).stepLate g k

/-- Aborts the step of a bucket; a bucket known only by EXP ends alone. -/
def State.abortBucket (s : State) (tag : Nat) : State :=
  match s.bucket? tag with
  | none => s
  | some b => if b.par.isSome then s.abortStep b.grp b.step else s.abortOne b

/-- Aborts the buckets that satisfy `p`. -/
def State.abortWhere (s : State) (p : Bucket → Bool) : State :=
  ((s.col.buckets.filter p).map Bucket.tag).foldl State.abortBucket s

/-- A link becomes BREACHED or ISOLATED, or the fabric stops on it (R399, R337). -/
def State.colLinkLost (s : State) (l : Nat) : State :=
  s.abortWhere fun b => match b.tree with
    | some e => (s.treeLinks e).contains l
    | none => false

/-- An address lies in the scratchpad of core `c`, in either form. -/
def State.inSpad (s : State) (c a : Nat) : Bool :=
  (decide (spadAddr c 0 ≤ a) && decide (a < spadAddr c 0 + 0x4000000))
    || (decide (physBase + s.siteOf c * 0x4000000 ≤ a) && decide (a < physBase + (s.siteOf c + 1) * 0x4000000))

/-- Core `c` is diked: buckets that depend on it are aborted (R403). -/
def State.colDike (s : State) (c : Nat) : State :=
  s.abortWhere fun b => b.locals.any fun x => x.core == c || s.inSpad c x.src || s.inSpad c x.dst || s.inSpad c x.cist

/-- Mismatch: MISMATCH is set, and the step aborted (R379, R388). -/
def State.colMismatch (s : State) (b : Bucket) : State := (s.setBucket { b with mism := true }).abortBucket b.tag

end Sys2Proof.Machine
end

