-- ==== Sys2Proof/Machine/Collective.lean ====
section
/-! DEFINITION. The rounds of a bucket (12 R386 to R397; 02 R46 to R50): exponent maxima, windows, sums, rounding,
results, and the copy operations. One pass carries a bucket as far as what it holds allows. -/

namespace Sys2Proof.Machine

/-! ## Parameters -/

def CPar.default : CPar := ⟨0, 0, 0, 0, 1, 1, 0, 64⟩

def CPar.red (p : CPar) : Bool := decide (p.op < 2)
def CPar.direct (p : CPar) : Bool := p.mode.testBit 3

/-- Elements of the bucket's element space (R386). That of ALL_TO_ALL_V is not in the descriptor: its chunks follow from
the counts (`Bucket.nch`). -/
def CPar.space (p : CPar) : Nat :=
  match p.op with
  | 2 => p.n * p.count
  | 4 => p.n * p.count
  | 5 => 1
  | _ => p.count

def CPar.nch (p : CPar) : Nat := ceilDiv p.space (max 1 p.chunk)

/-- Elements of chunk `c`. -/
def CPar.len (p : CPar) (c : Nat) : Nat := min p.chunk (p.space - c * p.chunk)

/-- First element of the slice of rank `r` (table Operations, REDUCE_SCATTER). -/
def CPar.rsLo (p : CPar) (r : Nat) : Nat := r * p.count / max 1 p.n

def Bucket.p (b : Bucket) : CPar := b.par.getD CPar.default

def Bucket.chunk (b : Bucket) (c : Nat) : CChunk := Tab.get CChunk.init b.chunks c

def Bucket.modChunk (b : Bucket) (c : Nat) (f : CChunk → CChunk) : Bucket :=
  { b with chunks := Tab.set CChunk.init b.chunks c (f (b.chunk c)) }

/-- Applies `f` to an open bucket. -/
def State.onBucket (s : State) (tag : Nat) (f : State → Bucket → State) : State :=
  match s.bucket? tag with
  | some b => f s b
  | none => s

def Bucket.entry (s : State) (b : Bucket) : BitVec 128 :=
  match b.tree with
  | some e => s.tree e
  | none => 0

/-- Contributions counted in this module's subtree (R387). -/
def Bucket.sub (b : Bucket) : Nat :=
  b.locals.length + if b.p.direct then 0 else (b.opens.map COpen.contrib).sum

/-- The slice of chunk `c` that member `m` of `k` owns (R389). -/
def CPar.slice (p : CPar) (c m k : Nat) : Nat × Nat := (m * p.len c / max 1 k, (m + 1) * p.len c / max 1 k)

/-- Cuts a list into pieces of `n`. -/
def pieces {α : Type} (n : Nat) : Nat → List α → List (List α)
  | 0, _ => []
  | fuel + 1, l => if l.isEmpty then [] else l.take n :: pieces n fuel (l.drop n)

/-! ## Block-window fixed point (R46 to R50) -/

/-- The value of an A96 container (R44). -/
def containerVal (v : Nat) : FVal :=
  if v.testBit 106 || (v.testBit 107 && v.testBit 108) then .nan
  else if v.testBit 107 then .inf false
  else if v.testBit 108 then .inf true
  else
    let a := signedNat 96 v
    .fin (decide (a < 0)) a.natAbs (signedNat 10 (fieldNat v 96 10))

/-- Element `i` of a contribution. -/
def Contrib.elem (p : CPar) (x : Contrib) (i : Nat) : FVal :=
  let z := fmtBytes p.ifmt
  let v := leField x.data (i * z) z
  if p.ifmt = 8 then containerVal v else decodeFmt p.ifmt v

/-- No finite non-zero element in a block, as it travels in OPEN and EXP (assumption 39). -/
def noMax : Int := -32768

/-- eexp of R46; noMax for zero, infinity and NaN. -/
def eexpOf (fmt : Nat) : FVal → Int
  | .fin _ m e => if m = 0 then noMax else if fmt = 0 ∨ fmt = 2 then max (flog2 m e) (-126) else flog2 m e
  | _ => noMax

/-- Blocks of chunk `c`. -/
def CPar.blocks (p : CPar) (c : Nat) : Nat := ceilDiv (p.len c) 64

/-- The maxima of the local contributions, by block of chunk `c`. -/
def Bucket.localMax (b : Bucket) (c : Nat) : List Int :=
  let p := b.p
  (List.range (p.blocks c)).map fun j =>
    b.locals.foldl (fun m x => (List.range (min 64 (p.len c - 64 * j))).foldl (fun m i =>
      max m (eexpOf p.ifmt (x.elem p (c * p.chunk + 64 * j + i)))) m) noMax

/-- Elementwise maximum. -/
def maxList (a b : List Int) : List Int := (List.range (max a.length b.length)).map fun i => max (a.getD i noMax) (b.getD i noMax)

/-- t of a block with maximum `m` (R46). -/
def CPar.weight (p : CPar) (m : Int) : Int := (if m = noMax then -126 else m) + (ceilLog2 p.n + 1 : Nat)

/-- The special flags of a value: NAN, PINF, NINF, ALLNEGZERO (R49). -/
def specOf : FVal → Nat
  | .nan => 1
  | .inf false => 2
  | .inf true => 4
  | .fin neg m _ => if neg ∧ m = 0 then 8 else 0

/-- A stream of windows: first element of the chunk, windows, flags, contributions summed, TRUNC, OVF. -/
structure WStream where
  off : Nat
  ws : List Int
  flags : List Nat
  contrib : Nat
  trunc : Bool
  ovf : Bool
  deriving DecidableEq, Repr

/-- Local contribution `x` on elements [lo, hi) of chunk `c`. -/
def Contrib.stream (p : CPar) (ts : List Int) (c lo hi : Nat) (ovf : Bool) (x : Contrib) : WStream :=
  let vs := (List.range (hi - lo)).map fun i => x.elem p (c * p.chunk + lo + i)
  let r := vs.zipIdx.map fun v => windowOf (p.weight (ts.getD ((lo + v.2) / 64) noMax)) v.1
  ⟨lo, r.map Prod.fst, vs.map specOf, 1, r.any Prod.snd, ovf⟩

/-- Adds windows (R46 step 3, R393, R394). -/
def WAcc.addWin (a : WAcc) (off : Nat) (ws : List Int) (contrib : Nat) (trunc ovf : Bool) : WAcc := { a with
  win := ws.zipIdx.foldl (fun m e => Tab.set 0 m (off + e.2) (Tab.get 0 m (off + e.2) + e.1)) a.win
  got := a.got + ws.length * contrib
  trunc := a.trunc || trunc
  ovf := a.ovf || ovf }

/-- Adds special flags, by element: OR, and a count for ALLNEGZERO. -/
def WAcc.addSpec (a : WAcc) (es : List (Nat × Nat)) (contrib : Nat) : WAcc := { a with
  flags := es.foldl (fun m e => Tab.set 0 m e.1 (Tab.get 0 m e.1 ||| e.2 % 8)) a.flags
  neg := es.foldl (fun m e => if e.2.testBit 3 then Tab.set 0 m e.1 (Tab.get 0 m e.1 + contrib) else m) a.neg }

/-- The elements of a stream that have special flags. -/
def WStream.spec (w : WStream) : List (Nat × Nat) :=
  (w.flags.zipIdx.filter fun f => f.1 != 0).map fun f => (w.off + f.2, f.1)

def WAcc.addStream (a : WAcc) (w : WStream) : WAcc :=
  (a.addSpec w.spec w.contrib).addWin w.off w.ws w.contrib w.trunc w.ovf

/-- What has been summed on [lo, hi), as one stream of `n` contributions. -/
def WAcc.stream (a : WAcc) (lo hi n : Nat) (ovf : Bool) : WStream :=
  ⟨lo, (List.range (hi - lo)).map fun i => Tab.get 0 a.win (lo + i),
    (List.range (hi - lo)).map fun i => Tab.get 0 a.flags (lo + i) + if Tab.get 0 a.neg (lo + i) = n then 8 else 0,
    n, a.trunc, a.ovf || ovf⟩

/-- The result of one element in OFMT, and the flags of its conversion (R33, R46 step 4, R49, R50). -/
def CPar.roundElem (p : CPar) (t : Int) (flags neg : Nat) (sum : Int) : Nat × BitVec 4 :=
  let v : FVal :=
    if flags.testBit 0 || (flags.testBit 1 && flags.testBit 2) then .nan
    else if flags.testBit 1 then .inf false
    else if flags.testBit 2 then .inf true
    else if sum = 0 then .fin (neg == p.n) 0 0
    else .fin (decide (sum < 0)) sum.natAbs (t - 127)
  convFmt p.ofmt ((rmodeOf (p.mode % 8)).getD .rne) 0 v

/-- The code is the canonical NaN of the format (R395). -/
def isCanonNan (fmt code : Nat) : Bool :=
  match ffmtOf fmt with
  | some f => code == f.canonNan
  | none => false

/-! ## Sending -/

/-- Sends a stream of windows: SPEC before WIN, so that the flags are there when the windows complete. -/
def State.sendStream (s : State) (b : Bucket) (l c : Nat) (w : WStream) : State :=
  let sp := w.spec
  let s := (pieces 60 (sp.length + 1) sp).foldl (fun s es =>
    s.sendCol l (colHeader 4 b.tag b.attempt.toNat c (es.headD (0, 0)).1 es.length w.contrib false w.ovf 0 0
      ++ es.flatMap fun e => toLE 4 (e.1 + e.2 * 4096))) s
  (pieces 15 (w.ws.length + 1) w.ws).zipIdx.foldl (fun s e =>
    s.sendCol l (colHeader 3 b.tag b.attempt.toNat c (w.off + 15 * e.2) e.1.length w.contrib w.trunc w.ovf 0 0
      ++ e.1.flatMap fun x => toLE 16 (wrapInt 128 x))) s

/-- Exponent maxima as i16. -/
def maxBytes (mx : List Int) : Bytes := mx.flatMap fun m => toLE 2 (wrapInt 16 m)

/-- The parameter bytes 16 to 47 of OPEN (assumption 40). -/
def openParams (p : CPar) (g : BitVec 4) (k : BitVec 32) : Bytes :=
  toLE 1 p.op ++ toLE 1 (p.ifmt + 16 * p.ofmt) ++ toLE 1 p.mode ++ toLE 1 p.depth ++ toLE 4 p.n ++ toLE 4 p.count
    ++ toLE 4 p.chunk ++ toLE 4 k.toNat ++ toLE 1 g.toNat ++ List.replicate 11 0

/-- OPEN, with the maxima of chunk 0 for reductions (R387). -/
def State.sendOpen (s : State) (b : Bucket) (l : Nat) (mx : List Int) : State :=
  let w := b.entry s
  let ranks := (b.locals.map Contrib.rank).take 4
  s.sendCol l (colHeader 0 b.tag b.attempt.toNat 0 0 mx.length b.sub false (!b.admitted) 0
      (if b.p.direct then trMrank w else 0)
    ++ openParams b.p b.grp b.step ++ (ranks.flatMap (toLE 4)) ++ List.replicate (16 - 4 * ranks.length) 0
    ++ maxBytes mx)

/-- EXP or TV of chunk `c`. -/
def State.sendMax (s : State) (b : Bucket) (kind l c : Nat) (mx : List Int) : State :=
  s.sendCol l (colHeader kind b.tag b.attempt.toNat c 0 mx.length 0 false (!b.admitted) 0 0 ++ maxBytes mx)

/-- The links toward which OPEN and EXP go. -/
def Bucket.upLinks (s : State) (b : Bucket) : List Nat :=
  match b.tree with
  | none => []
  | some e => if b.p.direct then (s.members e).map Prod.snd else (trParent (s.tree e)).toList

/-- The links from which OPEN and EXP come. -/
def Bucket.downLinks (s : State) (b : Bucket) : List Nat :=
  match b.tree with
  | none => []
  | some e => if b.p.direct then (s.members e).map Prod.snd else trChildren (s.tree e)

/-- This module rounds whole chunks (TREE root). -/
def Bucket.isRoot (s : State) (b : Bucket) : Bool := !b.p.direct && trRoot (b.entry s)

/-! ## Delivery (R395 to R397) -/

/-- Writes bytes at offset `o` of the DST of the contribution of operation `op`; an error status ends the contribution
and aborts the bucket (R399). -/
def State.putDst (s : State) (tag op o : Nat) (d : Bytes) : State :=
  s.onBucket tag fun s b =>
    match b.locals.find? fun x => x.op == op, d with
    | none, _ => s
    | _, [] => s
    | some x, d => match s.writeMem (x.dst + o) d 2 with
      | (.ok _, s) => s.setBucket { b with locals := b.locals.map fun y =>
          if y.op = op then { y with wrote := Tab.setRange 0 y.wrote o (d.map fun v => v.toNat + 1) } else y }
      | (.error e, s) =>
        let r := s.destVal x.core (x.dst + o)
        let s := match r.2.op? op with
          | some a => r.2.opFail a e r.1
          | none => r.2
        s.abortBucket tag

/-- Counts delivered elements of a chunk. -/
def State.addGot (s : State) (tag c n : Nat) : State :=
  s.onBucket tag fun s b => s.setBucket (b.modChunk c fun k => { k with got := k.got + n })

/-- Delivers results from element `g` on to the local contributions that take them. -/
def State.deliverRes (s : State) (tag g : Nat) (codes : Bytes) : State :=
  s.onBucket tag fun s b =>
    let p := b.p
    let z := fmtBytes p.ofmt
    b.locals.foldl (fun s x =>
      let lo := if p.op = 1 then p.rsLo x.rank else 0
      let hi := if p.op = 1 then p.rsLo (x.rank + 1) else p.count
      let a := max lo g
      let e := min hi (g + codes.length / z)
      if a < e then s.putDst tag x.op ((a - lo) * z) (slice codes ((a - g) * z) ((e - a) * z)) else s) s

/-- A member holds a rank whose slice meets elements [lo, hi) (R387, REDUCE_SCATTER). -/
def CPar.wants (p : CPar) (o : COpen) (lo hi : Nat) : Bool :=
  p.op == 0 || decide (o.ranks.length < o.contrib)
    || o.ranks.any fun r => decide (p.rsLo r < hi) && decide (lo < p.rsLo (r + 1))

/-- A count of NaN results goes in as many NANCNT fields as it needs; the last is below 240 (R394, R395). -/
def nanParts : Nat → Nat → List Nat
  | 0, _ => []
  | fuel + 1, n => if n < 240 then [n] else 240 :: nanParts fuel (n - 240)

/-- The conversion's flags at the rounding place go to the threads whose contributions it holds (R33; assumption 103). -/
def State.colFlags (s : State) (b : Bucket) (f : BitVec 4) : State :=
  if f = 0 then s
  else b.locals.foldl (fun s x => match s.op? x.op with
    | some o => s.opFlags o f
    | none => s) s

/-- Sends RES on a link. -/
def State.sendRes (s : State) (b : Bucket) (l c off n nan : Nat) (trunc ovf : Bool) (codes : Bytes) : State :=
  s.sendCol l (colHeader 5 b.tag b.attempt.toNat c off n 0 trunc (ovf || !b.admitted) nan 0 ++ codes)

/-- Rounds [lo, hi) of chunk `c`, delivers it and sends RES (R387, R389, R393, R395). A member whose ranks take none of
the results gets TRUNC, OVF and the NaN count alone, which every participant reports (R394, R395). -/
def State.roundSlice (s : State) (tag c lo hi : Nat) (a : WAcc) : State :=
  s.onBucket tag fun s b =>
    let p := b.p
    let z := fmtBytes p.ofmt
    let ts := (b.chunk c).ts.getD []
    let rs := (List.range (hi - lo)).map fun i =>
      p.roundElem (p.weight (ts.getD ((lo + i) / 64) noMax)) (Tab.get 0 a.flags (lo + i)) (Tab.get 0 a.neg (lo + i))
        (Tab.get 0 a.win (lo + i))
    let codes := rs.map Prod.fst
    let s := s.colFlags b (rs.foldl (fun f r => f ||| r.2) 0)
    let nan := codes.countP (isCanonNan p.ofmt)
    let ps := (pieces (240 / z) (codes.length + 1) codes).zipIdx
    let base := c * p.chunk
    let s := (b.downLinks s).foldl (fun s l =>
      let full := match b.opens.find? fun o => o.link == l with
        | some o => !p.direct || p.wants o (base + lo) (base + hi)
        | none => true
      if full then ps.foldl (fun s e => s.sendRes b l c (lo + 240 / z * e.2) e.1.length
          (e.1.countP (isCanonNan p.ofmt)) a.trunc a.ovf (e.1.flatMap (toLE z))) s
      else (nanParts (nan + 1) nan).foldl (fun s n => s.sendRes b l c lo 0 n a.trunc a.ovf []) s) s
    let s := s.setBucket { b.modChunk c fun k => { k with rounded := true } with
      trunc := b.trunc || a.trunc
      ovf := b.ovf || a.ovf
      nan := b.nan + nan }
    (s.deliverRes tag (base + lo) (codes.flatMap (toLE z))).addGot tag c (hi - lo)

/-- Rounds or forwards what is complete in a chunk (R393). -/
def State.sumCheck (s : State) (tag c : Nat) : State :=
  s.onBucket tag fun s b =>
    let p := b.p
    let w := b.entry s
    let k := b.chunk c
    let m := if p.direct then trMrank w else 0
    let sl := if p.direct then p.slice c m (trMcount w) else (0, p.len c)
    let a := Tab.get WAcc.init k.accs m
    if k.rounded || k.ts.isNone || sl.1 == sl.2 then s
    else if p.direct || trRoot w then
      if a.got = (sl.2 - sl.1) * p.n then s.roundSlice tag c sl.1 sl.2 a else s
    else if b.admitted && a.got == p.len c * b.sub then
      let s := s.setBucket (b.modChunk c fun k => { k with rounded := true, accs := [] })
      (trParent w).toList.foldl (fun s l => s.sendStream b l c (a.stream 0 (p.len c) b.sub false)) s
    else s

/-- The staging of chunk `c` in a cistern region: of each of DEPTH chunks a window of 16 bytes and four flags for every
element (R380, R393; assumption 118). -/
def CPar.staging (p : CPar) (c : Nat) : Nat := 64 + c % max 1 p.depth * (16 * p.chunk + p.chunk / 2)

/-- The local contribution of lowest rank. -/
def Bucket.lowest (b : Bucket) : Option Contrib :=
  b.locals.foldl (fun m x => match m with
    | none => some x
    | some y => if x.rank < y.rank then some x else some y) none

/-- The rounding place keeps the sums of elements [lo, hi) in the cistern region of its lowest rank (R393). -/
def State.stage (s : State) (tag c m lo hi : Nat) : State :=
  s.onBucket tag fun s b =>
    let p := b.p
    match if p.direct || b.isRoot s then b.lowest else none with
    | none => s
    | some x =>
      let a := Tab.get WAcc.init (b.chunk c).accs m
      let at' := x.cist + p.staging c
      let nib := fun i => Tab.get 0 a.flags i + if Tab.get 0 a.neg i = 0 then 0 else 8
      let ws := (List.range (hi - lo)).flatMap fun i => toLE 16 (wrapInt 128 (Tab.get 0 a.win (lo + i)))
      let fs := (List.range ((hi + 1) / 2 - lo / 2)).map fun i =>
        BitVec.ofNat 8 (nib (2 * (lo / 2 + i)) + 16 * nib (2 * (lo / 2 + i) + 1))
      ((s.writeMem (at' + 16 * lo) ws 2).2.writeMem (at' + 16 * p.chunk + lo / 2) fs 2).2

/-- Adds to the sums of slice `m` of a chunk, on elements [lo, hi). -/
def State.addAcc (s : State) (tag c m lo hi : Nat) (f : WAcc → WAcc) : State :=
  (s.onBucket tag fun s b => s.setBucket (b.modChunk c fun k =>
    { k with accs := Tab.set WAcc.init k.accs m (f (Tab.get WAcc.init k.accs m)) })).stage tag c m lo hi

/-- The local contributions' windows of a chunk, once emax is known (R390, R392). -/
def State.localWindows (s : State) (tag c : Nat) : State :=
  s.onBucket tag fun s b =>
    let p := b.p
    let w := b.entry s
    let ts := (b.chunk c).ts.getD []
    let ovf := !b.admitted
    if p.direct then
      let s := (s.members (b.tree.getD 0)).foldl (fun s e =>
        let sl := p.slice c e.1 (trMcount w)
        if sl.1 == sl.2 then s
        else
          let st := b.locals.map (Contrib.stream p ts c sl.1 sl.2 ovf)
          if b.admitted && !st.isEmpty then
            s.sendStream b e.2 c ((st.foldl WAcc.addStream WAcc.init).stream sl.1 sl.2 st.length false)
          else st.foldl (fun s x => s.sendStream b e.2 c x) s) s
      let m := trMrank w
      let sl := p.slice c m (trMcount w)
      b.locals.foldl (fun s x => s.addAcc tag c m sl.1 sl.2 fun a => a.addStream (x.stream p ts c sl.1 sl.2 ovf)) s
    else
      let st := b.locals.map (Contrib.stream p ts c 0 (p.len c) ovf)
      let add := fun s : State => st.foldl (fun s x => s.addAcc tag c 0 0 (p.len c) fun a => a.addStream x) s
      if b.admitted then add s
      else match trParent w with
        | some l => st.foldl (fun s x => s.sendStream b l c x) s
        | none => add s

/-- emax of a chunk is known: TV goes down and the windows follow (R390). -/
def State.setTs (s : State) (tag c : Nat) (ts : List Int) : State :=
  s.onBucket tag fun s b =>
    let s := s.setBucket (b.modChunk c fun k => { k with ts := some ts })
    let s := if b.p.direct then s else (b.downLinks s).foldl (fun s l => s.sendMax b 2 l c ts) s
    (s.localWindows tag c).sumCheck tag c

/-- The exponent round of a chunk, as far as it can go (R387, R390). -/
def State.maxRound (s : State) (tag c : Nat) : State :=
  s.onBucket tag fun s b =>
    let k := b.chunk c
    let from? := b.downLinks s
    let all := from?.all fun l => k.mx.any fun e => e.1 == l
    let mine := b.localMax c
    let total := k.mx.foldl (fun m e => maxList m e.2) mine
    if !b.started || k.ts.isSome then s
    else
      let up := if b.p.direct then mine else total
      let canSend := b.p.direct || all
      let s := if k.sent || !canSend then s
        else
          let s := s.setBucket (b.modChunk c fun k => { k with sent := true })
          (b.upLinks s).foldl (fun s l => if c = 0 then s.sendOpen b l up else s.sendMax b 1 l c up) s
      if (b.p.direct || b.isRoot s) && b.checked && all then s.setTs tag c total else s

/-! ## Copy operations (R387) -/

/-- Sends DATA from element `g` of the layout, packet by packet within its chunk. -/
def State.sendData (s : State) (b : Bucket) (l g contrib xrank : Nat) (d : Bytes) : State :=
  let p := b.p
  let z := fmtBytes p.ifmt
  (pieces (240 / z * z) (d.length + 1) d).zipIdx.foldl (fun s e =>
    let at' := g + 240 / z * e.2
    s.sendCol l (colHeader 6 b.tag b.attempt.toNat (at' / max 1 p.chunk) (at' % max 1 p.chunk) (e.1.length / z) contrib false
      (!b.admitted) 0 xrank ++ e.1)) s

/-- Writes copied elements, from element `g`, to every local DST, or to that of rank `r` alone. -/
def State.deliverCopy (s : State) (tag g : Nat) (r : Option Nat) (d : Bytes) : State :=
  s.onBucket tag fun s b =>
    let z := fmtBytes b.p.ifmt
    let s := b.locals.foldl (fun s x =>
      if r = none ∨ r = some x.rank then s.putDst tag x.op (g * z) d else s) s
    s.addGot tag (g / max 1 b.p.chunk) (d.length / z)

/-- What contribution `x` gives to elements [lo, hi) of the layout of rank `dest`: first element and bytes. -/
def Contrib.piece (p : CPar) (x : Contrib) (dest lo hi : Nat) : Nat × Bytes :=
  let z := fmtBytes p.ifmt
  let first := if p.op = 3 then 0 else x.rank * p.count
  let last := if p.op = 3 then (if x.rank = 0 then p.count else 0) else first + p.count
  let a := max lo first
  let e := min hi last
  let src := if p.op = 4 then dest * p.count + (a - first) else a - first
  if a < e then (a, slice x.data (src * z) ((e - a) * z)) else (a, [])

/-- The other members with their ranks. -/
def Bucket.peers (s : State) (b : Bucket) : List (Nat × List Nat) :=
  (b.downLinks s).map fun l => (l, match b.opens.find? fun o => o.link == l with
    | some o => o.ranks
    | none => [])

/-- A chunk of a copy operation begins on this module. -/
def State.copyBegin (s : State) (tag c : Nat) : State :=
  s.onBucket tag fun s b =>
    let p := b.p
    let lo := c * p.chunk
    let hi := lo + p.len c
    let s := s.setBucket (b.modChunk c fun k => { k with begun := true })
    b.locals.foldl (fun s x =>
      if p.op = 4 then
        let s := (b.peers s).foldl (fun s m => m.2.foldl (fun s j =>
          let y := x.piece p j lo hi
          s.sendData b m.1 y.1 j x.rank y.2) s) s
        b.locals.foldl (fun s t =>
          let y := x.piece p t.rank lo hi
          s.deliverCopy tag y.1 (some t.rank) y.2) s
      else
        let y := x.piece p 0 lo hi
        if y.2.isEmpty then s
        else if p.direct then
          ((b.downLinks s).foldl (fun s l => s.sendData b l y.1 0 0 y.2) s).deliverCopy tag y.1 none y.2
        else match trParent (b.entry s) with
          | some l => s.sendData b l y.1 0 0 y.2
          | none => ((b.downLinks s).foldl (fun s l => s.sendData b l y.1 0 0 y.2) s).deliverCopy tag y.1 none y.2) s

/-- Copied data may be used: the layout and its readers are known. -/
def Bucket.ready (s : State) (b : Bucket) : Bool := b.started && (b.checked || (!b.p.direct && !b.isRoot s))

/-- A DATA packet of elements from `g`, on link `l`. -/
def State.takeData (s : State) (tag l g dest : Nat) (d : Bytes) : State :=
  s.onBucket tag fun s b =>
    let w := b.entry s
    let down := fun s : State => (b.downLinks s).foldl (fun s l => s.sendData b l g 0 0 d) s
    if b.p.direct then s.deliverCopy tag g (if b.p.op = 4 then some dest else none) d
    else if trRoot w || trParent w == some l then (down s).deliverCopy tag g none d
    else (trParent w).toList.foldl (fun s l => s.sendData b l g 0 0 d) s

/-! ## ALL_TO_ALL_V (R397; assumptions 41 and 42) -/

/-- scount[j] of a contribution. -/
def Contrib.scount (x : Contrib) (j : Nat) : Nat := leField x.scnt (4 * j) 4

/-- Block `j` of a contribution. -/
def Contrib.block (p : CPar) (x : Contrib) (j : Nat) : Bytes :=
  let z := fmtBytes p.ifmt
  slice x.data (((List.range j).map x.scount).sum * z) (x.scount j * z)

/-- The counts have left: those of the local ranks are among the counts. -/
def Bucket.counted (b : Bucket) : Bool := b.cnts.any fun e => b.locals.any fun x => x.rank == e.1

/-- The counts leave. -/
def State.vSend (s : State) (tag : Nat) : State :=
  s.onBucket tag fun s b =>
    let s := s.setBucket { b with
      cnts := b.cnts ++ b.locals.flatMap fun x => b.locals.map fun t => (x.rank, t.rank, x.scount t.rank) }
    (b.peers s).foldl (fun s m =>
      let cs := b.locals.flatMap fun x => m.2.map x.scount
      s.sendCol m.1 (colHeader 7 b.tag b.attempt.toNat 0 0 cs.length 0 false (!b.admitted) 0 0
        ++ cs.flatMap (toLE 4))) s

/-- rcount[i] of local rank `r`. -/
def Bucket.rcnt (b : Bucket) (i r : Nat) : Nat :=
  match b.cnts.find? fun e => e.1 == i && e.2.1 == r with
  | some e => e.2.2
  | none => 0

/-- Chunks of the bucket. Those of ALL_TO_ALL_V cut every block alike, since no sender knows where a block lies in the
layout of its receiver; they number as the longest block needs (assumption 42). -/
def Bucket.nch (b : Bucket) : Nat :=
  if b.p.op ≠ 5 then b.p.nch
  else
    let most := (List.range b.p.n).foldl (fun m i => b.locals.foldl (fun m x =>
      max m (max (x.scount i) (b.rcnt i x.rank))) m) 0
    ceilDiv most (max 1 b.p.chunk)

/-- Every count is in: rcount is written before any DATA, and the first chunks begin. -/
def State.vCounts (s : State) (tag : Nat) : State :=
  s.onBucket tag fun s b =>
    let p := b.p
    if !b.rcount && b.checked && b.cnts.length == p.n * b.locals.length then
      let s := s.setBucket { b with
        rcount := true
        flight := List.range (min p.depth b.nch)
        locals := b.locals.map fun x =>
          { x with clip := decide (x.dcap < ((List.range p.n).map fun i => b.rcnt i x.rank).sum) } }
      b.locals.foldl (fun s x =>
        match s.readMem (x.aux + 8) 8 2 with
        | (.ok a, s) => match s.writeMem (fromLE a) ((List.range p.n).flatMap fun i => toLE 4 (b.rcnt i x.rank)) 2 with
          | (.ok _, s) => s
          | (.error e, s) =>
            let r := s.destVal x.core (fromLE a)
            (match r.2.op? x.op with
              | some o => r.2.opFail o e r.1
              | none => r.2).abortBucket tag
        | (.error e, s) =>
          let r := s.destVal x.core x.aux
          (match r.2.op? x.op with
            | some o => r.2.opFail o e r.1
            | none => r.2).abortBucket tag) s
    else s

/-- Elements `g` on of the block from rank `i` to local rank `r` (R397): what lies past DCAP is discarded. -/
def State.vData (s : State) (tag g i r : Nat) (d : Bytes) : State :=
  s.onBucket tag fun s b =>
    let z := fmtBytes b.p.ifmt
    let o := ((List.range i).map fun j => b.rcnt j r).sum + g
    let s := b.locals.foldl (fun s x =>
      if x.rank = r then s.putDst tag x.op (o * z) (d.take ((x.dcap - o) * z)) else s) s
    (s.onBucket tag fun s b => s.setBucket { b with vgot := b.vgot + d.length / z }).addGot tag (g / max 1 b.p.chunk)
      (d.length / z)

/-- A chunk of ALL_TO_ALL_V begins: its part of every block leaves, or goes to another local rank. -/
def State.vBegin (s : State) (tag c : Nat) : State :=
  s.onBucket tag fun s b =>
    let p := b.p
    let z := fmtBytes p.ifmt
    let g := c * p.chunk
    let part := fun (x : Contrib) j => slice (x.block p j) (g * z) (min (p.chunk * z) ((x.scount j - g) * z))
    let s := s.setBucket (b.modChunk c fun k => { k with begun := true })
    b.locals.foldl (fun s x =>
      let s := (b.peers s).foldl (fun s m => m.2.foldl (fun s j => s.sendData b m.1 g j x.rank (part x j)) s) s
      b.locals.foldl (fun s t => s.vData tag g x.rank t.rank (part x t.rank)) s) s

/-- The elements that make a chunk delivered: every local DST has them. -/
def Bucket.need (b : Bucket) (c : Nat) : Nat :=
  match b.p.op with
  | 4 => b.p.len c * b.locals.length
  | 5 => (b.locals.map fun x => ((List.range b.p.n).map fun i =>
      min b.p.chunk (b.rcnt i x.rank - c * b.p.chunk)).sum).sum
  | _ => b.p.len c

/-- Every element has been taken. -/
def Bucket.vDone (b : Bucket) : Bool :=
  b.rcount && b.vgot == (b.locals.map fun x => ((List.range b.p.n).map fun i => b.rcnt i x.rank).sum).sum

/-! ## A pass -/

/-- Every local contribution is in: each die of LOCAL has one (R387; assumption 43). -/
def Bucket.localReady (s : State) (b : Bucket) : Bool :=
  (List.range 4).all fun d => !(trLocal (b.entry s)).testBit d || b.locals.any fun x => s.dieOf x.core == d

/-- An OPEN's parameters are this module's (R388). -/
def Bucket.agrees (b : Bucket) (o : COpen) : Bool := some o.par == b.par && o.grp == b.grp && o.step == b.step

/-- OPEN goes out once the contributions and, under TREE, the children's OPEN are in (R387); the root's checks
(R388). -/
def State.tryStart (s : State) (tag : Nat) : State :=
  s.onBucket tag fun s b =>
    let p := b.p
    let kids := p.direct || (b.downLinks s).all fun l => b.opens.any fun o => o.link == l
    if b.started || b.par.isNone || b.tree.isNone || !b.localReady s || !kids then s
    else
      let b' := { b with started := true, flight := if p.op = 5 then [] else List.range (min p.depth p.nch) }
      if b.isRoot s then
        if b.sub = p.n ∧ b.opens.all b.agrees = true then s.setBucket { b' with checked := true }
        else s.colMismatch b
      else
        let s := s.setBucket b'
        if p.red then s else (b'.upLinks s).foldl (fun s l => s.sendOpen b' l []) s

/-- The check of a DIRECT member once it holds every OPEN (R388). -/
def State.tryCheck (s : State) (tag : Nat) : State :=
  s.onBucket tag fun s b =>
    let p := b.p
    let ranks := b.locals.map Contrib.rank ++ b.opens.flatMap COpen.ranks
    if !p.direct || !b.started || b.checked || !(b.downLinks s).all (fun l => b.opens.any fun o => o.link == l) then s
    else if b.locals.length + (b.opens.map COpen.contrib).sum = p.n ∧ b.opens.all b.agrees = true ∧ ranks.Nodup then
      s.setBucket { b with checked := true }
    else s.colMismatch b

/-- A chunk in flight goes as far as it can; a delivered chunk lets chunk c + DEPTH begin (R387). -/
def State.chunkPass (tag : Nat) (s : State) (c : Nat) : State :=
  let s := s.onBucket tag fun s b =>
    let s := if (b.chunk c).begun || !(if b.p.red then b.started else b.ready s) then s else (s.perturb 7 1 ((tag + c) % 8)).2
    if b.p.red then
      (s.setBucket (b.modChunk c fun k => { k with begun := true })).maxRound tag c
    else if (b.chunk c).begun = true ∨ b.ready s = false then s
    else if b.p.op = 5 then s.vBegin tag c
    else s.copyBegin tag c
  s.onBucket tag fun s b =>
    let k := b.chunk c
    if k.begun && k.got == b.need c && b.flight.contains c then
      let next := if c + b.p.depth < b.nch then [c + b.p.depth] else []
      s.setBucket { b with
        flight := b.flight.filter (· != c) ++ next
        delivered := b.delivered + 1
        chunks := Tab.erase b.chunks c }
    else s

/-- Packets that waited, once they can be taken. -/
def State.takeEarly (s : State) (tag : Nat) : State :=
  s.onBucket tag fun s b =>
    let ok := if b.p.op = 5 then b.rcount else b.ready s
    if !ok || b.early.isEmpty then s
    else
      let s := s.setBucket { b with early := [] }
      b.early.foldl (fun s e =>
        let g := leField e.2 0 16
        let at' := fieldNat g 24 22 * b.p.chunk + fieldNat g 46 12
        if b.p.op = 5 then s.vData tag at' (fieldNat g 104 21) (fieldNat g 72 21) (e.2.drop 16)
        else s.takeData tag e.1 at' (fieldNat g 72 21) (e.2.drop 16)) s

/-- One pass over a bucket. -/
def State.colPass (s : State) (tag : Nat) : State :=
  let s := (s.tryStart tag).tryCheck tag
  let s := s.onBucket tag fun s b =>
    if b.p.op = 5 ∧ b.checked = true ∧ b.counted = false then s.vSend tag else s
  let s := (s.vCounts tag).takeEarly tag
  s.onBucket tag fun s b => b.flight.foldl (State.chunkPass tag) s

/-- Passes until nothing more is delivered, at most `fuel`. -/
def State.colRun : Nat → State → Nat → State
  | 0, s, _ => s
  | fuel + 1, s, tag =>
    let before := (s.bucket? tag).elim 0 Bucket.delivered
    let s := s.colPass tag
    if (s.bucket? tag).elim 0 Bucket.delivered = before then s else State.colRun fuel s tag

/-- Carries a bucket as far as it goes. -/
def State.colGo (s : State) (tag : Nat) : State :=
  State.colRun (((s.bucket? tag).elim 0 fun b => b.nch) + 2) s tag

/-! ## Opening a bucket (R384, R391) -/

/-- A new entry of the bucket state table. -/
def Bucket.new (tag : Nat) (attempt : BitVec 8) (g : BitVec 4) (k : BitVec 32) (par : Option CPar) : Bucket where
  tag := tag
  attempt := attempt
  grp := g
  step := k
  par := par
  tree := none
  locals := []
  opens := []
  started := false
  checked := false
  claimed := false
  admitted := true
  slots := 0
  trunc := false
  ovf := false
  mism := false
  nan := 0
  chunks := []
  flight := []
  delivered := 0
  early := []
  cnts := []
  rcount := false
  vgot := 0

/-- COL_STATUS.SLOTS_USED. -/
def Col.slotsUsed (c : Col) : Nat := (c.buckets.map Bucket.slots).sum

/-- The module adds for others under entry `w` (R391). -/
def CPar.adds (p : CPar) (w : BitVec 128) : Bool :=
  let nloc := ((List.range 4).filter fun d => (trLocal w).testBit d).length
  p.red && if p.direct then decide (1 < nloc) else !trRoot w && (!(trChildren w).isEmpty || decide (1 < nloc))

/-- When a bucket opens, a module that adds for others claims cistern slots or refuses (R391, R392; assumption 44). -/
def State.claim (s : State) (tag e : Nat) : State :=
  s.onBucket tag fun s b =>
    let p := b.p
    if b.claimed || b.par.isNone || !p.adds (s.tree e) then s
    else
      let d := min p.depth p.nch
      let r := s.perturb 7 8 (tag % 8)
      if s.col.slotsUsed + d ≤ 1024 ∧ s.col.admitEn = true ∧ r.1.isNone = true then
        r.2.setBucket { b with claimed := true, slots := d }
      else (r.2.modCol fun c => { c with overflows := satInc16 c.overflows }).setBucket
        { b with claimed := true, admitted := false, ovf := true }

/-- The bucket takes its tree entry. -/
def State.bindTree (s : State) (tag e : Nat) : State :=
  (s.onBucket tag fun s b => s.setBucket { b with tree := some e }).claim tag e

/-- A module without a local contribution takes the enabled entry that names the link; among several the manual gives no
choice (assumption 45). An entry with LOCAL dies waits for their descriptors, and its slots are claimed meanwhile. -/
def State.guessTree (s : State) (tag l : Nat) : State :=
  s.onBucket tag fun s b =>
    let es := selectBelow 64 fun e =>
      let w := s.tree e
      trEn w && trDirect w == b.p.direct
        && (if trDirect w then (s.members e).any fun m => m.2 == l else (trChildren w).contains l)
    let bind := fun (s : State) (e : Nat) => if trLocal (s.tree e) = 0 then s.bindTree tag e else s.claim tag e
    if b.tree.isSome || b.claimed then s
    else match es with
      | [] => s
      | [e] => bind s e
      | es =>
        let r := s.takeFree
        bind r.2 (es.getD ((Config.freeWord r.1).toNat % es.length) 0)

end Sys2Proof.Machine
end

