-- ==== Sys2Proof/Machine/LoadStore.lean ====
section
/-! DEFINITION. Loads, stores and atomics on this module (04 R123, R124, R126; 03 R72 to R78; 08 R248). An access to the
own scratchpad takes effect at issue. An external one becomes an outstanding request of sector parts, which the
controllers and `EXTERNAL_RESPONSE` perform. -/

namespace Sys2Proof.Machine

open Host (Outcome)

/-- One contiguous access of an instruction: `off` is its offset in the value loaded, `also` the further lanes that name
its word (R238). -/
structure Acc where
  addr : Nat
  len : Nat
  off : Nat
  op : PartOp
  also : List Nat
  deriving DecidableEq, Repr

/-- Lane `i` lies in an access of `len` bytes at offset `off`, or is one of its further lanes. -/
def coversLane (off len : Nat) (also : List Nat) (i : Nat) : Bool :=
  (decide (off ≤ 4 * i) && decide (4 * i < off + len)) || also.contains i

/-- The word of lane `i` in the data of such an access. -/
def laneWord (off : Nat) (also : List Nat) (d : Bytes) (i : Nat) : BitVec 32 :=
  BitVec.ofNat 32 (leField d (if also.contains i then 0 else 4 * i - off) 4)

/-- A physical-site address form (R95). -/
def physAddr (a : Nat) : Bool := decide (physBase ≤ a) && decide (a < physBase + 176 * 0x4000000)

/-- The exceptions of an access in the order of R106: EXPERT_LOCKED for the addresses `acc` that it accesses (R95),
ADDR_FORM and ALIGN for the addresses `as` that it computes. -/
def State.addrCheck (s : State) (c : Nat) (align : Nat) (acc as : List Nat) : Option (BitVec 8) :=
  if !(s.core c).unlocked && acc.any physAddr then some cExpert
  else if as.any fun a => decide (2 ^ 48 ≤ a) then some cAddrForm
  else if as.any fun a => a % align != 0 then some cAlign
  else none

/-- Splits an access into parts that each lie in one 32-byte sector, with sector request numbers from `sid`. -/
def splitSectors : Nat → Acc → Nat → List Part
  | 0, _, _ => []
  | fuel + 1, a, sid =>
    if a.len = 0 then []
    else
      let n := min a.len (32 - a.addr % 32)
      let op := match a.op with
        | .wr d => .wr (d.take n)
        | o => o
      let rest := match a.op with
        | .wr d => .wr (d.drop n)
        | o => o
      { sid := sid, addr := a.addr, len := n, op := op, node := none, off := a.off, also := a.also, time := 0,
        closed := false, snap := none, res := none, err := none }
      :: splitSectors fuel ⟨a.addr + n, a.len - n, a.off + n, rest, []⟩ (sid + 1)

/-- An access that R23 rejects as a whole carries the error in each of its parts. -/
def State.markInvalid (s : State) (c : Nat) (a : Acc) (ps : List Part) : List Part × State :=
  match s.placeOf a.addr a.len with
  | .ok _ => (ps, s)
  | .error e =>
    let d := s.destVal c a.addr
    (ps.map fun p => { p with err := some (e, d.1) }, d.2)

/-- The parts of a list of accesses, numbered from `sid`. -/
def State.mkParts (s : State) (c : Nat) : List Acc → Nat → List Part × State
  | [], _ => ([], s)
  | a :: as, sid =>
    let ps := (splitSectors 10 a sid).map fun p => { p with time := s.ticks }
    let r := s.markInvalid c a ps
    let q := State.mkParts r.2 c as (sid + ps.length)
    (r.1 ++ q.1, q.2)

/-- The words of its sector that a part covers. -/
def Part.words (p : Part) : List Nat :=
  (List.range 4).filter fun i => decide (8 * i < p.addr % 32 + p.len) && decide (p.addr % 32 < 8 * i + 8)

/-- The data of a load part in what its sector request returned, unless a word of it is bad. -/
def Part.take (p : Part) (x : Bytes × BitVec 4) : Option Bytes :=
  if p.words.any x.2.getLsbD then none else some (slice x.1 (p.addr % 32) p.len)

/-- Load `p` can join load `q`, outstanding to its sector and not closed, and share what it returned or will return
(R248). -/
def State.joins (s : State) (p q : Part) : Bool :=
  q.op == .rd && q.node.isNone && !q.closed && q.err.isNone && s.canon q.addr / 32 == s.canon p.addr / 32
    && decide (s.canon p.addr < regBase) && (q.res.isNone || (q.snap.bind p.take).isSome)

/-- Loads join, one part after another (R248); stores and atomics never do. -/
def State.combine (s : State) : List Part → List Part → List Part
  | _, [] => []
  | out, p :: ps =>
    let p := if p.op = .rd ∧ p.err.isNone then
        match out.find? (s.joins p) with
        | some q => { p with sid := q.sid, time := q.time, snap := q.snap, res := q.snap.bind p.take }
        | none => p
      else p
    p :: State.combine s (out ++ [p]) ps

/-- New sector slots that parts take. -/
def newSlots (out ps : List Part) : Nat :=
  ((ps.map Part.sid).eraseDups.filter fun x => !(out.map Part.sid).contains x).length

/-- A store closes every load outstanding to its sector (R248). -/
def State.closeLoads (s : State) (c : Nat) (ps : List Part) : State :=
  let secs := (ps.filter fun p => p.op != .rd).map fun p => s.canon p.addr / 32
  if secs.isEmpty then s
  else (List.range 32).foldl (fun s' t =>
    let th := s'.thread c t
    if th.reqs.isEmpty then s' else s'.setThread c t { th with reqs := th.reqs.map fun r =>
      { r with parts := r.parts.map fun p =>
          if p.op = .rd ∧ secs.contains (s.canon p.addr / 32) then { p with closed := true } else p } }) s

/-- The thread takes a new outstanding request. -/
def Thread.addReq (th : Thread) (r : Req) : Thread := { th with reqs := th.reqs ++ [r] }

/-- Issues the external accesses of an instruction, or waits for slots (R72, R73). -/
def State.external (s : State) (c t : Nat) (pc : BitVec 64) (dst : ReqDst) (accs : List Acc) : Eff :=
  if accs.isEmpty then .done s
  else
    let out := s.coreParts c
    let m := s.mkParts c accs (s.nextId + 1)
    let ps := s.combine out m.1
    let need := newSlots out ps
    if 8 ≤ (s.thread c t).slots ∨ 256 < s.slotsUsed c + need then .slots need
    else
      let s := { m.2 with nextId := m.2.nextId + 1 + m.1.length }
      let s := s.closeLoads c ps
      .done (s.modThread c t fun th => th.addReq ⟨s.nextId - 1 - m.1.length, pc, dst, false, ps⟩)

/-! ## Values -/

/-- A loaded value: `width` bytes zero- or sign-extended to 64 bits. -/
def extend (signed : Bool) (d : Bytes) : BitVec 64 :=
  if signed then BitVec.ofInt 64 (signedNat (8 * d.length) (fromLE d)) else BitVec.ofNat 64 (fromLE d)

/-- WIDTH in bytes. -/
def widthBytes (w : BitVec 64) : Nat := 2 ^ iWidth w

/-- The device address RA + sext(OFF) (R123). -/
def mAddr (th : Thread) (w : BitVec 64) : Nat := (th.regs.getS (iRa w) + sext64 30 (iOff w)).toNat

/-- An own-scratchpad access that fails: the instruction has issued, and the error status stops the thread (R62,
R240). -/
def State.ownError (s : State) (c t : Nat) (pc : BitVec 64) (cause : BitVec 8) : State := s.threadError c t cause 3 0 pc

/-- An own access waits while the remote-atomic unit holds its line (11 R367). -/
def State.unlessLine (s : State) (as : List (Nat × Nat)) (f : Eff) : Eff :=
  match as.findSome? fun a => s.lineAt (s.canon a.1) a.2 with
  | some x => .line x
  | none => f

/-! ## Scalar -/

def execLds (c t : Nat) (w : BitVec 64) (s : State) : Outcome State Fault Refusal :=
  issue 0x50 0 c t w s fun th s =>
    let a := mAddr th w
    let n := widthBytes w
    match s.addrCheck c n [a] [a] with
    | some e => .exc e
    | none =>
      if s.own c a then s.unlessLine [(a, n)] <|
        match s.readMem a n 0 with
        | (.ok d, s) => effThread c t s fun u => u.putS (iRd w) (extend (iAop w == 1) d)
        | (.error e, s) => .done (s.ownError c t th.pc e)
      else s.external c t th.pc (.s (iRd w) n (iAop w == 1)) [⟨a, n, 0, .rd, []⟩]

def execSts (c t : Nat) (w : BitVec 64) (s : State) : Outcome State Fault Refusal :=
  issue 0x51 0 c t w s fun th s =>
    let a := mAddr th w
    let d := toLE (widthBytes w) (th.regs.getS (iRd w)).toNat
    match s.addrCheck c (widthBytes w) [a] [a] with
    | some e => .exc e
    | none =>
      if s.own c a then s.unlessLine [(a, d.length)] <|
        match s.writeMem a d 0 with
        | (.ok _, s) => .done s
        | (.error e, s) => .done (s.ownError c t th.pc e)
      else s.external c t th.pc .none [⟨a, d.length, 0, .wr d, []⟩]

/-- An atomic of this module (R126): RD is the operand and takes the old value, RB the CAS compare value. -/
def execAtom (c t : Nat) (w : BitVec 64) (s : State) : Outcome State Fault Refusal :=
  issue 0x56 0 c t w s fun th s =>
    let a := mAddr th w
    let n := widthBytes w
    let v := th.regs.getS (iRd w)
    let cmp := th.regs.getS (iRb w)
    match s.addrCheck c n [a] [a] with
    | some e => .exc e
    | none =>
      if s.own c a then s.unlessLine [(a, n)] <|
        match s.placeOf a n with
        | .error e => .done (s.ownError c t th.pc e)
        | .ok p => match s.atomPlace p (iAop w) n v.toNat cmp.toNat 0 with
          | (.ok d, s) => effThread c t s fun u => u.putS (iRd w) (extend false d)
          | (.error e, s) => .done (s.ownError c t th.pc e)
      else s.external c t th.pc (.s (iRd w) n false) [⟨a, n, 0, .atom (iAop w) n v cmp, []⟩]

/-! ## Vector -/

/-- The guarded lanes of an instruction. -/
def Thread.lanes (th : Thread) (w : BitVec 64) : List Nat := selectBelow 64 (th.laneGuard w)

/-- Maximal runs of consecutive lanes: first lane and length (R103). -/
def runsOf : List Nat → List (Nat × Nat)
  | [] => []
  | i :: l =>
    match runsOf l with
    | (j, n) :: rs => if j = i + 1 then (i, n + 1) :: rs else (i, 1) :: (j, n) :: rs
    | [] => [(i, 1)]

/-- The bytes of lanes `i` to `i + n − 1`. -/
def laneBytes (v : BitVec 2048) (i n : Nat) : Bytes :=
  (List.range n).flatMap fun k => toLE 4 (lane v (i + k)).toNat

/-- Performs own-scratchpad vector loads in turn: lanes loaded, or the first error. -/
def State.ownLoads (c t : Nat) (rd : Nat) : State → List Acc → Option (BitVec 8) × State
  | s, [] => (none, s)
  | s, a :: as =>
    match s.readMem a.addr a.len 0 with
    | (.ok d, s) =>
      let s := s.modThread c t fun u => u.putV rd (coversLane a.off a.len a.also) (laneWord a.off a.also d)
      State.ownLoads c t rd s as
    | (.error e, s) => (some e, s)

/-- Performs own-scratchpad vector stores in turn. -/
def State.ownStores : State → List Acc → Option (BitVec 8) × State
  | s, [] => (none, s)
  | s, a :: as =>
    match a.op with
    | .wr d => match s.writeMem a.addr d 0 with
      | (.ok _, s) => State.ownStores s as
      | (.error e, s) => (some e, s)
    | _ => State.ownStores s as

/-- A vector load or store: own accesses at issue, the others as one outstanding request (assumption 100). -/
def State.vectorAccess (s : State) (c t : Nat) (pc : BitVec 64) (rd : Nat) (load : Bool) (accs : List Acc) : Eff :=
  let own := accs.filter fun a => s.own c a.addr
  let ext := accs.filter fun a => !s.own c a.addr
  let lanes := BitVec.ofNat 64 (bitsOf 64 fun i => ext.any fun a => coversLane a.off a.len a.also i)
  s.unlessLine (own.map fun a => (a.addr, a.len)) <|
    match s.external c t pc (if load then .v rd lanes 0 else .none) ext with
    | .done s =>
      match (if load then State.ownLoads c t rd s own else State.ownStores s own) with
      | (none, s) => .done s
      | (some e, s) => .done (s.ownError c t pc e)
    | e => e

/-- The accesses of LDV and STV: one for each run of guarded lanes (R103). -/
def runAccs (base : Nat) (op : Nat → Nat → PartOp) (lanes : List Nat) : List Acc :=
  (runsOf lanes).map fun r => ⟨base + 4 * r.1, 4 * r.2, 4 * r.1, op r.1 r.2, []⟩

def execLdv (c t : Nat) (w : BitVec 64) (s : State) : Outcome State Fault Refusal :=
  issue 0x52 0 c t w s fun th s =>
    let accs := runAccs (mAddr th w) (fun _ _ => .rd) (th.lanes w)
    match s.addrCheck c 4 ((th.lanes w).map (mAddr th w + 4 * ·)) (accs.map fun _ => mAddr th w) with
    | some e => .exc e
    | none => s.vectorAccess c t th.pc (iRd w) true accs

def execStv (c t : Nat) (w : BitVec 64) (s : State) : Outcome State Fault Refusal :=
  issue 0x53 0 c t w s fun th s =>
    let v := th.regs.getV (iRd w)
    let accs := runAccs (mAddr th w) (fun i n => .wr (laneBytes v i n)) (th.lanes w)
    match s.addrCheck c 4 ((th.lanes w).map (mAddr th w + 4 * ·)) (accs.map fun _ => mAddr th w) with
    | some e => .exc e
    | none => s.vectorAccess c t th.pc (iRd w) false accs

/-- The lane address RA + sext(OFF) + 4 × RB[i], modulo 2^64 (R123). -/
def laneAddr (th : Thread) (w : BitVec 64) (i : Nat) : Nat :=
  (mAddr th w + 4 * (lane (th.regs.getV (iRb w)) i).toNat) % 2 ^ 64

/-- The loads of GATHER: one access for each word, which serves every lane that names it (R238). -/
def gatherAccs (addr : Nat → Nat) (lanes : List Nat) : List Acc :=
  lanes.filterMap fun i =>
    let same := lanes.filter fun j => addr j == addr i
    if same.head? = some i then some ⟨addr i, 4, 4 * i, .rd, same.drop 1⟩ else none

def execGather (c t : Nat) (w : BitVec 64) (s : State) : Outcome State Fault Refusal :=
  issue 0x54 0 c t w s fun th s =>
    let as := (th.lanes w).map (laneAddr th w)
    match s.addrCheck c 4 as as with
    | some e => .exc e
    | none => s.vectorAccess c t th.pc (iRd w) true (gatherAccs (laneAddr th w) (th.lanes w))

/-- The stores of SCATTER: one access for each word (R238). Where guarded lanes with different data name one word, the
manual does not say which stays: the word takes a free value (assumption 25). -/
def scatterAccs (v : BitVec 2048) (addr : Nat → Nat) : List Nat → List Nat → State → List Acc × State
  | [], _, s => ([], s)
  | i :: l, all, s =>
    let same := all.filter fun j => addr j == addr i
    if same.head? ≠ some i then scatterAccs v addr l all s
    else
      let r := if same.all fun j => lane v j == lane v i then (laneBytes v i 1, s)
        else let q := s.takeFree; (toLE 4 ((Config.freeWord q.1).toNat % 2 ^ 32), q.2)
      let q := scatterAccs v addr l all r.2
      (⟨addr i, 4, 4 * i, .wr r.1, []⟩ :: q.1, q.2)

def execScatter (c t : Nat) (w : BitVec 64) (s : State) : Outcome State Fault Refusal :=
  issue 0x55 0 c t w s fun th s =>
    let as := (th.lanes w).map (laneAddr th w)
    match s.addrCheck c 4 as as with
    | some e => .exc e
    | none =>
      let r := scatterAccs (th.regs.getV (iRd w)) (laneAddr th w) (th.lanes w) (th.lanes w) s
      r.2.vectorAccess c t th.pc (iRd w) false r.1

end Sys2Proof.Machine
end

