-- ==== Sys2Proof/Machine/Units.lean ====
section
/-! DEFINITION. The matrix arrays and the SFU of a core as engines: start, end, checks, suspect window, self-test
(05 R145 to R166), diking (15 R465, R466, R470; 05 R160), and the SFU queue (07 R200, R204). -/

namespace Sys2Proof.Machine

open Host (Outcome)

/-! ## Registers of an array -/

/-- PLACE of an array (15, tables Notifications and Perturbation targets). -/
def arrPlace (c a : Nat) : Nat := c + a * 256

/-- MA_CTL. -/
def Arr.ctlWord (x : Arr) : Nat := b2n x.go + b2n x.chkEn * 2 + x.chkWindow.toNat * 2 ^ 16

/-- MA_STATUS. -/
def Arr.statusWord (x : Arr) : Nat :=
  b2n (!x.run.isEmpty) + (match x.run with | r :: _ => r.mode.toNat | [] => 0) * 2 + x.queue.length * 16
    + b2n x.chkFail * 2 ^ 8 + b2n x.suspect * 2 ^ 9 + b2n x.held * 2 ^ 10 + b2n x.stestBusy * 2 ^ 11
    + x.reason.toNat * 2 ^ 16

/-- MA_STEST. -/
def Arr.stestWord (x : Arr) : Nat := b2n x.stestDone * 2 + b2n x.stestPass * 4 + x.failcode.toNat * 2 ^ 8

/-- MA_WINDOW. -/
def Arr.windowWord (x : Arr) : Nat := x.since.toNat + b2n x.armed * 2 ^ 16

/-- A write of MA_CTL (R164 to R166, R438, R440). -/
def State.writeMaCtl (s : State) (c a : Nat) (w : BitVec 32) : State :=
  let k := s.core c
  let x := s.arr c a
  if x.go then s.setArr c a { x with go := w.getLsbD 0 }
  else
    let x := if k.diked then x else { x with
      chkEn := if k.unlocked then w.getLsbD 1 else x.chkEn
      chkWindow := w.extractLsb' 16 16 }
    if !w.getLsbD 0 then s.setArr c a x
    else if x.chkWindow = 0 then s.setArr c a { x with reason := 0x03 }
    else if k.diked then s.setArr c a { x with reason := 0x02 }
    else s.setArr c a { x with
      go := true
      held := x.held && !(x.stestDone && x.stestPass && !x.suspect && !x.stestBusy && !x.stestWait) }

def execMaCtlGoSet (c a : Nat) (w : BitVec 32) (s : State) : Outcome State Fault Refusal :=
  if c < s.lcores ∧ a < 4 ∧ w.getLsbD 0 = true then .next (s.writeMaCtl c a w) else .refused .illFormed

def execMaCtlGoClear (c a : Nat) (w : BitVec 32) (s : State) : Outcome State Fault Refusal :=
  if c < s.lcores ∧ a < 4 ∧ w.getLsbD 0 = false then .next (s.writeMaCtl c a w) else .refused .illFormed

/-- The self-tests that firmware runs, of which one array of a core is under test at a time: those of suspect arrays and
those after a core reset (R161, R162). -/
def State.fwTest (s : State) (c a : Nat) : Bool := (s.arr c a).suspect || (s.core c).retest

/-- Another self-test of firmware runs on the core. -/
def State.fwTesting (s : State) (c a : Nat) : Bool :=
  (List.range 4).any fun b => b != a && (s.arr c b).stestBusy && s.fwTest c b

/-- A started self-test begins once the executing instruction has ended, and one of firmware once no other runs. -/
def State.stestBegin (s : State) (c a : Nat) : State :=
  let x := s.arr c a
  if x.stestWait && x.run.isEmpty && !(s.fwTest c a && s.fwTesting c a) then
    s.setArr c a { x with stestWait := false, stestBusy := true }
  else s

/-- The self-tests of the core that can begin do, lowest array first. -/
def State.stestNext (s : State) (c : Nat) : State := (List.range 4).foldl (fun s a => s.stestBegin c a) s

/-- MA_STEST.START: HELD, and the self-test once the executing instruction has ended. -/
def State.stestStart (s : State) (c a : Nat) : State :=
  let x := s.arr c a
  if x.stestBusy || x.stestWait || (s.core c).diked then s
  else (s.setArr c a { x with
    held := true
    stestWait := true
    stestDone := false
    stestPass := false
    failcode := 0 }).stestBegin c a

def execMaStestStart (c a : Nat) (s : State) : Outcome State Fault Refusal :=
  if c < s.lcores ∧ a < 4 then .next (s.stestStart c a) else .refused .illFormed

/-! ## Instructions -/

/-- The opcode counts in MA_OPS and MA_WINDOW: MATMUL, CONV, ATTEND. -/
def isCounted (op : Nat) : Bool := op == 0x70 || op == 0x71 || op == 0x72

/-- An operation of an array completes or ends: MA_OPS, and SINCE where a mismatch had armed the window before
(R156, R158). -/
def Arr.count (x : Arr) (wasArmed : Bool) : Arr :=
  let x := { x with ops := x.ops + 1 }
  if wasArmed && x.armed then
    let n := x.since + 1
    { x with since := n, armed := decide (n.toNat < x.chkWindow.toNat) }
  else x

/-- MA_STATUS.MODE of an operation. -/
def AsyncOp.arrMode (o : AsyncOp) : Nat :=
  let w := o.word
  let da := descAt o.d (iDa w); let db := descAt o.d (iDb w)
  if iOp w = 0x70 then modeOf w false ((pairOf da db).getD .exact) da.dim1 da.dim0
  else if iOp w = 0x71 then
    let v := winOf (Tab.get 0 o.d (iDa w + 1))
    modeOf w true ((pairOf da db).getD .exact) (v.ow da * v.oh da) (da.dim0 * v.taps)
  else 0

/-- What the instruction does, once started. -/
def State.arrRun (s : State) (o : AsyncOp) : Run ArrOut :=
  match iOp o.word with
  | 0x70 => s.startMatmul o false
  | 0x71 => s.startMatmul o true
  | 0x72 => s.startAttend o
  | _ => s.startAccop o

/-- The bank an instruction that fails after its start leaves unspecified (R155, R182; assumption 33). -/
def AsyncOp.lostBank (o : AsyncOp) (cause : BitVec 8) : Option Nat :=
  let w := o.word
  let early := cause == cAccLimit || cause == cPair || cause == cDesc || cause == cCap
  if early then none
  else if iOp w = 0x72 then some (iBank w)
  else if (iOp w = 0x70 ∨ iOp w = 0x71) ∧ !fStream w then some (iBank w) else none

/-- Bank `b` of an array holds unspecified values until it is cleared. -/
def State.freeBank (s : State) (c a b : Nat) : State :=
  let f := s.takeFree
  f.2.setBank c a b { Bank.clear with kind := .free, inexact := Config.freeBool f.1 }

/-- ATTEND and an SFU-queue instruction run at the same time: the cycles granted are time, which the model leaves out,
so SFU_GRANTS takes a free value. -/
def State.freeGrants (s : State) (c : Nat) : State :=
  let r := s.takeFree
  r.2.modCore c fun k => { k with sfuGrants := (Config.freeWord r.1).extractLsb' 0 32 }

/-- The descriptor registers whose tiles an operation of a unit reads or writes. -/
def AsyncOp.tiles (o : AsyncOp) : List Nat :=
  let w := o.word
  let fl := iFlags w
  match iOp w with
  | 0x70 => [iDa w, iDb w] ++ if fRo w || fStream w then [iDd w] else []
  | 0x71 => [iDa w, iDb w] ++ if fRo w || fStream w then [iDd w] else []
  | 0x72 => [iDd w, iDa w, iDb w, iDc w]
  | 0x73 => [iDd w, iDa w]
  | 0x74 => [iDd w, iDa w] ++ (if fl.testBit 0 then [iDb w] else []) ++ if fl.testBit 1 then [iDc w] else []
  | 0x75 => [iDd w, iDa w, iDb w]
  | 0x76 => [iDa w, iDb w]
  | 0x77 => [iDd w, iDa w, iDc w]
  | 0x78 => [iDd w, iDa w, iDc w]
  | _ => if iSubT w = 0 then [] else [iDd w]

/-- From the first byte of a tile to its last; of a structure, its head (assumption 110). -/
def Desc.span (d : Desc) : Nat × Nat :=
  (d.base, if d.kind < 2 then (d.planes - 1) * d.stride2 + (d.dim1 - 1) * d.stride1 + d.rowBytes else 64)

/-- What an operation of a unit touches in memory. -/
def AsyncOp.spans (o : AsyncOp) : List (Nat × Nat) :=
  let db := descAt o.d (iDb o.word)
  o.tiles.map (fun n => (descAt o.d n).span) ++ if iOp o.word = 0x72 then [(db.pool 0, 1), (db.pool 1, 1)] else []

/-- Sectors that ATTEND and CONV fetch from outside the scratchpad draw slots (03 R74); MATMUL and ACCOP take none. -/
def AsyncOp.fetchesOut (s : State) (o : AsyncOp) : Bool :=
  (iOp o.word == 0x71 || iOp o.word == 0x72) && o.spans.any fun e => !s.own o.core e.1

/-- The slots that an array operation holds while it runs, a free number of those that are left, at least one
(assumption 114). -/
def State.takeSlots (s : State) (o : AsyncOp) : Nat × State :=
  if o.fetchesOut s then
    let f := s.takeFree
    (1 + (Config.freeWord f.1).toNat % (256 - s.slotsUsed o.core), f.2)
  else (0, s)

/-- The array begins operation `o` at the head of its queue. -/
def State.arrBegin (s : State) (c a : Nat) (o : AsyncOp) : State :=
  let s := s.modArr c a fun x => { x with queue := x.queue.drop 1 }
  let s := (s.perturb 0 1 (arrPlace c a)).2
  let mode := o.arrMode
  let s := if iOp o.word = 0x72 ∧ (s.core c).sfuRun.isSome = true then s.freeGrants c else s
  match s.arrRun o with
  | (.error (cause, dest), s) =>
    let s := match o.lostBank cause with
      | some b => s.freeBank c a b
      | none => s
    let s := if isCounted (iOp o.word) then s.modArr c a fun x => x.count x.armed else s
    s.opFail o cause dest
  | (.ok r, s) =>
    let s := match r.bank with
      | some (b, v) => s.setBank c a b v
      | none => s
    let n := s.takeSlots o
    n.2.modArr c a fun x => { x with
      skip := BitVec.ofNat 32 (satAdd x.skip.toNat r.skips 0xFFFFFFFF)
      run := x.run ++ [{ op := o.id
                         mode := BitVec.ofNat 3 mode
                         counted := isCounted (iOp o.word)
                         bank := r.bank.map Prod.fst
                         readsBank := r.readsBank
                         writes := r.writes
                         flags := r.flags
                         checks := r.checks
                         skips := r.skips
                         slots := n.1 }] }

/-- An array begins the instruction at the head of its queue when it is free, or overlaps instructions of the same mode
(R145, R159, R165). -/
def execArrayInstructionStart (c a : Nat) (s : State) : Outcome State Fault Refusal :=
  if c < s.lcores ∧ a < 4 then
    let x := s.arr c a
    match x.queue with
    | [] => .next s
    | id :: _ =>
      match s.op? id with
      | none => .next (s.modArr c a fun x => { x with queue := x.queue.drop 1 })
      | some o =>
        let m := BitVec.ofNat 3 o.arrMode
        let freeNow := x.run.isEmpty || (m != 0 && x.run.all fun r => r.mode == m)
        let slots := !o.fetchesOut s || decide (s.slotsUsed c < 256)
        if s.awake c && x.go && !x.held && !x.stestBusy && !x.stestWait && freeNow && slots then
          .next (s.ifReach (some (s.dieOf c)) o.spans fun s => s.arrBegin c a o)
        else .next s
  else .refused .illFormed

/-- Compares the checks of an instruction in order: the first that fails, as kind and whether PERTURB injected it
(R477). One fails when its sides differ (R152), or when a fault of the cells, the operand `bad`, made them differ; a
check whose outputs are all left out has nothing a fault could change (R154). -/
def State.compareChecks : State → Nat → Nat → Nat → Option Nat → List Check → Option (BitVec 3 × Bool) × State
  | s, _, _, _, _, [] => (none, s)
  | s, c, a, i, bad, k :: ks =>
    let r := s.perturb 0 5 (arrPlace c a)
    if k.differs || (k.live && bad == some i) then (some (k.kind, false), r.2)
    else if r.1.isSome then (some (k.kind, true), r.2)
    else State.compareChecks r.2 c a (i + 1) bad ks

/-- Free bytes in place of outputs, from free number `n`. -/
def freeWrites (n k : Nat) : List OutW → List OutW
  | [] => []
  | w :: ws => { w with data := (List.range w.data.length).map fun i => Config.freeByte n (k + i) }
      :: freeWrites n (k + w.data.length) ws

/-- Later instructions in flight whose outputs depend on bank `b` write unspecified values (R155). -/
def ArrRun.spoil (n b : Nat) (r : ArrRun) : ArrRun :=
  if r.readsBank && r.bank == some b then
    { r with writes := freeWrites n 0 r.writes, flags := r.flags ||| (Config.freeWord n).extractLsb' 0 4 }
  else r

/-- A mismatch (R155, R158): the registers of the array. -/
def Arr.mismatch (x : Arr) (kind : BitVec 3) (inj : Bool) (thread : Nat) : Arr :=
  let n := satAdd (x.log.toNat % 2 ^ 16) 1 0xFFFF
  let x := { x with
    chkFail := true
    log := BitVec.ofNat 32 (n + kind.toNat * 2 ^ 16 + b2n inj * 2 ^ 19 + thread % 32 * 2 ^ 20) }
  if x.armed then { x with suspect := true, held := true } else { x with armed := true, since := 0 }

/-- The oldest instruction has left, with its sector slots; a waiting self-test may begin. -/
def State.arrLeave (s : State) (c a : Nat) : State :=
  ((s.modArr c a fun x => { x with run := x.run.drop 1 }).stestBegin c a).releaseMem c

/-- The end of a run whose check failed: the writes made before it stay, the instruction ends with CHK_FAIL
(R155, R156, R158). -/
def State.arrMismatch (s : State) (c a : Nat) (r : ArrRun) (o : AsyncOp) (kind : BitVec 3) (inj : Bool) (written : Nat) :
    State :=
  let was := (s.arr c a).armed
  let fr := s.takeFree
  let s := (fr.2.unitWrites c (r.writes.take written)).2
  let s := s.opFlags o (r.flags &&& (Config.freeWord fr.1).extractLsb' 0 4)
  let s := match r.bank with
    | some b =>
      let g := s.takeFree
      (g.2.freeBank c a b).modArr c a fun x => { x with run := x.run.map (ArrRun.spoil g.1 b) }
    | none => s
  let s := s.modArr c a fun x => (x.mismatch kind inj o.thread).count was
  let s := if was then s.notify 0 inj (arrPlace c a) 0x25 (s.arr c a).log.toNat else s
  s.opFail o cChkFail 0

/-- The end of run `r`, the oldest of its array. -/
def State.arrEnd (s : State) (c a : Nat) (r : ArrRun) (bad : Option Nat) (written : Nat) : State :=
  let s := s.arrLeave c a
  match s.op? r.op with
  | none => s
  | some o =>
    match State.compareChecks s c a 0 bad r.checks with
    | (some (kind, inj), s) => s.arrMismatch c a r o kind inj written
    | (none, s) =>
      let s := if r.counted then s.modArr c a fun x => x.count x.armed else s
      match s.unitWrites c r.writes with
      | (.error (cause, dest), s) => (s.partialWrites o [] r.flags).opFail o cause dest
      | (.ok _, s) => (s.opFlags o r.flags).opComplete o

/-- The oldest instruction in the array ends (R147, R155), once its outputs can be written. The operand `bad` names the
check that a fault of the cells makes fail; with none, a check fails only under R152 or by injection. -/
def execArrayInstructionEnd (c a : Nat) (bad : Option Nat) (written : Nat) (s : State) : Outcome State Fault Refusal :=
  if c < s.lcores ∧ a < 4 then
    match (s.arr c a).run, s.awake c with
    | [], _ => .next s
    | _, false => .next s
    | r :: _, true => .next (s.ifReach (some (s.dieOf c)) (outSegs r.writes) fun s => s.arrEnd c a r bad written)
  else .refused .illFormed

/-! ## Diking (R160, R465, R466) -/

/-- The operations of core `c` are discarded: entries no pump has taken at once; transfers a pump has taken go on
without completing to anyone (R546). -/
def State.discardOps (s : State) (c : Nat) : State :=
  let taken := s.pumps.filterMap PumpRun.op
  { s with ops := (s.ops.filter fun o => o.core != c || taken.contains o.id).map fun o =>
      if o.core = c then { o with mute := true } else o }

/-- Drops the cells and marks of a scratchpad. -/
def State.dropSpad (s : State) (c : Nat) : State :=
  let lo := spadAddr c 0
  { s with mem := { s.mem with
    cells := Tab.drop (fun k => decide (lo ≤ k) && decide (k < lo + 0x4000000)) s.mem.cells
    wordErr := Tab.drop (fun k => decide (lo / 8 ≤ k) && decide (k < (lo + 0x4000000) / 8)) s.mem.wordErr } }

/-- The contexts of a diked core enter FENCED at once; outstanding requests are discarded (R61). -/
def Thread.fence (th : Thread) : Thread := { th with
  state := .fenced
  stopping := none
  wait := none
  memNeed := 0
  reqs := []
  msgs := [] }

/-- All that an array holds goes (R160). -/
def Arr.discard (x : Arr) : Arr := { x with queue := [], run := [], stestBusy := false, stestWait := false }

/-- The queues of a core go (R160, R546). -/
def Core.discard (k : Core) : Core := { k with
  waiters := []
  sfuQ := []
  sfuRun := none
  pumpQ := []
  hostQ := []
  colQ := [] }

def State.eachThread (s : State) (c : Nat) (f : Nat → Thread → Thread) : State :=
  (List.range 32).foldl (fun s t => s.modThread c t (f t)) s

def State.eachArr (s : State) (c : Nat) (f : Arr → Arr) : State :=
  (List.range 4).foldl (fun s a => s.modArr c a f) s

/-- Hub firmware dikes core `c` (R160, R465); the journal entry and CORE_DIKED follow. -/
def State.dikeCore (s : State) (c : Nat) (cause : BitVec 8) (detail : Nat) : State :=
  let s := s.discardOps c
  let s := s.eachThread c fun _ => Thread.fence
  let s := s.eachArr c Arr.discard
  let s := s.modCore c fun k => { k.discard with diked := true, retest := false }
  let s := s.dropSpad c
  let s := s.colDike c
  let h := s.hubDike
  { s with
    dikes := s.dikes ++ [⟨s.siteOf c, c, cause, detail⟩]
    hubDike := if h.busy && h.core == c then { h with busy := false, diked := true } else h }

/-- The first array of a core whose last self-test failed. -/
def State.failedArr (s : State) (c : Nat) : Option Nat :=
  (List.range 4).find? fun a => (s.arr c a).stestDone && !(s.arr c a).stestPass

/-- Hub firmware dikes a core whose self-test failed; the cause is 0x25. Requests and step 9 dike in their own commands,
so nothing else is due here (R465). -/
def execCoreDike (c : Nat) (cause : BitVec 8) (s : State) : Outcome State Fault Refusal :=
  if c < s.lcores ∧ cause = 0x25 then
    match s.failedArr c with
    | some a => if (s.core c).diked then .next s else .next (s.dikeCore c 0x25 (s.arr c a).stestWord)
    | none => .next s
  else .refused .illFormed

/-- The journal takes the site of a dike, and CORE_DIKED is raised (R466). -/
def execSiteJournalAppend (site : Nat) (s : State) : Outcome State Fault Refusal :=
  if site < 176 then
    match s.dikes.find? fun d => d.site == site with
    | none => .next s
    | some d =>
      let s := { s with
        siteJournal := if s.siteJournal.contains site then s.siteJournal else s.siteJournal ++ [site]
        dikes := s.dikes.filter fun e => e.site != site }
      .next (s.notify 1 false (d.core + site * 256) d.cause.toNat d.detail)
  else .refused .illFormed

/-! ## Self-tests (R159, R161, R162, R166, R470) -/

/-- MA_CTL at its reset values, and GO (14 R545). -/
def Arr.restart (x : Arr) : Arr := { x with go := true, chkEn := true, chkWindow := 1024 }

/-- What follows a passed self-test of array `a`: firmware clears a suspect array; a retest after a core reset and
HUB_DIKE clear HELD; any other HELD stays (R162, R166, R470). With the last retest the arrays start (14 R545). -/
def State.stestPassed (s : State) (c a : Nat) : State :=
  let h := s.hubDike
  let mine := h.busy && h.core == c && h.arr == a
  let k := s.core c
  let s := s.modArr c a fun x =>
    if x.suspect then { x with suspect := false, armed := false, held := false }
    else { x with held := x.held && !(mine || k.retest) }
  let s := if k.retest && (List.range 4).all fun b => !(s.arr c b).stestBusy && !(s.arr c b).stestWait then
      (s.eachArr c Arr.restart).modCore c fun k => { k with retest := false } else s
  if mine then
    if a = 3 then { s with hubDike := { h with busy := false, pass := true } }
    else { s with hubDike := { h with arr := a + 1 } }.stestStart c (a + 1)
  else s

/-- A self-test ends; `code` 0 is a pass (R161). A failure under HUB_DIKE dikes the core itself. -/
def execArraySelfTestDone (c a : Nat) (code : BitVec 8) (s : State) : Outcome State Fault Refusal :=
  if c < s.lcores ∧ a < 4 ∧ code.toNat ≤ 6 then
    if !(s.arr c a).stestBusy || !s.awake c then .next s
    else
      let s := s.modArr c a fun x => { x with
        stestBusy := false
        stestDone := true
        stestPass := decide (code = 0)
        failcode := code }
      if code = 0 then .next ((s.stestPassed c a).stestNext c)
      else if s.hubDike.busy ∧ s.hubDike.core = c ∧ s.hubDike.arr = a then
        .next (s.dikeCore c 0x25 (s.arr c a).stestWord)
      else .next (s.stestNext c)
  else .refused .illFormed

/-- A HUB_DIKE write: ignored while DEV is locked, BUSY, or the number is unassigned or diked (R470). -/
def State.hubDikeWrite (s : State) (c : Nat) (dike : Bool) : State :=
  if !s.dev.unlocked || s.hubDike.busy || !s.live c then s
  else if dike then { s with hubDike := ⟨false, false, true, c, 0⟩ }.dikeCore c 0 0
  else { s with hubDike := ⟨true, false, false, c, 0⟩ }.stestStart c 0

def execHubDikeSelfTest (c : Nat) (s : State) : Outcome State Fault Refusal :=
  if c < 256 then .next (s.hubDikeWrite c false) else .refused .illFormed

def execHubDikeDike (c : Nat) (s : State) : Outcome State Fault Refusal :=
  if c < 256 then .next (s.hubDikeWrite c true) else .refused .illFormed

/-- HUB_DIKE as read. -/
def HubDike.word (h : HubDike) : Nat := b2n h.busy * 2 ^ 16 + b2n h.pass * 2 ^ 17 + b2n h.diked * 2 ^ 18

/-- SFU_STATUS. -/
def State.sfuStatus (s : State) (c : Nat) : Nat :=
  let k := s.core c
  k.sfuQ.length * 16 + match k.sfuRun with
  | none => 0
  | some r => match s.op? r.op with
    | none => 1
    | some o =>
      let kind := match iOp o.word with
        | 0x74 => 1
        | 0x73 => 2
        | n => n - 0x72
      1 + kind * 2 + b2n o.compat * 2 ^ 8 + o.thread * 2 ^ 16

/-! ## The SFU queue (07 R200, R204; 04 R130) -/

/-- What the SFU-queue instruction does, once started. -/
def State.sfuExec (s : State) (o : AsyncOp) : Run SfuOut :=
  match iOp o.word with
  | 0x73 => s.startRowstat o
  | 0x74 => s.startSfu o
  | 0x75 => s.startVerify o
  | 0x76 => s.startCommit o
  | 0x77 => s.startSample o
  | _ => s.startRoute o

/-- An array of the core executes an ATTEND. -/
def State.attending (s : State) (c : Nat) : Bool :=
  (List.range 4).any fun a => (s.arr c a).run.any fun r => match s.op? r.op with
    | some o => iOp o.word == 0x72
    | none => false

/-- Begins the operation at the head of the SFU queue: it computes from the state at its start. -/
def State.sfuBegin (s : State) (c : Nat) (o : AsyncOp) : State :=
  let s := s.modCore c fun k => { k with sfuQ := k.sfuQ.drop 1 }
  let s := if s.attending c then s.freeGrants c else s
  match s.sfuExec o with
  | (.error (cause, dest), s) => s.opFail o cause dest
  | (.ok (ws, fl), s) => s.modCore c fun k => { k with sfuRun := some ⟨o.id, ws, fl⟩ }

def execSfuInstructionStart (c : Nat) (s : State) : Outcome State Fault Refusal :=
  if c < s.lcores then
    let k := s.core c
    if !s.awake c then .next s
    else match k.sfuQ, k.sfuRun with
    | id :: _, none =>
      match s.op? id with
      | some o => .next (s.ifReach (some (s.dieOf c)) o.spans fun s => s.sfuBegin c o)
      | none => .next (s.modCore c fun k => { k with sfuQ := k.sfuQ.drop 1 })
    | _, _ => .next s
  else .refused .illFormed

/-- The SFU-queue instruction ends: its outputs, its flags, its signal. -/
def State.sfuEnd (s : State) (c : Nat) (r : SfuRun) : State :=
  let s := s.modCore c fun k => { k with sfuRun := none }
  match s.op? r.op with
  | none => s
  | some o =>
    match s.unitWrites c r.writes with
    | (.error (cause, dest), s) => (s.partialWrites o [] r.flags).opFail o cause dest
    | (.ok _, s) => (s.opFlags o r.flags).opComplete o

def execSfuInstructionComplete (c : Nat) (s : State) : Outcome State Fault Refusal :=
  if c < s.lcores then
    match (s.core c).sfuRun, s.awake c with
    | none, _ => .next s
    | _, false => .next s
    | some r, true => .next (s.ifReach (some (s.dieOf c)) (outSegs r.writes) fun s => s.sfuEnd c r)
  else .refused .illFormed

end Sys2Proof.Machine
end

