-- ==== Sys2Proof/Machine/CollectiveCmds.lean ====
section
/-! DEFINITION. The collective engine's commands: accepting descriptors (12 R378 to R381, R402), packets (R384, R385),
timeouts, step fences (R398 to R404; 03 R92 to R94), and its registers (R382, R383, R407 to R410). -/

namespace Sys2Proof.Machine

open Host (Outcome)

/-! ## Descriptors -/

/-- A descriptor's parameters with their defaults (table Collective descriptor). -/
def descPar (d : Bytes) : CPar :=
  let g := leField d
  { op := g 0 1, ifmt := g 1 1 % 16, ofmt := g 1 1 / 16, mode := g 2 1 % 32, depth := if g 7 1 = 0 then 2 else g 7 1,
    n := g 8 4, count := g 0x10 4, chunk := if g 0x14 4 = 0 then 4096 else g 0x14 4 }

def descTree (d : Bytes) : Nat := leField d 3 1 % 64
def descTag (d : Bytes) : Nat := leField d 4 2 % 4096
def descAttempt (d : Bytes) : BitVec 8 := BitVec.ofNat 8 (leField d 6 1)
def descRank (d : Bytes) : Nat := leField d 0xC 4
def descSrc (d : Bytes) : Nat := leField d 0x18 6
def descDst (d : Bytes) : Nat := leField d 0x20 6
def descCist (d : Bytes) : Nat := leField d 0x28 8
def descCsize (d : Bytes) : Nat := leField d 0x30 4
def descDcap (d : Bytes) : Nat := leField d 0x34 4
def descAux (d : Bytes) : Nat := leField d 0x38 8 % 2 ^ 48

/-- The formats break the table Operations. -/
def CPar.badFormats (p : CPar) : Bool :=
  if p.red then !([0, 1, 2, 8].contains p.ifmt) || decide (4 < p.ofmt)
  else p.ifmt != p.ofmt || p.ifmt == 5 || decide (9 < p.ifmt)

/-- The cistern region lies in one scratchpad of die `d` (R378). -/
def State.cistOk (s : State) (d a n : Nat) : Bool :=
  a % 64 == 0 &&
    ((decide (windowBase ≤ a) && decide (a < windowBase + s.lcores * 0x4000000)
        && s.dieOf ((a - windowBase) / 0x4000000) == d && decide ((a - windowBase) % 0x4000000 + n ≤ spadSize))
      || (decide (physBase ≤ a) && decide (a < physBase + 176 * 0x4000000)
        && (a - physBase) / 0x4000000 / 44 == d && decide ((a - physBase) % 0x4000000 + n ≤ spadSize)))

/-- CSIZE required (R380). -/
def CPar.csize (p : CPar) : Nat := if p.red then 64 + p.depth * (16 * p.chunk + p.chunk / 2) else 64

/-- The sum of the scount words as memory holds them. -/
def State.scountSum (s : State) (d : Bytes) : Nat :=
  let a := fromLE (s.bytes (s.canon (descAux d)) 8)
  ((List.range (descPar d).n).map fun j => fromLE (s.bytes (s.canon a + 4 * j) 4)).sum

/-- Bytes of SRC and of DST (table Operations). -/
def State.srcLen (s : State) (d : Bytes) : Nat :=
  let p := descPar d
  (match p.op with
  | 4 => p.n * p.count
  | 5 => s.scountSum d
  | _ => p.count) * fmtBytes p.ifmt

def dstLen (d : Bytes) : Nat :=
  let p := descPar d
  (match p.op with
  | 1 => p.rsLo (descRank d + 1) - p.rsLo (descRank d)
  | 2 => p.n * p.count
  | 4 => p.n * p.count
  | 5 => descDcap d
  | _ => p.count) * fmtBytes p.ofmt

/-- Two ranges of memory share a byte. -/
def State.overlap (s : State) (a n b m : Nat) : Bool :=
  decide (n ≠ 0) && decide (m ≠ 0) && decide (s.canon a < s.canon b + m) && decide (s.canon b < s.canon a + n)

/-- The descriptor checks in table order (R378): the reason of the first that holds. -/
def State.descCheck (s : State) (die g : Nat) (k : BitVec 32) (d : Bytes) : Option (BitVec 8) :=
  let p := descPar d
  let w := s.tree (descTree d)
  let alg := fieldNat p.mode 3 2
  let chunkBad := leField d 0x14 4 % 64 != 0 || decide (4096 < leField d 0x14 4) || decide (4 < leField d 7 1)
  let countBad := p.op != 5 && (p.count == 0 || decide (2 ^ 28 < p.count))
  let aux := descAux d
  if !s.col.go then some 0x60
  else if decide (5 < p.op) || decide (1 < alg) || p.badFormats then some 0x61
  else if 3 < p.mode % 8 then some 0x62
  else if !trEn w || trDirect w != p.direct || (decide (3 < p.op) && !p.direct) then some 0x63
  else if !(trLocal w).testBit die then some 0x64
  else if !(s.group g).en then some 0x65
  else if p.n == 0 || decide (1048576 < p.n) || decide (p.n ≤ descRank d) || countBad then some 0x66
  else if chunkBad then some 0x67
  else if !s.cistOk die (descCist d) (descCsize d) || decide (descCsize d < p.csize) then some 0x68
  else if descSrc d % fmtBytes p.ifmt != 0 || descDst d % fmtBytes p.ofmt != 0 || aux % fmtBytes p.ifmt != 0
      || (p.op == 5 && aux == 0) then some 0x69
  else if s.overlap (descDst d) (dstLen d) (descSrc d) (s.srcLen d)
      || s.overlap (descDst d) (dstLen d) (descCist d) (descCsize d) then some 0x6A
  else match s.bucket? (descTag d) with
    | some b => if b.attempt != descAttempt d || (b.par.isSome && (b.step != k || b.grp.toNat != g)) then some 0x6B
        else none
    | none => none

/-- Reads what the contribution sends: scount and SRC. BROADCAST reads rank 0 only. -/
def State.readContrib (s : State) (d : Bytes) : Except (BitVec 8 × Nat) (Bytes × Bytes) × State :=
  let p := descPar d
  if p.op = 3 ∧ descRank d ≠ 0 then (.ok ([], []), s)
  else if p.op = 5 then
    match s.readMem (descAux d) 8 2 with
    | (.error e, s) => (.error (e, descAux d), s)
    | (.ok a, s) => match s.readMem (fromLE a) (4 * p.n) 2 with
      | (.error e, s) => (.error (e, fromLE a), s)
      | (.ok c, s) =>
        let n := ((List.range p.n).map fun j => leField c (4 * j) 4).sum
        match s.readMem (descSrc d) (n * fmtBytes p.ifmt) 2 with
        | (.error e, s) => (.error (e, descSrc d), s)
        | (.ok x, s) => (.ok (c, x), s)
  else match s.readMem (descSrc d) (s.srcLen d) 2 with
    | (.error e, s) => (.error (e, descSrc d), s)
    | (.ok x, s) => (.ok ([], x), s)

/-- A die has submitted ENDSTEP for a step (R404). -/
def State.endStep (s : State) (g : Nat) (k : BitVec 32) (die : Nat) : State :=
  let x := s.group g
  let m := (x.ends.find? fun e => e.1 == k).elim 0 Prod.snd
  s.setGroup g { x with ends := (x.ends.filter fun e => e.1 != k) ++ [(k, m ||| 2 ^ die)] }

/-- The contribution of a checked descriptor enters its bucket, opened if need be. -/
def State.joinBucket (s : State) (o : AsyncOp) (d : Bytes) (g : Nat) (k : BitVec 32) : State :=
  let p := descPar d
  let tag := descTag d
  let s := s.modCol fun c => { c with
    aborted := c.aborted.filter fun a => a.1 != tag || a.2.attempt == descAttempt d }
  let s := match s.bucket? tag with
    | some b => if b.par.isSome then s else s.setBucket { b with par := some p, grp := BitVec.ofNat 4 g, step := k }
    | none => s.modCol fun c =>
        { c with buckets := c.buckets ++ [Bucket.new tag (descAttempt d) (BitVec.ofNat 4 g) k (some p)] }
  let s := s.onBucket tag fun s b => if b.tree.isNone then s.bindTree tag (descTree d) else s
  s.onBucket tag fun s b =>
    if b.par ≠ some p ∨ b.tree ≠ some (descTree d) then
      (((s.modCol fun c => { c with reject := 0x6C }).opFail o cDesc 0)).abortBucket tag
    else
      let r := s.readContrib d
      let got : Bytes × Bytes := match r.1 with
        | .ok v => v
        | .error _ => ([], [])
      let x : Contrib := { op := o.id, core := o.core, rank := descRank d, src := descSrc d, dst := descDst d,
                           cist := descCist d % 2 ^ 48, dcap := descDcap d, aux := descAux d, scnt := got.1,
                           data := got.2, wrote := [], clip := false }
      let s := r.2.setBucket { b with locals := b.locals ++ [x] }
      let s := if (leField d 2 1).testBit 5 then s.endStep g k (s.dieOf o.core) else s
      match r.1 with
      | .error (e, a) =>
        let v := s.destVal o.core a
        (v.2.opFail o e v.1).abortBucket tag
      | .ok _ =>
        let inexact := p.red && p.ifmt == 8 && (List.range p.count).any fun i => (leField x.data (16 * i) 16).testBit 109
        let s := if inexact then s.opFlags o fpInexact else s
        -- a contribution after OPEN was sent makes the counts differ from N (R388)
        if b.started then s.onBucket tag fun s b => s.colMismatch b else s.colGo tag

/-- A descriptor of a bucket already aborted here ends at once with LATE (R402). -/
def State.lateDesc (s : State) (o : AsyncOp) (d : Bytes) (g : Nat) (k : BitVec 32) : State :=
  let b := Bucket.new (descTag d) (descAttempt d) (BitVec.ofNat 4 g) k (some (descPar d))
  let x : Contrib := { op := o.id, core := o.core, rank := descRank d, src := 0, dst := 0, cist := 0, dcap := 0, aux := 0,
                       scnt := [], data := [], wrote := [], clip := false }
  ((s.writeMem (descCist d % 2 ^ 48) (b.record true x) 2).2).opComplete o

/-- The hub accepts the submission at the head of core `c`'s queue (R129, R378, R379, R402). -/
def State.acceptDesc (s : State) (c : Nat) (o : AsyncOp) : State :=
  let g := iGrp o.word
  let k := o.rb.extractLsb' 0 32
  match s.readMem (spadAddr c o.ra.toNat) 64 2 with
  | (.error e, s) => s.opFail o e 0
  | (.ok d, s) => match s.descCheck (s.dieOf c) g k d with
    | some r => (s.modCol fun x => { x with reject := r }).opFail o cDesc 0
    | none =>
      let was := s.col.aborted.any fun a =>
        a.1 == descTag d && a.2.attempt == descAttempt d && a.2.step == k && a.2.grp.toNat == g
      if was then s.lateDesc o d g k else s.joinBucket o d g k

/-- The hub takes the descriptor at the front of core c's queue (R378, R379), over the bundle of the
core's die (R14, log entry 110). -/
def execCollectiveDescriptorAccept (c : Nat) (s : State) : Outcome State Fault Refusal :=
  if c < s.lcores then
    match (s.core c).colQ, s.awake c && s.pilUp (s.dieOf c) with
    | [], _ => .next s
    | _, false => .next s
    | id :: _, true =>
      let s := s.modCore c fun k => { k with colQ := k.colQ.drop 1 }
      match s.op? id with
      | none => .next s
      | some o => .next (s.acceptDesc c o)
  else .refused .illFormed

/-! ## Packets (R384) -/

/-- Fields of a collective header. -/
def hFld (d : Bytes) (lo n : Nat) : Nat := fieldNat (leField d 0 16) lo n

/-- A collective packet that its receiver keeps: KIND as the row says, reserved bits 0. -/
def hdrOk (d : Bytes) : Bool := hFld d 58 6 == 0 && hFld d 95 1 == 0 && hFld d 125 3 == 0

/-- Counts a discarded packet (R384). -/
def State.colDiscard (s : State) : State := s.modCol fun c => { c with discards := satInc16 c.discards }

/-- A collective packet of KIND `kind` arrives on link `l`, or its turn comes in the receive buffer, which it leaves
(10 R325); `opens` may open its bucket, and `f` handles it for an open one. -/
def colRecv (kind l : Nat) (d : Bytes) (s : State) (opens : State → State) (f : State → Bucket → State) :
    Outcome State Fault Refusal :=
  if l < 48 ∧ 16 ≤ d.length ∧ d.length ≤ 256 ∧ hFld d 0 4 = kind then
    match if (s.link l).state = .active then s.takeBody l 2 d else none with
    | none => .next s
    | some s =>
      if !hdrOk d then .next (s.modFab fun x => { x with e2e := satInc16 x.e2e })
      else
        let s := opens s
        match s.bucket? (hFld d 4 12) with
        | some b => if b.attempt.toNat = hFld d 16 8 then .next (f s b) else .next s.colDiscard
        | none => .next s.colDiscard
  else .refused .illFormed

/-- The maxima at byte `lo` of a packet. -/
def maxOf (d : Bytes) (lo n : Nat) : List Int := (List.range n).map fun i => signedNat 16 (leField d (lo + 2 * i) 2)

/-- OPEN, unpacked, with the descriptor's defaults (assumption 40). -/
def openOf (l : Nat) (d : Bytes) : COpen :=
  let g := leField d
  let n := hFld d 72 21
  { link := l, contrib := n, ranks := (List.range (min 4 n)).map fun i => g (48 + 4 * i) 4,
    par := { op := g 16 1, ifmt := g 17 1 % 16, ofmt := g 17 1 / 16, mode := g 18 1 % 32,
             depth := if g 19 1 = 0 then 2 else g 19 1, n := g 20 4, count := g 24 4,
             chunk := if g 28 4 = 0 then 4096 else g 28 4 },
    grp := BitVec.ofNat 4 (g 36 1), step := BitVec.ofNat 32 (g 32 4) }

/-- OPEN and EXP open the state entry of a bucket that has not ended (R384). -/
def State.openEntry (s : State) (d : Bytes) (par : Option COpen) : State :=
  let tag := hFld d 4 12
  let at' := BitVec.ofNat 8 (hFld d 16 8)
  let is := fun y : Gone => y.valid && y.attempt == at' && match par with
    | some o => y.step == o.step && y.grp == o.grp
    | none => true
  let ended := is (Tab.get Gone.init s.col.gone tag) || s.col.aborted.any fun a => a.1 == tag && is a.2
  if ended || (s.bucket? tag).isSome then s
  else s.modCol fun c => { c with buckets := c.buckets ++
    [Bucket.new tag at' ((par.map COpen.grp).getD 0) ((par.map COpen.step).getD 0) (par.map COpen.par)] }

/-- The maxima that link `l` reports for a chunk. -/
def State.takeMax (s : State) (tag l c : Nat) (mx : List Int) : State :=
  s.onBucket tag fun s b => s.setBucket (b.modChunk c fun k =>
    { k with mx := (k.mx.filter fun e => e.1 != l) ++ [(l, mx)] })

def execOpen (l : Nat) (pkt : Bytes) (s : State) : Outcome State Fault Refusal :=
  let o := openOf l pkt
  colRecv 0 l pkt s (fun s => s.openEntry pkt (some o)) fun s b =>
    let tag := b.tag
    let s := s.setBucket (if b.par.isSome then b else { b with par := some o.par, grp := o.grp, step := o.step })
    let s := s.onBucket tag fun s b =>
      if b.opens.any fun x => x.link == l then s else s.setBucket { b with opens := b.opens ++ [o] }
    let s := s.onBucket tag fun s b =>
      if b.p.red then s.takeMax tag l 0 (maxOf pkt 64 (hFld pkt 64 8)) else s
    (s.guessTree tag l).colGo tag

def execExp (l : Nat) (pkt : Bytes) (s : State) : Outcome State Fault Refusal :=
  colRecv 1 l pkt s (fun s => s.openEntry pkt none) fun s b =>
    (s.takeMax b.tag l (hFld pkt 24 22) (maxOf pkt 16 (hFld pkt 64 8))).colGo b.tag

/-- TV comes from the parent (R390). -/
def execTv (l : Nat) (pkt : Bytes) (s : State) : Outcome State Fault Refusal :=
  colRecv 2 l pkt s id fun s b =>
    let c := hFld pkt 24 22
    if (b.chunk c).ts.isSome || !b.flight.contains c || trParent (b.entry s) != some l then s
    else (s.setTs b.tag c (maxOf pkt 16 (hFld pkt 64 8))).colGo b.tag

/-- A module that has refused the bucket forwards windows and flags unchanged, with OVF (R392). -/
def Bucket.refuses (s : State) (b : Bucket) : Bool := !b.admitted && !b.p.direct && !b.isRoot s

/-- The packet with OVF set. -/
def withOvf (d : Bytes) : Bytes := toLE 16 (setBit (leField d 0 16) 94 true) ++ d.drop 16

/-- The slice whose sums a packet joins. -/
def Bucket.mySlice (s : State) (b : Bucket) : Nat := if b.p.direct then trMrank (b.entry s) else 0

def execWin (l : Nat) (pkt : Bytes) (s : State) : Outcome State Fault Refusal :=
  colRecv 3 l pkt s id fun s b =>
    let c := hFld pkt 24 22
    if b.refuses s then (trParent (b.entry s)).toList.foldl (fun s p => s.sendCol p (withOvf pkt)) s
    else
      let ws := (List.range (hFld pkt 64 8)).map fun i => signedNat 128 (leField pkt (16 + 16 * i) 16)
      let s := s.addAcc b.tag c (b.mySlice s) (hFld pkt 46 12) (hFld pkt 46 12 + ws.length) fun a =>
        a.addWin (hFld pkt 46 12) ws (hFld pkt 72 21) (hFld pkt 93 1 == 1) (hFld pkt 94 1 == 1)
      (s.sumCheck b.tag c).colGo b.tag

def execSpec (l : Nat) (pkt : Bytes) (s : State) : Outcome State Fault Refusal :=
  colRecv 4 l pkt s id fun s b =>
    let c := hFld pkt 24 22
    if b.refuses s then (trParent (b.entry s)).toList.foldl (fun s p => s.sendCol p (withOvf pkt)) s
    else
      let es := (List.range (hFld pkt 64 8)).map fun i =>
        (leField pkt (16 + 4 * i) 2 % 4096, leField pkt (16 + 4 * i) 2 / 4096)
      let is := es.map Prod.fst
      s.addAcc b.tag c (b.mySlice s) (is.foldl min 4096) ((is.foldl max 0) + 1) fun a => a.addSpec es (hFld pkt 72 21)

/-- Results: delivered to the local contributions, and under TREE passed to the children (R395). -/
def execRes (l : Nat) (pkt : Bytes) (s : State) : Outcome State Fault Refusal :=
  colRecv 5 l pkt s id fun s b =>
    let p := b.p
    let c := hFld pkt 24 22
    let off := hFld pkt 46 12
    let n := hFld pkt 64 8
    let codes := slice pkt 16 (n * fmtBytes p.ofmt)
    let s := if p.direct then s
      else (b.downLinks s).foldl (fun s k => s.sendCol k (if b.admitted then pkt else withOvf pkt)) s
    let s := s.setBucket { b with
      trunc := b.trunc || hFld pkt 93 1 == 1
      ovf := b.ovf || hFld pkt 94 1 == 1
      nan := b.nan + hFld pkt 96 8 }
    let s := s.deliverRes b.tag (c * p.chunk + off) codes
    let m := ((s.members (b.tree.getD 0)).find? fun e => e.2 == l).elim 0 Prod.fst
    let sl := p.slice c m (trMcount (b.entry s))
    -- of a count that takes several packets the last is below 240
    (s.addGot b.tag c (if n = 0 ∧ p.direct = true ∧ hFld pkt 96 8 < 240 then sl.2 - sl.1 else n)).colGo b.tag

/-- Copied data waits for the local descriptors, then is delivered or forwarded (R386, R397). -/
def execData (l : Nat) (pkt : Bytes) (s : State) : Outcome State Fault Refusal :=
  colRecv 6 l pkt s id fun s b =>
    let d := pkt.take (16 + hFld pkt 64 8 * fmtBytes b.p.ifmt)
    (s.setBucket { b with early := b.early ++ [(l, d)] }).colGo b.tag

/-- The counts of the sender's ranks for this module's ranks, sender by sender (R397; assumption 41). -/
def execCnt (l : Nat) (pkt : Bytes) (s : State) : Outcome State Fault Refusal :=
  colRecv 7 l pkt s id fun s b =>
    match b.opens.find? fun o => o.link == l with
    | none => s
    | some o =>
      let ps := o.ranks.flatMap fun i => b.locals.map fun x => (i, x.rank)
      let cs := ps.zipIdx.map fun e => (e.1.1, e.1.2, leField pkt (16 + 4 * e.2) 4)
      (s.setBucket { b with cnts := b.cnts ++ cs }).colGo b.tag

/-! ## The end of a bucket -/

/-- Every chunk has been written to the local DSTs. -/
def Bucket.complete (b : Bucket) : Bool :=
  b.started && b.flight.isEmpty && b.delivered == b.nch && (b.p.op != 5 || b.vDone)

/-- The writes of the last chunk are visible: records, signals, the step counter (R396, R404). -/
def execBucketComplete (tag : Nat) (s : State) : Outcome State Fault Refusal :=
  if tag < 4096 then
    match s.bucket? tag with
    | none => .next s
    | some b => if b.complete then .next ((s.endBucket b false).stepCheck b.grp b.step) else .next s
  else .refused .illFormed

/-- The timer of an open bucket runs out (R398, STEP_LATE). -/
def execStepTimeout (tag : Nat) (s : State) : Outcome State Fault Refusal :=
  if tag < 4096 then
    match s.bucket? tag with
    | none => .next s
    | some b =>
      let s := s.modCol fun c => { c with timeouts := satInc16 c.timeouts }
      let s := s.notify 12 false b.grp.toNat 0 (tag + b.attempt.toNat * 2 ^ 12 + b.step.toNat * 2 ^ 32)
      .next (s.abortBucket tag)
  else .refused .illFormed

/-- STEP_ABORT for an open bucket aborts its step (R400); a bucket known only by EXP learns its step from the message. -/
def execStepAbort (l : Nat) (tag : BitVec 12) (attempt : BitVec 8) (g : BitVec 4) (k : BitVec 32) (s : State) :
    Outcome State Fault Refusal :=
  if l < 48 then
    match s.bucket? tag.toNat with
    | none => .next s
    | some b =>
      if b.attempt ≠ attempt then .next s
      else if b.par.isSome then .next (s.abortBucket tag.toNat)
      else .next ((s.abortOne { b with grp := g, step := k }).abortStep g k)
  else .refused .illFormed

/-! ## Step fences (03 R92 to R94; R404) -/

/-- A fence begins: at once LATE while the group or the engine is off, at once COMPLETE when the counter is there. -/
def State.fenceWait (s : State) (c t g : Nat) (k : BitVec 32) (rd : Nat) : State :=
  let x := s.group g
  if !x.en || !s.col.go then s.modThread c t fun u => u.putS rd 1
  else if stepGe x.step k then s.modThread c t fun u => u.putS rd 0
  else s.modThread c t fun u => u.startWait (.step g k rd)

def Group.round (x : Group) (k : BitVec 32) : Round := (x.rounds.find? fun r => r.k == k).getD ⟨k, 0, [], false⟩

def Group.setRound (x : Group) (r : Round) : Group :=
  { x with rounds := (x.rounds.filter fun y => y.k != r.k) ++ [r] }

/-- The round ends: FENCE_RELEASE goes down, and the counter is set. -/
def State.fenceRelease (s : State) (g : Nat) (k : BitVec 32) : State :=
  let x := s.group g
  let ls := if x.mfence then trChildren (s.tree x.ftree) else []
  let s := s.setGroup g { x with rounds := x.rounds.filter fun r => r.k != k }
  (ls.foldl (fun s l => s.sendStep l 0x11 0 0 (BitVec.ofNat 4 g) k) s).setCounter g k

/-- A round advances once FCOUNT executions are counted and every child has arrived. Without MFENCE it is a round of
this module alone (assumption 46). -/
def State.roundGo (s : State) (g : Nat) (k : BitVec 32) : State :=
  let x := s.group g
  let r := x.round k
  let w := s.tree x.ftree
  if r.sent || decide (r.count < x.fcount) then s
  else if !x.mfence then s.fenceRelease g k
  else if !trEn w || trDirect w || !(trChildren w).all r.heard.contains then s
  else match trParent w with
    | none => s.fenceRelease g k
    | some l => (s.setGroup g (x.setRound { r with sent := true })).sendStep l 0x10 0 0 (BitVec.ofNat 4 g) k

/-- STEPFENCE.M arrives, whatever the counter, unless the group or the engine is off (R94, R404). -/
def State.fenceArrive (s : State) (g : Nat) (k : BitVec 32) : State :=
  let x := s.group g
  if !x.en || !s.col.go then s
  else
    let r := x.round k
    (s.setGroup g (x.setRound { r with count := r.count + 1 })).roundGo g k

def execStepfence (c t : Nat) (w : BitVec 64) (s : State) : Outcome State Fault Refusal :=
  issue 0x6B 0 c t w s fun th s =>
    .done (s.fenceWait c t (iId w) ((th.regs.getS (iRa w)).extractLsb' 0 32) (iRd w))

def execStepfenceM (c t : Nat) (w : BitVec 64) (s : State) : Outcome State Fault Refusal :=
  issue 0x6B 1 c t w s fun th s =>
    let k := (th.regs.getS (iRa w)).extractLsb' 0 32
    .done ((s.fenceWait c t (iId w) k (iRd w)).fenceArrive (iId w) k)

/-- A child arrives. -/
def execFenceArrive (l : Nat) (g : BitVec 4) (k : BitVec 32) (s : State) : Outcome State Fault Refusal :=
  if l < 48 then
    let x := s.group g.toNat
    if !x.en || !x.mfence || !s.col.go || !(trChildren (s.tree x.ftree)).contains l then .next s
    else
      let r := x.round k
      let r := if r.heard.contains l then r else { r with heard := r.heard ++ [l] }
      .next ((s.setGroup g.toNat (x.setRound r)).roundGo g.toNat k)
  else .refused .illFormed

/-- The parent releases. -/
def execFenceRelease (l : Nat) (g : BitVec 4) (k : BitVec 32) (s : State) : Outcome State Fault Refusal :=
  if l < 48 then
    let x := s.group g.toNat
    if !x.en || !x.mfence || trParent (s.tree x.ftree) != some l then .next s
    else .next (s.fenceRelease g.toNat k)
  else .refused .illFormed

/-! ## Registers -/

/-- COL_CTL. -/
def Col.ctlWord (c : Col) : Nat := b2n c.go + b2n c.admitEn * 2 + c.timeout.toNat * 2 ^ 16

/-- A write of COL_CTL (R407, R408). -/
def State.writeColCtl (s : State) (w : BitVec 32) : State :=
  let c := s.col
  if c.go then
    if w.getLsbD 0 then s
    else
      let s := (s.modCol fun c => { c with go := false }).abortWhere fun _ => true
      (List.range 16).foldl State.groupLate s
  else s.modCol fun c =>
    let c := { c with
      admitEn := if c.unlocked then w.getLsbD 1 else c.admitEn
      timeout := w.extractLsb' 16 16 }
    if !w.getLsbD 0 then c
    else if c.timeout.toNat < 10 then { c with reason := 0x6E }
    else { c with go := true }

def execColCtlGoSet (w : BitVec 32) (s : State) : Outcome State Fault Refusal :=
  if w.getLsbD 0 = true then .next (s.writeColCtl w) else .refused .illFormed

def execColCtlGoClear (w : BitVec 32) (s : State) : Outcome State Fault Refusal :=
  if w.getLsbD 0 = false then .next (s.writeColCtl w) else .refused .illFormed

/-- COL_TREE's fields, its reserved bits 0. -/
def treeMask : BitVec 128 := 0xFFFFFFFFFFFFFFF3FF7#128

/-- The checks of R382 on entry `e` with contents `w`. -/
def State.treeBad (s : State) (e : Nat) (w : BitVec 128) : Bool :=
  let m := trMcount w
  let others := (List.range m).filter fun i => i != trMrank w
  let links := others.map fun i => (s.memberReg e i).toNat % 64
  if trDirect w then
    (trLocal w == 0 && decide (m ≤ 1)) || m == 0 || decide (49 < m) || decide (m ≤ trMrank w)
      || others.any (fun i => !(s.memberReg e i).getLsbD 7) || !decide links.Nodup
  else
    (trLocal w == 0 && (trChildren w).isEmpty) || match trParent w with
      | none => false
      | some p => decide (47 < p) || (trChildren w).contains p

/-- A write of COL_TREE (R382, R383). -/
def State.writeTree (s : State) (e : Nat) (w : BitVec 128) : State :=
  let old := s.tree e
  if trEn old then
    if w.getLsbD 0 then s
    else
      let s := s.abortWhere fun b => b.tree == some e
      s.modCol fun c => { c with trees := Tab.set 0 c.trees e (old &&& ~~~1#128) }
  else
    let v := w &&& treeMask &&& ~~~1#128
    if w.getLsbD 0 ∧ s.treeBad e v = false then s.modCol fun c => { c with trees := Tab.set 0 c.trees e (v ||| 1#128) }
    else s.modCol fun c => { c with
      trees := Tab.set 0 c.trees e v
      reason := if w.getLsbD 0 then 0x6D else c.reason }

def execColTreeEnSet (e : Nat) (w : BitVec 128) (s : State) : Outcome State Fault Refusal :=
  if e < 64 ∧ w.getLsbD 0 = true then .next (s.writeTree e w) else .refused .illFormed

def execColTreeEnClear (e : Nat) (w : BitVec 128) (s : State) : Outcome State Fault Refusal :=
  if e < 64 ∧ w.getLsbD 0 = false then .next (s.writeTree e w) else .refused .illFormed

/-- A write of one COL_MEMBER, governed by its entry's EN. -/
def State.writeMember (s : State) (e i : Nat) (v : BitVec 8) : State :=
  if trEn (s.tree e) || decide (48 < i) then s
  else s.modCol fun c => { c with members := Tab.set 0 c.members (e * 64 + i) (v &&& 0xBF) }

/-- COL_GROUP's written fields. -/
def groupMask : BitVec 32 := 0x1FFF0FFF

/-- A write of COL_GROUP (R409, R410). -/
def State.writeGroup (s : State) (g : Nat) (w : BitVec 32) : State :=
  let x := s.group g
  if x.en then
    if w.getLsbD 0 then s
    else
      let s := s.setGroup g { x with w := x.w &&& ~~~1#32 }
      (s.abortWhere fun b => b.par.isSome && b.grp.toNat == g).groupLate g
  else
    let y := { x with w := w &&& groupMask &&& ~~~1#32 }
    let t := s.tree y.ftree
    let bad := y.dies == 0 || y.fcount == 0 || (y.mfence && (!trEn t || trDirect t))
    if w.getLsbD 0 ∧ bad = false then s.setGroup g { y with w := y.w ||| 1#32 }
    else (s.setGroup g y).modCol fun c => { c with reason := if w.getLsbD 0 then 0x6F else c.reason }

def execColGroupEnSet (g : Nat) (w : BitVec 64) (s : State) : Outcome State Fault Refusal :=
  if g < 16 ∧ w.getLsbD 0 = true then .next (s.writeGroup g (w.extractLsb' 0 32)) else .refused .illFormed

def execColGroupEnClear (g : Nat) (w : BitVec 64) (s : State) : Outcome State Fault Refusal :=
  if g < 16 ∧ w.getLsbD 0 = false then .next (s.writeGroup g (w.extractLsb' 0 32)) else .refused .illFormed

/-- The COL block as read, 8 bytes at `off`. -/
def Col.reg (c : Col) (off : Nat) : Nat :=
  if off = 0 then c.ctlWord
  else if off = 8 then c.reason.toNat + c.reject.toNat * 2 ^ 8 + c.slotsUsed * 2 ^ 16 + c.buckets.length * 2 ^ 32
    + c.digestNext.toNat * 2 ^ 48
  else if off = 0x10 then c.late.toNat + c.timeouts.toNat * 2 ^ 16 + c.overflows.toNat * 2 ^ 32 + c.discards.toNat * 2 ^ 48
  else if 0x800 ≤ off ∧ off < 0x900 then
    let x := Tab.get Group.init c.groups ((off - 0x800) / 16)
    if off % 16 = 0 then x.w.toNat else x.step.toNat
  else if off = 0xFF8 then b2n c.unlocked * 2 ^ 16
  else if 0x1000 ≤ off ∧ off < 0x1400 then
    (Tab.get 0 c.trees ((off - 0x1000) / 16)).toNat / 2 ^ (64 * (off % 16 / 8)) % 2 ^ 64
  else if 0x3000 ≤ off ∧ off < 0x4000 then
    fromLE (Tab.range 0 c.members (off - 0x3000) 8)
  else if 0x8000 ≤ off ∧ off < 0xA000 then
    (Tab.get 0 c.digests ((off - 0x8000) / 32)).toNat / 2 ^ (64 * (off % 32 / 8)) % 2 ^ 64
  else 0

end Sys2Proof.Machine
end

