-- ==== Sys2Proof/Machine/Remote.lean ====
section
/-! DEFINITION. The remote instructions RLD, RST, RLDV, RSTV, RATOM, RATOMN and PUTS at the issuing module (04 R124 to
R126; 11 R352, R353, R357). Each fabric packet is one part of the outstanding request. -/

namespace Sys2Proof.Machine

open Host (Outcome)

/-- SRCENG of a thread (table Fabric packet header). -/
def threadEng (c t : Nat) : BitVec 16 := BitVec.ofNat 16 (c * 32 + t)

/-- The device address of a global address: OFF is added to bits [47:0] modulo 2^48 (R125). -/
def gAddr (th : Thread) (w : BitVec 64) : Nat :=
  (((th.regs.getS (iRa w)).extractLsb' 0 48) + (sext64 30 (iOff w)).extractLsb' 0 48).toNat

/-- The node of a global address. -/
def gNode (th : Thread) (w : BitVec 64) : BitVec 16 := (th.regs.getS (iRa w)).extractLsb' 48 16

/-- The exceptions of a remote access in the order of R106. -/
def State.remoteCheck (s : State) (c : Nat) (node : BitVec 16) (bcast : Bool) (align : Nat) (as : List Nat) :
    Option (BitVec 8) :=
  if !(s.core c).unlocked && as.any physAddr then some cExpert
  else if node == 0xFFFF && !bcast then some cAddrForm
  else if as.any fun a => a % align != 0 then some cAlign
  else none

/-- Splits a write into packets of at most 248 data bytes; other accesses take one packet. -/
def packetsOf : Nat → Acc → List Acc
  | 0, _ => []
  | fuel + 1, a =>
    match a.op with
    | .wr d => if d.length ≤ 248 then [a]
        else ⟨a.addr, 248, a.off, .wr (d.take 248), []⟩
          :: packetsOf fuel ⟨a.addr + 248, a.len - 248, a.off + 248, .wr (d.drop 248), []⟩
    | _ => [a]

/-- 32-byte sectors an instruction accesses (R72). -/
def sectorsIn (accs : List Acc) : Nat :=
  (accs.flatMap fun a => (List.range (sectorsOf a.addr a.len)).map fun i => a.addr / 32 + i).eraseDups.length

/-- One part for each packet, and placeholders that hold the remaining sector slots until the request ends. -/
def remoteParts (node : BitVec 16) (sid nsec : Nat) (lost : Acc → Bool) (pk : List Acc) : List Part :=
  (pk.zipIdx.map fun e =>
    { sid := sid + min e.2 (nsec - 1), addr := e.1.addr, len := e.1.len, op := e.1.op, node := some node,
      off := e.1.off, also := [], time := 0, closed := true, snap := none, res := none,
      err := if lost e.1 then some (cUnreach, 4) else none }) ++
  ((List.range nsec).drop pk.length).map fun i =>
    { sid := sid + i, addr := 0, len := 0, op := .wr [], node := some node, off := 0, also := [], time := 0,
      closed := true, snap := none, res := some [], err := none }

/-- TYPE and payload of a packet to a node. -/
def PartOp.packet (op : PartOp) (node : BitVec 16) (addr len : Nat) : Nat × Bytes :=
  match op with
  | .rd => (1, rdBody node addr len)
  | .wr d => (2, wrBody node addr d)
  | .atom aop width v cmp => (4, atomBody node addr aop width v cmp)

/-- The node that a packet is sent to: for a read a nearer replica (R370). -/
def State.target (s : State) (node : BitVec 16) (a : Acc) : BitVec 16 :=
  match a.op with
  | .rd => s.replicaOf node a.addr
  | _ => node

/-- Sends the packets of a request. -/
def State.sendParts (s : State) (c t req : Nat) (node : BitVec 16) (pk : List Acc) : State :=
  pk.foldl (fun s a =>
    let p := a.op.packet node a.addr a.len
    (s.newReq (.part c t req a.off) (threadEng c t) p.1 (s.target node a) a.addr a.len p.2).2) s

/-- Issues a remote access, or waits for slots; an unreachable node returns NODE_UNREACH (R72, R73, R353). -/
def State.remote (s : State) (c t : Nat) (pc : BitVec 64) (dst : ReqDst) (node : BitVec 16) (accs : List Acc) : Eff :=
  if accs.isEmpty then .done s
  else
    let nsec := sectorsIn accs
    if 8 ≤ (s.thread c t).slots ∨ 256 < s.slotsUsed c + nsec then .slots nsec
    else
      let pk := accs.flatMap (packetsOf 4)
      let id := s.nextId
      let lost := fun a => !s.reachable (s.target node a) false
      let ps := remoteParts node (id + 1) nsec lost pk
      let s := { s with nextId := id + 1 + nsec }
      let s := s.modThread c t fun th => th.addReq ⟨id, pc, dst, false, ps⟩
      .done (s.sendParts c t id node (pk.filter fun a => !lost a))

/-- Sends a message: PUTS or RATOMN (R357), or waits for a thread slot and a sector slot (R72, R73, R126; assumption 113).
A node that is not routed ends it with NODE_UNREACH. -/
def State.message (s : State) (c t : Nat) (pc : BitVec 64) (type : Nat) (node : BitVec 16) (addr len : Nat)
    (body : Bytes) : Eff :=
  if 8 ≤ (s.thread c t).slots ∨ 256 < s.slotsUsed c + 1 then .slots 1
  else if !s.reachable node true then .done (s.threadError c t cUnreach 3 4 pc)
  else
    let s := s.modThread c t fun th => { th with msgs := th.msgs ++ [⟨s.nextId, pc, true⟩] }
    .done (s.newReq (.msg c t) (threadEng c t) type node addr len body).2

/-- The links of the broadcast tree but `except` (R352). -/
def State.bcastLinks (s : State) (except : Nat) : List Nat :=
  selectBelow 48 fun l => l != except && s.fab.bcast.getLsbD l && decide (1 ≤ (Tab.get Disc.init s.fab.disc l).minor.toNat)

/-- Sends a broadcast packet on the tree's links but `except`. -/
def State.bcastSend (s : State) (except : Nat) (p : Pkt) : State :=
  (s.bcastLinks except).foldl (fun s l => s.linkPut l p.vc p.bytes) s

/-- A broadcast PUT of this module: to itself and on the tree; nothing acknowledges it (R352). -/
def State.broadcast (s : State) (eng : BitVec 16) (body : Bytes) : State :=
  let p : Pkt := { dst := 0xFFFF, src := s.fab.nodeId, eng := eng, vc := 0, type := 3, ttl := 63, tag := 0, status := 0,
                   body := body }
  (s.linkPut 48 0 p.bytes).bcastSend 48 p

/-! ## The instructions -/

def execRld (c t : Nat) (w : BitVec 64) (s : State) : Outcome State Fault Refusal :=
  issue 0x58 0 c t w s fun th s =>
    let a := gAddr th w
    let n := widthBytes w
    match s.remoteCheck c (gNode th w) false n [a] with
    | some e => .exc e
    | none => s.remote c t th.pc (.s (iRd w) n (iAop w == 1)) (gNode th w) [⟨a, n, 0, .rd, []⟩]

def execRst (c t : Nat) (w : BitVec 64) (s : State) : Outcome State Fault Refusal :=
  issue 0x59 0 c t w s fun th s =>
    let a := gAddr th w
    let n := widthBytes w
    match s.remoteCheck c (gNode th w) false n [a] with
    | some e => .exc e
    | none =>
      s.remote c t th.pc .none (gNode th w) [⟨a, n, 0, .wr (toLE n (th.regs.getS (iRd w)).toNat), []⟩]

/-- The lanes' addresses. -/
def gLanes (th : Thread) (w : BitVec 64) : List Nat := (th.lanes w).map fun i => (gAddr th w + 4 * i) % 2 ^ 48

/-- One access for each run of consecutive guarded lanes; an offset counts from lane 0. -/
def gRuns (th : Thread) (w : BitVec 64) (op : Nat → Nat → PartOp) : List Acc :=
  (runsOf (th.lanes w)).map fun r => ⟨(gAddr th w + 4 * r.1) % 2 ^ 48, 4 * r.2, 4 * r.1, op r.1 r.2, []⟩

def execRldv (c t : Nat) (w : BitVec 64) (s : State) : Outcome State Fault Refusal :=
  issue 0x5A 0 c t w s fun th s =>
    match s.remoteCheck c (gNode th w) false 4 (gLanes th w) with
    | some e => .exc e
    | none =>
      let ls := BitVec.ofNat 64 (bitsOf 64 (th.laneGuard w))
      s.remote c t th.pc (.v (iRd w) ls 0) (gNode th w) (gRuns th w fun _ _ => .rd)

def execRstv (c t : Nat) (w : BitVec 64) (s : State) : Outcome State Fault Refusal :=
  issue 0x5B 0 c t w s fun th s =>
    match s.remoteCheck c (gNode th w) false 4 (gLanes th w) with
    | some e => .exc e
    | none =>
      let v := th.regs.getV (iRd w)
      s.remote c t th.pc .none (gNode th w) (gRuns th w fun i n => .wr (laneBytes v i n))

def execRatom (c t : Nat) (w : BitVec 64) (s : State) : Outcome State Fault Refusal :=
  issue 0x5C 0 c t w s fun th s =>
    let a := gAddr th w
    let n := widthBytes w
    match s.remoteCheck c (gNode th w) false n [a] with
    | some e => .exc e
    | none =>
      s.remote c t th.pc (.s (iRd w) n false) (gNode th w)
        [⟨a, n, 0, .atom (iAop w) n (th.regs.getS (iRd w)) (th.regs.getS (iRb w)), []⟩]

def execRatomn (c t : Nat) (w : BitVec 64) (s : State) : Outcome State Fault Refusal :=
  issue 0x5D 0 c t w s fun th s =>
    let a := gAddr th w
    let n := widthBytes w
    match s.remoteCheck c (gNode th w) false n [a] with
    | some e => .exc e
    | none =>
      let body := atomBody (gNode th w) a (iAop w) n (th.regs.getS (iRd w)) (th.regs.getS (iRb w))
      s.message c t th.pc 5 (gNode th w) a n body

/-- PUTS; node 0xFFFF is a broadcast (R352). -/
def execPuts (c t : Nat) (w : BitVec 64) (s : State) : Outcome State Fault Refusal :=
  issue 0x5E 0 c t w s fun th s =>
    let a := gAddr th w
    let n := widthBytes w
    let node := gNode th w
    match s.remoteCheck c node true n [a] with
    | some e => .exc e
    | none =>
      let body := wrBody node a (toLE n (th.regs.getS (iRd w)).toNat)
      if node = 0xFFFF then
        if 8 ≤ (s.thread c t).slots ∨ 256 < s.slotsUsed c + 1 then .slots 1
        else if s.fab.node = 0xFFFF then .done (s.threadError c t cUnreach 3 4 th.pc)
        else if s.pilUp (s.dieOf c) then .done (s.broadcast (threadEng c t) body) else .hold
      else s.message c t th.pc 3 node a n body

end Sys2Proof.Machine
end

