-- ==== Sys2Proof/Machine/Pumps.lean ====
section
/-! DEFINITION. Stream pumps and host pumps (04 R127, R128; 03 R546; 11 R357; 13 R434): the pieces of a transfer,
reading and writing them, and its end. -/

namespace Sys2Proof.Machine

open Host (Outcome)

/-- The pieces of a tile in order: for each row its data, then its scales (R127). -/
def Desc.segs (d : Desc) : List (Nat × Nat) :=
  (List.range d.planes).flatMap fun p => (List.range d.dim1).flatMap fun r =>
    [(d.rowAddr p r, d.dataBytes)] ++ if d.scaled then [(d.rowAddr p r + d.soff, d.dim0 / 32)] else []

/-- Reads pieces by `rd` until one fails: the data read, and the failing address and cause. -/
def State.readSegs (rd : State → Nat → Nat → Nat → Except (BitVec 8) Bytes × State) (cls : Nat) :
    State → List (Nat × Nat) → List Bytes × Option (Nat × BitVec 8) × State
  | s, [] => ([], none, s)
  | s, (a, n) :: l =>
    match rd s a n cls with
    | (.error e, s) => ([], some (a, e), s)
    | (.ok d, s) =>
      let r := State.readSegs rd cls s l
      (d :: r.1, r.2)

/-- Cuts packed bytes into pieces. -/
def cutSegs : List (Nat × Nat) → Bytes → List OutW
  | [], _ => []
  | (a, n) :: l, d => ⟨a, d.take n⟩ :: cutSegs l (d.drop n)

/-- The cause and DEST of a failed read, seen from core `c`. -/
def State.failAt (s : State) (c : Nat) (x : Option (Nat × BitVec 8)) : Option (BitVec 8 × BitVec 4) × State :=
  match x with
  | none => (none, s)
  | some (a, e) =>
    let d := s.destVal c a
    (some (e, d.1), d.2)

/-- The pieces of a remote transfer: source address, destination address, length at most `lim`. -/
def remoteChunks (lim : Nat) (src dst : List (Nat × Nat)) : List (Nat × Nat × Nat) :=
  (src.zip dst).flatMap fun e => (List.range (ceilDiv e.1.2 lim)).map fun i =>
    (e.1.1 + i * lim, e.2.1 + i * lim, min lim (e.1.2 - i * lim))

/-- A stream pump is free. -/
def State.pumpFree (s : State) (host : Bool) (d p : Nat) : Bool :=
  !s.pumps.any fun r => r.host == host && (host || r.die == d) && r.pump == p

/-- The die of a pump: a stream pump's own, none for a host pump, which sits in the hub. -/
def PumpRun.side (r : PumpRun) : Option Nat := if r.host then none else some r.die

/-- A new transfer of pump `p`. -/
def newRun (host : Bool) (d p : Nat) (op : Option Nat) (cmd : Option (Nat × Nat)) : PumpRun where
  host := host
  die := d
  pump := p
  op := op
  cmd := cmd
  writes := []
  hostWrites := []
  waiting := []
  err := none
  moved := 0

def State.addRun (s : State) (r : PumpRun) : State := { s with pumps := s.pumps ++ [r] }

/-- SRCENG of stream pump `x` (die × 8 + pump). -/
def pumpEng (x : Nat) : BitVec 16 := BitVec.ofNat 16 (0x4000 + x)

/-- Sends the requests of a PUT or GET; the transfer is already in `pumps`, with the numbers its requests will take. -/
def State.pumpRequest (s : State) (x : Nat) (type : Nat) (node : BitVec 16) (addr len : Nat) (body : Bytes) (back : Nat) :
    State :=
  let f := fun r : PumpRun =>
    if !r.host && r.die * 8 + r.pump == x then { r with waiting := r.waiting ++ [(s.nextId, back)] } else r
  let s := { s with pumps := s.pumps.map f }
  (s.newReq (.pump x) (pumpEng x) type node addr len body).2

/-! ## The end of a transfer -/

/-- The core whose scratchpad an address lies in, by its window or by its site. -/
def State.spadCore (s : State) (a : Nat) : Option Nat :=
  if physBase ≤ a ∧ a < physBase + 176 * 0x4000000 then s.coreAtSite ((a - physBase) / 0x4000000)
  else if windowBase ≤ a ∧ a < windowBase + s.lcores * 0x4000000 then some ((a - windowBase) / 0x4000000)
  else none

/-- The address lies in the scratchpad of a diked core. -/
def State.dikedAt (s : State) (a : Nat) : Bool :=
  match s.spadCore a with
  | some c => (s.core c).diked
  | none => false

/-- Adjacent LPDDR pieces as one piece, so that whole ECC groups are seen (08 R246, R255). -/
def State.joinOuts (s : State) : List OutW → List OutW
  | [] => []
  | w :: l =>
    match State.joinOuts s l with
    | x :: r => if w.addr + w.data.length = x.addr ∧ x.addr + x.data.length ≤ s.lpdTop then ⟨w.addr, w.data ++ x.data⟩ :: r
        else w :: x :: r
    | [] => [w]

/-- Writes in turn by `wr`. A write of a muted transfer into the scratchpad of a diked core is discarded (R546); another error
stops the transfer. -/
def State.pumpWrites (wr : State → Nat → Bytes → Nat → Except (BitVec 8) Unit × State) (muted : Bool) (cls : Nat) :
    State → List OutW → Option (Nat × BitVec 8) × State
  | s, [] => (none, s)
  | s, w :: ws =>
    match wr s w.addr w.data cls with
    | (.ok _, s) => State.pumpWrites wr muted cls s ws
    | (.error e, s) =>
      if muted && s.dikedAt w.addr then State.pumpWrites wr muted cls s ws else (some (w.addr, e), s)

/-- A queue command becomes ready to complete. -/
def State.cmdReady (s : State) (q n : Nat) (status cause : BitVec 8) (detail : Nat) : State :=
  let x := Tab.get Queue.init s.pcie.queues q
  let f := fun c : Cmd =>
    if c.n = n then { c with status := status, cause := cause, detail := BitVec.ofNat 64 detail, ready := true } else c
  { s with pcie := { s.pcie with queues := Tab.set Queue.init s.pcie.queues q { x with started := x.started.map f } } }

/-- Bytes of the pieces before the one at address `a` (R434). -/
def movedBefore (l : List OutW) (a : Nat) : Nat := ((l.takeWhile fun w => w.addr != a).map fun w => w.data.length).sum

/-- The transfer ends: its last write is visible, then it signals, or its error status reaches its thread or command
(R107, R128, R434). `wr` writes a piece. -/
def State.endRun (wr : State → Nat → Bytes → Nat → Except (BitVec 8) Unit × State) (s : State) (r : PumpRun) : State :=
  let s := { s with pumps := s.pumps.filter fun x => !(x.host == r.host && x.die == r.die && x.pump == r.pump) }
  let op := r.op.bind s.op?
  let muted := match op with
    | some o => o.mute
    | none => false
  let c := match op with
    | some o => o.core
    | none => 0
  let s := r.hostWrites.foldl (fun s w => s.setHostBytes w.addr w.data) s
  let w := State.pumpWrites wr muted (if r.host then 2 else 1) s (if r.host then r.writes else s.joinOuts r.writes)
  let f := w.2.failAt c w.1
  let err := match f.1 with
    | some e => some e
    | none => r.err
  let s := f.2
  let moved := match w.1 with
    | some (a, _) => movedBefore r.writes a
    | none => r.moved
  let s := match r.cmd, err with
    | some (q, n), none => s.cmdReady q n 0 0 moved
    | some (q, n), some e => s.cmdReady q n 0x7A e.1 moved
    | none, _ => s
  match op, err with
  | some o, none => s.opComplete o
  | some o, some e => s.opFail o e.1 e.2
  | none, _ => s

/-- A transfer of a host pump ends with HOST_ABORT (R437). How much it had moved by then is a free choice; what had not
moved is not written; a piece on registers counts as not moved (assumption 21). -/
def State.abortRun (s : State) (r : PumpRun) : State :=
  let f := s.takeFree
  let k := (Config.freeWord f.1).toNat
  let hw := r.hostWrites.map fun w => { w with data := w.data.take (k % (w.data.length + 1)) }
  let ws := (r.writes.take (k % (r.writes.length + 1))).takeWhile fun w => (s.regAt w.addr w.data.length).isNone
  let n := ((hw ++ ws).map fun w => w.data.length).sum
  f.2.endRun State.writeMem { r with writes := ws, hostWrites := hw, err := some (cHostAbort, 5), moved := n }

/-- DEV_CTL.GO clears: the transfers of threads in host pumps end with HOST_ABORT (R423). -/
def State.abortThreadPumps (s : State) : State :=
  (s.pumps.filter fun r => r.host && r.op.isSome).foldl State.abortRun s

end Sys2Proof.Machine
end

