-- ==== Sys2Proof/Machine/Breach.lean ====
section
/-! DEFINITION. What several chapters do to the module as a whole: a link's breach or isolation (10 R328, R329; 11 R362,
R363), a port reset (10 R330; 14 R455), the queues' stop, and the stop of the module (09 R283; 14 R449; 13 R423). -/

namespace Sys2Proof.Machine

/-- TKL_LINK_STATUS. -/
def Link.statusWord (k : Link) : Nat :=
  k.state.code + (lanesOf k.txMask).length * 2 ^ 8 + (lanesOf k.rxMask).length * 2 ^ 16 + k.reason.toNat * 2 ^ 24
    + k.txMask.toNat * 2 ^ 32 + k.rxMask.toNat * 2 ^ 48

/-! ## Routes that lose a link -/

/-- The entry without the next hops that name `l` (R363). -/
def Route.without (r : Route) (l : Nat) (go : Bool) : Route :=
  let hit := bitsOf 4 fun i => (r.fld 32 4).testBit i && r.fld (8 + 6 * i) 6 == l
  if hit = 0 then r
  else
    let mask := r.fld 32 4 - hit
    let w := BitVec.ofNat 64 (r.w.toNat - hit * 2 ^ 32)
    ⟨if mask = 0 then w &&& ~~~1#64 else w, r.hold || go⟩

/-- Removes a link from every entry (R363), raises ROUTE_LOST, and lets waiting requests find their new way. -/
def State.routesWithout (s : State) (l : Nat) : State :=
  let rs := s.fab.route.map fun e => (e.1, e.2.without l s.fab.go)
  let lost := (s.fab.route.zip rs).countP fun e => e.1.2.w.getLsbD 0 && !e.2.2.w.getLsbD 0
  let s := s.modFab fun f => { f with route := rs.foldl (fun m e => Tab.set Route.init m e.1 e.2) [] }
  (s.notify 9 false l 0 lost).kick

/-- The packets that a link hands back are lost (R362); malformed ones are counted too. -/
def State.loseAll (s : State) (ps : List (Nat × Bytes)) : State :=
  ps.foldl (fun s p => match parsePkt p.2 with
    | some q => s.losePacket q
    | none => s.countDrop) s

/-- Packets that have waited for a lost link find another hop (R349, R363). Records belong to their link, packets of the
collective engine and broadcasts to their tree (R352, R362). -/
def State.reroute (s : State) (ps : List (Nat × Bytes)) : State :=
  ps.foldl (fun s e => match parsePkt e.2 with
    | some p =>
      if p.type = 8 then s else if p.type = 9 ∨ p.dst = 0xFFFF then s.countDrop else s.routePacket 49 p
    | none => s.countDrop) s

def State.disc (s : State) (l : Nat) : Disc := Tab.get Disc.init s.fab.disc l

def State.modDisc (s : State) (l : Nat) (f : Disc → Disc) : State :=
  s.modFab fun x => { x with disc := Tab.set Disc.init x.disc l (f (Tab.get Disc.init x.disc l)) }

/-- A link that goes out of EXCH has left it (R345). -/
def State.leaveExch (s : State) (l : Nat) : State :=
  if (s.link l).state = .exch && s.fab.go then s.modDisc l fun d => { d with left := true } else s

/-- A link ceases to carry traffic: its routes, its packets and its buckets (R362, R363, R399). -/
def State.linkGone (s : State) (l : Nat) (x : LState) (reason : BitVec 8) : State :=
  let s := s.leaveExch l
  let k := s.link l
  let s := s.setLink l { k.emptied with state := x, reason := reason, queue := [] }
  ((((s.routesWithout l).loseAll k.handBack).reroute k.queue).kick).colLinkLost l

/-- A trained link ceases to carry traffic and stays trained. Its flits keep their sequence, without their packets, which
are handed back; the records, which it goes on sending, stay (R337, R342; assumption 116). -/
def State.linkSoft (s : State) (l : Nat) (x : LState) : State :=
  let k := s.link l
  let rec? := fun e : Nat × Bytes => fieldNat (leField e.2 0 16) 50 4 == 8
  let s := s.setLink l { k with
    state := x
    held := k.held.map fun f => { f with packets := f.packets.filter rec? }
    queue := k.queue.filter rec? }
  ((((s.routesWithout l).loseAll (k.handBack.filter fun e => !rec? e)).reroute
    (k.queue.filter fun e => !rec? e)).kick).colLinkLost l

/-- A link becomes BREACHED (R328, R329): light off. -/
def State.breach (s : State) (l : Nat) (reason : BitVec 8) : State :=
  let s := s.linkGone l .breached reason
  let s := s.modLink l fun k => { k with txMask := 0, rxMask := 0, retry := false }
  s.notify 8 false l reason.toNat (s.link l).statusWord

/-! ## Port reset -/

/-- The link returns to its reset values at OFF, from which it trains again while GO is 1; a changeover of its port is
discarded (R309, R327, R330). -/
def State.linkReset (s : State) (l : Nat) : State :=
  let s := s.leaveExch l
  let k := s.link l
  let s := s.setLink l { Link.init with retry := (s.port (portOf l)).go, inq := k.inq }
  let s := if k.state = .active ∨ k.state = .isolated ∨ k.state = .retrain then s.routesWithout l else s
  (s.reroute k.queue).kick

/-- Assignments of the laser journal to port `n` (R309). -/
def State.journalOf (s : State) (n k : Nat) : Bool × Bool :=
  (s.laserJournal.any fun e => e.1 == n && e.2.1 == k && !e.2.2,
   s.laserJournal.any fun e => e.1 == n && e.2.1 == k && e.2.2)

/-- The spare unit of a port's group. -/
def groupOf (n : Nat) : Nat := n / 4

/-- Recorded start bias of the primary, or of the spare wavelength, in 0.25 mA. -/
def State.startBias (s : State) (n k : Nat) (spare : Bool) : BitVec 9 :=
  Tab.get 0 s.fuses.startBias ((if spare then 8 + groupOf n else n) * 16 + k)

/-- A wavelength as the journal gives it, at its start bias. -/
def State.waveFromJournal (s : State) (n k : Nat) : Wave :=
  let j := s.journalOf n k
  ⟨if (s.port n).lit && !j.2 then s.startBias n k j.1 else 0, j.1 && !j.2, j.2, none, 0xFF, false⟩

/-- The changeovers of port `n` leave the unit (R309). -/
def Spare.forget (u : Spare) (n : Nat) : Spare := { u with
  active := u.active.filter fun e => e.1 != n
  queue := u.queue.filter fun e => e.1 != n }

/-- A port reset: every link at OFF, replay entries and credits discarded, buckets that use the port aborted, the laser
journal kept; a source keeps the bias that it had before a changeover (R309, R330, R455; 14, table Effects of reset
classes). -/
def State.portReset (s : State) (n : Nat) : State :=
  let ls := (List.range 6).map (6 * n + ·)
  let s := ls.foldl State.linkReset s
  let s := ls.foldl State.colLinkLost s
  let s := { s with spare0 := s.spare0.forget n, spare1 := s.spare1.forget n }
  s.modPort n fun p => { p with
    unlocked := false
    events := []
    waves := (List.range 16).foldl (fun m k =>
      let w := Tab.get Wave.init p.waves k
      let was := match w.chg with
        | some c => c.bias
        | none => w.bias
      let again := w.again || w.chg.any fun c => !c.retire
      Tab.set Wave.init m k { s.waveFromJournal n k with bias := was, again := again }) [] }

/-! ## The stop of the module -/

/-- A queue's GO clears: fetched commands that have not started are discarded (R430). -/
def Queue.stop (q : Queue) : Queue := { q with go := false, fetched := [] }

/-- Every queue stops (R423). -/
def State.stopQueues (s : State) : State :=
  let s := s.abortThreadPumps
  { s with
    dev := { s.dev with go := false }
    pcie := { s.pcie with queues := s.pcie.queues.foldl (fun m e => Tab.set Queue.init m e.1 e.2.stop) [] } }

/-- All compute dies are held in reset, their LPDDR controllers with them. -/
def State.holdDies (s : State) : State :=
  (List.range 4).foldl (fun s d => s.modDie d fun x => { x with
    inReset := true
    stopped := true
    lpd := { x.lpd with go := false, trained := false, unlocked := false } }) s

/-- The module stops with a reason; DETAIL is PIL_STATUS of bundle `b` (14 R449; 13 R423; 15, table Notifications). -/
def State.stopHub (s : State) (reason : BitVec 8) (b : Nat) : State :=
  if s.dev.stopped then s
  else
    let s := s.stopQueues
    let s := { s with dev := { s.dev with ready := false, stopped := true, stopReason := reason } }
    s.holdDies.notify 6 false 0 reason.toNat (s.pilStatus b)

/-- A running module stops: its optical ports go out of service too (R283). -/
def State.stopModule (s : State) (reason : BitVec 8) (b : Nat) : State :=
  if s.dev.stopped then s
  else (List.range 48).foldl (fun s l => if (s.link l).state == .breached then s else s.breach l 0x36)
    (s.stopHub reason b)

/-- A stop during start-up, before any link is trained, where no bundle is concerned (R442, R445): the manual does not say
whose PIL_STATUS is reported, a free choice. -/
def State.stopBoot (s : State) (reason : BitVec 8) : State :=
  let r := s.takeFree
  r.2.stopHub reason ((Config.freeWord r.1).toNat % 4)

/-- The same where no bundle is concerned: the manual does not say whose PIL_STATUS is reported, a free choice. -/
def State.stopModuleAny (s : State) (reason : BitVec 8) : State :=
  let r := s.takeFree
  r.2.stopModule reason ((Config.freeWord r.1).toNat % 4)

end Sys2Proof.Machine
end

