-- ==== Sys2Proof/Machine/Sync.lean ====
section
/-! DEFINITION. Semaphores, barriers and fences (03 R76 to R92; 04, Synchronisation instructions). STEPFENCE is with the
collective engine. -/

namespace Sys2Proof.Machine

open Host (Outcome)

def execSemSig (c t : Nat) (w : BitVec 64) (s : State) : Outcome State Fault Refusal :=
  issue 0x68 0 c t w s fun _ s => .done (s.semAdd c (iId w) (iN w))

/-- A SEM.WAIT is waiting on semaphore `sem`. -/
def Core.waited (k : Core) (sem : Nat) : Bool := k.waiters.any fun x => x.1 == sem

/-- SEM.WAIT takes its count at once, or joins the waiters (R84, R87). -/
def execSemWait (c t : Nat) (w : BitVec 64) (s : State) : Outcome State Fault Refusal :=
  issue 0x68 1 c t w s fun _ s =>
    let k := s.core c
    let v := (Tab.get 0 k.sems (iId w)).toNat
    if !k.waited (iId w) && decide (iN w ≤ v) then .done (s.semPut c (iId w) (v - iN w))
    else
      let s := s.setCore c { k with waiters := k.waiters ++ [(iId w, t, iN w)] }
      effThread c t s fun u => u.startWait (.sem (iId w) (iN w))

/-- SEM.TRY succeeds only when nothing waits and the value suffices (R84, R87). -/
def execSemTry (c t : Nat) (w : BitVec 64) (s : State) : Outcome State Fault Refusal :=
  issue 0x68 2 c t w s fun _ s =>
    let k := s.core c
    let v := (Tab.get 0 k.sems (iId w)).toNat
    if !k.waited (iId w) && decide (iN w ≤ v) then
      effThread c t (s.semPut c (iId w) (v - iN w)) fun u => u.putS (iRd w) 1
    else effThread c t s fun u => u.putS (iRd w) 0

/-! ## Barriers (R89 to R91) -/

def State.bar (s : State) (d ch : Nat) : Bar := Tab.get Bar.init (s.die d).bars ch

def State.setBar (s : State) (d ch : Nat) (b : Bar) : State :=
  s.modDie d fun x => { x with bars := Tab.set Bar.init x.bars ch b }

/-- Wakes the threads of die `d` that wait for generation `gen` of channel `ch`. -/
def State.barWake (s : State) (d ch gen : Nat) : State :=
  ((s.threads.filter fun e => e.2.wait == some (.bar ch gen) && s.dieOf (e.1 / 32) == d).map Prod.fst).foldl
    (fun s k => s.modThread (k / 32) (k % 32) Thread.wake) s

/-- One die releases the generation in progress. -/
def State.barReleaseDie (s : State) (ch : Nat) (d : Nat) : State :=
  let b := s.bar d ch
  (s.setBar d ch { b with gen := b.gen + 1, arrivals := b.arrivals - b.count.toNat }).barWake d ch b.gen.toNat

/-- Dies whose channel `ch` is enabled at module scope. -/
def State.barModuleDies (s : State) (ch : Nat) : List Nat :=
  selectBelow 4 fun d => (s.bar d ch).enable && (s.bar d ch).scope

/-- Releases channel `ch` at module scope, when every die with it enabled there has its COUNT arrivals (R90). -/
def State.barModTry (s : State) (ch : Nat) : State :=
  let ds := s.barModuleDies ch
  if ds.all fun x => decide ((s.bar x ch).count.toNat ≤ (s.bar x ch).arrivals) then
    ds.foldl (fun s x => s.barReleaseDie ch x) s
  else s

/-- Releases what is complete on channel `ch` of die `d` (R90). -/
def State.barTry (s : State) (d ch : Nat) : State :=
  let b := s.bar d ch
  if b.scope then s.barModTry ch
  else if b.count.toNat ≤ b.arrivals then s.barReleaseDie ch d else s

/-- The generation that the next arrival counts for (R90). -/
def Bar.nextGen (b : Bar) : Nat := (b.gen.toNat + b.arrivals / max 1 b.count.toNat) % 2 ^ 16

/-- Records the arrival of thread `t` of core `c` on channel `ch`, and releases. -/
def State.barArrive (s : State) (c t ch : Nat) : State :=
  let d := s.dieOf c
  let b := s.bar d ch
  let s := s.modThread c t fun u => { u with arrived := Tab.set 0 u.arrived ch (b.nextGen + 1) }
  (s.setBar d ch { b with arrivals := b.arrivals + 1 }).barTry d ch

/-- The thread waits for the generation in which it last arrived; one that never arrived waits for the generation in
progress (assumption 26). -/
def State.barWait (s : State) (c t ch : Nat) : State :=
  let b := s.bar (s.dieOf c) ch
  let g := match Tab.get 0 (s.thread c t).arrived ch with
    | 0 => b.gen.toNat
    | n + 1 => n
  -- a generation behind GEN has been released
  if (g + 2 ^ 16 - b.gen.toNat) % 2 ^ 16 < 2 ^ 15 then s.modThread c t fun u => u.startWait (.bar ch g) else s

def execBarArrive (c t : Nat) (w : BitVec 64) (s : State) : Outcome State Fault Refusal :=
  issue 0x69 0 c t w s fun _ s =>
    if (s.bar (s.dieOf c) (iId w)).enable then .done (s.barArrive c t (iId w)) else .exc cBarDisabled

def execBarWait (c t : Nat) (w : BitVec 64) (s : State) : Outcome State Fault Refusal :=
  issue 0x69 1 c t w s fun _ s =>
    if (s.bar (s.dieOf c) (iId w)).enable then .done (s.barWait c t (iId w)) else .exc cBarDisabled

def execBar (c t : Nat) (w : BitVec 64) (s : State) : Outcome State Fault Refusal :=
  issue 0x69 2 c t w s fun _ s =>
    if (s.bar (s.dieOf c) (iId w)).enable then .done ((s.barArrive c t (iId w)).barWait c t (iId w))
    else .exc cBarDisabled

/-- Live thread contexts of a die (R89). -/
def State.liveContexts (s : State) (d : Nat) : Nat :=
  32 * (selectBelow s.lcores fun c => s.dieOf c == d && s.live c).length

/-- A write of BAR_CFG (R89, R438): COUNT and SCOPE while ENABLE is 0; the arrivals of an earlier use are forgotten when
the channel is enabled (assumption 26). -/
def State.writeBarCfg (s : State) (d ch : Nat) (w : BitVec 32) : State :=
  let b := s.bar d ch
  let en := w.getLsbD 12
  if b.enable then
    let s := s.setBar d ch { b with enable := en }
    -- the dies that stay enabled at module scope may now be complete
    if b.scope && !en then s.barModTry ch else s
  else
    let b := { b with count := w.extractLsb' 0 11, scope := w.getLsbD 11 }
    if en then
      if b.count = 0 ∨ s.liveContexts d < b.count.toNat then
        (s.setBar d ch b).modDie d fun x => { x with barReason := 0x04 }
      else s.setBar d ch { b with enable := true, arrivals := 0 }
    else s.setBar d ch b

/-! ## Fences (R78, R79, table Ordering instructions) -/

/-- Own-scratchpad accesses take effect at issue, so FENCE.L has nothing to wait for. -/
def execFenceL (c t : Nat) (w : BitVec 64) (s : State) : Outcome State Fault Refusal :=
  issue 0x6A 0 c t w s fun _ s => .done s

/-- FENCE.M waits for every outstanding request to this module. -/
def execFenceM (c t : Nat) (w : BitVec 64) (s : State) : Outcome State Fault Refusal :=
  issue 0x6A 1 c t w s fun th s =>
    if th.reqs.any fun r => r.parts.any fun p => p.node.isNone then .hold else .done s

/-- FENCE.G waits for every outstanding request and every unacknowledged message (R360). -/
def execFenceG (c t : Nat) (w : BitVec 64) (s : State) : Outcome State Fault Refusal :=
  issue 0x6A 2 c t w s fun th s => if th.reqs.isEmpty && th.msgs.isEmpty then .done s else .hold

end Sys2Proof.Machine
end

