-- ==== Sys2Proof/Machine/CoreRegs.lean ====
section
/-! DEFINITION. The host's commands on a core: thread contexts (03 R58 to R65, R95, R99, R100; 04 R108), semaphores
(R85, R88), barrier channels (R89), instruction fetch (R59), and the read values of the core block's registers. -/

namespace Sys2Proof.Machine

open Host (Outcome)

/-! ## Instruction fetch (R58, R59) -/

/-- A thread fetches the sector that holds CTX_PC. -/
def State.fetch (s : State) (c t : Nat) : State :=
  let th := s.thread c t
  if spadSize ≤ th.pc.toNat then s.except c t cPcRange 0
  else
    let sec := th.pc.toNat / 32
    let r := s.sectorRead c (32 * sec) 0
    let data := BitVec.ofNat 256 (fromLE (r.2.bytes (spadAddr c (32 * sec)) 32))
    let s := r.2.modThread c t fun u => { u with fetch := some ⟨sec, data, r.1⟩ }
    if (s.thread c t).fetchBad then s.except c t cEcc 0 else s

def execInstructionFetch (c t : Nat) (s : State) : Outcome State Fault Refusal :=
  if c < s.lcores ∧ t < 32 then
    if (s.thread c t).canIssue && s.awake c then .next (s.fetch c t) else .next s
  else .refused .illFormed

/-! ## CTX_CTL and CTX_MODE -/

/-- The core writes CTX_BUSY to CORE_STATUS.REASON. -/
def State.ctxBusy (s : State) (c : Nat) : State := s.modCore c fun k => { k with reason := 0x01 }

/-- A context a START may not touch (R64). -/
def State.ctxTaken (s : State) (c t : Nat) : Bool :=
  [TState.ready, .waitMem, .waitSync, .fenced].contains (s.thread c t).state || s.unfinished c t

/-- The registers of a started context: ARG0 to ARG3 in S1 to S4, the others 0 (CTX_CTL). -/
def Thread.launchRegs (th : Thread) : Regs :=
  ((((⟨[], [], [], []⟩ : Regs).setS 1 (Tab.get 0 th.args 0)).setS 2 (Tab.get 0 th.args 1)).setS 3 (Tab.get 0 th.args 2)).setS
    4 (Tab.get 0 th.args 3)

/-- START of a context that may start; a core under a repeated self-test releases no thread (R162). -/
def State.ctxStart (s : State) (c t : Nat) : State :=
  if s.ctxTaken c t then s.ctxBusy c
  else if (s.core c).retest || !s.awake c then s
  else s.modThread c t fun th => { th with
    state := .ready
    regs := th.launchRegs
    fetch := none }

/-- STOP (R60, R64). -/
def State.ctxStop (s : State) (c t : Nat) : State :=
  let th := s.thread c t
  if [TState.free, .done, .stopped, .faulted, .fenced].contains th.state || th.stopping.isSome then s
  else
    let s := s.setThread c t (th.stopTo .stopped)
    if th.state = .waitSync then s.leaveWait c t else s.modCore c fun k => k.dropWaiter t

/-- A cleared context: registers, CTX_FPSTAT and CTX_FAULT 0, CTX_MODE under R100, FREE. -/
def Thread.cleared (compat : Bool) (t : Nat) (th : Thread) : Thread := { th with
  state := .free
  regs := ⟨[], [], [], []⟩
  fpstat := 0
  fault := ⟨0, 0, 0, false, 0⟩
  mode := ⟨compat, false, BitVec.ofNat 2 t, 0⟩
  fetch := none
  arrived := [] }

/-- CLEAR (R108). -/
def State.ctxClear (s : State) (c t : Nat) : State :=
  let th := s.thread c t
  if s.unfinished c t then s.ctxBusy c
  else if [TState.done, .stopped, .faulted].contains th.state then s.setThread c t (th.cleared s.compat t)
  else s

/-- A write of CTX_CTL: STOP wins over START (R65). DESIGN CHOICE (assumption 111): CLEAR in the same write acts after it. -/
def State.writeCtxCtl (s : State) (c t : Nat) (w : Nat) : State :=
  let s := if w.testBit 1 then s.ctxStop c t else if w.testBit 0 then s.ctxStart c t else s
  if w.testBit 2 then s.ctxClear c t else s

def execCtxCtlStart (c t : Nat) (s : State) : Outcome State Fault Refusal :=
  if c < s.lcores ∧ t < 32 then .next (s.writeCtxCtl c t 1) else .refused .illFormed

def execCtxCtlStop (c t : Nat) (s : State) : Outcome State Fault Refusal :=
  if c < s.lcores ∧ t < 32 then .next (s.writeCtxCtl c t 2) else .refused .illFormed

def execCtxCtlClear (c t : Nat) (s : State) : Outcome State Fault Refusal :=
  if c < s.lcores ∧ t < 32 then .next (s.writeCtxCtl c t 4) else .refused .illFormed

/-- CTX_MODE as one word. -/
def CtxMode.word (m : CtxMode) : Nat := b2n m.sfuCompat + b2n m.pl1 * 2 + m.array.toNat * 16 + m.prio.toNat * 64

/-- A write of CTX_MODE: ARRAY and PRIO while the core is unlocked (R95); SFU_COMPAT stays 1 while PL1 is 1 (R99). A
diked core's block ignores it (13 R420). -/
def State.writeCtxMode (s : State) (c t : Nat) (w : BitVec 32) : State :=
  let k := s.core c
  if k.diked then s
  else s.modThread c t fun th => { th with mode :=
    { sfuCompat := w.getLsbD 0 || th.mode.pl1
      pl1 := th.mode.pl1
      array := if k.unlocked then w.extractLsb' 4 2 else th.mode.array
      prio := if k.unlocked then w.extractLsb' 6 2 else th.mode.prio } }

def execCtxModeWrite (c t : Nat) (w : BitVec 32) (s : State) : Outcome State Fault Refusal :=
  if c < s.lcores ∧ t < 32 then .next (s.writeCtxMode c t w) else .refused .illFormed

/-! ## Semaphores (R84 to R88) -/

/-- A write of CORE_SEMSIG: an increment of 0 is ignored (13, Core register block). -/
def execCoreSemsigWrite (c sem : Nat) (inc : BitVec 8) (s : State) : Outcome State Fault Refusal :=
  if c < s.lcores ∧ sem < 64 then .next (s.semAdd c sem inc.toNat) else .refused .illFormed

/-- A host write of CORE_SEMSET (R88). -/
def State.semSet (s : State) (c sem : Nat) (v : BitVec 16) : State :=
  if (s.core c).diked then s else s.semPut c sem v.toNat

def execCoreSemsetWrite (c sem : Nat) (v : BitVec 16) (s : State) : Outcome State Fault Refusal :=
  if c < s.lcores ∧ sem < 64 then .next (s.semSet c sem v) else .refused .illFormed

/-- A write of BAR_CFG with ENABLE 1 (R89). -/
def execBarCfgEnable (die ch : Nat) (w : BitVec 32) (s : State) : Outcome State Fault Refusal :=
  if die < 4 ∧ ch < 64 ∧ w.getLsbD 12 = true then .next (s.writeBarCfg die ch w) else .refused .illFormed

/-! ## Read values -/

/-- CTX_STATE. -/
def Thread.stateWord (th : Thread) : Nat :=
  let code := match th.state with
    | .free => 0
    | .ready => 1
    | .waitMem => 3
    | .waitSync => 4
    | .done => 5
    | .stopped => 6
    | .faulted => 7
    | .fenced => 8
  let sync := match th.state, th.wait with
    | .waitSync, some (.sem i _) => i * 2 ^ 8 + 2 ^ 14
    | .waitSync, some (.bar ch _) => ch * 2 ^ 8 + 2 * 2 ^ 14
    | .waitSync, some (.step g _ _) => g * 2 ^ 8 + 3 * 2 ^ 14
    | _, _ => 0
  code + th.slots * 16 + sync

/-- CTX_FAULT. -/
def FaultRec.word (f : FaultRec) : Nat :=
  f.cause.toNat + f.unit.toNat * 2 ^ 8 + f.dest.toNat * 2 ^ 12 + b2n f.valid * 2 ^ 31

/-- A register of a thread context by its offset in the block. -/
def Thread.regAt (th : Thread) (off : Nat) : Nat :=
  match off with
  | 0x00 => th.stateWord
  | 0x08 => th.pc.toNat % 2 ^ 26 / 8 * 8
  | 0x10 => th.fpstat.toNat
  | 0x18 => th.mode.word
  | 0x20 => th.fault.word
  | 0x28 => th.fault.pc.toNat * 8
  | 0x38 => (Tab.get 0 th.args 0).toNat
  | 0x40 => (Tab.get 0 th.args 1).toNat
  | 0x48 => (Tab.get 0 th.args 2).toNat
  | 0x50 => (Tab.get 0 th.args 3).toNat
  | _ => 0

/-- A register of an array by its offset. -/
def Arr.regAt (x : Arr) (off : Nat) : Nat :=
  match off with
  | 0x00 => x.ctlWord
  | 0x08 => x.statusWord
  | 0x10 => x.log.toNat
  | 0x18 => x.windowWord
  | 0x20 => x.ops.toNat
  | 0x28 => x.skip.toNat
  | 0x30 => x.stestWord
  | _ => 0

/-- CORE_STATUS. -/
def State.coreStatus (s : State) (c : Nat) : Nat :=
  b2n (s.core c).diked + b2n ((List.range 4).any fun a => (s.arr c a).suspect) * 2 + (s.core c).reason.toNat * 2 ^ 8

/-- The 8-byte register at offset `off` of core `c`'s block (13, table Core register block). -/
def State.coreReg (s : State) (c off : Nat) : Nat :=
  if off = 0 then s.coreStatus c
  else if off = 0x10 then (s.core c).semOvf.toNat
  else if 0xC00 ≤ off ∧ off < 0xE00 then (Tab.get 0 (s.core c).sems ((off - 0xC00) / 8)).toNat
  else if off = 0xFF8 then b2n (s.core c).unlocked * 2 ^ 16
  else if 0x1000 ≤ off ∧ off < 0x2000 then (s.thread c ((off - 0x1000) / 0x80)).regAt (off % 0x80)
  else if 0x3000 ≤ off ∧ off < 0x3400 then (s.arr c ((off - 0x3000) / 0x100)).regAt (off % 0x100)
  else if off = 0x3400 then s.sfuStatus c
  else if off = 0x3408 then (s.core c).sfuGrants.toNat
  else if off = 0x3600 then (s.core c).spdEcc
  else 0

end Sys2Proof.Machine
end

