-- ==== Sys2Proof/Machine/HostOps.lean ====
section
/-! DEFINITION. The host interface's shared operations: configuration space (13 R411 to R415), host access errors and the
BAR2 window (R416 to R419), queues, completion entries (R425 to R430), and the transfers of queue commands
(R434 to R437). -/

namespace Sys2Proof.Machine

/-! ## Queues -/

def State.queue (s : State) (q : Nat) : Queue := Tab.get Queue.init s.pcie.queues q

def State.modPcie (s : State) (f : Pcie → Pcie) : State := { s with pcie := f s.pcie }

def State.setQueue (s : State) (q : Nat) (x : Queue) : State :=
  s.modPcie fun p => { p with queues := Tab.set Queue.init p.queues q x }

def State.modQueue (s : State) (q : Nat) (f : Queue → Queue) : State := s.setQueue q (f (s.queue q))

def State.modDev (s : State) (f : Dev → Dev) : State := { s with dev := f s.dev }

/-- Entries the ring holds. -/
def Queue.sqSize (x : Queue) : Nat := 2 ^ x.sqLog2.toNat
def Queue.cqSize (x : Queue) : Nat := 2 ^ x.cqLog2.toNat

/-- CQ entries that the head doorbell has not released. -/
def Queue.unread (x : Queue) : Nat := (x.cqTail.toNat + x.cqSize - x.cqHead.toNat) % x.cqSize

/-- SQ_CFG, SQ_STATUS. -/
def Queue.cfgWord (x : Queue) : Nat :=
  b2n x.go + x.sqLog2.toNat * 2 ^ 8 + x.cqLog2.toNat * 2 ^ 12 + x.vector.toNat * 2 ^ 16 + b2n x.ien * 2 ^ 26
    + x.coalCount.toNat * 2 ^ 32 + x.coalTime.toNat * 2 ^ 40

def Queue.statusWord (x : Queue) : Nat :=
  x.head.toNat + x.cqTail.toNat * 2 ^ 16 + b2n x.phase * 2 ^ 32 + b2n x.error * 2 ^ 33
    + b2n (!x.started.isEmpty) * 2 ^ 34 + x.reason.toNat * 2 ^ 40

/-- The reason for which a queue refuses GO (R425). -/
def Queue.refuse (x : Queue) (devGo : Bool) : Option (BitVec 8) :=
  let bad := fun n : BitVec 4 => decide (n.toNat < 4)
  if !devGo then some 0x73
  else if bad x.sqLog2 || bad x.cqLog2 then some 0x74
  else if x.sqBase.toNat % 64 ≠ 0 ∨ x.cqBase.toNat % 64 ≠ 0 then some 0x75
  else none

/-- A write of SQ_CFG (R425, R430, R438): LOG2 fields of 4 bits never exceed 15, so that the bound 16 is not reached. -/
def Queue.writeCfg (x : Queue) (devGo : Bool) (w : BitVec 64) : Queue :=
  if x.go then (if w.getLsbD 0 then x else x.stop)
  else
    let x := { x with
      sqLog2 := w.extractLsb' 8 4
      cqLog2 := w.extractLsb' 12 4
      vector := w.extractLsb' 16 10
      ien := w.getLsbD 26
      coalCount := w.extractLsb' 32 8
      coalTime := w.extractLsb' 40 16 }
    if !w.getLsbD 0 then x
    else match x.refuse devGo with
      | some r => { x with reason := r }
      | none => { x with
          go := true
          head := 0
          cqTail := 0
          tail := 0
          cqHead := 0
          phase := true
          error := false
          unacked := 0
          fetched := [] }

/-- The message of a queue's completion queue. -/
def State.queueIrq (s : State) (q : Nat) : State :=
  let x := s.queue q
  (s.setQueue q { x with unacked := 0 }).msixSend x.vector.toNat

/-- The 16 bytes of a CQ entry (table CQ entry). -/
def cqEntry (q : Nat) (x : Queue) (c : Cmd) : Bytes :=
  slice c.data 2 2 ++ toLE 2 x.head.toNat ++ [c.status, c.cause, BitVec.ofNat 8 q, if x.phase then 1 else 0]
    ++ toLE 8 c.detail.toNat

/-- Writes the oldest completion of a queue, then its message when one is due (R429). -/
def State.writeCq (s : State) (q : Nat) (c : Cmd) : State :=
  let x := s.queue q
  let s := s.setHostBytes (x.cqBase.toNat + 16 * x.cqTail.toNat) (cqEntry q x c)
  let wrap := decide (x.cqTail.toNat + 1 = x.cqSize)
  let s := s.setQueue q { x with
    cqTail := if wrap then 0 else x.cqTail + 1
    phase := x.phase != wrap
    finished := x.finished.drop 1
    unacked := x.unacked + 1 }
  if x.ien ∧ max 1 x.coalCount.toNat ≤ x.unacked + 1 then s.queueIrq q else s

/-- Writes the completions that find room, oldest first (R429). -/
def State.drainCq : Nat → State → Nat → State
  | 0, s, _ => s
  | n + 1, s, q =>
    let x := s.queue q
    match x.finished with
    | [] => s
    | c :: _ => if x.unread < x.cqSize - 1 then State.drainCq n (s.writeCq q c) q else s

def State.cqWrite (s : State) (q : Nat) : State := State.drainCq (s.queue q).finished.length s q

/-! ## Commands -/

/-- A field of the SQ entry. -/
def Cmd.fld (c : Cmd) (o n : Nat) : Nat := leField c.data o n

def Cmd.opc (c : Cmd) : Nat := c.fld 0 1
def Cmd.chain (c : Cmd) : Bool := (c.fld 1 1).testBit 0
def Cmd.waits (c : Cmd) : Bool := (c.fld 1 1).testBit 1

/-- Operand bytes of an opcode (table Commands). -/
def cmdUses (opc i : Nat) : Bool :=
  match opc with
  | 1 => decide (8 ≤ i ∧ i < 20) || decide (24 ≤ i ∧ i < 56)
  | 2 => decide (8 ≤ i ∧ i < 32)
  | 3 => decide (8 ≤ i ∧ i < 32)
  | 4 => decide (8 ≤ i ∧ i < 32)
  | 5 => decide (8 ≤ i ∧ i < 12)
  | _ => false

/-- A reserved or unused byte of the entry is not 0 (R431). -/
def Cmd.reserved (c : Cmd) : Bool :=
  decide (4 ≤ c.fld 1 1) || (c.waits && c.opc != 1) || c.fld 4 4 != 0
    || (c.data.zipIdx.drop 8).any fun b => !cmdUses c.opc b.2 && b.1 != 0

/-- A range of logical cores (R431): an operand out of range, a diked core, or none. -/
def State.coreRange (s : State) (lc n : Nat) : Option (BitVec 8) :=
  if n = 0 ∨ s.lcores < lc + n then some 0x78
  else if (List.range n).any fun i => (s.core (lc + i)).diked then some 0x02
  else none

def State.modCmd (s : State) (q n : Nat) (f : Cmd → Cmd) : State :=
  s.modQueue q fun x => { x with started := x.started.map fun c => if c.n = n then f c else c }

/-! ## Transfers of queue commands -/

/-- The pieces of a device range, one per sector. -/
def sectorPieces (d len : Nat) : List (Nat × Nat) :=
  (List.range (sectorsOf d len)).map fun i =>
    let a := max d (32 * (d / 32 + i))
    (a, min (d + len) (32 * (d / 32 + i + 1)) - a)

/-- The transfer of started command `n` of queue `q` in host pump `p` (R434, R435). -/
def State.cmdRun (s : State) (q n p : Nat) (c : Cmd) : State :=
  let s := (s.perturb 8 1 p).2
  if c.opc = 4 then
    let r := State.readSegs State.readMem 2 s (c.plan.flatMap fun e => sectorPieces e.2.1 e.2.2)
    let f := r.2.2.failAt 0 r.2.1
    f.2.addRun { newRun true 0 p none (some (q, n)) with
      hostWrites := [⟨c.fld 8 8, r.1.flatten⟩]
      moved := r.1.flatten.length
      err := f.1 }
  else
    let src := fun a k : Nat => match c.image with
      | some b => slice b a k
      | none => s.hostBytes a k
    s.addRun { newRun true 0 p none (some (q, n)) with
      writes := c.plan.flatMap fun e => (sectorPieces e.2.1 e.2.2).map fun x => ⟨x.1, src (e.1 + (x.1 - e.2.1)) x.2⟩
      moved := (c.plan.map fun e => e.2.2).sum }

/-- The lowest free host pump of the queues' pool (R435). -/
def State.queuePump (s : State) : Option Nat :=
  (List.range s.dev.qpumps.toNat).find? fun p => s.pumpFree true 0 p

/-- Gives free pumps to the commands that wait, in order of arrival, while DEV_CTL.GO is 1. -/
def State.servePumps : Nat → State → State
  | 0, s => s
  | k + 1, s =>
    match s.pcie.pumpWait, s.queuePump with
    | (q, n) :: rest, some p =>
      if !s.dev.go then s
      else
        let s := s.modPcie fun x => { x with pumpWait := rest }
        match (s.queue q).started.find? fun c => c.n == n with
        | some c => State.servePumps k (s.cmdRun q n p c)
        | none => State.servePumps k s
    | _, _ => s

def State.serveHostPumps (s : State) : State := State.servePumps s.pcie.pumpWait.length s

/-! ## MSI-X -/

/-- Sends the messages that wait in the PBA and are no longer held back (R424). -/
def State.msixFlush (s : State) : State :=
  (selectBelow 1024 fun v => s.pcie.pba.getLsbD v && !(Tab.get msixInit s.pcie.msix v).getLsbD 96).foldl (fun s v =>
    (s.modPcie fun p => { p with pba := p.pba &&& ~~~(1#1024 <<< v) }).msixSend v) s

/-! ## Configuration space (R411; header offsets as PCI gives them, assumption 53) -/

/-- DEV_STATUS.DEGRADED. -/
def Dev.degraded (d : Dev) : Bool := d.speed != 0 && (d.speed != 5 || d.width != 16)

/-- DEV_STATUS. -/
def Dev.statusWord (d : Dev) : Nat :=
  b2n d.ready + b2n d.stopped * 2 + d.speed.toNat * 4 + d.width.toNat * 2 ^ 5 + b2n d.degraded * 2 ^ 10
    + b2n d.tag10 * 2 ^ 11 + d.reason.toNat * 2 ^ 16 + (if d.stopped then d.stopReason.toNat else 0) * 2 ^ 24

/-- DEV_CTL, DEV_HOSTERR, DEV_NOTIFY. -/
def Dev.ctlWord (d : Dev) : Nat := b2n d.go + d.qpumps.toNat * 2 ^ 8

def Dev.errWord (d : Dev) : Nat :=
  d.errCount.toNat + d.errKind.toNat * 2 ^ 16 + d.errOffset.toNat * 2 ^ 20 + b2n d.errValid * 2 ^ 63

def Dev.notifyWord (d : Dev) : Nat := d.notifyVec.toNat + b2n d.notifyEn * 2 ^ 10

/-- The address bits that a BAR keeps. -/
def Pcie.bar0Addr (p : Pcie) : Nat := p.bar0.toNat / 2 ^ 28 * 2 ^ 28
def Pcie.bar2Addr (p : Pcie) : Nat := p.bar2.toNat / 2 ^ (30 + p.bar2Size) * 2 ^ (30 + p.bar2Size)

/-- A configuration doubleword; `v` is the free value of the bits that the manual does not give. -/
def State.cfgRead (s : State) (off : Nat) (v : Nat) : Nat :=
  let p := s.pcie
  match off with
  | 0x00 => 0x00481F3A
  | 0x04 => p.command.toNat + v / 2 ^ 16 * 2 ^ 16
  | 0x08 => 0x12000000 + s.fuses.hubStep.toNat
  | 0x0C => v % 2 ^ 16 + v / 2 ^ 24 * 2 ^ 24
  | 0x10 => p.bar0Addr % 2 ^ 32 + 4
  | 0x14 => p.bar0Addr / 2 ^ 32
  | 0x18 => p.bar2Addr % 2 ^ 32 + 0xC
  | 0x1C => p.bar2Addr / 2 ^ 32
  | 0x20 => 0
  | 0x24 => 0
  | 0x2C => 0x1F3A + (if s.fuses.l16 then 0x10 else 0x20) * 2 ^ 16 + (if s.fuses.grade144 then 9 else 10) * 2 ^ 24
  | 0x30 => 0
  | 0x3C => v % 2 ^ 8 + v / 2 ^ 16 * 2 ^ 16
  | _ => v

/-- A write of a configuration doubleword. The manual gives no offsets to the capabilities: a write there may set
TAG10 and return the function to D0, a free choice (R413). -/
def State.cfgWrite (s : State) (off : Nat) (w : BitVec 32) : State :=
  let p := s.pcie
  if off = 0x04 then { s with pcie := { p with command := w.extractLsb' 0 16 &&& 0x0546 } }.msixFlush
  else if off = 0x10 then { s with pcie := { p with bar0 := p.bar0.extractLsb' 32 32 ++ w } }
  else if off = 0x14 then { s with pcie := { p with bar0 := w ++ p.bar0.extractLsb' 0 32 } }
  else if off = 0x18 then { s with pcie := { p with bar2 := p.bar2.extractLsb' 32 32 ++ w } }
  else if off = 0x1C then { s with pcie := { p with bar2 := w ++ p.bar2.extractLsb' 0 32 } }
  else if off < 0x40 then s
  else
    let f := s.takeFree
    let g := f.2.takeFree
    (({ g.2 with pcie := { p with d3 := p.d3 && Config.freeBool g.1 } }).modDev fun d => { d with
      tag10 := Config.freeBool f.1 }).msixFlush

/-- BAR0 and BAR2 decode (R412, R413). -/
def State.decodes (s : State) : Bool := s.pcie.ready && s.pcie.command.getLsbD 1 && !s.pcie.d3

/-! ## Host access errors and BAR2 -/

/-- DEV_HOSTERR records an error; `tell` raises HOST_ACCESS (R416, R417). -/
def State.hostErr (s : State) (kind off : Nat) (tell : Bool) : State :=
  let s := s.modDev fun d => { d with
    errCount := BitVec.ofNat 16 (satAdd d.errCount.toNat 1 0xFFFF)
    errKind := if d.errValid then d.errKind else BitVec.ofNat 3 kind
    errOffset := if d.errValid then d.errOffset else BitVec.ofNat 36 off
    errValid := true }
  if tell then s.notify 11 false 0 0 s.dev.errWord else s

/-- A host write of a register beyond every other way to it: without effect where BAR0 does not decode (R412, R413). -/
def State.byHost (s t : State) : State := if s.decodes then t else s

/-- The last BAR read returned these bytes. -/
def State.readBack (s : State) (d : Bytes) : State := s.modPcie fun p => { p with readData := d }

/-- The device address of a BAR2 offset. -/
def State.bar2At (s : State) (off : Nat) : Nat :=
  s.dev.winBase.toNat / 2 ^ s.pcie.bar2Size * 2 ^ s.pcie.bar2Size * 2 ^ 30 + off

/-- A BAR2 access (R417, R419). -/
def State.bar2 (s : State) (off len : Nat) (wr : Option Bytes) : State :=
  let ones := fun s : State => if wr.isNone then s.readBack (List.replicate len 0xFF) else s
  if !s.decodes || decide (2 ^ (30 + s.pcie.bar2Size) < off + len) then s
  else if !s.dev.everReady then ones (s.hostErr 4 off false)
  else
    let r : Except (BitVec 8) Bytes × State := match s.placeOf (s.bar2At off) len, wr with
      | .ok p, none => s.readPlace p len 2
      | .ok p, some d => match s.writePlace p d 2 with
        | (.ok _, s) => (.ok [], s)
        | (.error e, s) => (.error e, s)
      | .error e, _ => (.error e, s)
    match r with
    | (.ok d, s) => if wr.isNone then s.readBack d else s
    | (.error e, s) => ones (s.hostErr (if e = cEcc then 3 else 2) off true)

end Sys2Proof.Machine
end

