-- ==== Sys2Proof/Machine/Host.lean ====
section
/-! DEFINITION. The host's commands (13): configuration requests, BAR2, the DEV block, MSI-X, the submission queues and their
commands. -/

namespace Sys2Proof.Machine

open Host (Outcome)

/-! ## The function (R411 to R415) -/

/-- Retry status until the controller is ready (R412); otherwise the access is performed. -/
def execConfigurationRequest (off : Nat) (wr : Option (BitVec 32)) (s : State) : Outcome State Fault Refusal :=
  if off % 4 = 0 ∧ off < 4096 then
    if !s.pcie.ready then .next (s.modPcie fun p => { p with cfgRetry := true })
    else
      let s := s.modPcie fun p => { p with cfgRetry := false }
      match wr with
      | some w => .next (s.cfgWrite off w)
      | none =>
        let f := s.takeFree
        .next (f.2.modPcie fun p => { p with
          cfgData := BitVec.ofNat 32 (s.cfgRead off ((Config.freeWord f.1).toNat % 2 ^ 32)) })
  else .refused .illFormed

/-- D3hot: BAR0 and BAR2 decode nothing, and the queues stop (R413). -/
def execD3hotEntry (s : State) : Outcome State Fault Refusal :=
  if s.pcie.ready then .next (s.modPcie fun p => { p with d3 := true }).stopQueues else .next s

/-- Every transfer of a host pump ends with HOST_ABORT (R414). -/
def State.abortHostPumps (s : State) : State :=
  (s.pumps.filter fun r => r.host).foldl State.abortRun s

/-- PERTURB clears: withheld credits return and what waited for them goes (15 R479, R481). -/
def State.creditsBack (s : State) : State := (List.range 48).foldl State.flush s

def State.clearPerturb (s : State) : State :=
  { s with err := { s.err with perturbGo := false, ents := [] } }.creditsBack

/-- The host interface as a function-level reset leaves it (R414; 14, table Effects of reset classes; 17 R506): the
discarded queues complete nothing. -/
def State.flr (s : State) : State :=
  let d := s.dev
  let s := s.abortHostPumps.clearPerturb
  { s with
    pcie := { Pcie.init with
      ready := s.pcie.ready
      cfgData := s.pcie.cfgData
      readData := s.pcie.readData
      nextCmd := s.pcie.nextCmd }
    dev := { Dev.init with
      ready := d.ready
      everReady := d.everReady
      stopped := d.stopped
      stopReason := d.stopReason
      speed := d.speed
      width := d.width }
    pwr := { s.pwr with hostCap := 0 } }

def execFunctionLevelReset (s : State) : Outcome State Fault Refusal :=
  if s.pcie.ready then .next s.flr else .next s

/-- The BAR2 size: 2^`sz` GiB, while memory decoding is off (R415). -/
def execBar2SizeWrite (sz : Nat) (s : State) : Outcome State Fault Refusal :=
  if sz ≤ 6 then
    if s.pcie.command.getLsbD 1 || !s.pcie.ready then .next s
    else .next (s.modPcie fun p => { p with
      bar2Size := sz
      bar2 := BitVec.ofNat 64 (p.bar2.toNat / 2 ^ (30 + sz) * 2 ^ (30 + sz)) })
  else .refused .illFormed

def execBar2Access (off len : Nat) (wr : Option Bytes) (s : State) : Outcome State Fault Refusal :=
  if 0 < len ∧ (match wr with | some d => d.length == len | none => true) = true then .next (s.bar2 off len wr)
  else .refused .illFormed

/-! ## DEV (R422 to R424) -/

/-- A write of DEV_CTL. -/
def State.writeDevCtl (s : State) (w : BitVec 32) : State :=
  let d := s.dev
  if d.go then if w.getLsbD 0 then s else s.abortThreadPumps.modDev fun d => { d with go := false }
  else
    let d := { d with qpumps := w.extractLsb' 8 4 }
    if !w.getLsbD 0 then { s with dev := d }
    else if !d.ready then { s with dev := { d with reason := 0x70 } }
    else if !s.pcie.command.getLsbD 2 then { s with dev := { d with reason := 0x71 } }
    else if d.qpumps = 0 then { s with dev := { d with reason := 0x72 } }
    else { s with dev := { d with go := true } }.serveHostPumps

def execDevCtlGoSet (w : BitVec 32) (s : State) : Outcome State Fault Refusal :=
  if w.getLsbD 0 = true then .next (s.byHost (s.writeDevCtl w)) else .refused .illFormed

def execDevIrqsetWrite (v : BitVec 10) (s : State) : Outcome State Fault Refusal := .next (s.msixSend v.toNat)

/-- The host clears the mask bit of a vector. -/
def State.unmask (s : State) (v : Nat) : State :=
  (s.modPcie fun p => { p with
    msix := Tab.set msixInit p.msix v (Tab.get msixInit p.msix v &&& ~~~(1#128 <<< 96)) }).msixFlush

def execMsixUnmask (v : BitVec 10) (s : State) : Outcome State Fault Refusal := .next (s.byHost (s.unmask v.toNat))

/-! ## Queues (R425 to R430) -/

def State.writeSqCfg (s : State) (q : Nat) (w : BitVec 64) : State := s.modQueue q fun x => x.writeCfg s.dev.go w

def execSqCfgGoSet (q : Nat) (w : BitVec 64) (s : State) : Outcome State Fault Refusal :=
  if q < 64 ∧ w.getLsbD 0 = true then .next (s.byHost (s.writeSqCfg q w)) else .refused .illFormed

def execSqCfgGoClear (q : Nat) (w : BitVec 64) (s : State) : Outcome State Fault Refusal :=
  if q < 64 ∧ w.getLsbD 0 = false then .next (s.byHost (s.writeSqCfg q w)) else .refused .illFormed

/-- A doorbell index out of range stops the queue (R427). -/
def Queue.doorbellBad (x : Queue) : Queue := { x with error := true, reason := 0x76 }

/-- A tail doorbell. -/
def Queue.setTail (x : Queue) (i : BitVec 16) : Queue :=
  if !x.go || x.error then x else if x.sqSize ≤ i.toNat then x.doorbellBad else { x with tail := i }

/-- A head doorbell: entries are released, also for a queue that has stopped, whose started commands still write theirs
(R427, R430), and no more than those left are unacknowledged. -/
def Queue.setHead (x : Queue) (i : BitVec 16) : Queue :=
  if x.cqSize ≤ i.toNat then if x.go then x.doorbellBad else x
  else
    let x := { x with cqHead := i }
    { x with unacked := min x.unacked x.unread }

def State.sqTail (s : State) (q : Nat) (i : BitVec 16) : State := s.modQueue q (·.setTail i)

def State.cqHead (s : State) (q : Nat) (i : BitVec 16) : State := (s.modQueue q (·.setHead i)).cqWrite q

def execSqTailDoorbell (q : Nat) (i : BitVec 16) (s : State) : Outcome State Fault Refusal :=
  if q < 64 then .next (s.byHost (s.sqTail q i)) else .refused .illFormed

def execCqHeadDoorbell (q : Nat) (i : BitVec 16) (s : State) : Outcome State Fault Refusal :=
  if q < 64 then .next (s.byHost (s.cqHead q i)) else .refused .illFormed

/-- The queue has an entry to fetch. -/
def Queue.due (x : Queue) : Bool := x.go && !x.error && x.head != x.tail

/-- The queue whose turn it is: the first after the last one served (R428). -/
def State.turn (s : State) : Option Nat :=
  ((List.range 64).map fun i => (s.pcie.lastQ + 1 + i) % 64).find? fun q => (s.queue q).due

/-- Fetches the entry at HEAD. -/
def State.fetchSq (s : State) (q : Nat) : State :=
  let x := s.queue q
  let c : Cmd := { n := s.pcie.nextCmd, data := s.hostBytes (x.sqBase.toNat + 64 * x.head.toNat) 64, status := 0,
                   cause := 0, detail := 0, ready := false, ctxs := [], plan := [], image := none, meas := [] }
  let s := s.setQueue q { x with
    head := if x.head.toNat + 1 = x.sqSize then 0 else x.head + 1
    fetched := x.fetched ++ [c] }
  s.modPcie fun p => { p with nextCmd := p.nextCmd + 1, lastQ := q }

def execSqEntryFetch (q : Nat) (s : State) : Outcome State Fault Refusal :=
  if q < 64 then if s.turn = some q then .next (s.fetchSq q) else .next s else .refused .illFormed

/-! ## Commands (R428, R431 to R434) -/

/-- The oldest command of a queue that has not started starts, when it is of the wanted opcode and CHAIN lets it: it
moves to the started commands and `f` begins it. -/
def State.startCmd (s : State) (q : Nat) (want : Nat → Bool) (f : State → Cmd → State) : Outcome State Fault Refusal :=
  if q < 64 then
    let x := s.queue q
    match x.fetched with
    | [] => .next s
    | c :: rest =>
      if !x.go || x.error || !want c.opc || (c.chain && !x.started.isEmpty) then .next s
      else .next (f (s.setQueue q { x with fetched := rest, started := x.started ++ [c] }) c)
  else .refused .illFormed

/-- The command ends with a status before any effect, or at once. -/
def State.cmdEnd (s : State) (q : Nat) (c : Cmd) (status : BitVec 8) : State := s.cmdReady q c.n status 0 0

/-- NOP, and every reserved opcode (R431). -/
def State.cmdNop (s : State) (q : Nat) (c : Cmd) : State :=
  s.cmdEnd q c (if 6 < c.opc then 0x77 else if c.reserved then 0x78 else 0)

def execCommandNop (q : Nat) (s : State) : Outcome State Fault Refusal :=
  s.startCmd q (fun o => o == 0 || decide (6 < o)) fun s c => s.cmdNop q c

/-- The contexts that a LAUNCH names. -/
def Cmd.targets (c : Cmd) : List (Nat × Nat) :=
  (List.range (c.fld 10 2)).flatMap fun i => (selectBelow 32 fun t => (c.fld 12 4).testBit t).map fun t => (c.fld 8 2 + i, t)

/-- The PC lies in a region that a PL1 image was last loaded into (R100, R433). -/
def State.inPl1 (s : State) (c pc : Nat) : Bool :=
  match s.regions.find? fun r => r.1 == c && decide (r.2.1 ≤ pc) && decide (pc < r.2.1 + r.2.2.1) with
  | some r => r.2.2.2
  | none => false

/-- LAUNCH writes one context's registers and sets START (R432). -/
def State.launchOne (s : State) (c : Cmd) (x : Nat × Nat) : State :=
  let pl1 := s.inPl1 x.1 (c.fld 16 4)
  (s.modThread x.1 x.2 fun th => { th with
    pc := BitVec.ofNat 64 (c.fld 16 4)
    args := (List.range 4).foldl (fun m i => Tab.set 0 m i (BitVec.ofNat 64 (c.fld (24 + 8 * i) 8))) th.args
    mode := { th.mode with pl1 := pl1, sfuCompat := pl1 || s.compat } }).ctxStart x.1 x.2

/-- LAUNCH (R432). -/
def State.cmdLaunch (s : State) (q : Nat) (c : Cmd) : State :=
  let pc := c.fld 16 4
  if c.reserved || pc % 8 != 0 || decide (spadSize ≤ pc) then s.cmdEnd q c 0x78
  else match s.coreRange (c.fld 8 2) (c.fld 10 2) with
    | some r => s.cmdEnd q c r
    | none =>
      if c.targets.any fun x => s.ctxTaken x.1 x.2 then s.cmdEnd q c 0x01
      else
        let s := c.targets.foldl (fun s x => s.launchOne c x) s
        if c.waits then s.modCmd q c.n fun y => { y with ctxs := c.targets.map fun x => x.1 * 32 + x.2 }
        else s.cmdEnd q c 0

/-- LAUNCH waits while a targeted core repeats a self-test: no thread is released before it (05 R162). -/
def execLaunch (q : Nat) (s : State) : Outcome State Fault Refusal :=
  if ((s.queue q).fetched.take 1).any fun c => c.targets.any fun x => (s.core x.1).retest && !(s.core x.1).diked then
    if q < 64 then .next s else .refused .illFormed
  else s.startCmd q (· == 1) fun s c => s.cmdLaunch q c

/-! LOAD -/

/-- The header is valid (table Image header and segment table). -/
def imageOk (h : Bytes) (len : Nat) : Bool :=
  let segs := leField h 6 2
  decide (0x40 ≤ len) && leField h 0 4 == 0x3250524C && (leField h 4 1 == 1 || leField h 4 1 == 2) && leField h 5 1 == 0
    && decide (1 ≤ segs) && decide (segs ≤ 256) && (h.drop 8).all (· == 0) && decide (0x40 + 16 * segs ≤ len)

/-- Region offset, length, image offset of each segment. -/
def imageSegs (n : Nat) (t : Bytes) : List (Nat × Nat × Nat) :=
  (List.range n).map fun i => (leField t (16 * i) 4, leField t (16 * i + 4) 4, leField t (16 * i + 8) 8)

/-- Every segment lies inside the image and the region. -/
def segsOk (l : List (Nat × Nat × Nat)) (len size : Nat) : Bool :=
  l.all fun g => decide (g.2.2 + g.2.1 ≤ len) && decide (g.1 + g.2.1 ≤ size)

/-- The segments of an image held as bytes, when its header and segments are good for a region. -/
def segsOf (b : Bytes) (size : Nat) : Option (List (Nat × Nat × Nat)) :=
  let l := imageSegs (leField b 6 2) (b.drop 0x40)
  if imageOk (b.take 0x40) b.length && segsOk l b.length size then some l else none

/-- A context of the core is not FREE, DONE, STOPPED or FAULTED. -/
def State.coreBusy (s : State) (c : Nat) : Bool :=
  (List.range 32).any fun t => !([TState.free, .done, .stopped, .faulted].contains (s.thread c t).state)

/-- The transfers of an image into its targets, and the measurement entry of what is placed (16, table Measurement
entry). -/
def State.beginLoad (s : State) (q : Nat) (c : Cmd) (segs : List (Nat × Nat × Nat)) (img : Option Bytes) : State :=
  let src := if img.isSome then 0 else c.fld 8 8
  let placed := match img with
    | some b => b
    | none => s.hostBytes (c.fld 8 8) (c.fld 16 4)
  let plan := (List.range (c.fld 22 2)).flatMap fun i => segs.flatMap fun g =>
    if g.2.1 = 0 then [] else [(src + g.2.2, spadAddr (c.fld 20 2 + i) (c.fld 24 4 + g.1), g.2.1)]
  let meas := [if img.isSome then 4#8 else 3#8, 0#8] ++ toLE 2 0 ++ slice c.data 20 4 ++ toLE 4 0 ++ slice c.data 24 4
    ++ shake256 placed 32
  let s := s.modCmd q c.n fun x => { x with plan := plan, image := img, meas := meas }
  (s.modPcie fun p => { p with pumpWait := p.pumpWait ++ [(q, c.n)] }).serveHostPumps

/-- LOAD (R433; 03 R97, R98). -/
def State.cmdLoad (s : State) (q : Nat) (c : Cmd) : State :=
  let len := c.fld 16 4
  let size := c.fld 28 4
  if c.reserved || decide (spadSize < c.fld 24 4 + size) then s.cmdEnd q c 0x78
  else match s.coreRange (c.fld 20 2) (c.fld 22 2) with
    | some r => s.cmdEnd q c r
    | none =>
      let h := s.hostBytes (c.fld 8 8) 0x40
      let l := imageSegs (leField h 6 2) (s.hostBytes (c.fld 8 8 + 0x40) (16 * leField h 6 2))
      let busy := (List.range (c.fld 22 2)).any fun i => s.coreBusy (c.fld 20 2 + i)
      if !imageOk h len then s.cmdEnd q c 0x7B
      else if !segsOk l len size then s.cmdEnd q c 0x7C
      else if leField h 4 1 = 2 then if busy then s.cmdEnd q c 0x01 else s.beginLoad q c l none
      else match Config.pl1Translate (s.hostBytes (c.fld 8 8) len) with
        | none => s.cmdEnd q c 0x05
        | some b => match segsOf b size with
          | none => s.cmdEnd q c 0x05
          | some l => if busy then s.cmdEnd q c 0x01 else s.beginLoad q c l (some b)

def execLoad (q : Nat) (s : State) : Outcome State Fault Refusal :=
  s.startCmd q (· == 2) fun s c => s.cmdLoad q c

/-! COPY -/

/-- The reason for which a device range is refused (R431): not in one usable LPDDR range, one window or the cistern, or
in the window of a diked core, which the command then targets. -/
def State.copyRange (s : State) (a len : Nat) : Option (BitVec 8) :=
  if a + len ≤ s.lpdTop then none
  else if windowBase ≤ a ∧ a < windowBase + s.lcores * 0x4000000 then
    if spadSize < (a - windowBase) % 0x4000000 + len then some 0x79
    else if (s.core ((a - windowBase) / 0x4000000)).diked then some 0x02 else none
  else if cisternBase ≤ a ∧ a + len ≤ cisternBase + cisternSize then none
  else some 0x79

/-- COPY_IN and COPY_OUT (R434). -/
def State.cmdCopy (s : State) (q : Nat) (c : Cmd) : State :=
  let len := c.fld 24 8
  if c.reserved || len == 0 || decide (2 ^ 40 ≤ len) then s.cmdEnd q c 0x78
  else match s.copyRange (c.fld 16 8) len with
    | some r => s.cmdEnd q c r
    | none =>
      let s := s.modCmd q c.n fun x => { x with plan := [(c.fld 8 8, c.fld 16 8, len)] }
      (s.modPcie fun p => { p with pumpWait := p.pumpWait ++ [(q, c.n)] }).serveHostPumps

def execCopyIn (q : Nat) (s : State) : Outcome State Fault Refusal :=
  s.startCmd q (· == 3) fun s c => s.cmdCopy q c

def execCopyOut (q : Nat) (s : State) : Outcome State Fault Refusal :=
  s.startCmd q (· == 4) fun s c => s.cmdCopy q c

/-- SIGNAL (R85, R431). -/
def State.cmdSignal (s : State) (q : Nat) (c : Cmd) : State :=
  if c.reserved || decide (s.lcores ≤ c.fld 8 2) || decide (64 ≤ c.fld 10 1) || c.fld 11 1 == 0 then s.cmdEnd q c 0x78
  else if (s.core (c.fld 8 2)).diked then s.cmdEnd q c 0x02
  else (s.semAdd (c.fld 8 2) (c.fld 10 1) (c.fld 11 1)).cmdEnd q c 0

def execSignal (q : Nat) (s : State) : Outcome State Fault Refusal :=
  s.startCmd q (· == 5) fun s c => s.cmdSignal q c

/-- FENCE starts; it completes once it is the oldest (R428). -/
def State.cmdFence (s : State) (q : Nat) (c : Cmd) : State := if c.reserved then s.cmdEnd q c 0x78 else s

def execCommandFence (q : Nat) (s : State) : Outcome State Fault Refusal :=
  s.startCmd q (· == 6) fun s c => s.cmdFence q c

/-! ## Completion (R429) -/

/-- A context that LAUNCH awaits has ended. -/
def State.ctxEnded (s : State) (x : Nat) : Bool :=
  [TState.done, .stopped, .faulted, .fenced].contains (s.thread (x / 32) (x % 32)).state

/-- The command may complete now: with its final status. -/
def State.completion (s : State) (x : Queue) (c : Cmd) : Option Cmd :=
  if c.ready then some { c with detail := if c.opc = 2 ∧ c.status = 0 then 0 else c.detail }
  else if c.opc = 6 then if (x.started.head?.map Cmd.n) = some c.n then some c else none
  else if c.opc = 1 ∧ c.waits = true ∧ (c.ctxs.all s.ctxEnded) = true then
    let ok := (c.ctxs.filter fun i => (s.thread (i / 32) (i % 32)).state == .done).length
    some { c with detail := BitVec.ofNat 64 (ok + (c.ctxs.length - ok) * 2 ^ 32) }
  else none

/-- The measurement log takes an entry (16 R500). -/
def State.measure (s : State) (e : Bytes) : State :=
  let m := s.mmc
  { s with mmc := { m with
    mext := shake256 (m.mext ++ e) 32
    meas := if 64 ≤ m.meas.length then m.meas else m.meas ++ [e] } }

/-- What a completed LOAD records: its regions and its measurement (R100, R433). -/
def State.loaded (s : State) (c : Cmd) : State :=
  let r := (List.range (c.fld 22 2)).map fun i => (c.fld 20 2 + i, c.fld 24 4, c.fld 28 4, c.image.isSome)
  { s with regions := r ++ s.regions }.measure c.meas

/-- A started command completes, and its entry is written when there is room. -/
def State.cmdComplete (s : State) (q n : Nat) : State :=
  let x := s.queue q
  match (x.started.find? fun c => c.n == n).bind (s.completion x) with
  | none => s
  | some c =>
    let s := s.setQueue q { x with started := x.started.filter (fun y => y.n != n), finished := x.finished ++ [c] }
    let s := if c.opc = 2 ∧ c.status = 0 then s.loaded c else s
    (s.cqWrite q).serveHostPumps

def execCommandComplete (q n : Nat) (s : State) : Outcome State Fault Refusal :=
  if q < 64 then .next (s.cmdComplete q n) else .refused .illFormed

/-- COAL_TIME has passed since the first unacknowledged entry (SQ_CFG). -/
def execCqCoalesceTimeout (q : Nat) (s : State) : Outcome State Fault Refusal :=
  if q < 64 then
    let x := s.queue q
    if x.ien && x.coalTime != 0 && decide (0 < x.unacked) then .next (s.queueIrq q) else .next s
  else .refused .illFormed

/-- A read of host memory fails: only a transfer from the host reads it (R437). -/
def execHostAbort (p : Nat) (s : State) : Outcome State Fault Refusal :=
  if p < 16 then
    match s.pumps.find? fun r => r.host && r.pump == p && r.hostWrites.isEmpty with
    | some r => .next (s.abortRun r).serveHostPumps
    | none => .next s
  else .refused .illFormed

end Sys2Proof.Machine
end

