-- ==== Sys2Proof/Machine/Debug.lean ====
section
/-! DEFINITION. The ERR block's read values, the debug path (15 R460 to R464) and the PERTURB block (15 R476 to R481). -/

namespace Sys2Proof.Machine

open Host (Outcome)

/-! ## Debug path (R464) -/

/-- ERR_LOGCTL, ERR_DBGSEL. -/
def Err.logWord (e : Err) : Nat := e.next.toNat + e.read.toNat * 2 ^ 8 + e.lost.toNat * 2 ^ 16

def Err.selWord (e : Err) : Nat :=
  e.dbgCore.toNat + e.dbgThread.toNat * 2 ^ 8 + e.dbgFile.toNat * 2 ^ 13 + e.dbgIndex.toNat * 2 ^ 16 + b2n e.dbgDenied * 2 ^ 31

/-- The word of a register file that ERR_DBGSEL selects; registers that do not exist read 0. -/
def Regs.word (r : Regs) (file i : Nat) : BitVec 64 :=
  match file with
  | 0 => if i < 32 then r.getS i else 0
  | 1 => (Tab.get 0 r.d (i / 4)).extractLsb' (64 * (i % 4)) 64
  | 2 => (Tab.get 0 r.v (i / 32)).extractLsb' (64 * (i % 32)) 64
  | 3 => if i = 0 then BitVec.allOnes 64 else Tab.get 0 r.p i
  | _ => 0

/-- A read of ERR_DBGDATA: the selected word, or 0 with DENIED. -/
def State.dbgRead (s : State) : BitVec 64 × State :=
  let e := s.err
  let th := s.thread e.dbgCore.toNat e.dbgThread.toNat
  let ok := decide (e.dbgCore.toNat < s.lcores) && [TState.done, .stopped, .faulted].contains th.state
  if ok then (th.regs.word e.dbgFile.toNat e.dbgIndex.toNat, s)
  else (0, { s with err := { e with dbgDenied := true } })

def execErrDbgdataRead (s : State) : Outcome State Fault Refusal :=
  let r := s.dbgRead
  .next (s.byHost (r.2.readBack (toLE 8 r.1.toNat)))

/-! ## PERTURB -/

/-- The pairs of the table Perturbation targets. -/
def perturbPair (tgt action : Nat) : Bool :=
  match tgt with
  | 0 => [1, 5].contains action
  | 1 => [1, 6].contains action
  | 2 => [3, 6].contains action
  | 3 => [1, 2, 4].contains action
  | 4 => [1, 2].contains action
  | 5 => [1, 2, 4, 7].contains action
  | 6 => [1, 4].contains action
  | 7 => [1, 8].contains action
  | 8 => action == 1
  | _ => false

/-- PERTURB_ENT as read. -/
def PerturbEnt.word (e : PerturbEnt) : BitVec 128 :=
  BitVec.ofNat 128 (b2n e.en + e.tgt.toNat * 2 ^ 4 + e.action.toNat * 2 ^ 8 + e.place.toNat * 2 ^ 16
    + e.amount.toNat * 2 ^ 32 + e.period.toNat * 2 ^ 64 + e.count.toNat * 2 ^ 96 + e.hits.toNat * 2 ^ 112)

/-- An entry as written: EN only for a pair of the table; events and HITS count from EN. -/
def PerturbEnt.write (e : PerturbEnt) (w : BitVec 128) : PerturbEnt :=
  let en := w.getLsbD 0 && perturbPair (w.extractLsb' 4 4).toNat (w.extractLsb' 8 4).toNat
  let fresh := en && !e.en
  { en := en
    tgt := w.extractLsb' 4 4
    action := w.extractLsb' 8 4
    place := w.extractLsb' 16 16
    amount := w.extractLsb' 32 16
    period := w.extractLsb' 64 32
    count := w.extractLsb' 96 16
    hits := if fresh then 0 else e.hits
    events := if fresh then 0 else e.events }

/-- Writes are ignored while DEV is locked (R476); withheld credits return when EN or GO clears (R479). -/
def State.writePerturbCtl (s : State) (go : Bool) : State :=
  if !s.dev.unlocked then s
  else
    let s := { s with err := { s.err with perturbGo := go } }
    if go then s else s.creditsBack

def execPerturbCtlGoSet (s : State) : Outcome State Fault Refusal := .next (s.writePerturbCtl true)

def execPerturbCtlGoClear (s : State) : Outcome State Fault Refusal := .next (s.writePerturbCtl false)

def State.writePerturbEnt (s : State) (i : Nat) (w : BitVec 128) : State :=
  if !s.dev.unlocked then s
  else
    let e := (Tab.get PerturbEnt.init s.err.ents i).write w
    { s with err := { s.err with ents := Tab.set PerturbEnt.init s.err.ents i e } }.creditsBack

def execPerturbEntWrite (i : Nat) (w : BitVec 128) (s : State) : Outcome State Fault Refusal :=
  if i < 64 then .next (s.writePerturbEnt i w) else .refused .illFormed

/-! ## ERR registers -/

/-- A word of the ERR block by offset, but for ERR_DBGDATA. -/
def State.errReg (s : State) (off : Nat) : Nat :=
  let e := s.err
  if off = 0x00 then e.pend.toNat
  else if off = 0x08 then e.mask.toNat
  else if off = 0x10 then e.logWord
  else if off = 0x20 then e.selWord
  else if 0x1000 ≤ off ∧ off < 0x1800 then
    ((Tab.get 0 e.log ((off - 0x1000) / 0x20)).extractLsb' (off % 0x20 * 8) 64).toNat
  else 0

/-- A word of the PERTURB block. -/
def State.perturbReg (s : State) (off : Nat) : Nat :=
  if off = 0 then b2n s.err.perturbGo
  else if 0x100 ≤ off ∧ off < 0x500 then
    ((Tab.get PerturbEnt.init s.err.ents ((off - 0x100) / 16)).word.extractLsb' (off % 16 * 8) 64).toNat
  else 0

/-- A write of the ERR block: `w` the whole 64-bit word, `hit` the bytes written. -/
def State.writeErr (s : State) (off : Nat) (w : BitVec 64) (hit : Nat → Bool) : State :=
  let e := s.err
  let lo := hit 0
  if off = 0x00 then if lo then { s with err := { e with pend := e.pend &&& ~~~(w.extractLsb' 0 14) } } else s
  else if off = 0x08 then { s with err := { e with mask := w.extractLsb' 0 14 } }
  else if off = 0x10 then { s with err := { e with read := w.extractLsb' 8 7 } }
  else if off = 0x20 then
    if lo then { s with err := { e with
      dbgCore := w.extractLsb' 0 8
      dbgThread := w.extractLsb' 8 5
      dbgFile := w.extractLsb' 13 3
      dbgIndex := w.extractLsb' 16 10
      dbgDenied := e.dbgDenied && !w.getLsbD 31 } } else s
  else s

end Sys2Proof.Machine
end

