-- ==== Sys2Proof/Machine/Lasers.lean ====
section
/-! DEFINITION. Port lasers and spare units (10 R296 to R310): changeover, retirement, the bias loop, TKL_WAVE and the
spare registers. A wavelength k of port n shares a spare unit with the four ports of its group. -/

namespace Sys2Proof.Machine

/-! ## Accessors -/

def Port.wave (p : Port) (k : Nat) : Wave := Tab.get Wave.init p.waves k

def State.modWave (s : State) (n k : Nat) (f : Wave → Wave) : State :=
  s.modPort n fun p => { p with waves := Tab.set Wave.init p.waves k (f (p.wave k)) }

def State.spareUnit (s : State) (u : Nat) : Spare := if u = 0 then s.spare0 else s.spare1

def State.modSpare (s : State) (u : Nat) (f : Spare → Spare) : State :=
  if u = 0 then { s with spare0 := f s.spare0 } else { s with spare1 := f s.spare1 }

/-- TKL_WAVE.CHG_BUSY: a changeover, not a retirement, is under way. -/
def Wave.busy (w : Wave) : Bool :=
  match w.chg with
  | some c => !c.retire
  | none => false

/-- TKL_WAVE. -/
def Wave.word (w : Wave) : Nat :=
  w.bias.toNat + b2n w.spare * 2 ^ 9 + b2n w.retired * 2 ^ 10 + b2n w.busy * 2 ^ 11 + w.emb.toNat * 2 ^ 16

/-- LAS_SPARE0 and LAS_SPARE1. -/
def Spare.word (u : Spare) : Nat := u.used.toNat + u.port.toNat * 2 ^ 16 + u.failed.toNat * 2 ^ 48

/-- A changeover is under way on the port: other lane events of its links wait (R308). -/
def State.portBusy (s : State) (n : Nat) : Bool := (List.range 16).any fun k => ((s.port n).wave k).busy

/-- The links of port `n` among local indices `m` that are not out of service. -/
def State.portLinks (s : State) (n : Nat) (m : BitVec 6) : List Nat :=
  (selectBelow 6 fun i => m.getLsbD i && ((s.link (6 * n + i)).state.meets || (s.link (6 * n + i)).state == .retrain)).map
    (6 * n + ·)

/-- LINK_DEGRADED of wavelength k at link `l` (R302, R306). -/
def State.degraded (s : State) (l k : Nat) : State :=
  s.notify 7 false (l + k * 2 ^ 9) 0 ((s.port (portOf l)).wave k).word

/-! ## Changeover and retirement (R303, R306 to R308) -/

/-- A retirement ends: source off, lane out of service on every link, recorded. A spare wavelength that served the port is
failed (R307). PLACE of the notification names a link of the port, which one the manual does not say: a free choice. -/
def State.retireDone (s : State) (n k : Nat) : State :=
  let w := (s.port n).wave k
  let s := s.modWave n k fun w => { w with bias := 0, retired := true, chg := none, emb := 0xFF }
  let s := if w.spare then s.modSpare (groupOf n) fun u => { u with
      used := u.used &&& ~~~(1#16 <<< k)
      failed := u.failed ||| (1#16 <<< k) }
    else s
  let f := { s with laserJournal := s.laserJournal ++ [(n, k, true)] }.takeFree
  f.2.degraded (6 * n + (Config.freeWord f.1).toNat % 6) k

/-- LAS_SPAREx.PORT with wavelength k serving port n of the group. -/
def Spare.serve (u : Spare) (n k : Nat) : Spare := { u with
  used := u.used ||| (1#16 <<< k)
  port := (u.port &&& ~~~(3#32 <<< (2 * k))) ||| (BitVec.ofNat 32 (n % 4) <<< (2 * k)) }

/-- The last step of a changeover: the assignment is recorded, unless it has gone back to the primary. -/
def State.chgRecord (s : State) (n k : Nat) (c : Chg) : State :=
  let s := s.modWave n k fun w => { w with chg := none, spare := w.spare || !c.revert }
  let s := s.modSpare (groupOf n) fun u => { u with active := none }
  if c.revert then s
  else { s.modSpare (groupOf n) (·.serve n k) with laserJournal := s.laserJournal ++ [(n, k, false)] }

/-- Moves a changeover on while its stage awaits no link. -/
def State.chgAdvance : Nat → State → Nat → Nat → State
  | 0, s, _, _ => s
  | fuel + 1, s, n, k =>
    match ((s.port n).wave k).chg with
    | none => s
    | some c =>
      if !(s.portLinks n c.links).isEmpty then s
      else match c.stage with
        | .drain =>
          if c.retire then s.retireDone n k
          else s.modWave n k fun w => { w with chg := some { c with stage := .settle, links := 0 } }
        | .settle => s
        | .relock =>
          let s := s.modWave n k fun w => { w with chg := some { c with stage := .restore, links := c.all } }
          let s := (s.portLinks n c.all).foldl (fun s l => s.laneInSend l (1#16 <<< k)) s
          State.chgAdvance fuel s n k
        | .restore => s.chgRecord n k c

/-- The far ends are awaited no more for link `l`. -/
def State.chgHeard (s : State) (l k : Nat) (st : ChgStage) : State :=
  let n := portOf l
  match ((s.port n).wave k).chg with
  | some c =>
    if c.stage = st then
      State.chgAdvance 3
        (s.modWave n k fun w => { w with chg := some { c with links := c.links &&& ~~~(1#6 <<< (l % 6)) } }) n k
    else s
  | none => s

/-- The drain step: LANE_OUT for lane k on each link of the port that carries flits (R303, R304, R306). -/
def State.drainWave (s : State) (n k : Nat) (retire : Bool) : State :=
  let m := BitVec.ofNat 6 (bitsOf 6 fun i =>
    (s.link (6 * n + i)).state.meets && (s.link (6 * n + i)).txMask.getLsbD k)
  let s := s.modWave n k fun w => { w with chg := some ⟨.drain, retire, false, m, m, w.bias⟩ }
  State.chgAdvance 3 ((s.portLinks n m).foldl (fun s l => s.laneOutSend l (1#16 <<< k)) s) n k

/-- Spare wavelength k cannot serve port `n`: failed, or with another port (R306). -/
def Spare.denied (u : Spare) (n k : Nat) : Bool :=
  u.failed.getLsbD k || (u.used.getLsbD k && (u.port >>> (2 * k)).toNat % 4 != n % 4)

/-- A changeover of wavelength k is due at port `n`: it starts, waits its turn (R305), or the wavelength is retired (R306,
R307). -/
def State.chgDue (s : State) (n k : Nat) : State :=
  let w := (s.port n).wave k
  let u := s.spareUnit (groupOf n)
  if w.retired || w.chg.isSome then s
  else if w.spare || u.denied n k then
    (s.modSpare (groupOf n) fun u => { u with queue := u.queue.filter (· != (n, k)) }).drainWave n k true
  else if u.active.isSome || u.queue.head?.any (· != (n, k)) then
    if u.queue.contains (n, k) then s else s.modSpare (groupOf n) fun u => { u with queue := u.queue ++ [(n, k)] }
  else
    (s.modSpare (groupOf n) fun u => { u with
      active := some (n, k)
      queue := u.queue.filter (· != (n, k)) }).drainWave n k false

/-- A free spare unit takes the changeovers that wait, in the order of detection (R305). -/
def State.unitNext : Nat → State → Nat → State
  | 0, s, _ => s
  | fuel + 1, s, u =>
    let x := s.spareUnit u
    match x.active, x.queue with
    | none, e :: _ => State.unitNext fuel (s.chgDue e.1 e.2) u
    | _, _ => s

/-- Back to the primary at its last bias; lane k is retrained on it; the spare wavelength is failed (R308). -/
def State.chgRevert (s : State) (n k : Nat) : State :=
  match ((s.port n).wave k).chg with
  | some c =>
    if c.retire || c.revert then s
    else
      let s := s.modSpare (groupOf n) fun u => { u with failed := u.failed ||| (1#16 <<< k) }
      let s := s.modWave n k fun w => { w with
        bias := c.bias
        chg := some { c with stage := .relock, revert := true, links := c.all } }
      State.chgAdvance 3 s n k
  | none => s

/-- The primary goes off, and each link's modulator ring relocks onto the spare line; RING_SLOW counts the relocks (15,
table Perturbation targets). -/
def State.chgSettled (s : State) (n k : Nat) : State :=
  match ((s.port n).wave k).chg with
  | some c =>
    let b := s.startBias n k true
    let s := s.modWave n k fun w => { w with bias := b, chg := some { c with stage := .relock, links := c.all } }
    let s := (s.portLinks n c.all).foldl
      (fun s l => (s.perturbBy 5 7 fun p => portOf (p % 64) == portOf l && p / 512 % 16 == k).2) s
    State.chgAdvance 3 s n k
  | none => s

/-! ## Firmware's samples (R299 to R302, R310) -/

/-- The wavelength embankment: the least reported over the ACTIVE links of the port; 0xFF with none. -/
def State.waveEmb (s : State) (n k : Nat) : Nat :=
  (s.activeLinks.filter fun l => portOf l == n).foldl (fun m l => min m (Tab.get 0xFF (s.link l).emb k).toNat) 0xFF

/-- The one link to which a low embankment is attributed (R302). -/
def State.lowLink (s : State) (n k : Nat) : Option Nat :=
  let p := s.port n
  let ls := s.activeLinks.filter fun l => portOf l == n
  let e := fun l => (Tab.get 0xFF (s.link l).emb k).toNat
  match ls.filter fun l => decide (e l < p.embChg.toNat) with
  | [l] => if ls.all fun m => m == l || decide (p.embHold.toNat ≤ e m) then some l else none
  | _ => none

/-- One wavelength at a sample. -/
def State.sampleWave (s : State) (n k : Nat) : State :=
  let p := s.port n
  let w := p.wave k
  if !p.lit || w.retired || w.busy then s
  else
    let e := s.waveEmb n k
    -- a changeover that a reset has discarded starts again once the port has an ACTIVE link (R309)
    let again := w.again && !s.activeLinks.any fun l => portOf l == n
    let s := s.modWave n k fun w => { w with emb := BitVec.ofNat 8 e, again := again }
    if !p.autoChg || w.chg.isSome || again then s
    else if p.biasChg.toNat * 480 ≤ w.bias.toNat * 100 then s.chgDue n k
    else if e < p.embChg.toNat then
      match s.lowLink n k with
      | some l =>
        if s.portBusy n || !(s.link l).txMask.getLsbD k then s else (s.laneOutSend l (1#16 <<< k)).degraded l k
      | none => s.chgDue n k
    else s

/-- All wavelengths, and the turn of waiting changeovers. -/
def State.laserSample (s : State) : State :=
  let s := (List.range 128).foldl (fun s i => s.sampleWave (i / 16) (i % 16)) s
  let s := (List.range 128).foldl (fun s i => State.chgAdvance 3 s (i / 16) (i % 16)) s
  State.unitNext 64 (State.unitNext 64 s 0) 1

/-- The bias loop of one wavelength (R300); no bias passes the ceiling of 120 mA. -/
def State.biasWave (limit : List (Nat × Nat)) (s : State) (n k : Nat) : State :=
  let p := s.port n
  let w := p.wave k
  if !p.lit || w.retired || w.busy || w.emb == 0xFF then s
  else if w.emb.toNat < p.embHold.toNat then
    if limit.contains (n, k) || decide (480 ≤ w.bias.toNat) then s
    else s.modWave n k fun w => { w with bias := w.bias + 1 }
  else if p.embHold.toNat + 10 < w.emb.toNat ∧ (s.startBias n k w.spare).toNat < w.bias.toNat then
    s.modWave n k fun w => { w with bias := w.bias - 1 }
  else s

end Sys2Proof.Machine
end

