-- ==== Sys2Proof/Machine/Discovery.lean ====
section
/-! DEFINITION. Discovery on links (11 R332 to R345): records, their checks, verdicts, EXCH, ISOLATED and ACTIVE, and
DISC_DONE. A record is kept as the 512 bits of FAB_DISCREC. -/

namespace Sys2Proof.Machine

open Host (Outcome)

/-! ## Records -/

/-- IDENT: the first 16 bytes of SHAKE256 over the serial number (16 R550). -/
def Fuses.ident (f : Fuses) : Bytes := shake256 f.serial 16

/-- FAB_PLAN of link `l`, from bit `lo`. -/
def State.planFld (s : State) (l lo n : Nat) : Nat := fieldNat (Tab.get 0 s.fab.plan l).toNat lo n

/-- This module's discovery record for link `l`; `pending` sends RXOK 0 and VERDICT pending (R337). -/
def State.discRecord (s : State) (l : Nat) (pending : Bool) : Bytes :=
  let d := s.disc l
  let valid := s.planFld l 0 1 == 1
  s.fuses.ident ++ toLE 2 s.fab.nodeId.toNat ++ toLE 1 (portOf l) ++ toLE 1 l ++ toLE 1 2 ++ toLE 1 1
    ++ toLE 2 (if pending then 0 else b2n d.rxok + d.mine.toNat * 2) ++ toLE 4 s.hubFw.toNat
    ++ toLE 2 (if valid then s.planFld l 8 16 else 0xFFFF) ++ toLE 1 (if valid then s.planFld l 24 6 else 0xFF)
    ++ toLE 1 0 ++ toLE 16 (s.planFld l 64 128) ++ toLE 16 0

/-- Sends a record in a DISC packet on MGMT. What DST a DISC packet carries the manual does not say: a free value. -/
def State.sendRecord (s : State) (l : Nat) (pending : Bool) : State :=
  let r := s.takeFree
  let p : Pkt := { dst := (Config.freeWord r.1).extractLsb' 0 16, src := s.fab.nodeId, eng := 0xC002, vc := 3, type := 8,
                   ttl := 63, tag := 0, status := 0, body := s.discRecord l pending }
  r.2.linkPut l 3 p.bytes

/-- The record last received on link `l`, as bytes. -/
def State.record (s : State) (l : Nat) : Bytes := toLE 64 (Tab.get 0 s.fab.record l).toNat

/-! ## Checks (R340, R341) -/

/-- The first check that fails: its reason and whether ACCEPT_OBS overrides it. -/
def State.discFailure (s : State) (l : Nat) (r : Bytes) : Option (BitVec 8 × Bool) :=
  let own := s.fab.nodeId.toNat
  let ident := leField r 0 16
  let node := leField r 0x10 2
  let me := fromLE s.fuses.ident
  let valid := s.planFld l 0 1 == 1
  let expId := s.planFld l 64 128
  let nId := leField r 0x20 16
  if leField r 0x15 1 ≠ 1 then some (0x48, false)
  else if ident = me then some (0x49, false)
  else if own = 0xFFFF ∨ node = 0xFFFF ∨ node = own then some (0x4A, false)
  else if valid ∧ s.planFld l 8 16 ≠ node then some (0x4B, true)
  else if valid ∧ s.planFld l 24 6 ≠ leField r 0x13 1 then some (0x4C, true)
  else if expId ≠ 0 ∧ expId ≠ ident then some (0x4D, true)
  else if leField r 0x1C 2 ≠ own ∨ leField r 0x1E 1 ≠ l ∨ (nId ≠ 0 ∧ nId ≠ me) then some (0x4E, true)
  else if !valid then some (0x4F, true)
  else none

/-- Evaluates the neighbour's record; a changed verdict is sent (R338, R341, R344). -/
def State.discEval (s : State) (l : Nat) : State :=
  let r := s.record l
  let f := s.discFailure l r
  let was := (s.disc l).mine
  let late := (s.link l).state == .isolated && (s.disc l).reason == 0x50
  let obs := match f with
    | some (_, o) => o && s.fab.acceptObs
    | none => false
  let v : BitVec 2 := if f.isNone || obs then 1 else 2
  let s := s.modDisc l fun d => { d with
    mine := v
    reason := match f with
      | some (x, _) => x
      | none => if late then 0x50 else 0
    observed := obs
    minor := BitVec.ofNat 4 (min 2 (leField r 0x14 1))
    node := BitVec.ofNat 16 (leField r 0x10 2)
    link := BitVec.ofNat 6 (leField r 0x13 1) }
  if v = was then s else s.sendRecord l false

/-! ## States -/

/-! ## Routes (R349; 14 R446) -/

/-- The software fields of FAB_ROUTE. -/
def routeMask : BitVec 64 := 0xFFFFFFF7F

/-- The next-hop set of an entry: empty unless the entry is in force. -/
def Route.set (r : Route) : List Nat := if r.inForce then r.hops else []

/-- A write of an entry; a changed next-hop set is held while GO is 1. -/
def State.writeRoute (s : State) (n : Nat) (w : BitVec 64) : State :=
  let r := Tab.get Route.init s.fab.route n
  let v := w &&& routeMask
  let changed := (Route.set ⟨v, false⟩) != r.set
  (s.modFab fun f => { f with route := Tab.set Route.init f.route n ⟨v, r.hold || (f.go && changed)⟩ }).kick

/-- The accepted links to each neighbour, by node number (14 R446). -/
def State.linksTo (s : State) (n : Nat) : List Nat :=
  selectBelow 48 fun l => (s.link l).state == .active && (s.disc l).node.toNat == n

/-- The one-hop entry to a neighbour over its first four links. -/
def oneHop (ls : List Nat) : BitVec 64 :=
  let l := ls.take 4
  BitVec.ofNat 64 (1 + 2 + (l.zipIdx.map fun e => e.1 * 2 ^ (8 + 6 * e.2)).sum + (2 ^ l.length - 1) * 2 ^ 32)

/-- One FAB_ROUTE entry for each neighbour node. -/
def State.firmwareRoutes (s : State) : State :=
  let nodes := ((selectBelow 48 fun l => (s.link l).state == .active).map fun l => (s.disc l).node.toNat).dedup
  (nodes.filter fun n => decide (n < 0xFFFF)).foldl (fun s n => s.writeRoute n (oneHop (s.linksTo n))) s

/-- Firmware joins the fabric by itself: start-up is between steps 11 and 14 and the straps name a node (14 R446). -/
def State.joining (s : State) : Bool :=
  s.nidp != 15 && s.boot.done.getLsbD 11 && !s.boot.done.getLsbD 14 && !s.dev.stopped

/-! ## DISC_DONE -/

/-- DISC_DONE is set once every link of every port whose TKL_CTL.GO is 1 has left EXCH, or timed out in it, since GO was
set (R345; assumption 50). During start-up step 12 ends with it, and firmware writes the routes (14 R446). -/
def State.discCheck (s : State) : State :=
  let waits := (List.range 48).any fun l => (s.port (portOf l)).go && !(s.disc l).left
  if s.fab.go && !waits then
    let t := s.modFab fun f => { f with discDone := true }
    if s.joining && !s.fab.discDone then t.firmwareRoutes else t
  else s

/-- Nothing is decided about the link any more. -/
def State.undecide (s : State) (l : Nat) (rxok : Bool) : State :=
  s.modDisc l fun d => { d with mine := 0, theirs := 0, minor := 0, observed := false, rxok := rxok, again := false }

/-- The link enters EXCH with nothing decided. -/
def State.enterExch (s : State) (l : Nat) (rxok : Bool) : State :=
  (s.modLink l fun k => { k with state := .exch }).undecide l rxok

/-- The link is ISOLATED; from ACTIVE its packets are treated as at a breach (R339, R342, R363, R399). -/
def State.isolate (s : State) (l : Nat) : State :=
  let s := if (s.link l).state = .active then s.linkSoft l .isolated
    else s.modLink l fun k => { k with state := .isolated }
  (s.modDisc l fun d => { d with left := true }).discCheck

/-- Verdicts decide the link's state (R339, R342). -/
def State.discSettle (s : State) (l : Nat) : State :=
  let d := s.disc l
  let x := (s.link l).state
  if !x.meets then s
  else if d.mine = 1 ∧ d.theirs = 1 then
    if x = .active then s
    else
      let s := s.modLink l fun k => { k with state := .active }
      ((s.modDisc l fun d => { d with
        left := true
        reason := if d.reason = 0x50 then 0 else d.reason }).flush l).discCheck.kick
  else if (d.mine = 2 ∨ d.theirs = 2) ∧ x ≠ .isolated then s.isolate l
  else s

/-- The link is evaluated again (R342), after a RETRAIN that is under way. -/
def State.reevaluate (s : State) (l : Nat) : State :=
  if !s.fab.go || !(s.disc l).rxok then s
  else if (s.link l).state.meets then (s.discEval l).discSettle l
  else if (s.link l).state = .retrain then s.modDisc l fun d => { d with again := true }
  else s

/-- Discovery runs again on a link: it sends its record and is evaluated again. -/
def State.rediscover (s : State) (l : Nat) : State :=
  if !s.fab.go then s
  else if (s.link l).state.meets then (s.sendRecord l false).reevaluate l
  else if (s.link l).state = .retrain then s.modDisc l fun d => { d with again := true }
  else s

/-- A record of the neighbour (R337 to R342). -/
def State.takeRecord (s : State) (l : Nat) (r : Bytes) : State :=
  let v := leField r 0x16 2 / 2 % 4
  let x := (s.link l).state
  let changed := s.record l != r
  let s := s.modFab fun f => { f with record := Tab.set 0 f.record l (BitVec.ofNat 512 (fromLE r)) }
  if v = 0 ∧ x ≠ .exch then
    ((s.linkSoft l .exch).enterExch l true).reevaluate l
  else
    let s := s.modDisc l fun d => { d with theirs := BitVec.ofNat 2 v, rxok := true }
    if !s.fab.go then s
    else (if changed || (s.disc l).mine == 0 then s.discEval l else s).discSettle l

/-! ## FAB_CTL (R335, R337) -/

/-- GO is set: discovery starts on the links in EXCH. -/
def State.fabStart (s : State) : State :=
  let s := s.modFab fun f => { f with
    go := true
    disc := f.disc.foldl (fun m e => Tab.set Disc.init m e.1 { e.2 with left := false }) [] }
  let s := (List.range 48).foldl (fun s l =>
    if (s.link l).state = .exch then (s.sendRecord l false).reevaluate l else s) s
  s.discCheck

/-- GO is cleared (R337). A link in RETRAIN gives up its packets too, and goes on to EXCH. -/
def State.fabStop (s : State) : State :=
  let s := s.modFab fun f => { f with go := false, discDone := false }
  (List.range 48).foldl (fun s l =>
    match (s.link l).state with
    | .active => ((s.sendRecord l true).linkSoft l .exch).enterExch l false
    | .isolated => ((s.sendRecord l true).linkSoft l .exch).enterExch l false
    | .exch => s.undecide l (s.disc l).rxok
    | .retrain => ((s.linkSoft l .retrain).modLink l fun k => { k with prior := .exch }).undecide l false
    | _ => s) s

/-- The reason why FAB refuses GO. -/
def Fab.refuse (f : Fab) : Option (BitVec 8) :=
  if f.nodeId = 0xFFFF then some 0x40
  else if f.timeout.toNat < 10 ∨ 10000 < f.timeout.toNat then some 0x41
  else if f.drain = 0 then some 0x42
  else if f.hot = 0 then some 0x43
  else none

/-- A write of FAB_CTL: RWL fields while GO is 0, then GO, then what ACCEPT_OBS and REDISCOVER ask (R342). -/
def State.writeFabCtl (s : State) (w : BitVec 32) : State :=
  let was := s.fab
  let s := s.modFab fun f => { f with
    acceptObs := w.getLsbD 1
    timeout := if f.go then f.timeout else w.extractLsb' 8 16
    drain := if f.go then f.drain else w.extractLsb' 24 8 }
  if w.getLsbD 0 then
    if was.go then
      let s := if was.acceptObs != w.getLsbD 1 then (List.range 48).foldl State.reevaluate s else s
      if w.getLsbD 2 then (List.range 48).foldl State.rediscover s else s
    else match s.fab.refuse with
      | some r => s.modFab fun f => { f with reason := r }
      | none => s.fabStart
  else if was.go then s.fabStop else s

/-- FAB_CTL. -/
def Fab.ctlWord (f : Fab) : Nat := b2n f.go + b2n f.acceptObs * 2 + f.timeout.toNat * 2 ^ 8 + f.drain.toNat * 2 ^ 24

/-- FAB_STATUS. -/
def State.fabStatus (s : State) : Nat :=
  b2n s.fab.discDone + s.fab.reason.toNat * 2 ^ 8 + s.activeLinks.length * 2 ^ 16

/-- FAB_DISCST. -/
def Disc.word (d : Disc) : Nat :=
  d.minor.toNat + d.mine.toNat * 2 ^ 4 + d.theirs.toNat * 2 ^ 6 + d.reason.toNat * 2 ^ 8 + b2n d.observed * 2 ^ 16
    + d.node.toNat * 2 ^ 32 + d.link.toNat * 2 ^ 48

/-! ## Commands -/

def execFabCtlGoSet (w : BitVec 32) (s : State) : Outcome State Fault Refusal :=
  if w.getLsbD 0 then .next (s.writeFabCtl w) else .refused .illFormed

def execFabCtlGoClear (w : BitVec 32) (s : State) : Outcome State Fault Refusal :=
  if w.getLsbD 0 then .refused .illFormed else .next (s.writeFabCtl w)

/-- A write of REDISCOVER; GO and the other fields are written as they read. -/
def execFabCtlRediscover (s : State) : Outcome State Fault Refusal :=
  .next (s.writeFabCtl (BitVec.ofNat 32 (s.fab.ctlWord + 4)))

def execDiscoveryReevaluate (l : Nat) (s : State) : Outcome State Fault Refusal :=
  if l < 48 then .next (s.reevaluate l) else .refused .illFormed

def execDisc (l : Nat) (r : Bytes) (s : State) : Outcome State Fault Refusal :=
  if l < 48 ∧ r.length = 64 then
    if (s.link l).state.meets then
      match s.takeBody l 3 r with
      | some s => .next (s.takeRecord l r)
      | none => .next s
    else .next s
  else .refused .illFormed

def execDiscRecordSend (l : Nat) (s : State) : Outcome State Fault Refusal :=
  if l < 48 then
    if s.fab.go && (s.link l).state.meets then .next (s.sendRecord l false) else .next s
  else .refused .illFormed

/-- 20 ms in EXCH with GO set without a pair of accept verdicts (R339). -/
def execDiscTimeout (l : Nat) (s : State) : Outcome State Fault Refusal :=
  if l < 48 then
    if s.fab.go && (s.link l).state == .exch then
      .next ((s.modDisc l fun d => { d with reason := 0x50 }).isolate l)
    else .next s
  else .refused .illFormed

def execDiscoveryRetry (l : Nat) (s : State) : Outcome State Fault Refusal :=
  if l < 48 then
    if (s.link l).state == .isolated && (s.disc l).reason == 0x50 then .next (s.rediscover l) else .next s
  else .refused .illFormed

end Sys2Proof.Machine
end

