-- ==== Sys2Proof/Machine/Links.lean ====
section
/-! DEFINITION. Link ends (10): flits, acknowledgement, replay and credits (R315 to R325), lane control (R312 to R314, R318),
training and link states (R327, R328, R548, R549), TKL_CTL (R331), port resets (R330). -/

namespace Sys2Proof.Machine

open Host (Outcome)

/-- Lanes of a mask, counted. -/
def width (m : BitVec 16) : Nat := (lanesOf m).length

def State.minLanes (s : State) (l : Nat) : Nat := (s.port (portOf l)).minLanes.toNat

/-! ## RETRAIN (R324, R327, R549) -/

/-- The link enters RETRAIN; its held flits stay, and with them the lane changes that they announce (R318). -/
def State.enterRetrain (s : State) (l : Nat) : State :=
  let s := s.leaveExch l
  let k := s.link l
  if k.state.meets then
    s.setLink l { k with
      state := .retrain
      prior := k.state
      retrains := BitVec.ofNat 4 (satAdd k.retrains.toNat 1 15)
      replays := 0 }
  else s

/-! ## Quarantine and relock (R313, R314, R549) -/

/-- The receiver finds lanes dark or on a wrong line: it quarantines them while MIN_LANES remain, and otherwise the link
retrains, and asks its neighbour to. -/
def State.lanesLost (s : State) (l : Nat) (lanes : BitVec 16) : State :=
  let k := s.link l
  let m := lanes &&& k.rxMask &&& ~~~k.quar
  if !k.state.meets || m == 0 then s
  else if s.minLanes l ≤ width (k.rxMask &&& ~~~k.quar &&& ~~~m) then
    (s.setLink l { k with
      quar := k.quar ||| m
      mislocks := BitVec.ofNat 8 (satAdd k.mislocks.toNat (width m) 0xFF) }).sendSb l 0x05 m.toNat 0
  else (s.sendSb l 0x07 0 0).enterRetrain l

/-- Lanes of a port that are drained, changed over or retrained. -/
def State.busyLanes (s : State) (n : Nat) : BitVec 16 :=
  BitVec.ofNat 16 (bitsOf 16 fun i => ((s.port n).wave i).chg.isSome)

/-- The transmitter removes the lanes and relocks its own modulator rings. A lane that a changeover retrains is its
business (R308). -/
def State.lanesQuar (s : State) (l : Nat) (lanes : BitVec 16) : State :=
  let k := s.link l
  let m := lanes &&& k.txMask &&& ~~~s.busyLanes (portOf l)
  if m = 0 then s
  else (s.setLink l { k with relock := k.relock ||| m, await := k.await ||| m }).laneOutSend l m

/-- A lane whose two ends are ready returns. -/
def State.laneBack (s : State) (l : Nat) (m : BitVec 16) : State :=
  let k := s.link l
  s.laneInSend l (m &&& ~~~k.relock &&& ~~~k.await)

/-- Lanes that the transmitter stripes over, those that a changeover takes out for its time among them; lanes that the
receiver uses (R328). -/
def State.txWidth (s : State) (l : Nat) : Nat := width ((s.link l).txMask ||| BitVec.ofNat 16
  (bitsOf 16 fun i => ((s.port (portOf l)).wave i).busy))
def Link.rxWidth (k : Link) : Nat := width (k.rxMask &&& ~~~k.quar)

/-- Lanes have left service: with fewer than MIN_LANES working ones in a direction the link is BREACHED (R328). -/
def State.widthCheck (s : State) (l : Nat) (tx : Bool) : State :=
  if (if tx then s.txWidth l else (s.link l).rxWidth) < s.minLanes l then (s.breach l 0x35).discCheck else s

/-- A relock ends: of a receive lane, which is reported ready or leaves service, or of a modulator ring. -/
def State.ringDone (s : State) (l i : Nat) (ok : Bool) : State :=
  let k := s.link l
  let m := 1#16 <<< i
  if k.quar.getLsbD i then
    if ok then (s.setLink l { k with quar := k.quar &&& ~~~m }).sendSb l 0x06 m.toNat 0
    else (s.setLink l { k with quar := k.quar &&& ~~~m, rxMask := k.rxMask &&& ~~~m }).widthCheck l false
  else if k.relock.getLsbD i then
    if ok then (s.setLink l { k with relock := k.relock &&& ~~~m }).laneBack l m
    else (s.setLink l { k with relock := k.relock &&& ~~~m, await := k.await &&& ~~~m }).widthCheck l true
  else s

/-- A lane event, at once. -/
def State.laneEvent (s : State) (e : LinkEv) : State :=
  match e with
  | .lost l m => s.lanesLost l m
  | .quar l m => s.lanesQuar l m
  | .relocked l i ok => s.ringDone l i ok

/-- A lane event on a link of port `n`, which waits while a changeover is under way (R308). -/
def State.laneEventOn (s : State) (n : Nat) (e : LinkEv) : State :=
  -- a wrong-line lock on the lane of the changeover belongs to its retrain step
  let e := match e with
    | .quar l m => .quar l (m &&& ~~~s.busyLanes n)
    | e => e
  if s.portBusy n then s.modPort n fun p => { p with events := p.events ++ [e] } else s.laneEvent e

/-- A changeover may have ended: lane events that waited are handled in order, and waiting changeovers start. -/
def State.laserSettle (s : State) : State :=
  let s := (List.range 8).foldl (fun s n =>
    if s.portBusy n then s
    else
      let es := (s.port n).events
      es.foldl State.laneEvent (s.modPort n fun p => { p with events := [] })) s
  State.unitNext 64 (State.unitNext 64 s 0) 1

/-! ## Flits -/

def flitFld (f : Bytes) (lo n : Nat) : Nat := fieldNat (leField f 0 16) lo n

/-- CRC right and nothing reserved (R315, R316). -/
def flitOk (f : Bytes) : Bool := leField f 252 4 == crc32 (f.take 252) && flitFld f 58 70 == 0

/-- Held flits that ACKSEQ passes are freed (R323). -/
def Link.acked (k : Link) (q : BitVec 16) : Link :=
  match k.held with
  | [] => k
  | f :: _ =>
    let n := (q - f.seq).toNat
    if n = 0 ∨ k.held.length < n then k else { k with held := k.held.drop n, replays := 0 }

/-- Every held flit from `q` on is sent again; beyond REPLAY_LIMIT replays the link retrains (R321, R324). -/
def State.linkReplay (s : State) (l : Nat) (q : BitVec 16) : State :=
  let k := s.link l
  let fs := k.held.dropWhile fun f => f.seq != q
  if fs.isEmpty then s
  else
    let s := s.setLink l { k with replays := k.replays + 1, replayCnt := satInc16 k.replayCnt }
    if (s.port (portOf l)).replayLimit.toNat < k.replays + 1 then s.enterRetrain l
    else fs.foldl (fun s f => s.resend l f) s

/-- The header of a good flit: embankment report, acknowledgement, credits, NAK. -/
def State.takeHeader (s : State) (l : Nat) (f : Bytes) : State :=
  let s := s.modLink l fun k => { k with
    emb := Tab.set 0xFF k.emb (flitFld f 46 4) (BitVec.ofNat 8 (flitFld f 50 8))
    spent := Tab.set 0 k.spent (flitFld f 36 2) (Tab.get 0 k.spent (flitFld f 36 2) - flitFld f 38 8) }
  let q := BitVec.ofNat 16 (flitFld f 16 16)
  let s := if flitFld f 32 1 = 1 then s.modLink l fun k => k.acked q else s
  let s := if flitFld f 33 1 = 1 ∧ flitFld f 32 1 = 1 then s.linkReplay l q else s
  (s.flush l).kick

/-- Sideband messages of a reserved KIND. -/
def sbReserved (kind : Nat) : Bool := !(kind == 0 || (decide (1 ≤ kind) && decide (kind ≤ 7))
  || (decide (0x10 ≤ kind) && decide (kind ≤ 0x4F)))

/-- The receive lanes whose markers in an ALIGN payload name another wavelength, for the start that fits best (R312,
R313, R319). -/
def wrongLanes (ws : List Nat) (payload : Bytes) : BitVec 16 :=
  let bad := fun p : Nat => bitsOf 16 fun k => (List.range payload.length).any fun i =>
    ws.getD ((p + i) % max 1 ws.length) 0 == k && (payload.getD i 0).toNat % 16 != k
  let best := (List.range ws.length).foldl (fun (b : Nat) p =>
    if (selectBelow 16 (bad p).testBit).length < (selectBelow 16 b.testBit).length then bad p else b) (bad 0)
  BitVec.ofNat 16 (if ws.isEmpty then 0 else best)

/-- The packets of DATA payloads, the one that began in an earlier flit first, and what of the last is still to come. PAD
ends them (11 R346); its header comes with them. -/
def splitPackets : Nat → Bytes → List Bytes × Bytes
  | 0, _ => ([], [])
  | fuel + 1, b =>
    let n := 16 + fieldNat (leField b 0 16) 60 9
    if b.length < 16 then ([], [])
    else if fieldNat (leField b 0 16) 50 4 = 0 then ([b.take 16], [])
    else if b.length < n then ([], b)
    else
      let r := splitPackets fuel (b.drop n)
      (b.take n :: r.1, r.2)

/-- A packet for this module whose payload is none of the table Fabric packet types. What becomes of it the manual does not
say: it has no effect (assumption 117). -/
def Pkt.misfits (p : Pkt) (me : BitVec 16) : Bool :=
  (p.dst == me || p.dst == 0xFFFF) && match p.type with
    | 1 => !rdOk p
    | 2 => !wrOk p
    | 3 => !wrOk p
    | 4 => !atomOk p
    | 5 => !atomOk p
    | 7 => !p.body.isEmpty
    | 8 => p.body.length != 64
    | _ => false

/-- A packet that a flit has brought: it waits in the receive buffer, or fails its checks (11 R347; 12 R384). Management
packets for this module pass to its firmware. -/
def State.takeBuffered (s : State) (l : Nat) (b : Bytes) : State :=
  let pad := fieldNat (leField b 0 16) 50 4 == 0
  let back := fun s : State => s.sendIdle l (fieldNat (leField b 0 16) 48 2) (unitsOf b)
  let bad := fun s : State => s.modFab fun x => { x with e2e := satInc16 x.e2e }
  if pad then if padOk b then s else bad s
  else match parsePkt b with
    | none => back (bad s)
    | some p =>
      if p.type = 9 ∧ 8 ≤ hFld p.body 0 4 then back (bad s)
      else if p.misfits s.fab.nodeId || (p.type == 10 && p.dst == s.fab.nodeId) then back s
      else s.modLink l fun k => { k with inq := k.inq ++ [(false, b)] }

/-- The content of an accepted flit that the link layer handles: packets enter the receive buffers, discarded sideband
messages are counted, markers checked. What packets and sideband messages do are commands of their own. -/
def State.takeContent (s : State) (l : Nat) (f : Bytes) : State :=
  if flitFld f 34 2 = 1 then
    let r := splitPackets 32 ((s.link l).rxPart ++ slice f 16 236)
    r.1.foldl (fun s b => s.takeBuffered l b) (s.modLink l fun k => { k with rxPart := r.2 })
  else if flitFld f 34 2 = 2 then
    let n := ((List.range 14).filter fun i => sbReserved (leField f (16 + 16 * i) 1)).length
    s.modLink l fun k => { k with sbDrop := BitVec.ofNat 8 (satAdd k.sbDrop.toNat n 0xFF) }
  else s

/-- The markers of an ALIGN flit, which a lane on a wrong line shows also where the flit fails its CRC (R313). -/
def State.takeMarkers (s : State) (l : Nat) (f : Bytes) : State :=
  if flitFld f 34 2 = 3 then
    let m := wrongLanes (lanesOf (s.link l).rxMask) (slice f 16 236)
    if m = 0 then s else s.laneEventOn (portOf l) (.lost l m)
  else s

/-- The bytes after a received flit, one for each codeword that holds bytes of it: its wrong symbols in bits 6 to 0, 127
for more, and in bit 7 whether this is its first flit (assumption 124). -/
def codewords (f : Bytes) : List (Nat × Bool) := (f.drop 256).map fun b => (b.toNat % 128, b.getLsbD 7)

/-- Codewords that hold bytes of a flit: the symbol errors of each, and whether this is its first flit. Corrected symbols
and uncorrectable codewords are counted, each once (R320). -/
def Link.takeFec (k : Link) (cw : List (Nat × Bool)) : Link :=
  let new := cw.filter Prod.snd
  let sum := (new.filter fun c => decide (c.1 ≤ 4)).foldl (fun a c => a + c.1) 0
  { k with
    fecCorr := BitVec.ofNat 48 (satAdd k.fecCorr.toNat sum (2 ^ 48 - 1))
    fecUncorr := BitVec.ofNat 12 (satAdd k.fecUncorr.toNat (new.filter fun c => decide (4 < c.1)).length 0xFFF) }

/-- A flit arrives (R316, R320 to R322). A good IDLE flit's header is always taken (assumption 49). -/
def State.takeFlit (s : State) (l : Nat) (f : Bytes) (cw : List (Nat × Bool)) : State :=
  let hit := s.perturbBy 5 4 fun p => p % 128 == l + 64
  let s := hit.2.modLink l fun k => k.takeFec cw
  let k := s.link l
  let bad := !flitOk f || hit.1.isSome || cw.any fun c => decide (4 < c.1)
  let s := if bad then s.setLink l { k with crcErr := satInc16 k.crcErr } else s
  if flitFld f 34 2 = 0 then if bad then s else s.takeHeader l f
  else if !bad && flitFld f 0 16 == k.rxNext.toNat then
    let s := s.modLink l fun k => { k with rxNext := k.rxNext + 1, nakked := false, nakDue := false }
    (((s.takeHeader l f).takeContent l f).takeMarkers l f).sendIdle l 0 0
  else
    let s := if bad then s.takeMarkers l f else s
    if k.nakked then s else (s.modLink l fun k => { k with nakked := true, nakDue := true }).sendIdle l 0 0

/-- The link receives flits. -/
def LState.hears (x : LState) : Bool := x.meets || x == .align

def execFlitReceive (l : Nat) (f : Bytes) (s : State) : Outcome State Fault Refusal :=
  if l < 48 ∧ 256 ≤ f.length ∧ f.length ≤ 288 then
    if (s.link l).state.hears then .next (s.takeFlit l (f.take 256) (codewords f)) else .next s
  else .refused .illFormed

def execFlitNakRepeat (l : Nat) (s : State) : Outcome State Fault Refusal :=
  if l < 48 then
    if (s.link l).state.hears && (s.link l).nakked then
      .next ((s.modLink l fun k => { k with nakDue := true }).sendIdle l 0 0)
    else .next s
  else .refused .illFormed

/-! ## Lane control messages (R318, R326) -/

/-- The 32nd slot: the first pending change of a direction takes effect; too few lanes left breach the link (R328). -/
def State.laneSet (s : State) (l : Nat) (tx : Bool) : State :=
  let k := s.link l
  match k.changes.find? fun c => c.tx == tx with
  | none => s
  | some c =>
    let k := { k with changes := k.changes.erase c }
    let k := if tx then { k with txMask := if c.add then k.txMask ||| c.lanes else k.txMask &&& ~~~c.lanes }
      else { k with
        rxMask := if c.add then k.rxMask ||| c.lanes else k.rxMask &&& ~~~c.lanes
        quar := if c.add then k.quar &&& ~~~c.lanes else k.quar }
    let s := s.setLink l k
    let s := if tx then s.newStream l else s
    if c.add then s else s.widthCheck l tx

def execLaneSetChange (l : Nat) (tx : Bool) (s : State) : Outcome State Fault Refusal :=
  if l < 48 then
    if (s.link l).state.meets then .next (s.laneSet l tx) else .next s
  else .refused .illFormed

/-- A sideband message of the link arrives. -/
def onSideband (l : Nat) (s : State) (f : State → State) : Outcome State Fault Refusal :=
  if l < 48 then
    if (s.link l).state.meets then .next (f s) else .next s
  else .refused .illFormed

/-- LANE_OUT or LANE_IN of the neighbour: the receive set changes at the 32nd slot; it is acknowledged. -/
def State.laneMsg (s : State) (l : Nat) (add : Bool) (mseq : BitVec 8) (lanes : BitVec 16) : State :=
  let s := s.modLink l fun k => { k with changes := k.changes ++ [⟨false, add, lanes⟩] }
  s.sendSbEcho l (if add then 0x04 else 0x02) lanes.toNat mseq

def execLaneOut (l : Nat) (mseq : BitVec 8) (lanes : BitVec 16) (s : State) : Outcome State Fault Refusal :=
  onSideband l s fun s => s.laneMsg l false mseq lanes

def execLaneIn (l : Nat) (mseq : BitVec 8) (lanes : BitVec 16) (s : State) : Outcome State Fault Refusal :=
  onSideband l s fun s => s.laneMsg l true mseq lanes

/-- The changeovers of lanes that the neighbour names take notice. -/
def State.heardLanes (s : State) (l : Nat) (lanes : BitVec 16) (st : ChgStage) : State :=
  ((lanesOf lanes).foldl (fun s k => s.chgHeard l k st) s).laserSettle

def execLaneOutAck (l : Nat) (_mseq : BitVec 8) (lanes : BitVec 16) (s : State) : Outcome State Fault Refusal :=
  onSideband l s fun s => s.heardLanes l lanes .drain

def execLaneInAck (l : Nat) (_mseq : BitVec 8) (lanes : BitVec 16) (s : State) : Outcome State Fault Refusal :=
  onSideband l s fun s => s.heardLanes l lanes .restore

def execLaneQuar (l : Nat) (_mseq : BitVec 8) (lanes : BitVec 16) (s : State) : Outcome State Fault Refusal :=
  onSideband l s fun s => s.laneEventOn (portOf l) (.quar l lanes)

/-- The far end's lanes are ready: a changeover's, or those that this end removed on LANE_QUAR. -/
def execLaneReady (l : Nat) (_mseq : BitVec 8) (lanes : BitVec 16) (s : State) : Outcome State Fault Refusal :=
  onSideband l s fun s =>
    let m := lanes &&& (s.link l).await
    let s := s.modLink l fun k => { k with await := k.await &&& ~~~m }
    (s.laneBack l m).heardLanes l lanes .relock

def execRetrainReq (l : Nat) (s : State) : Outcome State Fault Refusal := onSideband l s fun s => s.enterRetrain l

/-- Loss of signal: too large a loss is acted on at once, a smaller one is a lane event (R308, R549). -/
def execLaneLossOfSignal (l : Nat) (lanes : BitVec 16) (s : State) : Outcome State Fault Refusal :=
  onSideband l s fun s =>
    let k := s.link l
    if width (k.rxMask &&& ~~~k.quar &&& ~~~lanes) < s.minLanes l then s.lanesLost l lanes
    else s.laneEventOn (portOf l) (.lost l lanes)

def execRingRelockDone (l k : Nat) (ok : Bool) (s : State) : Outcome State Fault Refusal :=
  if l < 48 ∧ k < 16 then
    if (s.link l).state.meets || (s.link l).state == .retrain then .next (s.laneEventOn (portOf l) (.relocked l k ok))
    else .next s
  else .refused .illFormed

/-- The dither loop holds each ring on its line: heater values are no part of the state (R311). -/
def execRingDither (s : State) : Outcome State Fault Refusal := .next s

/-- The far end of a changeover: lane k is retrained on its new source and its marker is right (R303). -/
def execLaneRetrained (l k : Nat) (ok : Bool) (s : State) : Outcome State Fault Refusal :=
  if l < 48 ∧ k < 16 then
    if ok && (s.link l).state.meets && !(s.link l).rxMask.getLsbD k then .next (s.sendSb l 0x06 (2 ^ k) 0) else .next s
  else .refused .illFormed

/-- A lane in service is measured; flit headers report the value (R299). -/
def execEmbankmentMeasure (l k : Nat) (emb : BitVec 8) (s : State) : Outcome State Fault Refusal :=
  if l < 48 ∧ k < 16 then
    if (s.link l).rxMask.getLsbD k then
      .next (s.modLink l fun x => { x with rxEmb := Tab.set 0xFF x.rxEmb k emb })
    else .next s
  else .refused .illFormed

/-! ## Training (R327, R328, R548) -/

/-- A link begins to train: sequence numbers, credits and lane sets start afresh. -/
def State.toLight (s : State) (l : Nat) : State :=
  s.modLink l fun k => { k.emptied with
    state := .light
    retry := false
    txMask := 0
    rxMask := 0
    txNext := 0
    rxNext := 0
    emb := []
    rxEmb := [] }

/-- A link that waits in OFF and whose port has GO 1. -/
def State.waitsOff (s : State) (l : Nat) : Bool :=
  (s.link l).state == .off && (s.link l).retry && (s.port (portOf l)).go

def execLinkOffRetry (l : Nat) (s : State) : Outcome State Fault Refusal :=
  if l < 48 then
    if s.waitsOff l then .next (s.toLight l) else .next s
  else .refused .illFormed

def execLinkLightDetect (l : Nat) (s : State) : Outcome State Fault Refusal :=
  if l < 48 then
    if s.waitsOff l then .next (s.toLight l) else .next s
  else .refused .illFormed

def execLinkLightDone (l : Nat) (s : State) : Outcome State Fault Refusal :=
  if l < 48 then
    if (s.link l).state = .light then .next (s.modLink l fun k => { k with state := .train }) else .next s
  else .refused .illFormed

/-- Lanes of the port that have a source in service (R304). -/
def State.lit (s : State) (l : Nat) : BitVec 16 :=
  BitVec.ofNat 16 (bitsOf 16 fun k =>
    let w := (s.port (portOf l)).wave k
    !w.retired && !w.chg.any fun c => c.stage == .settle || c.stage == .relock)

/-- A link comes into service while lanes of its port are drained or changed over: it drains its lane as the other links
do, or takes part in the lane's return (R303, R304). `was` are the lanes that it had. -/
def State.chgJoin (s : State) (l : Nat) (was : BitVec 16) : State :=
  (List.range 16).foldl (fun s k =>
    let b := 1#6 <<< (l % 6)
    match ((s.port (portOf l)).wave k).chg with
    | none => s
    | some c =>
      let join := fun links => s.modWave (portOf l) k fun w => { w with chg := some { c with all := c.all ||| b, links := links } }
      if !was.getLsbD k || c.all &&& b ≠ 0 then s
      else match c.stage with
        | .drain => (join (c.links ||| b)).laneOutSend l (1#16 <<< k)
        | .settle => join c.links
        | .relock => join (c.links ||| b)
        | .restore => s) s

/-- Lanes `tx` and `rx` pass TRAIN; with too few of them the link stays until its maximum time. -/
def execLinkTrainDone (l : Nat) (tx rx : BitVec 16) (s : State) : Outcome State Fault Refusal :=
  if l < 48 then
    let tx := tx &&& s.lit l
    if (s.link l).state = .train ∧ s.minLanes l ≤ width tx ∧ s.minLanes l ≤ width rx then
      .next (s.modLink l fun k => { k with state := .align, txMask := tx, rxMask := rx })
    else .next s
  else .refused .illFormed

/-- The link enters EXCH, and with GO set begins discovery (11 R338). -/
def execLinkAlignDone (l : Nat) (s : State) : Outcome State Fault Refusal :=
  if l < 48 then
    if (s.link l).state = .align then
      let was := (s.link l).txMask
      let s := (s.enterExch l false).newStream l
      let s := (s.modLink l fun k => { k with txMask := k.txMask &&& s.lit l }).chgJoin l was
      if s.fab.go then .next (s.sendRecord l false) else .next s
    else .next s
  else .refused .illFormed

/-- A retrain succeeds with lanes `tx` and `rx`: the link goes back to where it was, and resends its held flits; what has
waited goes after them, and discovery that was asked for meanwhile runs (11 R342). -/
def execLinkRetrainDone (l : Nat) (tx rx : BitVec 16) (s : State) : Outcome State Fault Refusal :=
  if l < 48 then
    let k := s.link l
    let tx := tx &&& k.txMask &&& s.lit l
    let rx := rx &&& k.rxMask
    if k.state = .retrain ∧ s.minLanes l ≤ width tx ∧ s.minLanes l ≤ width rx then
      let s := (s.setLink l { k with
        state := k.prior
        txMask := tx
        rxMask := rx
        nakked := false
        nakDue := false }).newStream l
      let s := k.held.foldl (fun s f => s.resend l f) s
      let s := ((s.flush l).chgJoin l k.txMask).discCheck.kick
      .next (if (s.disc l).again then (s.modDisc l fun d => { d with again := false }).rediscover l else s)
    else .next s
  else .refused .illFormed

/-- LIGHT, TRAIN or ALIGN exceeds its maximum: back to OFF, to try again. -/
def execLinkStageTimeout (l : Nat) (s : State) : Outcome State Fault Refusal :=
  if l < 48 then
    if [LState.light, .train, .align].contains (s.link l).state then
      .next (s.modLink l fun k => { k.emptied with state := .off, retry := true, txMask := 0, rxMask := 0 }).discCheck
    else .next s
  else .refused .illFormed

def execLinkRetrainTimeout (l : Nat) (s : State) : Outcome State Fault Refusal :=
  if l < 48 then
    if (s.link l).state = .retrain then .next ((s.breach l 0x34).discCheck) else .next s
  else .refused .illFormed

/-! ## Commands of the lasers (R301 to R310) -/

def execLaserSample (s : State) : Outcome State Fault Refusal := .next s.laserSample.laserSettle

def execChangeoverTimeout (n k : Nat) (s : State) : Outcome State Fault Refusal :=
  if n < 8 ∧ k < 16 then .next (s.chgRevert n k).laserSettle else .refused .illFormed

/-- A dark wavelength is changed over or retired at once (R310). -/
def execSourceOutputLost (n k : Nat) (s : State) : Outcome State Fault Refusal :=
  if n < 8 ∧ k < 16 then
    if (s.port n).lit && !((s.port n).wave k).busy then .next (s.chgDue n k).laserSettle else .next s
  else .refused .illFormed

def execBiasLoop (limit : List (Nat × Nat)) (s : State) : Outcome State Fault Refusal :=
  .next ((List.range 128).foldl (fun s i => State.biasWave limit s (i / 16) (i % 16)) s)

/-- FORCE_CHG is Expert: while the port is locked the write is ignored (13 R438). -/
def execTklWaveForceChg (n k : Nat) (s : State) : Outcome State Fault Refusal :=
  if n < 8 ∧ k < 16 then
    if (s.port n).unlocked then .next (s.chgDue n k).laserSettle else .next s
  else .refused .illFormed

/-- The spare's line settles, or does not (R303, R308). -/
def execSpareLineSettled (n k : Nat) (ok : Bool) (s : State) : Outcome State Fault Refusal :=
  if n < 8 ∧ k < 16 then
    match ((s.port n).wave k).chg with
    | some c =>
      if c.stage ≠ .settle then .next s
      else .next (if ok then s.chgSettled n k else s.chgRevert n k).laserSettle
    | none => .next s
  else .refused .illFormed

/-! ## TKL_CTL and LAS_CTL (R331, R440) -/

/-- The reason why the port refuses GO. -/
def Port.refuse (p : Port) : Option (BitVec 8) :=
  if p.replayLimit = 0 then some 0x30
  else if p.minLanes.toNat < 12 ∨ 16 < p.minLanes.toNat then some 0x31
  else if p.embHold.toNat ≤ p.embChg.toNat then some 0x32
  else if p.biasChg.toNat < 50 ∨ 95 < p.biasChg.toNat then some 0x33
  else none

/-- A write of TKL_CTL. -/
def State.writeTklCtl (s : State) (n : Nat) (w : BitVec 32) : State :=
  let was := (s.port n).go
  let s := s.modPort n fun p => { p with
    replayLimit := if p.go then p.replayLimit else w.extractLsb' 8 8
    minLanes := if p.go || !p.unlocked then p.minLanes else w.extractLsb' 16 5 }
  if w.getLsbD 0 then
    if was then s
    else match (s.port n).refuse with
      | some r => s.modPort n fun p => { p with reason := r }
      | none =>
        let s := s.modPort n fun p => { p with go := true }
        -- ports stay out of service until the reset that ends a stop of the module (09 R283)
        if s.dev.stopped then s else (List.range 6).foldl (fun s i => if (s.link (6 * n + i)).state = .off then s.toLight (6 * n + i) else s) s
  else if was then
    let s := s.modPort n fun p => { p with go := false }
    if s.dev.stopped then s else (s.portReset n).laserSettle.discCheck
  else s

/-- A write of LAS_CTL; it has no GO of its own and follows the port's. -/
def State.writeLasCtl (s : State) (n : Nat) (w : BitVec 32) : State :=
  s.modPort n fun p => if p.go then p else { p with
    embHold := w.extractLsb' 0 8
    embChg := w.extractLsb' 8 8
    biasChg := w.extractLsb' 16 7
    autoChg := if p.unlocked then w.getLsbD 23 else p.autoChg }

def execTklCtlGoSet (n : Nat) (w : BitVec 32) (s : State) : Outcome State Fault Refusal :=
  if n < 8 ∧ w.getLsbD 0 = true then .next (s.writeTklCtl n w) else .refused .illFormed

/-- A port reset by hub firmware. -/
def execPortReset (n : Nat) (s : State) : Outcome State Fault Refusal :=
  if n < 8 then .next (if s.dev.stopped then s else (s.portReset n).laserSettle.discCheck) else .refused .illFormed

/-- TKL_CTL. -/
def Port.ctlWord (p : Port) : Nat := b2n p.go + p.replayLimit.toNat * 2 ^ 8 + p.minLanes.toNat * 2 ^ 16

/-- LAS_CTL. -/
def Port.lasWord (p : Port) : Nat :=
  p.embHold.toNat + p.embChg.toNat * 2 ^ 8 + p.biasChg.toNat * 2 ^ 16 + b2n p.autoChg * 2 ^ 23

/-- TKL_STATUS. -/
def State.tklStatus (s : State) (n : Nat) : Nat :=
  bitsOf 6 (fun i => (s.link (6 * n + i)).state == .active) + s.entriesUsed n * 2 ^ 8 + (s.port n).reason.toNat * 2 ^ 24

/-- TKL_LINK_ERR. -/
def Link.errWord (k : Link) : Nat :=
  k.crcErr.toNat + k.replayCnt.toNat * 2 ^ 16 + k.fecUncorr.toNat * 2 ^ 32 + k.mislocks.toNat * 2 ^ 44
    + k.retrains.toNat * 2 ^ 52 + k.sbDrop.toNat * 2 ^ 56

/-- The 8 bytes at offset `off` of port n's block. -/
def State.tklReg (s : State) (n off : Nat) : Nat :=
  let p := s.port n
  if off = 0 then p.ctlWord
  else if off = 8 then p.lasWord
  else if off = 0x10 then s.tklStatus n
  else if 0x100 ≤ off ∧ off < 0x1C0 then
    let k := s.link (6 * n + (off - 0x100) / 0x20)
    match off % 0x20 with
    | 0 => k.statusWord
    | 8 => k.errWord
    | 0x10 => k.fecCorr.toNat
    | _ => 0
  else if 0x200 ≤ off ∧ off < 0x300 ∧ off % 16 = 0 then (p.wave ((off - 0x200) / 16)).word
  else if off = 0xFF8 then b2n p.unlocked * 2 ^ 16
  else 0

end Sys2Proof.Machine
end

