-- ==== Sys2Proof/Machine/MemCmds.lean ====
section
/-! DEFINITION. What the scratchpad banks and the LPDDR controllers do on their own (08 R240, R249 to R265). -/

namespace Sys2Proof.Machine

open Host (Outcome)

/-! ## Scratchpad -/

/-- The corrected word is written back unless a store has written it since (R240). -/
def execSpadEccWriteback (c word : Nat) (s : State) : Outcome State Fault Refusal :=
  if c < s.lcores ∧ word < spadSize / 8 then
    let w := spadAddr c 0 / 8 + word
    if Tab.get 0 s.mem.wordErr w = 2 then .next (s.setWordMark w 0) else .next s
  else .refused .illFormed

/-! ## Sector requests -/

/-- What an LPDDR check newly finds: marks of the sector and of its group, or a link correction (R252). -/
def State.findErr (s : State) (sec : Nat) (e : EccFind) : State :=
  let mark := fun v : Nat =>
    { s with mem := { s.mem with secErr := Tab.set 0 s.mem.secErr sec (Tab.get 0 s.mem.secErr sec ||| v) } }
  let grp := fun v : Nat =>
    { s with mem := { s.mem with grpErr := Tab.set 0 s.mem.grpErr (sec / 15) (max v (Tab.get 0 s.mem.grpErr (sec / 15))) } }
  match e with
  | .clean => s
  | .single => mark 1
  | .double => mark 2
  | .tag => mark 4
  | .eccSingle => grp 1
  | .eccDouble => grp 2
  | .link => s.modLpd (sec * 32 / s.lpdZ) fun l => { l with link := BitVec.ofNat 16 (satAdd l.link.toNat 1 0xFFFF) }

/-- Performs a store or atomic part of an external request on memory of this module. -/
def State.performPart (s : State) (c cls : Nat) (p : Part) : Part × State :=
  let r : Except (BitVec 8) Bytes × State := match s.placeOf p.addr p.len with
    | .error e => (.error e, s)
    | .ok pl => match p.op with
      | .rd => s.readPlace pl p.len cls
      | .wr d => match s.writePlace pl d cls with
        | (.ok _, s) => (.ok [], s)
        | (.error e, s) => (.error e, s)
      | .atom aop w v cmp => s.atomPlace pl aop w v.toNat cmp.toNat (if cls = 0 then 4 else cls)
  match r with
  | (.ok d, s) => ({ p with res := some d }, s)
  | (.error e, s) =>
    let d := s.destVal c p.addr
    ({ p with err := some (e, d.1) }, d.2)

/-- A part that its controller has not served. -/
def Part.pending (p : Part) : Bool := p.node.isNone && p.res.isNone && p.err.isNone

/-- The part's place is LPDDR memory of this module. -/
def State.inLpd (s : State) (p : Part) : Bool := decide (p.addr < s.lpdTop)

/-- Changes every outstanding part of core `c`. -/
def State.mapParts (s : State) (c : Nat) (f : Part → Part) : State :=
  (List.range 32).foldl (fun s t => s.modThread c t fun th =>
    { th with reqs := th.reqs.map fun r => { r with parts := r.parts.map f } }) s

/-- The load parts of sector request `sid` share one read of the sector: each takes its bytes, or the error of its words
(R248, R252). -/
def State.serveLoads (s : State) (c cls sid : Nat) : State :=
  let mine := fun p : Part => p.sid == sid && p.pending && p.op == .rd
  match (s.coreParts c).find? mine with
  | none => s
  | some p =>
    let r : Except (BitVec 8) (Bytes × BitVec 4) × State := match s.placeOf p.addr p.len with
      | .error e => (.error e, s)
      | .ok pl => s.readSector pl (p.addr % 32 / 8) cls
    let d := r.2.destVal c p.addr
    d.2.mapParts c fun q =>
      if mine q then
        match r.1 with
        | .error e => { q with err := some (e, d.1) }
        | .ok x => match q.take x with
          | some b => { q with res := some b, snap := some x }
          | none => { q with err := some (cEcc, d.1) }
      else q

/-- Serves the stores and atomics of sector request `sid`. -/
def State.servePartsFrom (c cls sid : Nat) : State → List Part → List Part × State
  | s, [] => ([], s)
  | s, p :: ps =>
    if p.sid = sid ∧ p.pending then
      let r := s.performPart c cls p
      let q := State.servePartsFrom c cls sid r.2 ps
      (r.1 :: q.1, q.2)
    else
      let q := State.servePartsFrom c cls sid s ps
      (p :: q.1, q.2)

/-- The same for the requests of a thread. -/
def State.serveReqsFrom (c cls sid : Nat) : State → List Req → List Req × State
  | s, [] => ([], s)
  | s, r :: rs =>
    let a := State.servePartsFrom c cls sid s r.parts
    let q := State.serveReqsFrom c cls sid a.2 rs
    ({ r with parts := a.1 } :: q.1, q.2)

/-- Serves sector request `sid` of core `c`, whichever threads hold it. -/
def State.serveSid (s : State) (c cls sid : Nat) : State :=
  (List.range 32).foldl (fun s t =>
    let th := s.thread c t
    if th.reqs.any fun r => r.parts.any fun p => p.sid == sid && p.pending then
      let r := State.serveReqsFrom c cls sid s th.reqs
      r.2.setThread c t { r.2.thread c t with reqs := r.1 }
    else s) (s.serveLoads c cls sid)

/-! ## Order within a thread (R77) -/

/-- Two parts touch a byte in common. -/
def State.partsMeet (s : State) (p q : Part) : Bool :=
  let a := s.canon p.addr
  let b := s.canon q.addr
  p.node.isNone && q.node.isNone && decide (a < b + q.len) && decide (b < a + p.len)

/-- An earlier access of the thread to the same bytes is still to be performed, one of the two a store (R77). -/
def State.blocked (s : State) (th : Thread) (r : Req) : Bool :=
  th.reqs.any fun q => decide (q.id < r.id) && q.parts.any fun x => x.pending && r.parts.any fun y =>
    y.pending && (x.op != .rd || y.op != .rd) && s.partsMeet x y

/-- Sector request `sid` of core `c` waits: a thread that takes part in it has an earlier access to perform first. -/
def State.sidBlocked (s : State) (c sid : Nat) : Bool :=
  (List.range 32).any fun t =>
    let th := s.thread c t
    th.reqs.any fun r => (r.parts.any fun p => p.sid == sid && p.pending) && s.blocked th r

/-! ## Channel arbitration (R249) -/

/-- All open LPDDR parts, with their cores. -/
def State.openParts (s : State) : List (Nat × Part) :=
  s.threads.flatMap fun e =>
    (e.2.reqs.flatMap fun r => r.parts.filter fun p => p.pending && s.inLpd p).map fun p => (e.1 / 32, p)

/-- A sector request at a channel controller. -/
structure SecReq where
  sid : Nat
  sector : Nat
  write : Bool
  time : Nat
  deriving DecidableEq, Repr

/-- The requests that have reached channel `ch` of die `d`, oldest first (assumption 112). -/
def State.chanQueue (s : State) (d ch : Nat) : List SecReq :=
  let here := s.openParts.filter fun x =>
    let l := s.lpdLoc x.2.addr
    l.die == d && l.chan == ch && s.pathUp (s.dieOf x.1) x.2.addr && !s.sidBlocked x.1 x.2.sid
      && (s.lineAt x.2.addr x.2.len).isNone
  ((here.map fun x => (⟨x.2.sid, x.2.addr / 32, x.2.op != .rd, x.2.time⟩ : SecReq)).eraseDups).insertionSort
    fun x y => x.sid ≤ y.sid

/-- The data rate in MT/s; MCLK runs at an eighth of it. -/
def Lpd.mts (l : Lpd) : Nat :=
  match l.rateNow.toNat with
  | 0 => 6400
  | 1 => 7500
  | 2 => 8533
  | _ => 9600

/-- The bank of a place, in its channel. -/
def LpdLoc.bankKey (l : LpdLoc) : Nat := l.chan * 32 + l.rank * 16 + l.bg * 4 + l.ba

/-- The sector lies in the row that its bank has open. -/
def State.rowHit (s : State) (sec : Nat) : Bool :=
  let l := s.lpdLoc (sec * 32)
  Tab.get 0 (s.die l.die).lpd.rows l.bankKey == l.row + 1

/-- Whether a channel drains its writes: from 48 entries down to 16. -/
def drains (was : Bool) (writes : Nat) : Bool := decide (48 ≤ writes) || (was && decide (16 < writes))

/-- The request that the channel serves next among `q`, its requests with the oldest first: the queues hold 64 each; none
passes an earlier request to its sector; aged ones go first, then reads or, while draining, writes, then row hits
(R249). -/
def pickSector (drain : Bool) (aged hit : SecReq → Bool) (q : List SecReq) : Option SecReq :=
  let rs := (q.filter fun x => !x.write).take 64
  let ws := (q.filter SecReq.write).take 64
  let ok := fun x : SecReq => !q.any fun y => decide (y.sid < x.sid) && y.sector == x.sector
  let can := (q.filter fun x => rs.contains x || ws.contains x).filter ok
  let one := can.filter fun x => x.write == drain
  let side := if one.isEmpty then can else one
  match can.find? aged with
  | some x => some x
  | none => match side.find? hit with
    | some x => some x
    | none => side.head?

/-- The sector request that channel `ch` of die `d` serves next. -/
def State.nextSector (s : State) (d ch : Nat) : Option Nat :=
  let l := (s.die d).lpd
  let q := s.chanQueue d ch
  (pickSector (drains (l.drain.getLsbD ch) ((q.filter SecReq.write).take 64).length)
    (fun x => decide (400 * l.ageMax.toNat ≤ (s.ticks - x.time) * l.mts)) (fun x => s.rowHit x.sector) q).map SecReq.sid

/-- The controller's own state as it serves sector `sec`: the row opens, the drain begins or ends. -/
def State.openRow (s : State) (sec : Nat) : State :=
  let l := s.lpdLoc (sec * 32)
  let n := (((s.chanQueue l.die l.chan).filter SecReq.write).take 64).length
  s.modLpd l.die fun x => { x with
    rows := Tab.set 0 x.rows l.bankKey (l.row + 1)
    drain := if drains (x.drain.getLsbD l.chan) n then x.drain ||| (1#24 <<< l.chan) else x.drain &&& ~~~(1#24 <<< l.chan) }

/-- The controller serves sector request `id`, when it is the next of its channel (R249, R252 to R255). -/
def execLpddrSectorAccess (id : Nat) (e : EccFind) (s : State) : Outcome State Fault Refusal :=
  match s.openParts.find? fun x => x.2.sid == id with
  | none => .next s
  | some (c, p) =>
    match s.lineAt p.addr p.len with
    | some x => .next (s.lineWait x)
    | none =>
      let l := s.lpdLoc p.addr
      if s.nextSector l.die l.chan = some id then
        .next (((s.openRow (p.addr / 32)).findErr (p.addr / 32) e).serveSid c 0 id)
      else .next s

/-! ## Controllers on their own -/

/-- A write to the sector waits at its controller. -/
def State.writeQueued (s : State) (sector : Nat) : Bool :=
  s.openParts.any fun x => x.2.op != .rd && x.2.addr / 32 == sector

/-- The corrected sector is written back unless a write was queued since (R253). -/
def execLpddrEccWriteback (sector : Nat) (s : State) : Outcome State Fault Refusal :=
  if sector < s.lpdTop / 32 then
    let m := Tab.get 0 s.mem.secErr sector
    if m.testBit 3 && s.writeQueued sector then
      .next { s with mem := { s.mem with secErr := Tab.set 0 s.mem.secErr sector (m &&& 7) } }
    else if m.testBit 3 then
      let g := Tab.get 0 s.mem.grpErr (sector / 15)
      .next { s with mem := { s.mem with
        secErr := Tab.set 0 s.mem.secErr sector (m &&& 6)
        grpErr := if g = 1 then Tab.set 0 s.mem.grpErr (sector / 15) 0 else s.mem.grpErr } }
    else .next s
  else .refused .illFormed

/-- A remap copy ends: the entry becomes ACTIVE (R258). -/
def execRowRemapCopyDone (die ch k : Nat) (s : State) : Outcome State Fault Refusal :=
  if die < 4 ∧ ch < 24 ∧ k < 512 then
    let e := (s.die die).lpd.ent ch k
    if e.valid && e.st == 0 then
      .next (s.modLpd die fun l => { l with remap := Tab.set RemapEnt.init l.remap (ch * 512 + k) { e with st := 1 } })
    else .next s
  else .refused .illFormed

/-- The journal holds the row, not yet repaired. -/
def JournalRow.holds (die ch row : Nat) (j : JournalRow) : Bool :=
  j.die == die && j.ch == ch && j.ent.rowKey == row && j.mark != .repaired

/-- Hub firmware appends an entry whose copy has completed to the remap journal (R259). -/
def execRemapJournalAppend (die ch k : Nat) (s : State) : Outcome State Fault Refusal :=
  if die < 4 ∧ ch < 24 ∧ k < 512 then
    let e := (s.die die).lpd.ent ch k
    if e.valid && e.st == 1 && !s.remapJournal.any (JournalRow.holds die ch e.rowKey) then
      .next { s with remapJournal := s.remapJournal ++ [⟨die, ch, e, .entered⟩] }
    else .next s
  else .refused .illFormed

/-- Every non-zero count of a row tracker decrements (R257). -/
def execRowTrackerDecay (die ch : Nat) (s : State) : Outcome State Fault Refusal :=
  if die < 4 ∧ ch < 24 then
    .next (s.modLpd die fun l => { l with
      tracker := Tab.set [] l.tracker ch ((Tab.get [] l.tracker ch).map fun t => { t with count := t.count - 1 }) })
  else .refused .illFormed

/-- Patrol scrub reads a sector (R256): an uncorrectable error is logged with class 3 and stops nothing. -/
def execPatrolScrub (sector : Nat) (e : EccFind) (s : State) : Outcome State Fault Refusal :=
  if sector < s.lpdTop / 32 then
    let d := s.die (sector * 32 / s.lpdZ)
    if d.lpd.scrubEn && d.lpd.trained && !d.inReset then .next ((s.findErr sector e).checkSector sector 3).2
    else .next s
  else .refused .illFormed

/-- The WCK-to-DQ check adjusts timing and holds the channel for at most 200 ns (R251): time, which the model leaves
out. -/
def execWckDqCheck (die ch : Nat) (s : State) : Outcome State Fault Refusal :=
  if die < 4 ∧ ch < 24 then .next s else .refused .illFormed

/-! ## LPD_CTL -/

/-- LPD_CTL as read. -/
def Lpd.ctlWord (l : Lpd) : Nat :=
  b2n l.go + l.rate.toNat * 2 + b2n l.scrubEn * 8 + l.scrubHours.toNat * 2 ^ 8 + l.ageMax.toNat * 2 ^ 16

/-- A write of LPD_CTL (R263, R265, R438, R440). Where several checks fail the reason is that of the first in the
manual's order (assumption 36). -/
def Lpd.writeCtl (l : Lpd) (w : BitVec 32) : Lpd :=
  if l.go then { l with go := w.getLsbD 0 }
  else
    let l := { l with
      rate := if l.unlocked then w.extractLsb' 1 2 else l.rate
      scrubEn := w.getLsbD 3
      scrubHours := w.extractLsb' 8 8
      ageMax := if l.unlocked then w.extractLsb' 16 10 else l.ageMax }
    if !w.getLsbD 0 then l
    else if !l.trained then { l with reason := 0x11 }
    else if l.scrubEn && l.scrubHours == 0 then { l with reason := 0x12 }
    else if l.ageMax = 0 then { l with reason := 0x13 }
    else if l.thresh = 0 then { l with reason := 0x14 }
    else { l with go := true }

def execLpdCtlGoSet (die : Nat) (w : BitVec 32) (s : State) : Outcome State Fault Refusal :=
  if die < 4 ∧ w.getLsbD 0 = true then
    if (s.die die).inReset then .next s else .next (s.modLpd die fun l => l.writeCtl w)
  else .refused .illFormed

end Sys2Proof.Machine
end

