-- ==== Sys2Proof/Machine/Fabric.lean ====
section
/-! DEFINITION. Fabric packets at a hub (11): forwarding (R346 to R352), accesses of other nodes (R354, R358, R366 to R368),
responses and timeouts (R355 to R357, R369), and the route table (R349). -/

namespace Sys2Proof.Machine

open Host (Outcome)

/-! ## Arrival -/

/-- The output of the hub switch that a packet goes to: a port, 8 for the module's own engines, 9 for none (09 R267). -/
def State.outOf (s : State) (p : Pkt) : Nat :=
  let r := s.routeOf p.dst
  if p.dst = s.fab.nodeId ∨ p.dst = 0xFFFF ∨ p.type = 8 ∨ p.type = 9 then 8
  else if r.inForce then portOf (r.pick p.src p.dst p.eng) else 9

/-- The packets at the input of link `l`, oldest first: its receive buffer, and at the turn-around what the switch has sent
there (R351). -/
def State.inputs (s : State) (l : Nat) : List (Bool × Bytes) :=
  (s.link l).inq ++ if l = 48 then (s.link 48).queue.map fun e => (false, e.2) else []

/-- Whose turn it is among the packets of the VC and output of `p` (09 R267). -/
def State.nextIn (s : State) (l : Nat) (p : Pkt) : Option (Bool × Bytes) :=
  (s.inputs l).find? fun e => match parsePkt e.2 with
    | some q => q.vc == p.vc && s.outOf q == s.outOf p
    | none => false

/-- A packet leaves the input of link `l`. -/
def State.takeOut (s : State) (l : Nat) (b : Bytes) : State :=
  s.modLink l fun k => match k.inq.find? fun e => e.2 == b with
    | some e => { k with inq := k.inq.erase e }
    | none => { k with queue := match k.queue.find? fun e => e.2 == b with
      | some e => if l = 48 then k.queue.erase e else k.queue
      | none => k.queue }

/-- The hub has turned to a packet that cannot go on yet: it stands in the receive buffer until it can. -/
def State.keepIn (s : State) (l : Nat) (b : Bytes) : State :=
  let q := (s.link l).inq
  match q.findIdx? fun e => e.2 == b with
  | some i => s.modLink l fun k => { k with inq := q.set i (true, b) }
  | none => (s.takeOut l b).modLink l fun k => { k with inq := q ++ [(true, b)] }

/-- The packet leaves the receive buffer: its credits return (10 R325). -/
def State.leave (s : State) (l : Nat) (b : Bytes) : State :=
  if (s.link l).state.meets then s.sendIdle l (fieldNat (leField b 0 16) 48 2) (unitsOf b) else s

/-- A command about a packet names bytes of a packet's size, and one that the command is about has a payload of the table
Fabric packet types. -/
def pktFits (l : Nat) (b : Bytes) (want ok : Pkt → Bool) : Bool :=
  decide (l < 49) && decide (16 ≤ b.length) && decide (b.length ≤ 272) && match parsePkt b with
  | some p => !want p || ok p
  | none => true

/-- A packet arrives with the command, or its turn comes at the input where a flit has brought it. At an optical link the
link is ACTIVE; a command about a packet that is not at the head of its queue changes nothing (09 R267). -/
def State.comes (s : State) (l : Nat) (b : Bytes) (p : Pkt) : Bool :=
  match s.nextIn l p with
  | some e => e.2 == b && (s.link l).state != .retrain
  | none => (s.link l).state == .active

/-- The packet is of TYPE `t` and addressed to this node. -/
def State.mine (s : State) (t : Nat) (p : Pkt) : Bool := p.type == t && p.dst == s.fab.nodeId

/-! ## Forwarding (R348 to R350, R352) -/

/-- One hop fewer; a packet without hops left is lost (R350). -/
def State.forward (s : State) (l : Nat) (p : Pkt) : State :=
  if p.ttl = 0 then s.losePacket p else s.routePacket l { p with ttl := p.ttl - 1 }

/-- A packet for another node. -/
def State.transit (s : State) (p : Pkt) : Bool :=
  p.dst != s.fab.nodeId && p.dst != 0xFFFF && p.type != 8 && p.type != 9

/-! ## Accesses of other nodes (R354) -/

/-- The global address of a payload, on this node. -/
def Pkt.addr (p : Pkt) : Nat := leField p.body 0 6

/-- BAR0 offset of TB_TIME. -/
def tbTimeOff : Nat := 0x180010

/-- A remote read; in the register range only TB_TIME answers. -/
def State.remoteRead (s : State) (a n : Nat) : Except (BitVec 8) Bytes × State :=
  match s.placeOf a n with
  | .error e => (.error e, s)
  | .ok (.reg off) =>
    if tbTimeOff ≤ off ∧ off + n ≤ tbTimeOff + 8 then (.ok (slice (toLE 8 s.tb.time.toNat) (off - tbTimeOff) n), s)
    else (.error cAddrInvalid, s)
  | .ok p => s.readPlace p n 2

/-- The core and semaphore of a CORE_SEMSIG register, in a logical core's block or a site's, and whether it takes a write:
not through the site of a locked core, of a diked core, or of a die in reset (13 R419, R420). -/
def State.semsigAt (s : State) (off : Nat) : Option (Nat × Nat × Bool) :=
  let r := off % 0x4000
  let m := (r - 0x800) / 8
  let open? := fun c : Nat => !(s.core c).diked && !(s.die (s.dieOf c)).inReset
  if r < 0x800 ∨ 0xA00 ≤ r ∨ r % 8 ≠ 0 then none
  else if 0x8000000 ≤ off ∧ off < 0x8000000 + s.lcores * 0x4000 then
    let c := (off - 0x8000000) / 0x4000
    some (c, m, open? c)
  else if 0x9000000 ≤ off ∧ off < 0x9000000 + 176 * 0x4000 then
    (s.coreAtSite ((off - 0x9000000) / 0x4000)).map fun c => (c, m, open? c && (s.core c).unlocked)
  else none

/-- A remote write; in the register range only CORE_SEMSIG takes one, of 4 or 8 bytes (13 R416). -/
def State.remoteWrite (s : State) (a : Nat) (d : Bytes) : Except (BitVec 8) Unit × State :=
  match s.placeOf a d.length with
  | .error e => (.error e, s)
  | .ok (.reg off) =>
    match s.semsigAt off with
    | some (c, m, takes) =>
      if d.length = 4 ∨ d.length = 8 then (.ok (), if takes then s.semAdd c m (leField d 0 1) else s)
      else (.error cAddrInvalid, s)
    | none => (.error cAddrInvalid, s)
  | .ok p => s.writePlace p d 2

/-! ## Lines of the remote-atomic unit (R366 to R368) -/

/-- An operation on the `n` bytes from `a` is applied in the unit where it holds their lines: a local access that waits on
one is let in after 4,096 of them. Operations are written through, so that a line written back is no further change. -/
def State.unitCount (s : State) (a n : Nat) : State :=
  let k := s.canon a
  let on := fun l : ALine => decide (k / 64 ≤ l.line) && decide (l.line ≤ (k + (n - 1)) / 64)
  s.modFab fun f => { f with
    lines := (f.lines.map fun l => if on l then { l with waited := l.waited.map (· + 1) } else l).filter fun l =>
      !(on l && decide (4096 ≤ l.waited.getD 0)) }

/-- The unit opens the line of `a`: it reads the 64 bytes, and they go back corrected. With 64 lines held, one gives its
slot up; which, the manual does not say: a free choice. -/
def State.unitOpen (s : State) (a : Nat) : Except (BitVec 8) Unit × State :=
  match s.placeOf (a / 64 * 64) 64 with
  | .error e => (.error e, s)
  | .ok p =>
    match s.readPlace p 64 2 with
    | (.error e, s) => (.error e, s)
    | (.ok d, s) =>
      let s := s.putPlace p d
      let x : ALine := ⟨s.canon a / 64, none⟩
      if s.fab.lines.length < 64 then (.ok (), s.modFab fun f => { f with lines := f.lines ++ [x] })
      else
        let r := s.takeFree
        (.ok (), r.2.modFab fun f => { f with lines := f.lines.eraseIdx ((Config.freeWord r.1).toNat % 64) ++ [x] })

/-! ## Requests (R352, R358, R359, R366) -/

/-- A read is answered by RDRSP. -/
def State.doRd (s : State) (p : Pkt) : State :=
  match s.remoteRead p.addr (leField p.body 8 2) with
  | (.ok d, s) => s.respond p 6 0 d
  | (.error e, s) => s.respond p 6 e []

/-- A write or put is performed. -/
def State.doStore (s : State) (p : Pkt) : BitVec 8 × State :=
  let s := s.unitCount p.addr (p.body.length - 8)
  match s.remoteWrite p.addr (p.body.drop 8) with
  | (.ok _, s) => (0, s)
  | (.error e, s) => (e, s)

def State.doWr (s : State) (p : Pkt) : State :=
  let r := s.doStore p
  r.2.respond p 7 r.1 []

/-- An atomic executes in the remote-atomic unit, which opens its line first. -/
def State.doAtom (s : State) (p : Pkt) : Except (BitVec 8) Bytes × State :=
  let a := p.addr
  let w := leField p.body 9 1
  match s.placeOf a w with
  | .error e => (.error e, s)
  | .ok (.reg _) => (.error cAddrInvalid, s)
  | .ok pl =>
    match if (s.lineAt (s.canon a) w).isSome then (.ok (), s) else s.unitOpen a with
    | (.error e, s) => (.error e, s)
    | (.ok _, s) => (s.unitCount a w).atomPlace pl (leField p.body 8 1) w (leField p.body 16 8) (leField p.body 24 8) 2

/-- A put; a broadcast is performed here, forwarded on the tree, and not acknowledged (R352). -/
def State.doPut (s : State) (l : Nat) (p : Pkt) : State :=
  let r := s.doStore p
  if p.dst ≠ 0xFFFF then r.2.respond p 7 r.1 []
  else if l = 48 then r.2
  else if p.ttl = 0 then if (r.2.bcastLinks l).isEmpty then r.2 else r.2.countDrop
  else r.2.bcastSend l { p with ttl := p.ttl - 1 }

def State.answerAtom (s : State) (p : Pkt) : State :=
  match s.doAtom p with
  | (.ok d, s) => if p.type = 4 then s.respond p 6 0 d else s.respond p 7 0 []
  | (.error e, s) => s.respond p 7 e []

/-! ## Responses (R356, R357, R369) -/

/-- The outstanding request that a response answers: its engine and tag, and a TYPE that takes such a response. -/
def State.answered (s : State) (p : Pkt) : Option FabReq :=
  s.fab.reqs.find? fun q => q.sent && q.eng == p.eng && q.tag.toNat == p.tag
    && (if p.type = 6 then q.type == 1 || q.type == 4 else q.type != 1)

/-- A response ends its request; one without a request is late. -/
def State.takeRsp (s : State) (p : Pkt) : State :=
  match s.answered p with
  | some q => s.endReq q p.body p.status
  | none => s.modFab fun f => { f with late := satInc16 f.late, dead := f.dead.filter (· != p.tag) }

/-! ## Packets at the hub -/

/-- The packet can go on: a transit packet when its entry is in use and the link can take it (R349; 10 R325), an access when
the bundle of the die that it reaches is up, a response when that of its requester is (01 R14). -/
def State.canGo (s : State) (p : Pkt) : Bool :=
  if s.transit p then
    let r := s.routeOf p.dst
    !r.hold && (p.ttl == 0 || !r.inForce || s.linkTakes (r.pick p.src p.dst p.eng) p.vc p.bytes)
  else match p.type with
    | 1 => s.hubPath p.addr
    | 2 => s.hubPath p.addr
    | 3 => s.hubPath p.addr
    | 4 => s.hubPath p.addr
    | 5 => s.hubPath p.addr
    | _ => match s.answered p with
      | some q => s.pilUp (s.reqDie q)
      | none => true

/-- What the hub does with a packet, by its destination and TYPE. -/
def State.serve (s : State) (l : Nat) (p : Pkt) : State :=
  if s.transit p then s.forward l p
  else match p.type with
    | 1 => s.doRd p
    | 2 => s.doWr p
    | 3 => s.doPut l p
    | 4 => s.answerAtom p
    | 5 => s.answerAtom p
    | _ => s.takeRsp p

/-- A packet arrives: one that fails its checks is discarded and counted (R347); `want` says whether the command is
about the packet, `ok` whether its payload is one of the table's. -/
def onPacket (l : Nat) (b : Bytes) (s : State) (want ok : Pkt → Bool) : Outcome State Fault Refusal :=
  if pktFits l b want ok = true then
    match parsePkt b with
    | none =>
      if (s.link l).state = .active then .next ((s.modFab fun x => { x with e2e := satInc16 x.e2e }).leave l b)
      else .next s
    | some p =>
      if !want p || !s.comes l b p then .next s
      else if s.canGo p then .next (((s.takeOut l b).serve l p).leave l b).kick
      else .next (s.keepIn l b)
  else .refused .illFormed

def execFabricForward (l : Nat) (b : Bytes) (s : State) : Outcome State Fault Refusal :=
  onPacket l b s s.transit fun _ => true

def execFabricRd (l : Nat) (b : Bytes) (s : State) : Outcome State Fault Refusal := onPacket l b s (s.mine 1) rdOk

def execFabricWr (l : Nat) (b : Bytes) (s : State) : Outcome State Fault Refusal := onPacket l b s (s.mine 2) wrOk

def execFabricPut (l : Nat) (b : Bytes) (s : State) : Outcome State Fault Refusal :=
  onPacket l b s (fun p => p.type == 3 && (p.dst == s.fab.nodeId || p.dst == 0xFFFF)) wrOk

def execFabricAtom (l : Nat) (b : Bytes) (s : State) : Outcome State Fault Refusal := onPacket l b s (s.mine 4) atomOk

def execFabricAtomn (l : Nat) (b : Bytes) (s : State) : Outcome State Fault Refusal := onPacket l b s (s.mine 5) atomOk

def execFabricRdrsp (l : Nat) (b : Bytes) (s : State) : Outcome State Fault Refusal :=
  onPacket l b s (s.mine 6) fun _ => true

def execFabricAck (l : Nat) (b : Bytes) (s : State) : Outcome State Fault Refusal :=
  onPacket l b s (s.mine 7) fun p => p.body.isEmpty

/-- Packets that the hub has turned to go on when they can, in the order of each input. -/
def State.goOn (s : State) : State :=
  s.links.foldl (fun s e => e.2.inq.foldl (fun s x =>
    match if x.1 then parsePkt x.2 else none with
    | some p => if s.comes e.1 x.2 p && s.canGo p then (((s.takeOut e.1 x.2).serve e.1 p).leave e.1 x.2).kick else s
    | none => s) s) s

/-- A request that a link has carried ends with FABRIC_TIMEOUT (R356). -/
def execFabricTimeout (id : Nat) (s : State) : Outcome State Fault Refusal :=
  match s.fab.reqs.find? fun q => q.id == id && q.sent with
  | some q => .next ((s.modFab fun f => { f with
      timeouts := satInc16 f.timeouts
      dead := f.dead ++ [q.tag.toNat] }).endReq q [] cFabTimeout).kick
  | none => .next s

/-- A line without arrivals for 64 HCLK is written back and unlocked (R368). -/
def execAtomicLineIdleRelease (line : Nat) (s : State) : Outcome State Fault Refusal :=
  .next (s.modFab fun f => { f with lines := f.lines.filter fun l => l.line != line })

/-! ## The route table (R349) -/

/-- DRAIN µs after the change: HOLD clears and the packets that waited are routed. -/
def State.drainEnd (s : State) (n : Nat) : State :=
  let r := Tab.get Route.init s.fab.route n
  if !r.hold then s
  else
    let to? := fun e : Nat × Bytes => leField e.2 0 2 == n
    let wait := s.fab.held.filter to?
    let s := s.modFab fun f => { f with
      route := Tab.set Route.init f.route n { r with hold := false }
      held := f.held.filter fun e => !to? e }
    let s := wait.foldl (fun s e => match parsePkt e.2 with
      | some p => if p.type = 6 ∨ p.type = 7 then s.sendRsp p else s.routePacket e.1 p
      | none => s) s
    s.kick.goOn

/-- FAB_ROUTE as it reads. -/
def Route.word (r : Route) : Nat := r.w.toNat + b2n r.hold * 2 ^ 7

def execFabRouteWrite (n : Nat) (w : BitVec 64) (s : State) : Outcome State Fault Refusal :=
  if n < 0xFFFF then .next (s.writeRoute n w) else .refused .illFormed

def execRouteDrainEnd (n : Nat) (s : State) : Outcome State Fault Refusal :=
  if n < 0xFFFF then .next (s.drainEnd n) else .refused .illFormed

end Sys2Proof.Machine
end

