-- ==== Sys2Proof/Machine/Time.lean ====
section
/-! DEFINITION. The timebase (11 R372 to R376): rack and link time, its registers, and the tick of the module's clocks. -/

namespace Sys2Proof.Machine

open Host (Outcome)

def State.modTb (s : State) (f : Tb → Tb) : State := { s with tb := f s.tb }

/-- TB_STATUS. -/
def Tb.statusWord (t : Tb) : Nat :=
  b2n t.locked + b2n t.holdover * 2 + b2n t.conflict * 4 + b2n t.rackclk * 8 + t.parent.toNat * 2 ^ 4
    + t.hops.toNat * 2 ^ 10 + t.offset.toNat * 2 ^ 16 + t.gmNode.toNat * 2 ^ 32 + t.reason.toNat * 2 ^ 48
    + t.steps.toNat * 2 ^ 56

/-- TB_CTL. -/
def Tb.ctlWord (t : Tb) : Nat := t.source.toNat + b2n t.gm * 4 + b2n t.arm * 8 + b2n t.go * 16

/-- The TIMEBASE notification (15, table Notifications). -/
def State.tbNotify (s : State) : State := s.notify 10 false 0 0 s.tb.statusWord

def Tb.rack (t : Tb) : Bool := t.go && t.source == 1
def Tb.follows (t : Tb) : Bool := t.go && t.source == 2

/-- Time `v` is taken in one step before the first lock; afterwards the counter never steps backward and the difference is
slewed (R372). -/
def Tb.load (t : Tb) (v : BitVec 64) : Tb :=
  if t.everLocked ∧ v.toNat < t.time.toNat then { t with slew := (v.toNat : Int) - t.time.toNat }
  else { t with time := v, slew := 0, steps := BitVec.ofNat 8 (satAdd t.steps.toNat 1 0xFF) }

/-! ## Parents (R374, R375) -/

/-- Announces in force: ACTIVE links, lowest first. -/
def State.announces (s : State) : List (Nat × Announce) :=
  s.activeLinks.filterMap fun l => (Tab.get none s.tb.ann l).map fun a => (l, a)

/-- The announces of the lowest grandmaster ID. -/
def State.heardGm (s : State) : List (Nat × Announce) :=
  let as := s.announces.filter fun e => e.2.locked
  match as with
  | [] => []
  | e :: es =>
    let g := es.foldl (fun m x => min m x.2.gm.toNat) e.2.gm.toNat
    as.filter fun x => x.2.gm.toNat == g

/-- The parent is chosen: least HOPS, then the lowest link. A parent whose announces carry LOCKED 0 is none (R374). -/
def State.chooseParent (s : State) : State :=
  match s.heardGm with
  | [] => s.modTb fun t => { t with hasParent := false }
  | e :: es =>
    let b := es.foldl (fun b x => if x.2.hops.toNat < b.2.hops.toNat then x else b) e
    s.modTb fun t => { t with
      parent := BitVec.ofNat 6 b.1
      hasParent := true
      hops := BitVec.ofNat 6 (satAdd b.2.hops.toNat 1 63)
      gmNode := b.2.gm
      holdover := false }

/-- Two grandmaster IDs are heard: GM_CONFLICT sets, with its notification. -/
def State.checkConflict (s : State) : State :=
  match s.announces with
  | [] => s
  | e :: es =>
    if (es.any fun x => x.2.gm != e.2.gm) && !s.tb.conflict then (s.modTb fun t => { t with conflict := true }).tbNotify
    else s

def execTtAnnounce (l : Nat) (hops : BitVec 6) (locked : Bool) (gm : BitVec 16) (s : State) :
    Outcome State Fault Refusal :=
  if l < 48 then
    if s.tb.follows && (s.link l).state == .active then
      let s := s.modTb fun t => { t with ann := Tab.set none t.ann l (some ⟨hops, locked, gm⟩) }
      .next s.chooseParent.checkConflict
    else .next s
  else .refused .illFormed

/-- The announce of a grandmaster, or of a follower that has a parent; with it goes the TT_SYNC that only its sender can
stamp. -/
def execTtAnnounceSend (s : State) : Outcome State Fault Refusal :=
  let t := s.tb
  if t.go && (t.gm || (t.source == 2 && t.hasParent)) then
    let hops := if t.gm then 0 else t.hops.toNat
    let gm := if t.gm then s.fab.nodeId.toNat else t.gmNode.toNat
    .next (s.activeLinks.foldl (fun s l =>
      (s.sendSb l 0x40 (hops + b2n t.locked * 64) gm).sendSb l 0x41 0 t.time.toNat) s)
  else .next s

/-- A follower begins an exchange with its parent. -/
def execTtExchangeStart (s : State) : Outcome State Fault Refusal :=
  if s.tb.follows && s.tb.hasParent then .next (s.modTb fun t => { t with t1 := none }) else .next s

/-- T1 arrives from the parent and T2 is recorded; the delay request goes out with T3. -/
def execTtSync (l : Nat) (t1 t2 : BitVec 64) (s : State) : Outcome State Fault Refusal :=
  if l < 48 then
    if s.tb.follows && s.tb.hasParent && s.tb.parent.toNat == l && (s.link l).state == .active then
      let s := s.modTb fun t => { t with t1 := some t1, t2 := t2, t3 := t.time }
      .next (s.sendSb l 0x42 0 s.tb.t3.toNat)
    else .next s
  else .refused .illFormed

/-- A delay request is answered with T4 and this module's TB_ASYM. -/
def execTtDreq (l : Nat) (_t3 t4 : BitVec 64) (s : State) : Outcome State Fault Refusal :=
  if l < 48 then
    if (s.link l).state == .active then
      let a := wrapInt 32 (signedNat 16 (Tab.get 0 s.tb.asym l).toNat)
      .next (s.sendSb l 0x43 0 (t4.toNat + a * 2 ^ 64))
    else .next s
  else .refused .illFormed

/-- x / m, rounded down, or up where it is not exact and `up` holds: the manual does not say how its division rounds. -/
def divFree (x : Int) (m : Nat) (up : Bool) : Int := x / (m : Int) + if x % (m : Int) ≠ 0 ∧ up then 1 else 0

/-- Offset o: stepped before the first lock when large, otherwise slewed; LOCKED follows 16 good and 4 bad exchanges. -/
def Tb.correct (t : Tb) (o : Int) : Tb :=
  let sat : Int := max (-32767) (min 32767 o)
  let t := { t with
    offset := BitVec.ofNat 16 (wrapInt 16 sat)
    t1 := none
    good := if o.natAbs ≤ 4 then t.good + 1 else 0
    bad := if 20 < o.natAbs then t.bad + 1 else 0 }
  let t := if 1000 < o.natAbs ∧ t.everLocked = false then
      t.load (BitVec.ofNat 64 (wrapInt 64 ((t.time.toNat : Int) - o)))
    else { t with slew := -o }
  if 16 ≤ t.good then { t with locked := true, everLocked := true }
  else if 4 ≤ t.bad then { t with locked := false } else t

def execTtDresp (l : Nat) (t4 : BitVec 64) (_asym : BitVec 32) (s : State) : Outcome State Fault Refusal :=
  if l < 48 then
    match s.tb.t1 with
    | none => .next s
    | some t1 =>
      if s.tb.follows && s.tb.hasParent && s.tb.parent.toNat == l && (s.link l).state == .active then
        let d1 := signedNat 64 (s.tb.t2 - t1).toNat
        let d2 := signedNat 64 (t4 - s.tb.t3).toNat
        let asym := if 2 ≤ (s.disc l).minor.toNat then signedNat 16 (Tab.get 0 s.tb.asym l).toNat else 0
        let f := s.takeFree
        let g := f.2.takeFree
        let o := divFree (d1 - d2) 2 (Config.freeBool f.1) - divFree asym 2000 (Config.freeBool g.1)
        let was := s.tb.locked
        let s := g.2.modTb fun t => t.correct o
        .next (if was && !s.tb.locked then s.tbNotify else s)
      else .next s
  else .refused .illFormed

/-- The reference is lost: the last correction is kept. -/
def State.enterHoldover (s : State) : State :=
  if s.tb.holdover then s else (s.modTb fun t => { t with holdover := true }).tbNotify

/-- No parent for 3 ms: HOLDOVER, and a new choice among the others heard (R375). -/
def execTimebaseParentLoss (s : State) : Outcome State Fault Refusal :=
  if s.tb.follows then
    let s := s.modTb fun t => { t with
      hasParent := false
      ann := if t.hasParent then Tab.set none t.ann t.parent.toNat none else t.ann }
    .next s.enterHoldover.chooseParent
  else .next s

/-! ## Rack reference (R373, R526, R527) -/

def execStepEdge (s : State) : Outcome State Fault Refusal :=
  if s.tb.rack && s.tb.arm && s.tb.rackclk then
    .next (s.modTb fun t => { t.load t.stepval with arm := false, locked := true, everLocked := true })
  else .next s

def execRackclkLoss (s : State) : Outcome State Fault Refusal :=
  let s := s.modTb fun t => { t with rackclk := false }
  .next (if s.tb.rack then s.enterHoldover else s)

def execRackclkPresent (s : State) : Outcome State Fault Refusal :=
  .next (s.modTb fun t => { t with rackclk := true, holdover := t.holdover && !t.rack })

/-! ## TB_CTL (R376) -/

/-- The reason why the timebase refuses GO. -/
def Tb.refuse (t : Tb) : Option (BitVec 8) :=
  if t.source = 3 then some 0x58
  else if t.gm ∧ t.source = 2 then some 0x59
  else if t.source = 1 ∧ t.rackclk = false then some 0x5A
  else none

/-- A write of TB_CTL. -/
def Tb.write (t : Tb) (w : BitVec 32) : Tb :=
  let was := t.go
  let t := { t with
    source := if t.go then t.source else w.extractLsb' 0 2
    gm := if t.go then t.gm else w.getLsbD 2
    arm := t.arm || w.getLsbD 3 }
  if !w.getLsbD 4 then { t with go := false }
  else if was then t
  else match t.refuse with
    | some r => { t with reason := r }
    | none => { t with
        go := true
        holdover := false
        locked := t.locked || t.source == 0
        everLocked := t.everLocked || t.source == 0 }

def State.writeTbCtl (s : State) (w : BitVec 32) : State := s.modTb (·.write w)

def execTbCtlGoSet (w : BitVec 32) (s : State) : Outcome State Fault Refusal :=
  if w.getLsbD 4 then .next (s.writeTbCtl w) else .refused .illFormed

/-! ## The tick (assumption 6) -/

/-- 20 ns of the timebase: a correction is slewed by at most 1 ns per µs, at every 50th tick, which `now` marks (R372). -/
def Tb.tick (now : Bool) (t : Tb) : Tb :=
  let u := t.time + 20
  if t.slew = 0 ∨ now = false then { t with time := u }
  else if 0 < t.slew then { t with time := u + 1, slew := t.slew - 1 }
  else { t with time := u - 1, slew := t.slew + 1 }

/-- Sends the event frames that are due to the RELAY node, one MGMT packet each, while this node has a number; their
SRCENG and TAG the manual leaves open: free values (16 R484). Frames that cannot be sent are dropped. -/
def State.flushRelay (s : State) : State :=
  let q := s.mmc.relayQ
  let s := { s with mmc := { s.mmc with relayQ := [] } }
  if s.fab.node = 0xFFFF then s
  else q.foldl (fun s f =>
    let r := s.takeFree
    let v := Config.freeWord r.1
    r.2.routePacket 49 { dst := s.mmc.relay, src := s.fab.nodeId, eng := v.extractLsb' 0 16, vc := 3, type := 0xA,
                         ttl := 63, tag := v.toNat / 2 ^ 16 % 2 ^ 15, status := 0, body := f }) s

/-- 20 ns of the module: the timebase, the cycle counts of the dies (0.05 GHz units), the interposer links, packets that
waited at the hub, and the relayed events. Without
main power and hub clocks nothing runs. -/
def State.tick (s : State) : State :=
  if s.boot.main && s.boot.pll then
    let s : State := { s with ticks := s.ticks + 1 }
    ((List.range 4).foldl (fun s d => s.modDie d fun x => { x with cycles := x.cycles + x.freq })
      (s.modTb (Tb.tick (s.ticks % 50 == 0)))).pilTick.goOn.flushRelay
  else s

end Sys2Proof.Machine
end

