-- ==== Sys2Proof/Machine/MmcOps.lean ====
section
/-! DEFINITION. The management controller's shared operations: the boot pointer (16 R493, R494, R497), firmware images
(R495), its own events (R492), measurements (R500), and the reset classes that begin with it: power-on and module reset,
and the removal of main power (14 R450, R451; 17 R503, R504; 18 R533). -/

namespace Sys2Proof.Machine

def State.modMmc (s : State) (f : Mmc → Mmc) : State := { s with mmc := f s.mmc }
def State.modBoot (s : State) (f : Boot → Boot) : State := { s with boot := f s.boot }
def State.modPwr (s : State) (f : Pwr → Pwr) : State := { s with pwr := f s.pwr }

/-! ## Boot pointer -/

/-- The 16 bytes of a record (table Boot pointer record; 00 R537). -/
def BPtr.record (p : BPtr) : Bytes :=
  let b := toLE 4 p.seq.toNat ++ toLE 1 (b2n p.slotB) ++ toLE 1 (b2n p.confirmed) ++ toLE 1 p.fails.toNat
    ++ toLE 1 (b2n p.prevB) ++ toLE 4 0
  b ++ toLE 4 (crc32 b)

/-- A record as the ROM reads it. -/
def BPtr.read (r : Bytes) : BPtr where
  valid := leField r 12 4 == crc32 (r.take 12)
  seq := BitVec.ofNat 32 (leField r 0 4)
  slotB := leField r 4 1 != 0
  confirmed := leField r 5 1 != 0
  fails := BitVec.ofNat 8 (leField r 6 1)
  prevB := leField r 7 1 != 0

/-- Whether copy 1 holds the current record: the valid copy with the higher SEQ. -/
def Mmc.curIs1 (m : Mmc) : Bool :=
  let p := BPtr.read m.ptr0
  let q := BPtr.read m.ptr1
  q.valid && (!p.valid || decide (p.seq.toNat < q.seq.toNat))

/-- The current record. -/
def Mmc.cur (m : Mmc) : BPtr := BPtr.read (if m.curIs1 then m.ptr1 else m.ptr0)

/-- A change: SEQ one above the current, into the other copy (R493). -/
def Mmc.writePtr (m : Mmc) (p : BPtr) : Mmc :=
  let r := { p with seq := m.cur.seq + 1 }.record
  if m.curIs1 then { m with ptr0 := r } else { m with ptr1 := r }

/-- Step 1 of a start-up on a trial pointer (R494). -/
def Mmc.trial (m : Mmc) : Mmc :=
  let p := m.cur
  if !p.valid || p.confirmed then m
  else if p.fails.toNat < 3 then m.writePtr { p with fails := p.fails + 1 }
  else m.writePtr { p with slotB := p.prevB, confirmed := true, fails := 0 }

/-! ## Images -/

/-- Flash address of an image: KIND 1 MMC, 2 hub (table Flash layout). -/
def imageBase (slotB : Bool) (kind : Nat) : Nat :=
  (if slotB then 0x2800000 else 0x400000) + if kind = 1 then 0 else 0x500000

def Mmc.bytes (m : Mmc) (a n : Nat) : Bytes := Tab.range 0xFF m.flash a n

/-- A header field of an image. -/
def Mmc.img (m : Mmc) (slotB : Bool) (kind o n : Nat) : Nat := fromLE (m.bytes (imageBase slotB kind + o) n)

/-- Fused minimum SVN of a KIND. -/
def Mmc.minSvn (m : Mmc) (kind : Nat) : Nat := if kind = 1 then m.minMmc else m.minHub

/-- Largest body of a KIND. -/
def bodyMax (kind : Nat) : Nat := if kind = 1 then 0x400000 else 0x1C00000

/-- Checks 1 to 4 of R495. -/
def State.imageGood (s : State) (slotB : Bool) (kind : Nat) : Bool :=
  let m := s.mmc
  let g := m.img slotB kind
  let a := imageBase slotB kind
  let pub := m.bytes (a + 0x60) 1793
  g 0 4 == 0x494D4742 && g 4 1 == kind && decide (g 0x10 4 ≤ bodyMax kind)
    && decide (g 5 1 < 4) && shake256 pub 32 == s.fuses.fwKeys.getD (g 5 1) [] && !s.fuses.revoked.getLsbD (g 5 1)
    && Config.falconVerify pub (m.bytes a 0x800) (m.bytes (a + 0x800) 1280)
    && shake256 (m.bytes (a + 0x1000) (g 0x10 4)) 32 == m.bytes (a + 0x20) 32

/-- The status of an image: OK, VERIFY_FAIL or ROLLBACK. -/
def State.imageStatus (s : State) (slotB : Bool) (kind : Nat) : Nat :=
  if !s.imageGood slotB kind then 8 else if s.mmc.img slotB kind 0xC 4 < s.mmc.minSvn kind then 9 else 0

/-- The measurement entry of a firmware image, over the image as it lies in its slot (table Measurement entry). -/
def Mmc.fwEntry (m : Mmc) (slotB : Bool) (kind : Nat) : Bytes :=
  let a := imageBase slotB kind
  [BitVec.ofNat 8 kind, BitVec.ofNat 8 (b2n slotB)] ++ toLE 6 0 ++ m.bytes (a + 8) 4 ++ toLE 4 0
    ++ shake256 (m.bytes a (0x1000 + m.img slotB kind 0x10 4)) 32

/-- The measurement log at a power-on or module reset (R500). -/
def Mmc.unmeasured (m : Mmc) : Mmc := { m with mext := List.replicate 32 0, meas := [] }

/-- Both firmware images are measured, first of all (R500). -/
def State.measureFw (s : State) : State :=
  let b := s.boot.slotB
  let s := s.modMmc Mmc.unmeasured
  (s.measure (s.mmc.fwEntry b 1)).measure (s.mmc.fwEntry b 2)

/-- ADVANCE raises the fused minimum of its KIND (R497). -/
def Mmc.advance (m : Mmc) (kind : Nat) : Mmc :=
  let b := m.cur.slotB
  let svn := m.img b kind 0xC 4
  if (m.img b kind 6 1).testBit 0 then
    if kind = 1 then { m with minMmc := max m.minMmc (min svn 32) } else { m with minHub := max m.minHub (min svn 32) }
  else m

/-- READY confirms a trial pointer that names the running slot (R457, R494, R497). -/
def Mmc.confirm (m : Mmc) (slotB : Bool) : Mmc :=
  let p := m.cur
  if p.valid && !p.confirmed && p.slotB == slotB then
    ((m.writePtr { p with confirmed := true, fails := 0 }).advance 1).advance 2
  else m

/-! ## Own events (R492; 17, Telemetry) -/

/-- An 8-byte telemetry record. -/
def teleRecord (id unit status : Nat) (value : Int) : Bytes :=
  toLE 2 id ++ toLE 1 unit ++ toLE 1 status ++ toLE 4 (value % 2 ^ 32).toNat

/-- An event of the MMC's own, with the record of a channel (assumption 54). -/
def State.ownEvent (s : State) (id unit status : Nat) (value : Int) : State := s.mmcEvent (teleRecord id unit status value)

/-- The same where the manual gives the channel and no reading: a free value. -/
def State.ownEventFree (s : State) (id unit : Nat) : State :=
  let f := s.takeFree
  f.2.ownEvent id unit 0 (Config.freeWord f.1).toInt

/-! ## Reset classes (14 R450, R451) -/

/-- Step 8 of start-up, which repairs journalled rows, is under way. -/
def State.repairing (s : State) : Bool :=
  s.boot.main && s.boot.done.getLsbD 7 && !s.boot.done.getLsbD 8 && !s.dev.stopped

/-- What a reset during step 8 leaves in the remap journal: in each channel at most one hPPR had begun, or was done; which
is free (08 R260, R261). -/
def cutRows (n : Nat) : Nat → List Nat → List JournalRow → List JournalRow
  | _, _, [] => []
  | i, hot, j :: js =>
    let v := (Config.freeByte n i).toNat % 3
    let ch := j.die * 24 + j.ch
    if j.mark = .repaired ∨ hot.contains ch = true ∨ v = 0 then j :: cutRows n (i + 1) hot js
    else { j with mark := if v = 1 then .started else .repaired } :: cutRows n (i + 1) (ch :: hot) js

/-- The hub, the dies and the host interface at their reset values: what a module reset leaves. Kept: fuses, flash and its
journals, the MMC, host memory, and the pins. Capping, thermal state and the owner cap belong to the MMC; HOSTCAP and
PEAKCNT are reset. -/
def State.hubReset (s : State) : State := { State.reset with
  fuses := s.fuses
  compat := s.compat
  nidp := s.nidp
  mem := { Mem.init with host := s.mem.host }
  replaced := s.replaced
  siteJournal := s.siteJournal
  tb := { Tb.init with rackclk := s.tb.rackclk }
  mmc := s.mmc
  boot := s.boot
  pwr := { s.pwr with hostCap := 0, peakCnt := 0 }
  dlu := ⟨false, s.dlu.failed0, s.dlu.failed1, false, []⟩
  laserJournal := s.laserJournal
  remapJournal := if s.repairing then cutRows s.freeCtr 0 [] s.remapJournal else s.remapJournal
  out := s.out
  nextId := s.nextId
  freeCtr := s.freeCtr + b2n s.repairing
  pending := s.pending }

/-- Steps that stay complete: those up to `n`. -/
def Boot.upTo (b : Boot) (n : Nat) : Boot := { b with
  done := b.done &&& BitVec.ofNat 16 (2 ^ (n + 1) - 1)
  pll := false }

/-- A module reset: start-up is entered again at step 4 (R450). -/
def State.moduleReset (s : State) (cls : BitVec 3) : State :=
  (s.hubReset.modMmc Mmc.unmeasured).modBoot fun b => { b.upTo 3 with rstClass := cls }

/-- Main power is removed: the hub is unpowered, start-up waits at step 3. -/
def State.mainOff (s : State) : State := s.hubReset.modBoot fun b => { b.upTo 2 with main := false }

/-- Main power is removed with a stop reason that the MMC holds (R503, R504, R516, R532). -/
def State.powerStop (s : State) (reason : BitVec 8) (ch : Nat) : State :=
  let s := s.mainOff.modBoot fun b => { b with stop := reason, stopCh := ch }
  s.modDev fun d => { d with stopped := true, stopReason := reason }

/-- The MMC's own state as a power-on reset leaves it; flash and fuses are kept, the owner cap is not. -/
def State.mmcReset (s : State) : State :=
  let m := s.mmc
  { s with
    mmc := { Mmc.init with
      ownerKey := m.ownerKey
      ownerSeq := m.ownerSeq
      ptr0 := m.ptr0
      ptr1 := m.ptr1
      flash := m.flash
      minMmc := m.minMmc
      minHub := m.minHub
      hubInfo := m.hubInfo }
    pwr := Pwr.init }

/-- Everything a power-on reset resets (R451). -/
def State.powerReset (s : State) : State :=
  let b := s.boot
  { s.hubReset.mmcReset with boot := { Boot.init with
      pwrEn := b.pwrEn
      pinCompat := b.pinCompat
      pinNidp := b.pinNidp } }

/-- A power-on reset, to the end of step 1: the MMC is out of reset and has looked at a trial pointer (R494). -/
def State.powerOn (s : State) : State :=
  (s.powerReset.modMmc Mmc.trial).modBoot fun b => { b with done := 2 }

/-- A reset by MMC command ends an update session (R491). -/
def State.closeSession (s : State) : State := s.modMmc fun m => { m with session := none }

end Sys2Proof.Machine
end

