-- ==== Sys2Proof/Machine/Pil.lean ====
section
/-! DEFINITION. The photonic interposer's bundles: packets, acknowledgement and replay (09 R271 to R277), lane health,
replacement and width steps (R278 to R284), the interposer lasers (R285 to R287), PIL_CTL (R292). -/

namespace Sys2Proof.Machine

open Host (Outcome)

/-! ## Packets -/

/-- The VCs a TYPE is listed for (table Packet types); VC 0 REQ, 1 RSP, 2 COLL, 3 MGMT. -/
def pilVcOk (type vc : Nat) : Bool :=
  match type with
  | 0 => true
  | 1 => vc == 0
  | 2 => vc == 0 || vc == 2
  | 3 => vc == 0
  | 4 => vc == 1
  | 5 => vc == 1
  | 6 => vc != 3
  | 7 => vc == 0
  | 8 => vc == 2 || vc == 3
  | 9 => vc == 3
  | _ => false

/-- A packet that its receiver keeps: both CRCs right, nothing reserved, TYPE listed for its VC (R271, R276). -/
def pilGood (p : Bytes) : Bool :=
  pilFld p 80 16 == crc16 (p.take 10) && leField p 60 4 == crc32c (slice p 12 48) && pilFld p 76 4 == 0
    && pilVcOk (pilFld p 25 4) (pilFld p 23 2)

/-- TYPEs that take a GSEQ, a replay entry and a credit: all but IDLE and NAK (R273; assumption 47). -/
def pilSeq (p : Bytes) : Bool := pilFld p 25 4 != 0 && pilFld p 25 4 != 9

/-- Credits of a VC (table Receive buffers per bundle direction). -/
def pilCredits (vc : Nat) : Nat :=
  match vc with
  | 0 => 512
  | 1 => 768
  | 2 => 512
  | _ => 32

/-- PLACE of a bundle direction and VC. -/
def pilPlaceIs (d i vc : Nat) (p : Nat) : Bool := p % 32 == d + i * 4 + vc * 8

/-- A NAK for the GSEQ that the receiver of group `g` of direction `i` expects, on the other direction (R276). -/
def State.pilSendNak (s : State) (d i g : Nat) : State :=
  s.pilIdle d (1 - i) g (3 * 2 ^ 23 + 9 * 2 ^ 25 + (((s.bundle d).dir i).grp g).rxNext.toNat * 2 ^ 58 + g * 2 ^ 65)

/-- GSEQ of a held packet. -/
def gseqOf (p : Bytes) : BitVec 7 := BitVec.ofNat 7 (pilFld p 16 7)

/-- A packet on another group keeps its BSEQ and takes that group's GSEQ. -/
def withGseq (p : Bytes) (q : BitVec 7) : Bytes :=
  let h := leField p 0 10
  pilPacket (h - pilFld p 16 7 * 2 ^ 16 + q.toNat * 2 ^ 16) (slice p 12 48)

/-- A group takes one more packet for replay. -/
def Grp.hold (x : Grp) (q : Bytes) : Grp := { x with
  held := x.held ++ [q]
  txNext := x.txNext + 1
  state := if x.held.length = 63 then .wait else x.state }

/-- Resends packets on groups in RUN with room; from the first that finds none on they wait in `moved` (table Retry
states, CHECK; R281). -/
def State.pilPlace (d i : Nat) : State → List Bytes → State
  | s, [] => s
  | s, p :: ps =>
    let r := (s.bundle d).dir i
    match (List.range 16).find? fun k => (r.grp k).state == .run && decide ((r.grp k).held.length < 64) with
    | none => s.modDir d i fun r => { r with moved := r.moved ++ p :: ps }
    | some k =>
      let q := withGseq p (r.grp k).txNext
      State.pilPlace d i ((s.modDir d i fun r => r.modGrp k fun x => x.hold q).emit (.pil d i k q)) ps

/-- Resends what waits for room. -/
def State.pilFlush (s : State) (d i : Nat) : State :=
  let ps := ((s.bundle d).dir i).moved
  if ps.isEmpty then s else State.pilPlace d i (s.modDir d i fun r => { r with moved := [] }) ps

/-- Moves packets to other groups, behind those that already wait. -/
def State.pilMove (s : State) (d i : Nat) (ps : List Bytes) : State :=
  (s.modDir d i fun r => { r with moved := r.moved ++ ps }).pilFlush d i

/-- A group replays its held packets from GSEQ `q`, or enters CHECK beyond REPLAY_LIMIT (R276). -/
def State.pilReplay (s : State) (d i g : Nat) (q : Option (BitVec 7)) : State :=
  let b := s.bundle d
  let x := (b.dir i).grp g
  let ps := match q with
    | none => x.held
    | some q => x.held.dropWhile fun p => gseqOf p != q
  let s := s.setBundle d ({ b with replays := satInc16 b.replays }.modDir i fun r =>
    r.modGrp g fun x => { x with replays := x.replays + 1, state := if 64 ≤ x.held.length then .wait else .run })
  if b.replayLimit.toNat < x.replays + 1 then
    (s.modDir d i fun r => r.modGrp g fun x => { x with state := .check }).pilMove d i x.held
  else ps.foldl (fun s p => s.emit (.pil d i g p)) s

/-- A group can replay: it transmits and is not under CHECK. -/
def Grp.alive (x : Grp) : Bool := x.state == .run || x.state == .wait

/-- A NAK of group `g` of direction `i` for GSEQ `q`. -/
def State.pilNak (s : State) (d i g : Nat) (q : BitVec 7) : State :=
  if (((s.bundle d).dir i).grp g).alive then s.pilReplay d i g (some q) else s

/-- The transmitter of group `g` frees the entries below `q` (R275). -/
def Grp.acked (q : BitVec 7) (x : Grp) : Grp :=
  -- entries run from the oldest held to txNext; q acknowledges those before it, at most all of them
  let keep := (x.txNext - q).toNat
  if x.held.length < keep ∨ keep = x.held.length then x
  else { x with
    held := x.held.drop (x.held.length - keep)
    replays := 0
    state := if x.state == .wait then .run else x.state }

/-- The transmitter's side of a packet that arrives whole: a new one takes its entry and spends its credit. -/
def State.pilSent (s : State) (d i g : Nat) (p : Bytes) : State :=
  let r := (s.bundle d).dir i
  let x := r.grp g
  if pilSeq p && gseqOf p == x.txNext && x.state == .run then
    let vc := pilFld p 23 2
    s.modDir d i fun r => { r.modGrp g (fun x => x.hold p) with
      txB := BitVec.ofNat 16 (pilFld p 0 16 + 1)
      spent := Tab.set 0 r.spent vc (Tab.get 0 r.spent vc + 1) }
  else s

/-- Packets leave the reorder buffer in BSEQ order, for the queues of their VCs (R272). -/
def State.pilDeliver (d i : Nat) : Nat → State → State
  | 0, s => s
  | fuel + 1, s =>
    let r := (s.bundle d).dir i
    match r.reorder.find? fun e => e.1 == r.rxB.toNat with
    | none => s
    | some e =>
      let vc := pilFld e.2 23 2
      State.pilDeliver d i fuel (s.modDir d i fun r => { r with
        rxB := r.rxB + 1
        reorder := r.reorder.filter fun f => f.1 != e.1
        queues := Tab.set [] r.queues vc (Tab.get [] r.queues vc ++ [e.2]) })

/-- The receiver's side of an expected packet: acknowledgements, credits, NAK, its own acknowledgement, and delivery in
BSEQ order (R272 to R277). What a delivered packet asks of a unit is that unit's own command. -/
def State.pilAccept (s : State) (d i g : Nat) (p : Bytes) : State :=
  let s := s.modDir d i fun r => r.modGrp g fun x => { x with
    rxNext := if pilSeq p then x.rxNext + 1 else x.rxNext
    nakked := false }
  let s := s.modDir d (1 - i) fun r => { r with
    spent := Tab.set 0 r.spent (pilFld p 69 2) (Tab.get 0 r.spent (pilFld p 69 2) - pilFld p 71 5) }
  let s := if pilFld p 57 1 = 1 then
      (s.modDir d (1 - i) fun r => r.modGrp (pilFld p 65 4) (Grp.acked (BitVec.ofNat 7 (pilFld p 58 7)))).pilFlush d (1 - i)
    else s
  let s := if pilFld p 25 4 = 9 then s.pilNak d (1 - i) (pilFld p 65 4) (BitVec.ofNat 7 (pilFld p 58 7)) else s
  if !pilSeq p then s
  else
    let s := s.pilAck d i g
    let r := (s.bundle d).dir i
    let q := pilFld p 0 16
    let ahead := (BitVec.ofNat 16 q - r.rxB).toNat
    if 2048 ≤ ahead ∨ (r.reorder.any fun e => e.1 == q) = true then s
    else State.pilDeliver d i 2048 (s.modDir d i fun r => { r with reorder := r.reorder ++ [(q, p)] })

/-- A CRC_FAIL entry of PERTURB strikes the packet (R479); without PIL_LANE_INJECT the lane is not looked at (R291). -/
def State.pilHit (s : State) (d i g vc : Nat) : Bool × State :=
  let r := (s.bundle d).dir i
  let lanes := (List.range 16).map fun l => r.phys (16 * g + l)
  let r := s.perturbBy 3 4 fun p => pilPlaceIs d i vc p && (!(s.feature.getD 0).getLsbD 3 || lanes.contains (p / 128))
  (r.1.isSome, r.2)

/-- BSEQ of a packet counted back from the next one to assign: how far it lies behind. -/
def Dir.behind (r : Dir) (p : Bytes) : Nat := (r.txB - BitVec.ofNat 16 (pilFld p 0 16)).toNat

/-- The next BSEQ lies at most 2,047 above the oldest that is not acknowledged (R272). -/
def Dir.windowOpen (r : Dir) : Bool :=
  (r.groups.all fun e => e.2.held.all fun p => decide (r.behind p ≤ 2047)) && r.moved.all fun p => decide (r.behind p ≤ 2047)

/-- The transmitter may send the packet: a new one has the next BSEQ and GSEQ, finds the window open and its VC with a
credit; a held one is resent (R272, R273, R479). -/
def State.pilMaySend (s : State) (d i g : Nat) (p : Bytes) : Bool :=
  let r := (s.bundle d).dir i
  let x := r.grp g
  let vc := pilFld p 23 2
  !pilSeq p || x.held.contains p
    || (x.state == .run && pilFld p 0 16 == r.txB.toNat && gseqOf p == x.txNext && r.windowOpen
      && decide (Tab.get 0 r.spent vc + s.withheld 3 (pilPlaceIs d i vc) < pilCredits vc))

/-- A packet sent on lane group `g` arrives. -/
def execPilPacketReceive (d dir g : Nat) (pkt : Bytes) (s : State) : Outcome State Fault Refusal :=
  if d < 4 ∧ dir < 2 ∧ g < 16 ∧ pkt.length = 64 then
    let x := ((s.bundle d).dir dir).grp g
    if !s.pilUp d || x.state == .off || (pilGood pkt && !s.pilMaySend d dir g pkt) then .next s
    else
      let s := (s.perturbBy 3 1 (pilPlaceIs d dir (pilFld pkt 23 2))).2
      let r := s.pilHit d dir g (pilFld pkt 23 2)
      let s := if pilGood pkt then r.2.pilSent d dir g pkt else r.2
      let ok := pilGood pkt && !r.1
      let s := if ok then s else s.modBundle d fun b => { b with crcErr := satInc16 b.crcErr }
      if ok && gseqOf pkt == x.rxNext then .next (s.pilAccept d dir g pkt)
      else if x.nakked then .next s
      else .next ((s.modDir d dir fun r => r.modGrp g fun y => { y with nakked := true }).pilSendNak d dir g)
  else .refused .illFormed

def execPilNak (d dir g gseq : Nat) (s : State) : Outcome State Fault Refusal :=
  if d < 4 ∧ dir < 2 ∧ g < 16 ∧ gseq < 128 then
    if s.pilUp d then .next (s.pilNak d dir g (BitVec.ofNat 7 gseq)) else .next s
  else .refused .illFormed

def execPilNakRepeat (d dir g : Nat) (s : State) : Outcome State Fault Refusal :=
  if d < 4 ∧ dir < 2 ∧ g < 16 then
    if s.pilUp d && (((s.bundle d).dir dir).grp g).nakked then .next (s.pilSendNak d dir g) else .next s
  else .refused .illFormed

def execPilReplayWaitTimeout (d dir g : Nat) (s : State) : Outcome State Fault Refusal :=
  if d < 4 ∧ dir < 2 ∧ g < 16 then
    if s.pilUp d && (((s.bundle d).dir dir).grp g).state == .wait then .next (s.pilReplay d dir g none) else .next s
  else .refused .illFormed

/-! ## Lane health -/

/-- The module stops for a bundle: the die is unusable (R283). -/
def State.pilStop (s : State) (d : Nat) (reason : BitVec 8) : State :=
  (s.modBundle d fun b => { b with unusable := true, reason := reason }).stopModule reason d

/-- The logical lane that sits on physical lane `p`, if it carries traffic. -/
def Dir.laneOn (r : Dir) (p : Nat) : Option Nat := r.logical.find? fun l => r.phys l == p

/-- A lane is failed (R278): fewer than 192 good lanes stop the module, a working lane waits for its replacement or a
width step (R282, R283). -/
def State.failLane (s : State) (d i p : Nat) : State :=
  let r := (s.bundle d).dir i
  if r.isFailed p then s
  -- an event during a changeover of the lasers waits until it completes (R286)
  else if s.dlu.changing then { s with dlu := { s.dlu with later := s.dlu.later ++ [(d, i, p)] } }
  else
    let s := s.modDir d i fun r => { r with failed := Tab.set false r.failed p true }
    if ((s.bundle d).dir i).good < 192 then s.pilStop d 0x20
    else match r.laneOn p with
      | none => s
      | some l => s.modDir d i fun r => { r with events := (r.events.filter fun e => e.lane != l) ++ [⟨l, true⟩] }

/-- A group's lane test ends (table Retry states, CHECK): it runs again, and lanes that failed are handled. -/
def execPilGroupCheckDone (d dir g : Nat) (failed : List Nat) (s : State) : Outcome State Fault Refusal :=
  if d < 4 ∧ dir < 2 ∧ g < 16 ∧ (failed.all fun p => decide (p < 272)) = true then
    let r := (s.bundle d).dir dir
    if (r.grp g).state ≠ .check then .next s
    else
      let mine := (List.range 16).map fun l => r.phys (16 * g + l)
      let s := s.modDir d dir fun r => r.modGrp g fun x =>
        { x with state := if 64 ≤ x.held.length then .wait else .run, replays := 0 }
      let s := s.pilFlush d dir
      .next ((failed.filter mine.contains).foldl (fun s p => s.failLane d dir p) s)
  else .refused .illFormed

/-- An eye monitor's sample: a working lane below MARGIN_MIN is remapped while a spare exists (R279). -/
def execLaneMarginSample (d dir p : Nat) (margin : BitVec 7) (s : State) : Outcome State Fault Refusal :=
  if d < 4 ∧ dir < 2 ∧ p < 272 then
    let b := s.bundle d
    let r := b.dir dir
    let s := s.modDir d dir fun r => { r with margin := Tab.set 0 r.margin p margin }
    match r.laneOn p with
    | none => .next s
    | some l =>
      if margin.toNat < b.marginMin.toNat ∧ b.trained = true ∧ r.spares ≠ [] ∧ (r.events.any fun e => e.lane == l) = false then
        .next (s.modDir d dir fun r => { r with events := r.events ++ [⟨l, false⟩] })
      else .next s
  else .refused .illFormed

/-- A working lane loses lock (R278). -/
def execLaneLossOfLock (d dir p : Nat) (s : State) : Outcome State Fault Refusal :=
  if d < 4 ∧ dir < 2 ∧ p < 272 then
    if (s.bundle d).trained && (((s.bundle d).dir dir).laneOn p).isSome then .next (s.failLane d dir p) else .next s
  else .refused .illFormed

def execLaneOfflineRetrainDone (d dir p : Nat) (pass : Bool) (s : State) : Outcome State Fault Refusal :=
  if d < 4 ∧ dir < 2 ∧ p < 272 then
    if ((s.bundle d).dir dir).retrain.contains p then
      let s := s.modDir d dir fun r => { r with retrain := r.retrain.filter (· != p) }
      if pass then .next s else .next (s.failLane d dir p)
    else .next s
  else .refused .illFormed

/-- Saturating increment of a counter of `n` bits. -/
def satInc {n : Nat} (x : BitVec n) : BitVec n := BitVec.ofNat n (satAdd x.toNat 1 (2 ^ n - 1))

/-- Both ends switch logical lane `l`, the first in turn, onto a spare (R280, R282). Which spare is a free choice. A
retirement that finds no spare left leaves the lane in service (R279). -/
def execLaneReplacement (d dir l : Nat) (s : State) : Outcome State Fault Refusal :=
  if d < 4 ∧ dir < 2 ∧ l < 256 then
    let r := (s.bundle d).dir dir
    match r.events with
    | [] => .next s
    | e :: rest =>
      if e.lane ≠ l ∨ s.dlu.changing = true then .next s
      else match r.spares with
        | [] => if e.failed then .next s else .next (s.modDir d dir fun r => { r with events := rest })
        | p :: ps =>
          let f := s.takeFree
          let q := (p :: ps).getD ((Config.freeWord f.1).toNat % (ps.length + 1)) p
          let s := f.2.modDir d dir fun r => { r with
            events := rest
            map := Tab.set 0 r.map l (if q = l then 0 else q + 1)
            retrain := if e.failed then r.retrain else r.retrain ++ [r.phys l] }
          .next (s.modBundle d fun b => { b with swaps := satInc b.swaps })
  else .refused .illFormed

/-- The lane group of the failed lane that is first in turn is removed, with no spare left (R281). -/
def execWidthStep (d dir : Nat) (s : State) : Outcome State Fault Refusal :=
  if d < 4 ∧ dir < 2 then
    let r := (s.bundle d).dir dir
    match r.events with
    | [] => .next s
    | e :: _ =>
      if !e.failed || !r.spares.isEmpty || s.dlu.changing then .next s
      else
        let g := e.lane / 16
        let s := s.modDir d dir fun r => { r.modGrp g (fun x => { x with state := .off, held := [] }) with
          off := r.off ||| (1#16 <<< g)
          events := r.events.filter fun e => e.lane / 16 != g }
        let s := s.pilMove d dir (r.grp g).held
        let s := s.modBundle d fun b => { b with steps := satInc b.steps }
        .next (s.notify 5 false (d + dir * 4) 0 (s.pilStatus d))
  else .refused .illFormed

/-! ## Interposer lasers -/

/-- Hub firmware changes over to the other unit, when it is good (R285). -/
def execDluChangeover (s : State) : Outcome State Fault Refusal :=
  if s.dlu.changing || !s.dlu.spareOk || !(List.range 4).any (fun d => (s.bundle d).trained) then .next s
  else .next { s with dlu := { s.dlu with changing := true } }

/-- The unit that was active is marked failed: it is worn out (assumption 48). -/
def Dlu.swapped (u : Dlu) : Dlu :=
  ⟨!u.active, u.failed0 || !u.active, u.failed1 || u.active, false, []⟩

/-- Receivers have relocked: every group replays, lanes that did not relock are failed (R285, R286). -/
def execDluChangeoverDone (lost : List (Nat × Nat × Nat)) (s : State) : Outcome State Fault Refusal :=
  if (lost.all fun e => decide (e.1 < 4) && decide (e.2.1 < 2) && decide (e.2.2 < 272)) = true then
    if !s.dlu.changing then .next s
    else
      let later := s.dlu.later
      let s := { s with dlu := s.dlu.swapped }
      let s := (List.range 4).foldl (fun s d =>
        let s := s.modBundle d fun b => { b with dluChg := satInc b.dluChg }
        (List.range 2).foldl (fun s i => (List.range 16).foldl (fun s g =>
          let x := ((s.bundle d).dir i).grp g
          if x.held.isEmpty || !x.alive then s
          else x.held.foldl (fun s p => s.emit (.pil d i g p))
            (s.modBundle d fun b => { b with replays := satInc16 b.replays })) s) s) s
      .next ((later ++ lost).foldl (fun s e => s.failLane e.1 e.2.1 e.2.2) s).kick
  else .refused .illFormed

/-- The active unit fails and the other is not good: the module stops (R287). -/
def execDluFailure (s : State) : Outcome State Fault Refusal :=
  if s.dlu.spareOk then .next s
  else
    let u := s.dlu
    let s := { s with dlu := { u with failed0 := u.failed0 || !u.active, failed1 := u.failed1 || u.active } }
    let s := (List.range 4).foldl (fun s d => s.modBundle d fun b => { b with unusable := true, reason := 0x21 }) s
    .next (s.stopModuleAny 0x21)

/-! ## PIL_CTL -/

/-- A write of PIL_CTL (R292, R438, R440). -/
def Bundle.writeCtl (b : Bundle) (w : BitVec 32) : Bundle :=
  if b.go then { b with go := w.getLsbD 0 }
  else
    let b := { b with
      replayLimit := w.extractLsb' 8 8
      marginMin := if b.unlocked then w.extractLsb' 16 8 else b.marginMin }
    if !w.getLsbD 0 then b
    else if b.replayLimit = 0 then { b with reason := 0x23 }
    else if !b.trained then { b with reason := 0x24 }
    else { b with go := true }

def execPilCtlGoSet (d : Nat) (w : BitVec 32) (s : State) : Outcome State Fault Refusal :=
  if d < 4 ∧ w.getLsbD 0 = true then .next (s.modBundle d fun b => b.writeCtl w).kick else .refused .illFormed

end Sys2Proof.Machine
end

