-- ==== Sys2Proof/Machine/Startup.lean ====
section
/-! DEFINITION. The start-up sequence step by step (14 R442 to R449), and what each step does (08 R260 to R262, 09 R284,
R288 to R291, 15 R466 to R469). A step's command acts only when the steps before it are complete. -/

namespace Sys2Proof.Machine

open Host (Outcome)

/-! ## Steps -/

def Boot.has (b : Boot) (n : Nat) : Bool := b.done.getLsbD n

/-- Step `n` completes. -/
def State.stepDone (s : State) (n : Nat) : State := s.modBoot fun b => { b with done := b.done ||| (1#16 <<< n) }

/-- The hub runs its firmware and start-up has not stopped. -/
def State.booting (s : State) : Bool := s.boot.main && s.boot.has 4 && !s.dev.stopped

/-- Step `n` may run: the steps of its After column are complete, and it is not. -/
def State.stepDue (s : State) (n : Nat) : Bool :=
  let b := s.boot
  !b.has n && match n with
  | 2 => b.has 1 && !b.recovery
  | 3 => b.has 2 && b.pwrEn && !b.off && b.stop == 0
  | 4 => b.has 3 && b.main && !s.dev.stopped
  | 8 => s.booting && b.has 7
  | 9 => s.booting && b.has 7
  | 10 => b.main && b.pll
  | 11 => s.booting && b.has 8 && b.has 9
  | 12 => s.booting && b.has 11 && s.nidp != 15
  | 13 => s.booting && b.has 11 && s.nidp != 15 && (b.has 12 || s.fab.discDone)
  | _ => s.booting && b.has (n - 1)

/-! ## Steps 1 to 3: the controller and main power -/

/-- The 12 V feed enters its range: step 1. -/
def execStandbyPowerOn (s : State) : Outcome State Fault Refusal :=
  if s.boot.has 1 then .next s else .next s.powerOn

/-- The MMC ROM verifies the MMC image of the selected slot, then of the other (R442, R495). With no valid pointer copy
the slot tried first is a free choice. -/
def State.mmcVerify (s : State) : State :=
  let f := s.takeFree
  let first := if s.mmc.cur.valid then s.mmc.cur.slotB else Config.freeBool f.1
  let s := if s.mmc.cur.valid then s else f.2
  if s.imageStatus first 1 = 0 then (s.modBoot fun b => { b with slotB := first }).stepDone 2
  else if s.imageStatus (!first) 1 = 0 then (s.modBoot fun b => { b with slotB := !first }).stepDone 2
  else s.modBoot fun b => { b with recovery := true }

def execMmcFirmwareVerify (s : State) : Outcome State Fault Refusal :=
  if s.stepDue 2 then .next s.mmcVerify else .next s

/-- Every rail comes up in turn and PWR_GOOD rises (18 R531). -/
def execMainPowerSequencing (s : State) : Outcome State Fault Refusal :=
  if s.stepDue 3 then .next ((s.modBoot fun b => { b with main := true }).stepDone 3) else .next s

/-- PWR_GOOD has not risen 500 ms after sequencing began (18 R531). -/
def State.powerSeqFail (s : State) : State := s.powerStop 0x81 0

def execPowerSequenceTimeout (s : State) : Outcome State Fault Refusal :=
  if s.stepDue 3 then .next s.powerSeqFail else .next s

/-! ## Step 4 -/

/-- The straps are sampled (R443); NODE_ID takes its reset value from NIDP (11 R333); HUB_RSTCAUSE counts the start-up. -/
def State.sampleStraps (s : State) : State :=
  let p := s.boot.pinNidp
  let s := { s with compat := s.boot.pinCompat, nidp := p }
  let s := s.modFab fun f => { f with nodeId := if p = 15 then 0xFFFF else p.setWidth 16 }
  s.modBoot fun b => { b with rstCount := BitVec.ofNat 8 (satAdd b.rstCount.toNat 1 0xFF), pll := true }

/-- The MMC verifies the hub image of its own slot and loads it; the PLLs lock either way (R445, R495, R496). -/
def State.hubLoad (s : State) : State :=
  let s := s.sampleStraps
  if s.imageStatus s.boot.slotB 2 = 0 then
    { s.measureFw.stepDone 4 with hubFw := BitVec.ofNat 32 (s.mmc.img s.boot.slotB 2 8 4) }
  else s.stopBoot 0x80

def execHubFirmwareLoad (s : State) : Outcome State Fault Refusal :=
  if s.stepDue 4 then .next s.hubLoad else .next s

/-! ## Step 5: bundle training (R284) -/

/-- The working width for `good` good lanes (R269), 0 below 192. -/
def widthFor (good : Nat) : Nat := if good < 192 then 0 else min 256 (good / 16 * 16)

/-- Maps the logical lanes of a direction afresh: a lane sits on its own number where that lane is good, and on a good
spare otherwise; which spare is a free choice (assumption 55). -/
def Dir.remap : List Nat → Dir → State → Dir × State
  | [], r, s => (r, s)
  | l :: ls, r, s =>
    if r.isFailed l then
      let f := s.takeFree
      let w := r.logical.map r.phys
      let free := selectBelow 272 fun p => !r.isFailed p && !w.contains p
      let q := free.getD ((Config.freeWord f.1).toNat % max 1 free.length) l
      Dir.remap ls { r with map := Tab.set 0 r.map l (if q = l then 0 else q + 1) } f.2
    else Dir.remap ls r s

/-- Trains one direction with the physical lanes that fail: its state, and whether 192 lanes are good. -/
def State.trainDir (s : State) (bad : List Nat) : (Dir × Bool) × State :=
  let r := { Dir.init with failed := bad.foldl (fun m p => Tab.set false m p true) [] }
  let w := widthFor r.good
  let gone := fun g => decide (w ≤ 16 * g)
  let r := { r with
    off := BitVec.ofNat 16 (bitsOf 16 gone)
    groups := (selectBelow 16 gone).map fun g => (g, { Grp.init with state := .off }) }
  let x := Dir.remap (List.range w) r s
  ((x.1, decide (192 ≤ r.good)), x.2)

/-- Trains bundle `d`; false, with UNUSABLE and PIL_FLOOR, below 192 lanes in a direction. -/
def State.trainBundle (s : State) (d : Nat) (bad : List (Nat × Nat × Nat)) : Bool × State :=
  let of := fun i => (bad.filter fun e => e.1 == d && e.2.1 == i).map fun e => e.2.2
  let a := s.trainDir (of 0)
  let b := a.2.trainDir (of 1)
  let ok := a.1.2 && b.1.2
  (ok, b.2.modBundle d fun x => { x with
    d2h := a.1.1
    h2d := b.1.1
    trained := ok
    -- setting GO runs the check of 09 R292
    go := ok && x.replayLimit != 0
    unusable := !ok
    reason := if !ok then 0x20 else if x.replayLimit = 0 then 0x23 else x.reason })

/-- The lanes named exist. -/
def lanesOk (bad : List (Nat × Nat × Nat)) : Bool :=
  bad.all fun e => decide (e.1 < 4) && decide (e.2.1 < 2) && decide (e.2.2 < 272)

/-- DLU0 starts unless the journal marks it failed, then DLU1; every bundle is trained (R284; R456). -/
def State.bundleTrain (s : State) (bad : List (Nat × Nat × Nat)) (lit : Bool) : State :=
  let u := s.dlu
  let dead := u.failed0 && u.failed1
  let s := { s with dlu := { u with active := u.failed0 && !u.failed1, changing := false } }
  if dead || !lit then
    ((List.range 4).foldl (fun s d => s.modBundle d fun b => { b with unusable := true, reason := 0x21 }) s).stopBoot 0x21
  else
    let r := (List.range 4).foldl (fun (a : Option Nat × State) d =>
      let x := a.2.trainBundle d bad
      (if x.1 then a.1 else a.1.or (some d), x.2)) (none, s)
    match r.1 with
    | some d => r.2.stopHub 0x20 d
    | none => r.2.stepDone 5

def execBundleTraining (bad : List (Nat × Nat × Nat)) (dluOk : Bool) (s : State) : Outcome State Fault Refusal :=
  if lanesOk bad = true then
    if s.stepDue 5 then .next (s.bundleTrain bad dluOk) else .next s
  else .refused .illFormed

/-! ## Steps 6 and 7: feature level and release (R288 to R291) -/

/-- Stepping of compute die `d`. -/
def State.dieStep (s : State) (d : Nat) : BitVec 8 := Tab.get 0xB0 s.fuses.dieStep d

def State.steppingsKnown (s : State) : Bool :=
  (s.fuses.hubStep == 0xA1 || s.fuses.hubStep == 0xB0)
    && (List.range 4).all fun d => s.dieStep d == 0xA0 || s.dieStep d == 0xB0

/-- The common feature level (table Common feature level). -/
def State.level (s : State) : BitVec 16 :=
  let hub := s.fuses.hubStep == 0xB0
  let dies := (List.range 4).all fun d => s.dieStep d == 0xB0
  BitVec.ofNat 16 (b2n dies + b2n (hub && dies) * 2 + b2n hub * 4 + b2n hub * 8)

/-- STEPPING_UNKNOWN is written to every bundle's PIL_STATUS, and start-up stops (R290). -/
def State.steppingStop (s : State) : State :=
  ((List.range 4).foldl (fun s d => s.modBundle d fun b => { b with reason := 0x22 }) s).stopBoot 0x22

def State.featureLevel (s : State) : State :=
  if s.steppingsKnown then { s.stepDone 6 with feature := some s.level } else s.steppingStop

def execFeatureLevelWrite (s : State) : Outcome State Fault Refusal :=
  if s.stepDue 6 then .next s.featureLevel else .next s

def State.releaseDies (s : State) : State :=
  (List.range 4).foldl (fun s d => s.modDie d fun x => { x with inReset := false }) (s.stepDone 7)

def execDieRelease (s : State) : Outcome State Fault Refusal :=
  if s.stepDue 7 then .next s.releaseDies else .next s

/-! ## Step 8: LPDDR (R260 to R263) -/

/-- Writes a journalled entry to the lowest free slot of its channel; none when the channel is full. -/
def Lpd.reinstate (l : Lpd) (j : JournalRow) (st : BitVec 2) : Lpd :=
  match (List.range 512).find? fun k => !(l.ent j.ch k).valid with
  | some k => { l with remap := Tab.set RemapEnt.init l.remap (j.ch * 512 + k) { j.ent with valid := true, st := st } }
  | none => l

/-- What becomes of a journalled row at a reset: its mark, and the state of its entry where it stays in SRAM. `verified`:
an interrupted hPPR verifies; `res`: a free hPPR resource, and whether the row then verifies; `used`: the channel has had
its hPPR (R260, R261). A row that fails after an hPPR stays PERMANENT (assumption 56). -/
def rowFate (mark : JMark) (verified : Bool) (res : Option Bool) (used : Bool) : JMark × Option (BitVec 2) × Bool :=
  if mark = .repaired ∨ (mark = .started ∧ verified = true) then (.repaired, none, false)
  else match res with
    | none => (mark, some 2, false)
    | some ok =>
      if used then (mark, some 1, false)
      else if ok then (.repaired, none, true) else (.started, some 2, true)

/-- Handles the journal rows, each with its number; `hot` holds the channels (die × 24 + channel) that have had their
hPPR. -/
def State.journalRows (hppr : List (Nat × Bool)) (two : List Nat) :
    List Nat → List (JournalRow × Nat) → State → State
  | _, [], s => s
  | hot, (j, i) :: js, s =>
    let x := rowFate j.mark (two.contains i) ((hppr.find? fun e => e.1 == i).map Prod.snd) (hot.contains (j.die * 24 + j.ch))
    let s := match x.2.1 with
      | some st => s.modLpd j.die fun l => l.reinstate j st
      | none => s
    let s := { s with remapJournal := s.remapJournal.set i { j with mark := x.1 } }
    State.journalRows hppr two (if x.2.2 then (j.die * 24 + j.ch) :: hot else hot) js s

/-- LPD_CTL.GO is set by firmware: the other fields are written as they read (R263). -/
def Lpd.goSet (l : Lpd) : Lpd := l.writeCtl (BitVec.ofNat 32 (l.ctlWord + b2n (!l.go)))

/-- One die's training outcome (R262). -/
def State.trainLpd (s : State) (d : Nat) (o : TrainOutcome) : State :=
  match o with
  | none => s.modLpd d fun l => { l with trained := false, go := false, reason := 0x10 }
  | some r => s.modLpd d fun l => { l with trained := true, rateNow := r }.goSet

/-- The journal's rows in the order in which they are handled: those marked STARTED first (R261). -/
def journalOrder (l : List JournalRow) : List (JournalRow × Nat) :=
  let begun := fun e : JournalRow × Nat => e.1.mark == .started
  l.zipIdx.filter begun ++ l.zipIdx.filter fun e => !begun e

/-- Step 8: all dies train, journalled rows are reinstated or repaired, memory is filled with 0. -/
def State.lpddrTrain (s : State) (out : List TrainOutcome) (hppr : List (Nat × Bool)) (two : List Nat) : State :=
  let s := State.journalRows hppr two [] (journalOrder s.remapJournal) s
  let s := (List.range 96).foldl (fun s i => s.remapFull (i / 24) (i % 24)) s
  let s := (List.range 4).foldl (fun s d => s.trainLpd d (out.getD d none)) s
  if out.any Option.isNone then s.stopBoot 0x10 else s.stepDone 8

/-- An outcome per die, no rate above the one that LPD_CTL.RATE allows. -/
def execLpddrTraining (out : List TrainOutcome) (hppr : List (Nat × Bool)) (stepTwoOk : List Nat) (s : State) :
    Outcome State Fault Refusal :=
  if out.length = 4 ∧ (out.zipIdx.all fun e => match e.1 with
      | some r => decide (r.toNat ≤ (s.die e.2).lpd.rate.toNat)
      | none => true) = true then
    if s.stepDue 8 then .next (s.lpddrTrain out hppr stepTwoOk) else .next s
  else .refused .illFormed

/-! ## Step 9: sites and arrays (R444, R466 to R469) -/

/-- A site may carry a core: it is not journalled and passes its self-test. -/
def State.siteGood (s : State) (bad : List Nat) (site : Nat) : Bool := !s.siteJournal.contains site && !bad.contains site

/-- Sites that carry a logical number of die `d`. -/
def State.sitesInUse (s : State) (d : Nat) : List Nat := (List.range s.perDie).map fun i => s.siteOf (d * s.perDie + i)

/-- The lowest spare site of die `d` that is good and carries no number. -/
def State.spareSite (s : State) (d : Nat) (bad : List Nat) : Option Nat :=
  ((List.range 44).map (44 * d + ·)).find? fun x =>
    s.fuses.spareSites.contains x && s.siteGood bad x && !(s.sitesInUse d).contains x

/-- One logical number in step 9: a site that fails its self-test is due for the journal; a number without a good site
takes a spare or stays diked. DETAIL of the dike is MA_STEST of the failing array, which the command does not carry: a
free value. -/
def State.siteStep (s : State) (bad : List Nat) (c : Nat) : State :=
  let site := s.siteOf c
  if s.siteGood bad site then s
  else
    let f := s.takeFree
    let s := if s.siteJournal.contains site then s
      else { f.2 with dikes := f.2.dikes ++ [⟨site, c, 0x25, (Config.freeWord f.1).toNat % 2 ^ 16⟩] }
    match s.spareSite (s.dieOf c) bad with
    | some x => { s with replaced := Tab.set 0 s.replaced c (x + 1) }
    | none =>
      (s.eachThread c fun _ => Thread.fence).modCore c fun k => { k with diked := true }

/-- The arrays of a live core after their self-test: MA_CTL at its reset values, then GO (R545). -/
def State.arraysOn (s : State) (c : Nat) : State :=
  if (s.core c).diked then s else s.eachArr c fun _ => { Arr.init with go := true }

/-- Live cores of die `d`. -/
def State.liveOn (s : State) (d : Nat) : Nat :=
  ((List.range s.perDie).filter fun i => s.live (d * s.perDie + i)).length

def State.sitesTest (s : State) (bad : List Nat) : State :=
  let s := (List.range s.lcores).foldl (fun s c => (s.siteStep bad c).arraysOn c) s
  if (List.range 4).any fun d => decide (s.liveOn d + 8 < s.perDie) then s.stopBoot 0x84 else s.stepDone 9

def execScratchpadSelfTest (bad : List Nat) (s : State) : Outcome State Fault Refusal :=
  if (bad.all fun x => decide (x < 176)) = true then
    if s.stepDue 9 then .next (s.sitesTest bad) else .next s
  else .refused .illFormed

/-! ## Step 10: PCIe -/

/-- The link trains to a rate and a width that both ends support; the other end decides: free choices (R411, R445). -/
def State.pcieReady (s : State) : State :=
  let f := s.takeFree
  let v := (Config.freeWord f.1).toNat
  let wd : BitVec 5 := match v / 5 % 4 with
    | 0 => 1
    | 1 => 4
    | 2 => 8
    | _ => 16
  (((f.2.modPcie fun p => { p with ready := true }).modDev fun d => { d with
    speed := BitVec.ofNat 3 (v % 5 + 1)
    width := wd })).stepDone 10

/-- It may come again after the link has gone down (18 R526). -/
def execPcieControllerReady (s : State) : Outcome State Fault Refusal :=
  if s.boot.main && s.boot.pll && !s.pcie.ready then .next s.pcieReady else .next s

/-! ## Step 11: port lasers (R442, R446) -/

/-- A spare unit as the journal and the start-up test give it: wavelengths that serve a port, and those that have failed. -/
def State.spareFromJournal (s : State) (u : Nat) (failed : List (Nat × Nat)) : Spare :=
  (List.range 4).foldl (fun x i => (List.range 16).foldl (fun (x : Spare) k =>
    let j := s.journalOf (4 * u + i) k
    if j.1 && j.2 then { x with failed := x.failed ||| (1#16 <<< k) }
    else if j.1 then x.serve (4 * u + i) k else x) x)
    { Spare.init with failed := BitVec.ofNat 16 (bitsOf 16 fun k => failed.contains (u, k)) }

/-- Port `n` lights with the journal's assignments, and its GO is set. -/
def State.portOn (s : State) (n : Nat) : State :=
  let s := s.modPort n fun p => { p with lit := true }
  let s := s.modPort n fun p => { p with
    waves := (List.range 16).foldl (fun m k => Tab.set Wave.init m k (s.waveFromJournal n k)) [] }
  s.writeTklCtl n (BitVec.ofNat 32 (Port.ctlWord { s.port n with go := true }))

/-- The fabric and the timebase of a module whose straps name a node (R446). -/
def State.joinFabric (s : State) : State :=
  let s := s.writeFabCtl (BitVec.ofNat 32 (Fab.ctlWord { s.fab with go := true, acceptObs := true }))
  let s := if s.tb.rackclk then s.modTb fun t => { t with stepval := 0 } else s
  s.writeTbCtl (if s.tb.rackclk then 0x19 else 0x10)

def State.lasersOn (s : State) (failed : List (Nat × Nat)) : State :=
  let s := { s with spare0 := s.spareFromJournal 0 failed, spare1 := s.spareFromJournal 1 failed }
  let s := ((List.range 8).foldl State.portOn s).stepDone 11
  if s.nidp = 15 then s else s.joinFabric

def execPortLaserStart (failed : List (Nat × Nat)) (s : State) : Outcome State Fault Refusal :=
  if (failed.all fun e => decide (e.1 < 2) && decide (e.2 < 16)) = true then
    if s.stepDue 11 then .next (s.lasersOn failed) else .next s
  else .refused .illFormed

/-! ## Steps 12 to 14 -/

/-- The timebase has not locked within its maximum (R442). -/
def execTimebaseLockTimeout (s : State) : Outcome State Fault Refusal :=
  if s.stepDue 13 && !s.tb.locked then .next (s.stepDone 13) else .next s

/-- No link of a port with GO 1 is still being trained. -/
def State.linksSettled (s : State) : Bool :=
  !(List.range 48).any fun l => [LState.light, .train, .align].contains (s.link l).state

/-- READY may be set (R442, R447, R448). -/
def State.readyDue (s : State) : Bool :=
  let b := s.boot
  s.booting && !s.dev.ready && b.has 8 && b.has 9 && b.has 11 && s.linksSettled
    && (s.nidp == 15 || ((b.has 12 || s.fab.discDone) && (b.has 13 || s.tb.locked)))

/-- What the report takes from the hub: steppings, feature level, core counts, capacity (16, table Attestation report,
bytes 0x40 to 0x4F). -/
def State.hubInfo (s : State) : Bytes :=
  [s.fuses.hubStep] ++ (List.range 4).map s.dieStep ++ [0#8] ++ toLE 2 (s.feature.getD 0).toNat ++ toLE 2 s.lcores
    ++ toLE 2 s.liveCount ++ toLE 2 (if s.fuses.l16 then 360 else 720) ++ toLE 2 0

/-- READY is set: the pointer is confirmed, and TIMEBASE raised where there is no lock (R448, R494). -/
def State.setReady (s : State) : State :=
  let s := (s.modDev fun d => { d with ready := true, everReady := true }).stepDone 14
  let s := s.modMmc fun m => { m.confirm s.boot.slotB with hubInfo := s.hubInfo }
  if s.tb.locked then s else s.tbNotify

def execReadySet (s : State) : Outcome State Fault Refusal := if s.readyDue then .next s.setReady else .next s

/-! ## A step that exceeds its maximum (R442, On failure) -/

/-- Links still in training go to OFF and retry (R327). -/
def State.linkGiveUp (s : State) (l : Nat) : State :=
  if [LState.light, .train, .align].contains (s.link l).state then
    (s.modLink l fun k => { k.emptied with state := .off, retry := true, txMask := 0, rxMask := 0 }).discCheck
  else s

/-- The step's On failure action. For step 5 the manual names two reasons and not which: a free choice. -/
def State.stepTimeout (s : State) (n : Nat) : State :=
  match n with
  | 2 => s.modBoot fun b => { b with recovery := true }
  | 3 => s.powerSeqFail
  | 4 => (s.modBoot fun b => { b with pll := true }).stopBoot 0x80
  | 5 =>
    let f := s.takeFree
    f.2.stopBoot (if Config.freeBool f.1 then 0x20 else 0x21)
  | 6 => s.steppingStop
  | 7 => s.steppingStop
  | 8 => s.stopBoot 0x10
  | 9 => s.stopBoot 0x84
  | 12 => s.firmwareRoutes.stepDone 12
  | 13 => s.stepDone 13
  | _ => s

def execStartUpStepTimeout (n : Nat) (s : State) : Outcome State Fault Refusal :=
  if 1 ≤ n ∧ n ≤ 14 then
    if n = 11 ∧ s.boot.has 11 = true then .next ((List.range 48).foldl State.linkGiveUp s)
    else if s.stepDue n then .next (s.stepTimeout n) else .next s
  else .refused .illFormed

end Sys2Proof.Machine
end

