-- ==== Sys2Proof/Machine/Power.lean ====
section
/-! DEFINITION. Power and temperature (17): capping and the peak limiter (R503 to R510), CCLK steps (R505), sensors,
throttling and shutdown (R511 to R516), the flow estimate (R517), telemetry, the registers (R518), and the alert outputs
(18 R525). -/

namespace Sys2Proof.Machine

open Host (Outcome)

/-! ## Sites (table Thresholds) -/

/-- Thresholds of a site, in 1/16 °C: warning, throttle, shutdown, hysteresis. -/
structure Limits where
  warn : Int
  throttle : Option Int
  shutdown : Option Int
  hyst : Int
  deriving DecidableEq, Repr

/-- The temperature channel exists. -/
def isChan (ch : Nat) : Bool := decide (ch < 0x0A) || decide (0x10 ≤ ch ∧ ch < 0x1C) || decide (0x20 ≤ ch ∧ ch < 0x38)

/-- The site of a channel: 0 to 3 compute die, 4 hub, 5 to 14 laser units, 15 to 38 LPDDR packages, 39 coolant inlet;
none for the outlet. -/
def siteOfChan (ch : Nat) : Option Nat :=
  if ch < 2 then some 4
  else if ch < 0xA then some ((ch - 2) / 2)
  else if 0x10 ≤ ch ∧ ch < 0x1A then some (5 + (ch - 0x10))
  else if ch = 0x1A then some 39
  else if 0x20 ≤ ch ∧ ch < 0x38 then some (15 + (ch - 0x20))
  else none

/-- The channels of a site. -/
def chansOf (site : Nat) : List Nat :=
  if site < 4 then [2 + 2 * site, 3 + 2 * site]
  else if site = 4 then [0, 1]
  else if site < 15 then [0x10 + (site - 5)]
  else if site < 39 then [0x20 + (site - 15)]
  else [0x1A]

def limitsOf (site : Nat) : Limits :=
  if site < 5 then ⟨95 * 16, some (103 * 16), some (112 * 16), 4 * 16⟩
  else if site < 15 then ⟨60 * 16, some (68 * 16), some (78 * 16), 3 * 16⟩
  else if site < 39 then ⟨85 * 16, some (95 * 16), some (105 * 16), 4 * 16⟩
  else ⟨45 * 16, none, none, 2 * 16⟩

/-- The dies whose CCLK a site throttles. -/
def throttles (site d : Nat) : Bool :=
  if site < 4 then site == d
  else if site < 15 then true
  else if site < 39 then (site - 15) / 6 == d
  else false

def State.chan (s : State) (ch : Nat) : Chan := Tab.get Chan.init s.pwr.chans ch
def State.site (s : State) (i : Nat) : Site := Tab.get Site.init s.pwr.sites i
def State.setChan (s : State) (ch : Nat) (c : Chan) : State :=
  s.modPwr fun p => { p with chans := Tab.set Chan.init p.chans ch c }
def State.setSite (s : State) (i : Nat) (x : Site) : State :=
  s.modPwr fun p => { p with sites := Tab.set Site.init p.sites i x }

/-- What a channel counts as: a faulted die, laser or LPDDR channel counts as at its throttle threshold (R512). -/
def State.counts (s : State) (ch : Nat) : Int :=
  let c := s.chan ch
  match c.fault, (siteOfChan ch).bind fun i => (limitsOf i).throttle with
  | true, some t => t
  | _, _ => c.value

/-- The temperature of a site: the higher of its channels. -/
def State.temp (s : State) (i : Nat) : Int :=
  match (chansOf i).map s.counts with
  | [] => 0
  | t :: ts => ts.foldl max t

/-! ## Records -/

/-- The status bits of a channel. -/
def State.chanStatus (s : State) (ch : Nat) : Nat :=
  let x := match siteOfChan ch with
    | some i => s.site i
    | none => Site.init
  b2n x.warn + b2n x.throt * 2 + b2n (s.chan ch).fault * 4 + b2n (s.chan ch).fast * 8

/-- The telemetry record of a temperature channel. -/
def State.tempRecord (s : State) (ch : Nat) : Bytes := teleRecord ch 1 (s.chanStatus ch) (s.chan ch).value

/-- A POWER_THERMAL notification for a channel; while the hub is down the MMC sends the event alone (R463, R492). -/
def State.thermal (s : State) (ch : Nat) : State :=
  if s.boot.main && s.boot.pll then s.notify 13 false ch 0 (fromLE (s.tempRecord ch)) else s.mmcEvent (s.tempRecord ch)

/-! ## Frequencies and duty (R506 to R510, R514, R515) -/

def clamp (lo hi x : Nat) : Nat := max lo (min hi x)

/-- Frequency and duty floors of PWR_CAP. -/
def Pwr.fminEff (p : Pwr) : Nat := clamp 12 24 p.fmin.toNat
def Pwr.dutyEff (p : Pwr) : Nat := clamp 2 8 p.dutymin.toNat

/-- Levels of the capping loop: 0.05 GHz steps, then duty steps. -/
def Pwr.levels (p : Pwr) : Nat := (24 - p.fminEff) + (8 - p.dutyEff)

/-- The capping loop's frequency and duty at its level. -/
def Pwr.capFreq (p : Pwr) : Nat := 24 - min p.level (24 - p.fminEff)
def Pwr.capDuty (p : Pwr) : Nat := 8 - (min p.level p.levels - min p.level (24 - p.fminEff))

/-- HOSTCAP as it acts. -/
def Pwr.host (p : Pwr) : Nat := if p.hostCap = 0 then 0 else clamp 1000 3200 p.hostCap.toNat

/-- The effective cap (R506). -/
def Pwr.cap (p : Pwr) : Nat :=
  let m := fun a b : Nat => if b = 0 then a else min a b
  m (m 3200 p.ownerCap.toNat) p.host

/-- The thermal frequency of die `d`: the lowest that any of its sites asks for. -/
def State.thermalFreq (s : State) (d : Nat) : Nat :=
  (List.range 39).foldl (fun f i => if throttles i d then min f (s.site i).freq else f) 24

/-- Where CCLKd is to go (R510). -/
def State.cclkGoal (s : State) (d : Nat) : Nat := min (min s.pwr.loopFreq (s.thermalFreq d)) 24

/-- Array duty in eighths (R510). -/
def Pwr.duty (p : Pwr) : Nat := if p.peak then min p.loopDuty 4 else p.loopDuty

/-! ## The capping loop and the peak limiter -/

/-- The step of one evaluation: `mean` is the input power over the last 10 ms in W. -/
def Pwr.step (p : Pwr) (mean : Nat) : Pwr :=
  let cap := p.cap
  let p := { p with level := min p.level p.levels, capEff := BitVec.ofNat 12 cap }
  if cap < mean then
    { p with level := min (p.level + 1) p.levels, below := 0, floor := decide (p.levels ≤ p.level + 1) }
  else
    let n := if 100 * mean < 97 * cap then p.below + 1 else 0
    if n = 50 then { p with level := p.level - 1, below := 0, floor := false } else { p with below := n, floor := false }

/-- One evaluation, from which on PWR_CAP as it stands has effect (R518). -/
def Pwr.evaluate (p : Pwr) (mean : Nat) : Pwr :=
  let p := p.step mean
  { p with loopFreq := p.capFreq, loopDuty := p.capDuty }

/-- PIN, of 12 bits; a mean that does not fit has no stated value (free). -/
def State.setPin (s : State) (mean : Nat) : State :=
  if mean < 4096 then s.modPwr fun p => { p with pin := BitVec.ofNat 12 mean }
  else
    let f := s.takeFree
    f.2.modPwr fun p => { p with pin := (Config.freeWord f.1).extractLsb' 0 12 }

/-- Every 1 ms the loop compares and steps (R507). -/
def execCappingEvaluation (mean : Nat) (s : State) : Outcome State Fault Refusal :=
  if s.boot.main then .next ((s.modPwr fun p => p.evaluate mean).setPin mean) else .next s

/-- The peak limiter (R509): it acts above 3,800 W, and is released once the mean has stayed below 3,500 W for 10 ms. -/
def execPeakLimit (mean : Nat) (calm : Bool) (s : State) : Outcome State Fault Refusal :=
  if !s.boot.main then .next s
  else if 3800 < mean then
    .next (s.modPwr fun p => { p with
      peak := true
      peakCnt := if p.peak then p.peakCnt else satInc16 p.peakCnt })
  else if calm ∧ mean < 3500 then .next (s.modPwr fun p => { p with peak := false })
  else .next s

/-- CCLKd moves one step of 0.05 GHz toward its goal, the voltage in the safe order with it (R505). -/
def execCclkStep (d : Nat) (s : State) : Outcome State Fault Refusal :=
  if d < 4 then
    let g := s.cclkGoal d
    .next (s.modDie d fun x => { x with
      freq := if x.freq < g then x.freq + 1 else if g < x.freq then x.freq - 1 else x.freq })
  else .refused .illFormed

/-! ## Feeds and rails -/

/-- The 54 V input has been out of range for more than 1 ms (R503). -/
def execInputOutOfRange (s : State) : Outcome State Fault Refusal :=
  if s.boot.main then .next ((s.powerStop 0x82 0).ownEventFree 0x40 2) else .next s

/-- A rail leaves 5 % of its set point: the event frame names it (18 R532). -/
def execRailOutOfRange (r : Nat) (s : State) : Outcome State Fault Refusal :=
  if r < 11 then
    if s.boot.main then .next ((s.powerStop 0x81 r).ownEventFree (0x50 + r) 2) else .next s
  else .refused .illFormed

/-- PWR_EN goes low: an orderly power-down, without a stop reason (18 R533). -/
def execPwrEnLow (s : State) : Outcome State Fault Refusal :=
  let s := s.modBoot fun b => { b with pwrEn := false }
  .next (if s.boot.main then s.mainOff else s)

/-- The conditions of the held stop have cleared: temperatures below shutdown less the hysteresis (R516). Whether the 54 V
input is back in range the model's state does not hold: a free choice. -/
def State.stopCleared (s : State) : Bool × State :=
  if s.boot.stop = 0x83 then
    ((List.range 39).all fun i => match (limitsOf i).shutdown with
      | some t => decide (s.temp i < t - (limitsOf i).hyst)
      | none => true, s)
  else if s.boot.stop = 0x82 then
    let f := s.takeFree
    (Config.freeBool f.1, f.2)
  else (true, s)

/-- The stop is over: step 3 may begin again. -/
def State.stopOver (s : State) : State :=
  (s.modBoot fun b => { b with stop := 0, stopCh := 0, off := false }).modDev fun d => { d with
    stopped := false
    stopReason := 0 }

/-- Main power may be sequenced again, when the conditions have cleared (R504): whether that is accepted. -/
def State.restore (s : State) : Bool × State :=
  if s.boot.main then (true, s)
  else
    let r := s.stopCleared
    if r.1 then (true, r.2.stopOver) else (false, r.2)

/-- PWR_EN goes from low to high. -/
def execPwrEnHigh (s : State) : Outcome State Fault Refusal :=
  if s.boot.pwrEn then .next s else .next (s.modBoot fun b => { b with pwrEn := true }).restore.2

/-! ## Temperatures (R511 to R516) -/

/-- The level at or above which a channel samples fast. -/
def fastAt (ch : Nat) : Option Int :=
  match siteOfChan ch with
  | none => none
  | some i =>
    match (limitsOf i).throttle with
    | some t => some (t - 6 * 16)
    | none => some ((limitsOf i).warn - 6 * 16)

/-- The channel after a sample: faulted out of −20 °C to 150 °C, or without a reading three times in a row (R512). -/
def Chan.sample (c : Chan) (v : Option Int) : Chan :=
  match v with
  | some t => { c with value := t, miss := 0, fault := decide (t < -20 * 16) || decide (150 * 16 < t) }
  | none => { c with miss := c.miss + 1, fault := c.fault || decide (3 ≤ c.miss + 1) }

/-- The sampling rate of a channel (R511). -/
def State.setFast (s : State) (ch : Nat) : State :=
  match fastAt ch with
  | none => s
  | some t =>
    let v := s.counts ch
    s.setChan ch { s.chan ch with fast := decide (t ≤ v) || ((s.chan ch).fast && decide (t - 16 ≤ v)) }

/-- A site after a sample (R513, R514): entering throttle steps its frequency down at once, leaving it steps up. -/
def Site.sample (x : Site) (l : Limits) (t : Int) : Site :=
  let above := fun lim : Option Int => match lim with
    | some v => decide (v ≤ t)
    | none => false
  let held := fun lim : Option Int => match lim with
    | some v => decide (v - l.hyst ≤ t)
    | none => false
  let thr := above l.throttle || (x.throt && held l.throttle)
  { warn := above (some l.warn) || (x.warn && held (some l.warn))
    throt := thr
    freq := if thr && !x.throt then max 12 (x.freq - 1) else if x.throt && !thr then min 24 (x.freq + 1) else x.freq }

/-- LPDDR package j of a die reads above 85 °C: refresh doubles on its four channels (08 R251). -/
def State.setHot (s : State) (ch : Nat) : State :=
  if 0x20 ≤ ch ∧ ch < 0x38 then
    let d := (ch - 0x20) / 6
    let j := (ch - 0x20) % 6
    let m : BitVec 24 := 15#24 <<< (4 * j)
    s.modLpd d fun l => { l with hot := if 85 * 16 < s.counts ch then l.hot ||| m else l.hot &&& ~~~m }
  else s

/-- Both channels of a die, or both coolant channels, are faulted; or a site is at its shutdown threshold. -/
def State.mustShut (s : State) : Bool :=
  ((List.range 5).any fun i => (chansOf i).all fun ch => (s.chan ch).fault)
    || ((s.chan 0x1A).fault && (s.chan 0x1B).fault)
    || (List.range 39).any fun i => match (limitsOf i).shutdown with
      | some t => decide (t ≤ s.temp i)
      | none => false

/-- A shutdown (R516): main power goes, the MMC keeps the reason and the channel, and writes its own event. -/
def State.shutdown (s : State) (ch : Nat) : State := (s.powerStop 0x83 ch).mmcEvent (s.tempRecord ch)

/-- A channel is sampled. -/
def State.sampleTemp (s : State) (ch : Nat) (v : Option Int) : State :=
  let s := (s.setChan ch ((s.chan ch).sample v)).setFast ch
  let s := s.setHot ch
  let s := match siteOfChan ch with
    | none => s
    | some i =>
      let x := s.site i
      let y := x.sample (limitsOf i) (s.temp i)
      let s := s.setSite i y
      let s := if x.warn != y.warn then s.thermal ch else s
      if x.throt != y.throt then s.thermal ch else s
  if s.boot.main && s.mustShut then s.shutdown ch else s

def execThermalSample (ch : Nat) (v : Option Int) (s : State) : Outcome State Fault Refusal :=
  if isChan ch = true ∧ (match v with | some t => decide (-32768 ≤ t) && decide (t < 32768) | none => true) = true then
    if s.boot.has 1 then .next (s.sampleTemp ch v) else .next s
  else .refused .illFormed

/-- 500 µs at or above the throttle threshold (R514). -/
def execThrottleStepDown (ch : Nat) (s : State) : Outcome State Fault Refusal :=
  if isChan ch = true then
    match siteOfChan ch with
    | none => .next s
    | some i =>
      let x := s.site i
      match (limitsOf i).throttle with
      | none => .next s
      | some t => if x.throt && decide (t ≤ s.temp i) then .next (s.setSite i { x with freq := max 12 (x.freq - 1) }) else .next s
  else .refused .illFormed

/-- 5 ms after throttle was left, or after the last step up (R514). -/
def execThrottleStepUp (ch : Nat) (s : State) : Outcome State Fault Refusal :=
  if isChan ch = true then
    match siteOfChan ch with
    | none => .next s
    | some i =>
      let x := s.site i
      if x.throt then .next s else .next (s.setSite i { x with freq := min 24 (x.freq + 1) })
  else .refused .illFormed

/-! ## Flow (R517) -/

/-- How an estimate compares: below 3.6 L/min, at or above 3.8 L/min. F = P / (69.7 × ΔT), ΔT in 1/16 K. -/
def flowClass (mean : Nat) (dt : Int) : Bool × Bool :=
  (decide ((1600 * mean : Nat) < 36 * 697 * dt), decide (38 * 697 * dt ≤ (1600 * mean : Nat)))

/-- An estimate: LOWFLOW after 10 low ones in a row, cleared after 10 high ones. -/
def State.flow (s : State) (c : Bool × Bool) : State :=
  let p := s.pwr
  let low := if c.1 then p.low + 1 else 0
  let high := if c.2 then p.high + 1 else 0
  let s := s.modPwr fun p => { p with
    low := low
    high := high
    lowflow := (p.lowflow || decide (10 ≤ low)) && !decide (10 ≤ high) }
  if !p.lowflow && s.pwr.lowflow then s.thermal 0x1B else s

/-- Once a second while the mean input power exceeds 1,000 W. Where the outlet is no warmer than the inlet the manual gives
no flow: the estimate is free. -/
def execFlowEstimate (mean : Nat) (s : State) : Outcome State Fault Refusal :=
  if mean ≤ 1000 || !s.boot.main then .next s
  else
    let dt := (s.chan 0x1B).value - (s.chan 0x1A).value
    if 0 < dt then .next (s.flow (flowClass mean dt))
    else
      let f := s.takeFree
      let v := (Config.freeWord f.1).toNat % 3
      .next (f.2.flow (v == 0, v == 2))

/-! ## Registers (R518) -/

/-- PWR_CAP as written by the host. -/
def State.writePwrCap (s : State) (w : BitVec 32) : State := s.modPwr fun p => { p with
  hostCap := w.extractLsb' 0 12
  fmin := w.extractLsb' 16 5
  dutymin := w.extractLsb' 24 4 }

def execPwrCapWrite (w : BitVec 32) (s : State) : Outcome State Fault Refusal := .next (s.byHost (s.writePwrCap w))

def Pwr.capWord (p : Pwr) : Nat := p.hostCap.toNat + p.fmin.toNat * 2 ^ 16 + p.dutymin.toNat * 2 ^ 24

def Pwr.statusWord (p : Pwr) : Nat :=
  p.pin.toNat + p.capEff.toNat * 2 ^ 12 + b2n (decide (0 < p.level)) * 2 ^ 24 + b2n p.floor * 2 ^ 25 + b2n p.peak * 2 ^ 26
    + p.peakCnt.toNat * 2 ^ 32

/-- Some site is in warning, in throttle; some channel is faulted. -/
def Pwr.anyWarn (p : Pwr) : Bool := p.sites.any fun e => e.2.warn
def Pwr.anyThrot (p : Pwr) : Bool := p.sites.any fun e => e.2.throt
def Pwr.anyFault (p : Pwr) : Bool := p.chans.any fun e => e.2.fault

/-- THM_STATUS. -/
def State.thmStatus (s : State) : Nat :=
  let p := s.pwr
  let fs := ((List.range 4).map fun d => (24 - (s.die d).freq) * 16 ^ d).sum
  let therm := decide ((List.range 4).any fun d => decide (s.thermalFreq d < 24))
  fs + (p.duty - 1) * 2 ^ 16 + b2n p.anyWarn * 2 ^ 19 + b2n p.anyThrot * 2 ^ 20 + b2n p.lowflow * 2 ^ 21
    + b2n p.anyFault * 2 ^ 22 + (b2n (decide (0 < p.level)) + b2n therm * 2 + b2n p.peak * 4) * 2 ^ 24

/-- THM_CH. -/
def State.thmCh (s : State) (ch : Nat) : Nat :=
  if isChan ch then ((s.chan ch).value % 2 ^ 16).toNat + s.chanStatus ch * 2 ^ 16 else 0

/-- A register of the power range of the MMC block. -/
def State.pwrReg (s : State) (off : Nat) : Nat :=
  if off = 0x8000 then s.pwr.capWord
  else if off = 0x8008 then s.pwr.statusWord
  else if off = 0x8010 then s.thmStatus
  else if 0x8100 ≤ off ∧ off < 0x8100 + 0x38 * 8 then s.thmCh ((off - 0x8100) / 8)
  else 0

/-! ## Alert outputs (18 R525): true is low -/

def State.smbAlertN (s : State) : Bool := s.boot.has 1 && decide (s.mmc.smbRead < s.mmc.eventNo)
def State.thermN (s : State) : Bool := s.boot.has 1 && (s.pwr.anyThrot || s.boot.stop == 0x83)
def State.faultN (s : State) : Bool := s.boot.has 1 && (s.dev.stopped || s.boot.stop != 0 || s.boot.recovery)

end Sys2Proof.Machine
end

