-- ==== Sys2Proof/Machine/Reset.lean ====
section
/-! DEFINITION. The reset classes (14 R450 to R455, R545; 09 R289; 05 R162; 03 R546) and the loss of the auxiliary feed or
of REFCLK. -/

namespace Sys2Proof.Machine

open Host (Outcome)

/-! ## Module and power-on reset -/

/-- HUB_RSTCAUSE.CLASS. -/
def ResetPin.cls : ResetPin → BitVec 3
  | .rstN => 1
  | .perst => 2
  | .mmc => 3

/-- RST_N, PERST# or an MMC command resets the module; without main power the hub is in a wider reset (R452). -/
def execModuleReset (pin : ResetPin) (s : State) : Outcome State Fault Refusal :=
  if s.boot.main then .next (s.moduleReset (ResetPin.cls pin)) else .next s

/-- The 12 V feed leaves its range: a power-on reset begins, and main power goes with it (R450). -/
def execAuxiliaryFeedLoss (s : State) : Outcome State Fault Refusal := .next s.powerReset

/-- REFCLK fails: the PCIe link is down until the controller is ready again; the rest carries on. SPEED and WIDTH meanwhile
are free values (18 R526). -/
def execRefclkFailure (s : State) : Outcome State Fault Refusal :=
  if s.pcie.ready then
    let f := s.takeFree
    let v := Config.freeWord f.1
    .next ((f.2.modPcie fun p => { p with ready := false }).modDev fun d => { d with
      speed := v.extractLsb' 0 3
      width := v.extractLsb' 3 5 })
  else .next s

/-! ## Core reset (R454, R545; R162) -/

/-- An array after a core reset: MA_CTL at its reset values, with GO unless the core is to be tested first (R545); a suspect
array, or one whose self-test was abandoned, waits to be tested again (R162). -/
def Arr.coreReset (retest : Bool) (x : Arr) : Arr :=
  let again := x.suspect || x.stestBusy || x.stestWait
  { Arr.init with
    go := !retest
    suspect := x.suspect
    held := again
    stestWait := again }

/-- Banks of core `c` at their reset values. -/
def State.dropBanks (s : State) (c : Nat) : State :=
  { s with banks := Tab.drop (fun k => k / 16 == c) s.banks }

/-- Contexts of core `c` at their reset values: FREE. -/
def State.resetThreads (s : State) (c : Nat) : State := s.eachThread c fun t _ => Thread.init s.compat t

/-- A core reset: contexts, semaphores, banks, queues, MA and SFU state; the scratchpad stays. Buckets that depend on the
core are aborted (R451), its transfers end without completion (R546). -/
def State.coreReset (s : State) (c : Nat) : State :=
  let again := (List.range 4).any fun a => (s.arr c a).suspect || (s.arr c a).stestBusy || (s.arr c a).stestWait
  let s := (s.discardOps c).colDike c
  let s := ((s.resetThreads c).eachArr c (Arr.coreReset again)).dropBanks c
  (s.setCore c { Core.init with retest := again, cclkBase := (s.die (s.dieOf c)).cycles }).stestNext c

/-- A write of HUB_CORERST: numbers that are not assigned are ignored, a diked core stays as it is, and a core whose die is
in reset is absorbed in that reset (R452, R454). -/
def State.hubCorerst (s : State) (w : BitVec 32) : State :=
  let c := (w.extractLsb' 0 8).toNat
  if s.lcores ≤ c ∨ (s.core c).diked = true ∨ s.awake c = false then s else s.coreReset c

def execHubCorerstWrite (w : BitVec 32) (s : State) : Outcome State Fault Refusal := .next (s.hubCorerst w)

/-! ## Hub-led die reset (R289, R451, R453) -/

/-- The cores of die `d`. -/
def State.coresOn (s : State) (d : Nat) : List Nat := (List.range s.perDie).map (d * s.perDie + ·)

/-- An address lies on die `d`: in its LPDDR range or the scratchpad of one of its cores. -/
def State.onDie (s : State) (d a : Nat) : Bool :=
  (decide (d * s.lpdZ ≤ a) && decide (a < (d + 1) * s.lpdZ)) || (s.coresOn d).any fun c => s.inSpad c a

/-- Buckets that depend on die `d` are aborted with LATE. -/
def State.colDieReset (s : State) (d : Nat) : State :=
  s.abortWhere fun b => b.locals.any fun x =>
    s.dieOf x.core == d || s.onDie d x.src || s.onDie d x.dst || s.onDie d x.cist

/-- The transfers of the die's stream pumps end at once; how much they had written is a free choice (R546). -/
def State.dropDiePumps (s : State) (d : Nat) : State :=
  (s.pumps.filter fun r => !r.host && r.die == d).foldl (fun s r =>
    let f := s.takeFree
    let k := (Config.freeWord f.1).toNat % (r.writes.length + 1)
    let s := (State.pumpWrites State.writeMem true 1 f.2 (r.writes.take k)).2
    let s := { s with pumps := s.pumps.filter fun x => !(!x.host && x.die == r.die && x.pump == r.pump) }
    match r.op with
    | some id => s.dropOp id
    | none => s) s

/-- A core of a die under reset: nothing of it is left but its number; a diked core stays diked. -/
def State.dieCore (s : State) (c : Nat) : State :=
  let diked := (s.core c).diked
  let s := (s.discardOps c).dropSpad c
  let s := if diked then s.eachThread c fun _ => Thread.fence else s.resetThreads c
  let s := (s.eachArr c fun _ => Arr.init).dropBanks c
  s.setCore c { Core.init with diked := diked }

/-- The hub resets die `d`: LPDDR in self-refresh, everything else on the die at its reset values. -/
def State.dieResetBegin (s : State) (d : Nat) : State :=
  let s := (s.colDieReset d).dropDiePumps d
  let s := (s.coresOn d).foldl State.dieCore s
  let s := s.modDie d fun x => { x with
    inReset := true
    led := true
    bars := []
    barReason := 0
    lpd := { x.lpd with go := false, trained := false, unlocked := false } }
  -- a die that leaves a module-scope barrier may complete it (R90)
  let s := (List.range 64).foldl State.barModTry s
  let s := s.modBundle d fun b => { b with trained := false, d2h := Dir.init, h2d := Dir.init }
  let h := s.hubDike
  if h.busy ∧ s.dieOf h.core = d then { s with hubDike := { h with busy := false } } else s

/-- A write of HUB_DIECTL.DIE_RESET; a die that is in reset absorbs it (R452). -/
def execHubDiectlDieReset (d : Nat) (s : State) : Outcome State Fault Refusal :=
  if d < 4 then
    if (s.die d).inReset || s.dev.stopped then .next s else .next (s.dieResetBegin d)
  else .refused .illFormed

/-- Step 9 on the die: a core whose site fails its self-test is diked (R465); the arrays of the others get GO (R545). -/
def State.dieStep9 (s : State) (bad : List Nat) (c : Nat) : State :=
  if (s.core c).diked then s
  else if bad.contains (s.siteOf c) then
    let f := s.takeFree
    f.2.dikeCore c 0x25 ((Config.freeWord f.1).toNat % 2 ^ 16)
  else (s.arraysOn c).modCore c fun k => { k with cclkBase := (s.die (s.dieOf c)).cycles }

/-- The reset of die `d` ends: bundle and LPDDR retrained without the fill, the die released, step 9 on the die. -/
def State.dieResetEnd (s : State) (d : Nat) (bad : List (Nat × Nat × Nat)) (rate : TrainOutcome) (sites : List Nat) :
    State :=
  let r := s.trainBundle d bad
  if !r.1 then r.2.stopModule 0x20 d
  else
    let s := r.2.modDie d fun x => { x with inReset := false, led := false }
    let s := s.trainLpd d rate
    (s.coresOn d).foldl (fun s c => s.dieStep9 sites c) s

def execHubLedDieResetEnd (d : Nat) (bad : List (Nat × Nat × Nat)) (rate : TrainOutcome) (badSites : List Nat)
    (s : State) : Outcome State Fault Refusal :=
  if d < 4 ∧ lanesOk bad = true ∧ (badSites.all fun x => decide (x < 176)) = true
      ∧ (match rate with | some r => decide (r.toNat ≤ (s.die d).lpd.rate.toNat) | none => true) = true then
    if (s.die d).led && !s.dev.stopped then .next (s.dieResetEnd d bad rate badSites) else .next s
  else .refused .illFormed

/-- HUB_DIECTL of die `d`, of the hub at 4, and HUB_RSTCAUSE. -/
def State.hubDiectl (s : State) (d : Nat) : Nat :=
  if d = 4 then s.fuses.hubStep.toNat * 2 ^ 8
  else b2n (!(s.die d).inReset) + (if s.boot.has 6 then (s.dieStep d).toNat else 0) * 2 ^ 8

def Boot.causeWord (b : Boot) : Nat := b.rstClass.toNat + b.rstCount.toNat * 2 ^ 8

end Sys2Proof.Machine
end

