-- ==== Sys2Proof/Machine/Registers.lean ====
section
/-! DEFINITION. The register range as one map of 8-byte words (13, BAR0 register map): the value of each word as read, and
a write under the access codes of its fields (00 R9 to R12; 13 R416, R419 to R421, R438 to R440; 16 R502; 17 R518). The
commands that write registers, and the accesses of threads, come here. -/

namespace Sys2Proof.Machine

open Host (Outcome)

/-! ## Reading -/

/-- DEV. -/
def State.devReg (s : State) (o : Nat) : Nat :=
  match o with
  | 0x00 => s.dev.ctlWord
  | 0x08 => s.dev.statusWord
  | 0x10 => s.dev.winBase.toNat * 2 ^ 30
  | 0x18 => s.dev.errWord
  | 0x20 => s.dev.notifyWord
  | 0xFF8 => b2n s.dev.unlocked * 2 ^ 16
  | _ => 0

/-- Queue registers. -/
def Queue.reg (x : Queue) (o : Nat) : Nat :=
  match o with
  | 0x00 => x.sqBase.toNat
  | 0x08 => x.cqBase.toNat
  | 0x10 => x.cfgWord
  | 0x18 => x.statusWord
  | _ => 0

/-- The MSI-X table and the PBA. -/
def Pcie.msixReg (p : Pcie) (o : Nat) : Nat :=
  if o < 0x54000 then (Tab.get msixInit p.msix ((o - 0x50000) / 16)).toNat / 2 ^ (8 * (o % 16)) % 2 ^ 64
  else if o < 0x54080 then p.pba.toNat / 2 ^ (8 * (o - 0x54000)) % 2 ^ 64
  else 0

/-- The hub control block. -/
def State.hubReg (s : State) (o : Nat) : Nat :=
  if o ≤ 0x20 then s.hubDiectl (o / 8)
  else if o = 0x48 then s.boot.causeWord
  else if o = 0x50 then s.hubDike.word
  else 0

/-- The block of bundle `d`. -/
def State.pilReg (s : State) (d o : Nat) : Nat :=
  let b := s.bundle d
  if o = 0 then b.ctlWord
  else if o = 8 then s.pilStatus d
  else if o = 0x10 then b.errWord
  else if 0x400 ≤ o ∧ o < 0x800 then
    ((List.range 4).map fun i => (b.dir ((o - 0x400) / 0x200)).laneWord (o % 0x200 / 2 + i) * 2 ^ (16 * i)).sum
  else if 0x800 ≤ o ∧ o < 0xC00 then
    ((List.range 8).map fun i =>
      let p := o % 0x200 + i
      if p < 272 then s.marginByte d ((o - 0x800) / 0x200) p * 2 ^ (8 * i) else 0).sum
  else if o = 0xFF8 then b2n b.unlocked * 2 ^ 16
  else 0

/-- TB. -/
def Tb.reg (t : Tb) (o : Nat) : Nat :=
  if o = 0 then t.ctlWord
  else if o = 8 then t.statusWord
  else if o = 0x10 then t.time.toNat
  else if o = 0x18 then t.stepval.toNat
  else if 0x100 ≤ o ∧ o < 0x1C0 then
    let l := (o - 0x100) / 4
    (Tab.get 0 t.asym l).toNat + (Tab.get 0 t.asym (l + 1)).toNat * 2 ^ 32
  else if o = 0xFF8 then b2n t.unlocked * 2 ^ 16
  else 0

/-- MMC_MBX_CTL, MMC_MBX_STATUS. -/
def Mbx.ctlWord (m : Mbx) : Nat := b2n m.ien * 4 + m.vector.toNat * 8 + m.len.toNat * 2 ^ 16

def Mbx.statusWord (m : Mbx) : Nat := b2n m.busy + b2n m.resp * 2 + b2n m.refused * 4 + m.rlen.toNat * 2 ^ 16

/-- The MMC block: mailbox, buffers, power registers. -/
def State.mmcReg (s : State) (o : Nat) : Nat :=
  let m := s.mmc.mbx
  if o = 0 then m.ctlWord
  else if o = 8 then m.statusWord
  else if 0x1000 ≤ o ∧ o < 0x3000 then fromLE (Tab.range 0 m.req (o - 0x1000) 8)
  else if 0x3000 ≤ o ∧ o < 0x5000 then fromLE (Tab.range 0 m.rsp (o - 0x3000) 8)
  else s.pwrReg o

/-- FAB_ERR. -/
def Fab.errWord (f : Fab) : Nat :=
  f.timeouts.toNat + f.late.toNat * 2 ^ 16 + f.drops.toNat * 2 ^ 32 + f.e2e.toNat * 2 ^ 48

/-- FAB. -/
def State.fabReg (s : State) (o : Nat) : Nat :=
  let f := s.fab
  if o = 0 then f.ctlWord
  else if o = 8 then f.nodeId.toNat
  else if o = 0x10 then s.fabStatus
  else if o = 0x18 then f.errWord
  else if o = 0x20 then f.hot.toNat
  else if o = 0x28 then f.bcast.toNat
  else if o = 0xFF8 then b2n f.unlocked * 2 ^ 16
  else if 0x1000 ≤ o ∧ o < 0x1600 then (Tab.get 0 f.plan ((o - 0x1000) / 32)).toNat / 2 ^ (8 * (o % 32)) % 2 ^ 64
  else if 0x2000 ≤ o ∧ o < 0x2C00 then (Tab.get 0 f.record ((o - 0x2000) / 64)).toNat / 2 ^ (8 * (o % 64)) % 2 ^ 64
  else if 0x3000 ≤ o ∧ o < 0x3180 then (s.disc ((o - 0x3000) / 8)).word
  else if 0x4000 ≤ o ∧ o < 0x4200 then (Tab.get 0 f.repl ((o - 0x4000) / 32)).toNat / 2 ^ (8 * (o % 32)) % 2 ^ 64
  else if 0x100000 ≤ o ∧ o < 0x100000 + 0xFFFF * 8 then (Tab.get Route.init f.route ((o - 0x100000) / 8)).word
  else 0

/-- LPD_STATUS. -/
def Lpd.statusWord (l : Lpd) : Nat :=
  b2n l.trained + l.rateNow.toNat * 2 + b2n (l.hot != 0) * 8 + b2n l.full * 16 + l.reason.toNat * 2 ^ 8
    + ((List.range 24).foldl (fun m c => max m (l.used c)) 0) * 2 ^ 16

/-- LPD_REMAP. -/
def RemapEnt.word (e : RemapEnt) : Nat :=
  b2n e.valid + e.st.toNat * 2 + e.rank.toNat * 8 + e.bg.toNat * 2 ^ 4 + e.ba.toNat * 2 ^ 6 + e.row.toNat * 2 ^ 8
    + e.cecount.toNat * 2 ^ 32

/-- LPD of one die. -/
def Lpd.reg (l : Lpd) (o : Nat) : Nat :=
  if o = 0 then l.ctlWord
  else if o = 8 then l.statusWord
  else if o = 0x10 then l.corr.toNat + l.uncorr.toNat * 2 ^ 32 + l.link.toNat * 2 ^ 48
  else if o = 0x18 then l.err.word
  else if o = 0x20 then l.thresh.toNat + b2n l.remapEn * 2 ^ 8
  else if o = 0xFF8 then b2n l.unlocked * 2 ^ 16
  else if 0x1000 ≤ o ∧ o < 0x19000 then (Tab.get RemapEnt.init l.remap ((o - 0x1000) / 8)).word
  else 0

/-- A barrier block. -/
def State.barReg (s : State) (d o : Nat) : Nat :=
  if o < 0x200 then
    let b := s.bar d (o / 8)
    b.count.toNat + b2n b.scope * 2 ^ 11 + b2n b.enable * 2 ^ 12 + b.gen.toNat * 2 ^ 16
  else if o = 0x200 then (s.die d).barReason.toNat
  else 0

/-- The logical core whose block holds a BAR0 offset, and whether it is reached as a physical site (R420). -/
def State.coreAt (s : State) (o : Nat) : Option (Nat × Bool) :=
  if 0x8000000 ≤ o ∧ o < 0x8000000 + s.lcores * 0x4000 then some ((o - 0x8000000) / 0x4000, false)
  else if 0x9000000 ≤ o ∧ o < 0x9000000 + 176 * 0x4000 then (s.coreAtSite ((o - 0x9000000) / 0x4000)).map fun c => (c, true)
  else none

/-- The die whose block holds a BAR0 offset (R419). -/
def State.regDie (s : State) (o : Nat) : Option Nat :=
  if 0x2000000 ≤ o ∧ o < 0x2080000 then some ((o - 0x2000000) / 0x20000)
  else if 0x2100000 ≤ o ∧ o < 0x2104000 then some ((o - 0x2100000) / 0x1000)
  else (s.coreAt o).map fun x => s.dieOf x.1

/-- The block belongs to a die held in reset. -/
def State.regAsleep (s : State) (o : Nat) : Bool :=
  match s.regDie o with
  | some d => (s.die d).inReset
  | none => false

/-- The 8-byte word at an aligned BAR0 offset, as read without side effect. -/
def State.regWord (s : State) (o : Nat) : Nat :=
  if o < 0x1000 then s.devReg o
  else if o < 0x2000 then (s.capReg ((o - 0x1000) / 8)).toNat
  else if 0x20000 ≤ o ∧ o < 0x21000 then (s.queue ((o - 0x20000) / 0x40)).reg (o % 0x40)
  else if 0x50000 ≤ o ∧ o < 0x60000 then s.pcie.msixReg o
  else if 0x70000 ≤ o ∧ o < 0x80000 then s.errReg (o - 0x70000)
  else if 0x80000 ≤ o ∧ o < 0x90000 then s.perturbReg (o - 0x80000)
  else if 0x100000 ≤ o ∧ o < 0x101000 then s.hubReg (o - 0x100000)
  else if o = 0x110000 then s.spare0.word
  else if o = 0x110008 then s.spare1.word
  else if 0x120000 ≤ o ∧ o < 0x124000 then s.pilReg ((o - 0x120000) / 0x1000) (o % 0x1000)
  else if 0x140000 ≤ o ∧ o < 0x148000 then s.tklReg ((o - 0x140000) / 0x1000) (o % 0x1000)
  else if 0x180000 ≤ o ∧ o < 0x181000 then s.tb.reg (o - 0x180000)
  else if 0x200000 ≤ o ∧ o < 0x210000 then s.col.reg (o - 0x200000)
  else if 0x300000 ≤ o ∧ o < 0x310000 then s.mmcReg (o - 0x300000)
  else if 0x1000000 ≤ o ∧ o < 0x1200000 then s.fabReg (o - 0x1000000)
  else if 0x2000000 ≤ o ∧ o < 0x2080000 then (s.die ((o - 0x2000000) / 0x20000)).lpd.reg (o % 0x20000)
  else if 0x2100000 ≤ o ∧ o < 0x2104000 then s.barReg ((o - 0x2100000) / 0x1000) (o % 0x1000)
  else match s.coreAt o with
    | some x => s.coreReg x.1 (o % 0x4000)
    | none => 0

/-- The word as a read returns it: all ones from a die in reset (R419); ERR_DBGDATA has its side effect (R464); the layout of
the host pumps' status is not given, and its value is free (assumption 58). -/
def State.readWord (s : State) (o : Nat) : BitVec 64 × State :=
  if s.regAsleep o then (BitVec.allOnes 64, s)
  else if o = 0x70028 then s.dbgRead
  else if 0x40000 ≤ o ∧ o < 0x40100 then
    let f := s.takeFree
    (Config.freeWord f.1, f.2)
  else (BitVec.ofNat 64 (s.regWord o), s)

/-- The words that hold `n` bytes from `off`. -/
def State.readWords : Nat → State → Nat → Bytes × State
  | 0, s, _ => ([], s)
  | k + 1, s, o =>
    let r := s.readWord o
    let q := State.readWords k r.2 (o + 8)
    (toLE 8 r.1.toNat ++ q.1, q.2)

/-- A read of any size returns the addressed bytes (R416). -/
def State.readReg (s : State) (off n : Nat) : Bytes × State :=
  let r := State.readWords ((off % 8 + n + 7) / 8) s (off / 8 * 8)
  (slice r.1 (off % 8) n, r.2)

/-! ## Writing -/

/-- A write to one word: by a device thread or pump (`dev`), the bits of the bytes written, the value written with zeros in
the other bytes, and that value with the other bytes as they read (R416). -/
structure RegWr where
  dev : Bool
  mask : BitVec 64
  raw : BitVec 64
  w : BitVec 64
  deriving DecidableEq, Repr

/-- Byte `i` of the word is written. -/
def RegWr.hit (x : RegWr) (i : Nat) : Bool := x.mask.getLsbD (8 * i)

/-- The low half as merged, as written. -/
def RegWr.lo (x : RegWr) : BitVec 32 := x.w.extractLsb' 0 32
def RegWr.rawLo (x : RegWr) : BitVec 32 := x.raw.extractLsb' 0 32

/-- An EXPERT register: only the host reaches KEY (R439). -/
def RegWr.key (x : RegWr) (was : Bool) : Bool := if x.dev || !x.hit 0 then was else x.raw.extractLsb' 0 16 == 0x5EA0

/-- DEV; devices reach DEV_IRQSET only (R421). -/
def State.writeDev (s : State) (o : Nat) (x : RegWr) : State :=
  if o = 0x28 then if x.hit 0 then s.msixSend (x.raw.extractLsb' 0 10).toNat else s
  else if x.dev then s
  else match o with
    | 0x00 => s.writeDevCtl x.lo
    | 0x10 => s.modDev fun d => { d with winBase := x.w.extractLsb' 30 18 }
    | 0x18 => s.modDev fun d => { d with errValid := d.errValid && !x.raw.getLsbD 63 }
    | 0x20 => s.modDev fun d => { d with
        notifyVec := x.w.extractLsb' 0 10
        notifyEn := x.w.getLsbD 10 }
    | 0xFF8 => s.modDev fun d => { d with unlocked := x.key d.unlocked }
    | _ => s

/-- Queue registers; the bases are RWL. -/
def State.writeQueue (s : State) (q o : Nat) (x : RegWr) : State :=
  match o with
  | 0x00 => s.modQueue q fun k => if k.go then k else { k with sqBase := x.w }
  | 0x08 => s.modQueue q fun k => if k.go then k else { k with cqBase := x.w }
  | 0x10 => s.writeSqCfg q x.w
  | _ => s

/-- An MSI-X table word; of the vector control only the mask bit is kept. -/
def State.writeMsix (s : State) (o : Nat) (x : RegWr) : State :=
  let v := (o - 0x50000) / 16
  let e := Tab.get msixInit s.pcie.msix v
  let n := if o % 16 = 0 then e.extractLsb' 64 64 ++ x.w else (x.w &&& 0x1FFFFFFFF) ++ e.extractLsb' 0 64
  (s.modPcie fun p => { p with msix := Tab.set msixInit p.msix v n }).msixFlush

/-- The hub control block. -/
def State.writeHub (s : State) (o : Nat) (x : RegWr) : State :=
  if o < 0x20 then
    if x.raw.getLsbD 1 ∧ (s.die (o / 8)).inReset = false ∧ s.dev.stopped = false then s.dieResetBegin (o / 8) else s
  else if o = 0x40 then if x.hit 0 then s.hubCorerst x.rawLo else s
  else if o = 0x50 then if x.hit 0 then s.hubDikeWrite (x.raw.extractLsb' 0 8).toNat (x.raw.getLsbD 8) else s
  else s

def State.writePil (s : State) (d o : Nat) (x : RegWr) : State :=
  if o = 0 then s.modBundle d fun b => b.writeCtl x.lo
  else if o = 0xFF8 then s.modBundle d fun b => { b with unlocked := x.key b.unlocked }
  else s

/-- FORCE_CHG is Expert (R440). -/
def State.forceChg (s : State) (n k : Nat) : State := if (s.port n).unlocked then s.chgDue n k else s

def State.writeTkl (s : State) (n o : Nat) (x : RegWr) : State :=
  if o = 0 then s.writeTklCtl n x.lo
  else if o = 8 then s.writeLasCtl n x.lo
  else if 0x200 ≤ o ∧ o < 0x300 ∧ o % 16 = 0 then if x.raw.getLsbD 32 then s.forceChg n ((o - 0x200) / 16) else s
  else if o = 0xFF8 then s.modPort n fun p => { p with unlocked := x.key p.unlocked }
  else s

def State.writeTb (s : State) (o : Nat) (x : RegWr) : State :=
  if o = 0 then s.writeTbCtl x.lo
  else if o = 0x18 then s.modTb fun t => { t with stepval := x.w }
  else if 0x100 ≤ o ∧ o < 0x1C0 then
    let l := (o - 0x100) / 4
    s.modTb fun t => { t with
      asym := Tab.set 0 (Tab.set 0 t.asym l (x.w.extractLsb' 0 16)) (l + 1) (x.w.extractLsb' 32 16) }
  else if o = 0xFF8 then s.modTb fun t => { t with unlocked := x.key t.unlocked }
  else s

/-- COL; a member table takes each byte written. -/
def State.writeCol (s : State) (o : Nat) (x : RegWr) : State :=
  if o = 0 then s.writeColCtl x.lo
  else if o = 0xFF8 then s.modCol fun c => { c with unlocked := x.key c.unlocked }
  else if 0x800 ≤ o ∧ o < 0x900 then if o % 16 = 0 then s.writeGroup ((o - 0x800) / 16) x.lo else s
  else if 0x1000 ≤ o ∧ o < 0x1400 then
    let e := (o - 0x1000) / 16
    let t := s.tree e
    s.writeTree e (if o % 16 = 0 then t.extractLsb' 64 64 ++ x.w else x.w ++ t.extractLsb' 0 64)
  else if 0x3000 ≤ o ∧ o < 0x4000 then
    (List.range 8).foldl (fun s i =>
      let k := o - 0x3000 + i
      if x.hit i then s.writeMember (k / 64) (k % 64) (x.raw.extractLsb' (8 * i) 8) else s) s
  else s

/-- The submission of LEN bytes of the request buffer (16, MMC_MBX_CTL and MMC_MBX_STATUS). -/
def Mmc.submit (m : Mmc) : Mmc :=
  let b := m.mbx
  if b.busy || b.resp || decide (b.len.toNat < 32) || decide (8192 < b.len.toNat) then { m with mbx := { b with refused := true } }
  else { m with
    mbx := { b with busy := true }
    held := m.held ++ [(.mailbox, Tab.range 0 b.req 0 b.len.toNat)] }

/-- A write of MMC_MBX_CTL: its fields, then SUBMIT against the state found, then ACK (assumption 59). -/
def Mmc.writeMbx (m : Mmc) (w : BitVec 32) : Mmc :=
  let m := { m with mbx := { m.mbx with
    ien := w.getLsbD 2
    vector := w.extractLsb' 3 10
    len := w.extractLsb' 16 14 } }
  let resp := m.mbx.resp
  let m := if w.getLsbD 0 then m.submit else m
  if w.getLsbD 1 ∧ resp = true then { m with mbx := { m.mbx with resp := false } } else m

/-- The MMC block; devices do not reach it (R502, R518). -/
def State.writeMmc (s : State) (o : Nat) (x : RegWr) : State :=
  if x.dev then s
  else if o = 0 then s.modMmc fun m => m.writeMbx x.lo
  else if o = 8 then
    if x.raw.getLsbD 2 then s.modMmc fun m => { m with mbx := { m.mbx with refused := false } } else s
  else if 0x1000 ≤ o ∧ o < 0x3000 then
    s.modMmc fun m => { m with mbx := { m.mbx with req := Tab.setRange 0 m.mbx.req (o - 0x1000) (toLE 8 x.w.toNat) } }
  else if o = 0x8000 then s.writePwrCap x.lo
  else s

/-- FAB_PLAN's and FAB_REPL's fields, their reserved bits 0. -/
def planMask : BitVec 256 := 0xFFFFFFFFFFFFFFFFFFFFFFFFFFFFFFFF000000003FFFFF01#256
def replMask : BitVec 256 := 0x1FFFFFFFFFFFFFFFFFFFFFFFF#256

/-- A 256-bit register with its 64-bit word `i` replaced. -/
def setWord256 (v : BitVec 256) (i : Nat) (w : BitVec 64) : BitVec 256 :=
  (v &&& ~~~((BitVec.allOnes 64).zeroExtend 256 <<< (64 * i))) ||| (w.zeroExtend 256 <<< (64 * i))

/-- FAB; a plan entry written has its link evaluated again (11 R342). -/
def State.writeFab (s : State) (o : Nat) (x : RegWr) : State :=
  if o = 0 then s.writeFabCtl x.lo
  else if o = 8 then s.modFab fun f => if f.go then f else { f with nodeId := x.w.extractLsb' 0 16 }
  else if o = 0x20 then s.modFab fun f => if f.go then f else { f with hot := x.w.extractLsb' 0 8 }
  else if o = 0x28 then s.modFab fun f => { f with bcast := x.w.extractLsb' 0 48 }
  else if o = 0xFF8 then s.modFab fun f => { f with unlocked := x.key f.unlocked }
  else if 0x1000 ≤ o ∧ o < 0x1600 then
    let l := (o - 0x1000) / 32
    (s.modFab fun f => { f with
      plan := Tab.set 0 f.plan l (setWord256 (Tab.get 0 f.plan l) (o % 32 / 8) x.w &&& planMask) }).reevaluate l
  else if 0x4000 ≤ o ∧ o < 0x4200 then
    let r := (o - 0x4000) / 32
    s.modFab fun f => { f with
      repl := Tab.set 0 f.repl r (setWord256 (Tab.get 0 f.repl r) (o % 32 / 8) x.w &&& replMask) }
  else if 0x100000 ≤ o ∧ o < 0x100000 + 0xFFFF * 8 then s.writeRoute ((o - 0x100000) / 8) x.w
  else s

def Lpd.writeReg (l : Lpd) (o : Nat) (x : RegWr) : Lpd :=
  if o = 0 then l.writeCtl x.lo
  else if o = 0x18 then if x.raw.getLsbD 63 then { l with err := { l.err with valid := false } } else l
  else if o = 0x20 then if l.go then l else { l with
    thresh := x.w.extractLsb' 0 8
    remapEn := x.w.getLsbD 8 }
  else if o = 0xFF8 then { l with unlocked := x.key l.unlocked }
  else l

/-- A register of a thread context (03). -/
def State.writeCtx (s : State) (c t o : Nat) (x : RegWr) : State :=
  match o with
  | 0x08 => s.modThread c t fun th =>
    if [TState.free, .done, .stopped, .faulted].contains th.state then { th with pc := x.w &&& 0x3FFFFF8 } else th
  | 0x10 => s.modThread c t fun th => { th with fpstat := th.fpstat &&& ~~~(x.raw.extractLsb' 0 4) }
  | 0x18 => s.writeCtxMode c t x.lo
  | 0x20 => s.modThread c t fun th => { th with fault := { th.fault with valid := th.fault.valid && !x.raw.getLsbD 31 } }
  | 0x30 => s.writeCtxCtl c t x.raw.toNat
  | 0x38 => s.modThread c t fun th => { th with args := Tab.set 0 th.args 0 x.w }
  | 0x40 => s.modThread c t fun th => { th with args := Tab.set 0 th.args 1 x.w }
  | 0x48 => s.modThread c t fun th => { th with args := Tab.set 0 th.args 2 x.w }
  | 0x50 => s.modThread c t fun th => { th with args := Tab.set 0 th.args 3 x.w }
  | _ => s

/-- A register of an array; a diked core's array answers a GO only (R164). -/
def State.writeArr (s : State) (c a o : Nat) (x : RegWr) : State :=
  match o with
  | 0x00 => s.writeMaCtl c a x.lo
  | 0x08 => if x.raw.getLsbD 8 then s.setArr c a { s.arr c a with chkFail := false } else s
  | 0x30 => if x.raw.getLsbD 0 then s.stestStart c a else s
  | _ => s

/-- A register of core `c`'s block. A diked core's block ignores writes (R420), but a START there writes CTX_BUSY (R64)
and a GO of an array CORE_FENCED (R164) (assumption 94). -/
def State.writeCore (s : State) (c o : Nat) (x : RegWr) : State :=
  if (s.core c).diked then
    if 0x3000 ≤ o ∧ o < 0x3400 ∧ o % 0x100 = 0 then s.writeMaCtl c ((o - 0x3000) / 0x100) x.lo
    else if 0x1000 ≤ o ∧ o < 0x2000 ∧ o % 0x80 = 0x30 then s.writeCtx c ((o - 0x1000) / 0x80) 0x30 x
    else s
  else if o = 0x10 then s.modCore c fun k => { k with semOvf := k.semOvf &&& ~~~x.raw }
  else if 0x800 ≤ o ∧ o < 0xA00 then s.semAdd c ((o - 0x800) / 8) (x.raw.extractLsb' 0 8).toNat
  else if 0xC00 ≤ o ∧ o < 0xE00 then if x.hit 0 then s.semSet c ((o - 0xC00) / 8) (x.w.extractLsb' 0 16) else s
  else if o = 0xFF8 then s.modCore c fun k => { k with unlocked := x.key k.unlocked }
  else if 0x1000 ≤ o ∧ o < 0x2000 then s.writeCtx c ((o - 0x1000) / 0x80) (o % 0x80) x
  else if 0x3000 ≤ o ∧ o < 0x3400 then s.writeArr c ((o - 0x3000) / 0x100) (o % 0x100) x
  else if o = 0x3600 then s.modCore c fun k => { k with spdUeValid := k.spdUeValid && !x.raw.getLsbD 63 }
  else s

/-- A write to the word at an aligned offset. The queue, doorbell and MSI-X ranges ignore devices (R421). -/
def State.writeAt (s : State) (o : Nat) (x : RegWr) : State :=
  if s.regAsleep o then s
  else if o < 0x1000 then s.writeDev o x
  else if 0x10000 ≤ o ∧ o < 0x60000 ∧ x.dev = true then s
  else if 0x10000 ≤ o ∧ o < 0x10200 then
    if x.hit 0 then s.modQueue ((o - 0x10000) / 8) fun k => k.setTail (x.raw.extractLsb' 0 16) else s
  else if 0x10800 ≤ o ∧ o < 0x10A00 then if x.hit 0 then s.cqHead ((o - 0x10800) / 8) (x.raw.extractLsb' 0 16) else s
  else if 0x20000 ≤ o ∧ o < 0x21000 then s.writeQueue ((o - 0x20000) / 0x40) (o % 0x40) x
  else if 0x50000 ≤ o ∧ o < 0x54000 then s.writeMsix o x
  else if 0x70000 ≤ o ∧ o < 0x80000 then s.writeErr (o - 0x70000) x.w x.hit
  else if o = 0x80000 then s.writePerturbCtl (x.w.getLsbD 0)
  else if 0x80100 ≤ o ∧ o < 0x80500 then
    let i := (o - 0x80100) / 16
    let e := (Tab.get PerturbEnt.init s.err.ents i).word
    s.writePerturbEnt i (if o % 16 = 0 then e.extractLsb' 64 64 ++ x.w else x.w ++ e.extractLsb' 0 64)
  else if 0x100000 ≤ o ∧ o < 0x101000 then s.writeHub (o - 0x100000) x
  else if 0x120000 ≤ o ∧ o < 0x124000 then s.writePil ((o - 0x120000) / 0x1000) (o % 0x1000) x
  else if 0x140000 ≤ o ∧ o < 0x148000 then s.writeTkl ((o - 0x140000) / 0x1000) (o % 0x1000) x
  else if 0x180000 ≤ o ∧ o < 0x181000 then s.writeTb (o - 0x180000) x
  else if 0x200000 ≤ o ∧ o < 0x210000 then s.writeCol (o - 0x200000) x
  else if 0x300000 ≤ o ∧ o < 0x310000 then s.writeMmc (o - 0x300000) x
  else if 0x1000000 ≤ o ∧ o < 0x1200000 then s.writeFab (o - 0x1000000) x
  else if 0x2000000 ≤ o ∧ o < 0x2080000 then
    let d := (o - 0x2000000) / 0x20000
    let s := s.modLpd d fun l => l.writeReg (o % 0x20000) x
    -- a lower THRESH, or REMAP_EN, makes rows due that were counted before (08 R257)
    if o % 0x20000 = 0x20 then (List.range 24).foldl (fun s ch => s.remapDue d ch) s else s
  else if 0x2100000 ≤ o ∧ o < 0x2104000 then
    if o % 0x1000 < 0x200 then s.writeBarCfg ((o - 0x2100000) / 0x1000) (o % 0x1000 / 8) x.lo else s
  else match s.coreAt o with
    | some (c, site) => if site && !(s.core c).unlocked then s else s.writeCore c (o % 0x4000) x
    | none => s

/-- The write of the bytes `d`, which lie in one word. -/
def State.regWrite (s : State) (dev : Bool) (off : Nat) (d : Bytes) : State :=
  let o := off / 8 * 8
  let sh := 8 * (off % 8)
  let raw := BitVec.ofNat 64 (fromLE d) <<< sh
  let mask := BitVec.ofNat 64 (2 ^ (8 * d.length) - 1) <<< sh
  let old := if s.regAsleep o then 0 else BitVec.ofNat 64 (s.regWord o)
  s.writeAt o ⟨dev, mask, raw, (old &&& ~~~mask) ||| raw⟩

/-- A write to the register range: 4 or 8 aligned bytes, or discarded and recorded (R416); a block of a die in reset
discards it, which the host's record shows as an access before READY (R419). -/
def State.writeReg (s : State) (dev : Bool) (off : Nat) (d : Bytes) : State :=
  if (d.length = 4 ∨ d.length = 8) ∧ off % d.length = 0 then
    if !dev && s.regAsleep (off / 8 * 8) then s.hostErr 4 off false else s.regWrite dev off d
  else s.hostErr 1 off false

/-! ## Commands -/

/-- A host write through BAR0. -/
def execBar0Write (off : Nat) (d : Bytes) (s : State) : Outcome State Fault Refusal :=
  if 0 < d.length ∧ off + d.length ≤ regSize then
    if s.decodes then .next (s.writeReg false off d) else .next s
  else .refused .illFormed

/-- A well-formed host write of a register without a behaviour of its own (R9). -/
def execRegisterWrite (off size : Nat) (v : BitVec 64) (s : State) : Outcome State Fault Refusal :=
  if (size = 4 ∨ size = 8) ∧ off % size = 0 ∧ off + size ≤ regSize then
    if s.decodes then .next (s.writeReg false off (toLE size v.toNat)) else .next s
  else .refused .illFormed

/-- `off` is the offset of an EXPERT register (13, Expert controls). -/
def State.isExpert (s : State) (off : Nat) : Bool :=
  [0xFF8, 0x180FF8, 0x200FF8, 0x1000FF8].contains off
    || (List.range 4).any (fun d => off == 0x120FF8 + d * 0x1000 || off == 0x2000FF8 + d * 0x20000)
    || (List.range 8).any (fun n => off == 0x140FF8 + n * 0x1000)
    || (off % 0x4000 == 0xFF8 && (s.coreAt off).isSome)

/-- A host write of an EXPERT register (R439, R440). -/
def execExpertKeyWrite (off : Nat) (key : BitVec 16) (s : State) : Outcome State Fault Refusal :=
  if s.isExpert off = true then
    if s.decodes then .next (s.writeReg false off (toLE 4 key.toNat)) else .next s
  else .refused .illFormed

/-- A host write of MMC_MBX_CTL with SUBMIT. -/
def execMmcMbxSubmit (w : BitVec 32) (s : State) : Outcome State Fault Refusal :=
  if w.getLsbD 0 = true then .next (s.byHost (s.modMmc fun m => m.writeMbx w)) else .refused .illFormed

/-- A host write of ACK; the other fields are written as they read. -/
def execMmcMbxAck (s : State) : Outcome State Fault Refusal :=
  .next (s.byHost (s.modMmc fun m => { m with mbx := { m.mbx with resp := false } }))

end Sys2Proof.Machine
end

