-- ==== Sys2Proof/Machine/Transfers.lean ====
section
/-! DEFINITION. The transfers of threads in stream pumps and host pumps (04 R127, R128; 11 R357; 13 R421, R423, R435): a
transfer reads its source when a pump takes it and writes its destination at its end. -/

namespace Sys2Proof.Machine

open Host (Outcome)

/-! ## Any place, registers included (13 R421; assumption 21) -/

/-- Reads `n` bytes at a device address for a pump. -/
def State.readAny (s : State) (a n cls : Nat) : Except (BitVec 8) Bytes × State :=
  match s.regAt a n with
  | some off =>
    let r := s.readReg off n
    (.ok r.1, r.2)
  | none => s.readMem a n cls

/-- Writes a piece at a device address for a pump. -/
def State.writeAny (s : State) (a : Nat) (d : Bytes) (cls : Nat) : Except (BitVec 8) Unit × State :=
  match s.regAt a d.length with
  | some off => (.ok (), s.writeReg true off d)
  | none => s.writeMem a d cls

/-! ## The start of a transfer -/

/-- PUT (R127, R357): rows go as PUT packets of at most 248 bytes; a failed read stops after the rows before it. -/
def State.startPut (s : State) (o : AsyncOp) (d p : Nat) (node : BitVec 16) : State :=
  let da := descAt o.d (iDa o.word); let dd := descAt o.d (iDd o.word)
  let r := State.readSegs State.readAny 1 s da.segs
  let f := r.2.2.failAt o.core r.2.1
  let x := d * 8 + p
  let s := f.2.addRun { newRun false d p (some o.id) none with err := f.1 }
  let ws := cutSegs (dd.segs.take r.1.length) r.1.flatten
  let pk := ws.flatMap fun w => packetsOf (w.data.length + 1) ⟨w.addr, w.data.length, 0, .wr w.data, []⟩
  pk.foldl (fun s a => match a.op with
    | .wr b =>
      if node = 0xFFFF then s.broadcast (pumpEng x) (wrBody node a.addr b)
      else s.pumpRequest x 3 node a.addr a.len (wrBody node a.addr b) 0
    | _ => s) s

/-- GET: RD packets of at most 256 bytes. -/
def State.startGet (s : State) (o : AsyncOp) (d p : Nat) (node : BitVec 16) : State :=
  let da := descAt o.d (iDa o.word); let dd := descAt o.d (iDd o.word)
  let x := d * 8 + p
  let s := s.addRun (newRun false d p (some o.id) none)
  (remoteChunks 256 da.segs dd.segs).foldl (fun s k =>
    s.pumpRequest x 1 (s.replicaOf node k.1) k.1 k.2.2 (rdBody node k.1 k.2.2) k.2.1) s

/-- The pieces of this module that a pump reads for operation `o`. -/
def AsyncOp.reads (o : AsyncOp) : List (Nat × Nat) :=
  if iSubP o.word = 2 ∨ iSubP o.word = 4 then [] else (descAt o.d (iDa o.word)).segs

/-- A stream pump takes operation `o` (R127). -/
def State.startStream (s : State) (o : AsyncOp) (d p : Nat) : State :=
  let w := o.word
  let da := descAt o.d (iDa w); let dd := descAt o.d (iDd w)
  let node := o.ra.extractLsb' 0 16
  if iSubP w = 0 then
    let r := State.readSegs State.readAny 1 s da.segs
    let f := r.2.2.failAt o.core r.2.1
    f.2.addRun { newRun false d p (some o.id) none with
      writes := cutSegs (dd.segs.take r.1.length) r.1.flatten
      err := f.1 }
  else if iSubP w = 3 then
    if s.reachable node true || (node == 0xFFFF && s.fab.node != 0xFFFF) then s.startPut o d p node
    else s.opFail o cUnreach 4
  else if (remoteChunks 256 da.segs dd.segs).all fun k => s.reachable (s.replicaOf node k.1) false then
    s.startGet o d p node
  else s.opFail o cUnreach 4

/-- A host pump takes operation `o`; while DEV_CTL.GO is 0 it ends with HOST_ABORT (R423). -/
def State.startHost (s : State) (o : AsyncOp) (p : Nat) : State :=
  let w := o.word
  let da := descAt o.d (iDa w); let dd := descAt o.d (iDd w)
  let s := (s.perturb 8 1 p).2
  if iSubP w = 1 then
    let r := State.readSegs State.readAny 2 s da.segs
    let f := r.2.2.failAt o.core r.2.1
    f.2.addRun { newRun true 0 p (some o.id) none with
      hostWrites := [⟨o.ra.toNat, r.1.flatten⟩]
      moved := r.1.flatten.length
      err := f.1 }
  else
    let n := (dd.segs.map Prod.snd).sum
    s.addRun { newRun true 0 p (some o.id) none with
      writes := cutSegs dd.segs (s.hostBytes o.ra.toNat n)
      moved := n }

/-- The lowest free host pump of the thread pool, QPUMPS to 15 (R435). -/
def State.threadHostPump (s : State) : Option Nat :=
  (List.range 16).find? fun p => decide (s.dev.qpumps.toNat ≤ p) && s.pumpFree true 0 p

/-- A transfer issued earlier waits for a pump of the thread pool: waiting transfers are served in order of arrival
(R435). -/
def State.earlierHost (s : State) (id : Nat) : Bool :=
  (List.range s.lcores).any fun c => s.awake c && (s.core c).hostQ.any fun e => decide (e < id)

/-- Takes the head of core `c`'s host queue. -/
def State.takeHost (s : State) (c p : Nat) (o : AsyncOp) : State :=
  let pop := fun s : State => s.modCore c fun k => { k with hostQ := k.hostQ.drop 1 }
  if !s.dev.go then (pop s).opFail o cHostAbort 5
  else if s.threadHostPump = some p ∧ s.earlierHost o.id = false then s.ifReach none o.reads fun s => (pop s).startHost o p else s

/-- Pump `p` suits the operation: any does, or the one that PSEL names. -/
def AsyncOp.suits (o : AsyncOp) (p : Nat) : Bool := iPsel o.word == 0 || iPsel o.word == p + 8

/-- A head of the same die that reached its place earlier and that a free pump can take (R127). -/
def State.earlierHead (s : State) (c : Nat) (id : Nat) : Bool :=
  ((s.pumpHeads.takeWhile (· != (c, id))).filter fun e => s.dieOf e.1 == s.dieOf c && s.awake e.1).any fun e =>
    match s.op? e.2 with
    | some o => (List.range 8).any fun p => s.pumpFree false (s.dieOf c) p && o.suits p
    | none => false

/-- Takes the head of core `c`'s stream queue: any free pump, or the one that PSEL names, in the order of the heads. -/
def State.takeStream (s : State) (c p : Nat) (o : AsyncOp) : State :=
  let s := s.syncHeads
  if s.pumpFree false (s.dieOf c) p && o.suits p && !s.earlierHead c o.id then
    s.ifReach (some (s.dieOf c)) o.reads fun s =>
      ((s.modCore c fun k => { k with pumpQ := k.pumpQ.drop 1 }).syncHeads).startStream o (s.dieOf c) p
  else s

def execPumpTransferStart (c : Nat) (host : Bool) (p : Nat) (s : State) : Outcome State Fault Refusal :=
  if c < s.lcores ∧ p < (if host then 16 else 8) then
    let k := s.core c
    if !s.awake c then .next s
    else match (if host then k.hostQ else k.pumpQ) with
    | [] => .next s
    | id :: _ =>
      match s.op? id with
      | none => .next s
      | some o => .next (if host then s.takeHost c p o else s.takeStream c p o)
  else .refused .illFormed

/-! ## The end of a transfer -/

/-- The transfer in a pump ends once no remote piece is outstanding. Stream pumps are numbered die × 8 + pump. -/
def execPumpTransferComplete (host : Bool) (p : Nat) (s : State) : Outcome State Fault Refusal :=
  if p < (if host then 16 else 32) then
    match s.pumps.find? fun r => r.host == host && (if host then r.pump == p else r.die * 8 + r.pump == p) with
    | none => .next s
    | some r =>
      if r.waiting.isEmpty then .next (s.ifReach r.side (outSegs r.writes) fun s => s.endRun State.writeAny r)
      else .next s
  else .refused .illFormed

end Sys2Proof.Machine
end

