-- ==== Sys2Proof/Machine/External.lean ====
section
/-! DEFINITION. How external requests and asynchronous operations end outside the rules of their units: the return of a
response (03 R60, R62, R72, R73, R77, R539; 13 R421), and an error status that reaches an operation (04 R107, R542). -/

namespace Sys2Proof.Machine

open Host (Outcome)

/-! ## Performing the parts -/

/-- A part on the register range, as a host access (13 R421; assumption 60); an atomic there is no access that the manual
gives (assumption 23). -/
def State.performReg (s : State) (c off : Nat) (p : Part) : Part × State :=
  match p.op with
  | .rd =>
    let r := s.readReg off p.len
    ({ p with res := some r.1 }, r.2)
  | .wr d => ({ p with res := some [] }, s.writeReg true off d)
  | .atom _ _ _ _ =>
    let d := s.destVal c p.addr
    ({ p with err := some (cAddrInvalid, d.1) }, d.2)

/-- Part `i` of request `r` is given its outcome. -/
def State.putPart (s : State) (c t r i : Nat) (p : Part) : State :=
  s.modThread c t fun th => { th with reqs := th.reqs.map fun q => if q.id = r then { q with parts := q.parts.set i p } else q }

/-- Performs part `i` of the request if it is pending: a register access, or the sector request that it belongs to. -/
def State.performAt (s : State) (c t r i : Nat) : State :=
  match ((s.thread c t).reqs.find? fun q => q.id == r).bind fun q => q.parts[i]? with
  | none => s
  | some p =>
    if !p.pending then s
    else match s.regAt p.addr p.len with
      | some off =>
        let x := s.performReg c off p
        x.2.putPart c t r i x.1
      | none => s.serveSid c 0 p.sid

/-- The parts other than LPDDR and remote ones, in order. -/
def State.performReq (s : State) (c t r n : Nat) : State := (List.range n).foldl (fun s i => s.performAt c t r i) s

/-- No bundle on the way of the part is down: between the core's die and the memory, or the hub for a remote part
(01 R14). -/
def State.partPath (s : State) (c : Nat) (p : Part) : Bool :=
  if p.node.isSome then s.pilUp (s.dieOf c) else s.pathUp (s.dieOf c) p.addr

/-- A part that something else still has to serve: a remote node, or an LPDDR controller. -/
def State.partWaits (s : State) (p : Part) : Bool := p.res.isNone && p.err.isNone && (p.node.isSome || s.inLpd p)

/-! ## The response -/

/-- Lane `i` as the parts returned it. -/
def Req.laneVal (r : Req) (i : Nat) : Option (BitVec 32) :=
  (r.parts.find? fun p => coversLane p.off p.len p.also i).bind fun p =>
    p.res.map fun d => laneWord p.off p.also d i

/-- The destination takes what was returned: an S register its extended value, a V register its lanes, unless a later
instruction has written them (R539). What failed is not written. -/
def Req.deliver (r : Req) (g : Regs) : Regs :=
  match r.dst with
  | .none => g
  | .s rd _ signed =>
    match r.superseded, r.parts.head?.bind Part.res with
    | false, some d => g.setS rd (extend signed d)
    | _, _ => g
  | .v rd lanes sup =>
    g.setV rd (setLanes (g.getV rd) (fun i => lanes.getLsbD i && !sup.getLsbD i && (r.laneVal i).isSome)
      fun i => (r.laneVal i).getD 0)

/-- What `q` delivers overtakes an earlier load `x` still outstanding to the same register: its value will be discarded
(R539). A load that fails has written nothing. -/
def Req.overtake (q x : Req) : Req :=
  if q.id ≤ x.id then x
  else match q.dst with
    | .none => x
    | .s rd _ _ => if (q.parts.head?.bind Part.res).isSome then x.overS rd else x
    | .v rd lanes _ => x.overV rd (BitVec.ofNat 64 (bitsOf 64 fun i => lanes.getLsbD i && (q.laneVal i).isSome))

/-- The last response returns: the destination, the slots, an error status, and the state that a stopping thread waits
for. -/
def State.answerReq (s : State) (c t : Nat) (r : Req) : State :=
  let s := s.modThread c t fun th => { th with
    regs := r.deliver th.regs
    reqs := (th.reqs.filter fun q => q.id != r.id).map r.overtake }
  let s := match r.parts.findSome? Part.err with
    | some e => s.threadError c t e.1 3 e.2 r.pc
    | none => s.modThread c t Thread.settle
  s.releaseMem c

/-- The response to request `r` of the thread. It cannot return before its remote and LPDDR parts have been served, nor
before an earlier access of the thread to the same bytes; a held line lets it wait (11 R367). -/
def execExternalResponse (c t r : Nat) (s : State) : Outcome State Fault Refusal :=
  if c < s.lcores ∧ t < 32 then
    let th := s.thread c t
    match th.reqs.find? fun q => q.id == r with
    | none => .next s
    | some q =>
      if q.parts.any s.partWaits || !q.parts.all (s.partPath c) || q.parts.any (fun p => p.pending && s.sidBlocked c p.sid)
      then .next s
      else match q.parts.findSome? fun p => if p.pending then s.lineAt (s.canon p.addr) p.len else none with
        | some x => .next (s.lineWait x)
        | none =>
          let s := s.performReq c t r q.parts.length
          match (s.thread c t).reqs.find? fun q => q.id == r with
          | some q => .next (s.answerReq c t q)
          | none => .next s
  else .refused .illFormed

/-! ## An operation's error status -/

/-- An array operation under way ends with an error status (R155, R182 for its bank). -/
def State.arrError (s : State) (c a : Nat) (r : ArrRun) (o : AsyncOp) (cause : BitVec 8) (dest : BitVec 4) : State :=
  let s := (s.modArr c a fun x => { x with run := x.run.filter fun q => q.op != o.id }).stestBegin c a
  let s := s.releaseMem c
  let s := s.partialWrites o r.writes r.flags
  let s := match o.lostBank cause with
    | some b =>
      let g := s.takeFree
      (g.2.freeBank c a b).modArr c a fun x => { x with run := x.run.map (ArrRun.spoil g.1 b) }
    | none => s
  let s := if r.counted then s.modArr c a fun x => x.count x.armed else s
  s.opFail o cause dest

/-- The array run, or the pump's transfer, of an operation. -/
def State.arrRunOf (s : State) (o : AsyncOp) : Option (Nat × ArrRun) :=
  (List.range 4).findSome? fun a => ((s.arr o.core a).run.find? fun r => r.op == o.id).map fun r => (a, r)

/-- An operation that a unit executes ends with an error status; one that waits in a queue cannot. -/
def State.opError (s : State) (o : AsyncOp) (cause : BitVec 8) (dest : BitVec 4) : State :=
  match s.arrRunOf o with
  | some (a, r) => s.arrError o.core a r o cause dest
  | none =>
    match (s.core o.core).sfuRun.filter fun r => r.op == o.id with
    | some r => ((s.modCore o.core fun k => { k with sfuRun := none }).partialWrites o r.writes r.flags).opFail o cause dest
    | none =>
      match s.pumps.find? fun r => r.op == some o.id with
      | some r =>
        let f := s.takeFree
        f.2.endRun State.writeAny { r with
          writes := r.writes.take ((Config.freeWord f.1).toNat % (r.writes.length + 1))
          hostWrites := r.hostWrites.take ((Config.freeWord f.1).toNat % (r.hostWrites.length + 1))
          err := some (cause, dest) }
      | none =>
        match s.col.buckets.find? fun b => b.locals.any fun x => x.op == o.id with
        | some b => (s.opFail o cause dest).abortBucket b.tag
        | none => s

/-- An error status returned by memory, the fabric or the host reaches operation `op` (R107). CHK_FAIL is the array's own
(`ARRAY_INSTRUCTION_END`). -/
def execOperationErrorStatus (op : Nat) (cause : BitVec 8) (dest : BitVec 4) (s : State) : Outcome State Fault Refusal :=
  if [cEcc, cAddrInvalid, cDiked, cUnreach, cFabTimeout, cHostAbort].contains cause ∧ dest.toNat ≤ 5 then
    match s.op? op with
    | some o => .next (s.opError o cause dest)
    | none => .next s
  else .refused .illFormed

end Sys2Proof.Machine
end

