-- ==== Sys2Proof/Machine/Mgmt.lean ====
section
/-! DEFINITION. The management protocol (16): frames, transports, signed requests (R485 to R487), held requests (R489), and
the commands. Fields whose widths the manual does not give go through `Config` (assumption 57). -/

namespace Sys2Proof.Machine

open Host (Outcome)

/-! ## Frames (table Management frame) -/

def frCmd (f : Bytes) : Nat := leField f 4 2
def frLen (f : Bytes) : Nat := leField f 6 2
def frSeq (f : Bytes) : Nat := leField f 8 8
def frAuth (f : Bytes) : Nat := leField f 0x12 1
def frPayload (f : Bytes) : Bytes := slice f 0x20 (frLen f)

/-- What the frame and its signature cover. -/
def frSigned (f : Bytes) : Bytes := f.take (0x20 + frLen f)
def frSig (f : Bytes) : Bytes := f.drop (0x20 + frLen f)

/-- A well-formed frame of a TYPE. -/
def frameOk (type : Nat) (f : Bytes) : Bool :=
  decide (0x20 ≤ f.length) && leField f 0 2 == 0x4D47 && leField f 2 1 == 1 && leField f 3 1 == type
    && decide (frLen f ≤ 6880) && decide (frAuth f ≤ 1) && leField f 0x13 1 == 0 && leField f 0x16 10 == 0
    && f.length == 0x20 + frLen f + 1280 * frAuth f

/-- The commands of the table Commands, and those marked Signed. -/
def mgmtListed (cmd : Nat) : Bool :=
  [1, 2, 3, 4, 5, 6, 0x10, 0x11, 0x12, 0x20, 0x21, 0x22, 0x23, 0x24, 0x30, 0x31, 0x32].contains cmd
def mgmtSigned (cmd : Nat) : Bool := [0x10, 0x11, 0x12, 0x20, 0x23, 0x30, 0x31, 0x32].contains cmd

/-- `n` free bytes of free value `k`. -/
def freeBytes (k n : Nat) : Bytes := (List.range n).map (Config.freeByte k)

/-- The response to request `f`. Its SOURCE is not given, nor what a frame too short for CMD and SEQ has echoed: free. -/
def respFrame (k : Nat) (f : Bytes) (status : Nat) (payload : Bytes) : Bytes :=
  let g := f ++ freeBytes k (16 - f.length)
  toLE 2 0x4D47 ++ [1, 1] ++ slice g 4 2 ++ toLE 2 payload.length ++ slice g 8 8 ++ toLE 2 status ++ [0, 0]
    ++ [Config.freeByte k 16, Config.freeByte k 17] ++ List.replicate 10 0 ++ payload

/-! ## Answers -/

/-- What a command answers, the state after it, and what is due once the response has been sent. -/
inductive After where
  | none | powerOn | module | off
  deriving DecidableEq, Repr

structure Ans where
  status : Nat
  payload : Bytes
  s : State
  after : After
  deriving DecidableEq, Repr

def Ans.ok (s : State) (payload : Bytes := []) : Ans := ⟨0, payload, s, .none⟩
def Ans.fail (s : State) (status : Nat) : Ans := ⟨status, [], s, .none⟩

/-- The hub answers through switch port SMG (R482). -/
def State.hubUp (s : State) : Bool := s.boot.main && s.boot.has 4

/-! ## Reading commands -/

/-- The ordering code (00, Ordering codes and grades). -/
def Fuses.code (f : Fuses) : Bytes :=
  ("SDA-T48-" ++ (if f.grade144 then "144" else "160") ++ (if f.l16 then "-L16" else "-L32")).toList.map fun c =>
    BitVec.ofNat 8 c.toNat

/-- The fuse word of the attestation report. -/
def State.fuseWord (s : State) : Nat :=
  let m := s.mmc
  m.minMmc + m.minHub * 2 ^ 8 + s.fuses.revoked.toNat * 2 ^ 16 + b2n s.fuses.debugLocked * 2 ^ 20
    + b2n m.ownerKey.isSome * 2 ^ 21

/-- VERSION and SVN of an image. -/
def Mmc.version (m : Mmc) (slotB : Bool) (kind : Nat) : Bytes := m.bytes (imageBase slotB kind + 8) 8

/-- INFO: its items, in the manual's order, then the stop reason and channel (17 R516). -/
def State.mgmtInfo (s : State) : Ans :=
  let m := s.mmc
  .ok s (Config.mgmtBody 1 [s.fuses.ident, s.fuses.serial, s.fuses.code, toLE 1 (b2n s.boot.slotB),
    [BitVec.ofNat 8 (b2n m.cur.confirmed), m.cur.fails],
    m.version false 1, m.version false 2, m.version true 1, m.version true 2,
    toLE 4 s.dev.statusWord, toLE 4 s.boot.causeWord, toLE 4 s.fuseWord, [s.boot.stop], toLE 2 s.boot.stopCh])

/-- A channel whose reading the model's state does not hold: a free value. -/
def State.freeRecord (s : State) (id unit : Nat) : Bytes × State :=
  let f := s.takeFree
  (teleRecord id unit 0 ((Config.freeWord f.1).extractLsb' 0 32).toInt, f.2)

/-- Several of them. -/
def State.freeRecords : State → List (Nat × Nat) → Bytes × State
  | s, [] => ([], s)
  | s, (id, unit) :: l =>
    let r := s.freeRecord id unit
    let q := State.freeRecords r.2 l
    (r.1 ++ q.1, q.2)

/-- TELEMETRY: the records of the channels that the mask names, in ascending order (17, Telemetry). -/
def State.mgmtTelemetry (s : State) (p : Bytes) : Ans :=
  if p.length ≠ 8 then .fail s 7
  else
    let mask := fromLE p
    let temps := if mask.testBit 0 then ((List.range 0x38).filter isChan).flatMap s.tempRecord else []
    let a := s.freeRecords (if mask.testBit 1 then [(0x40, 2), (0x41, 3), (0x42, 4), (0x43, 4)] else [])
    let b := a.2.freeRecords (if mask.testBit 2 then (List.range 11).map fun i => (0x50 + i, 2) else [])
    let clk := if mask.testBit 3 then ((List.range 4).flatMap fun d => teleRecord (0x60 + d) 5 0 ((s.die d).freq * 50 : Nat))
        ++ teleRecord 0x64 6 0 (s.pwr.duty : Nat) else []
    .ok b.2 (temps ++ a.1 ++ b.1 ++ clk)

/-- LOGREAD: the frames from the first number on. A read over the SMBus clears the alert up to the last (R492). -/
def State.mgmtLogread (s : State) (tr : Transport) (p : Bytes) : Ans :=
  match Config.mgmtArgs 3 p with
  | some [first, count] =>
    if 64 < count then .fail s 7
    else
      let es := (s.mmc.events.filter fun e => decide (first ≤ e.1)).take count
      let s := match tr, es.getLast? with
        | .smbus, some e => s.modMmc fun m => { m with smbRead := max m.smbRead (e.1 + 1) }
        | _, _ => s
      .ok s (es.flatMap Prod.snd)
  | _ => .fail s 7

/-- REGREAD: 8-byte words from a BAR0 offset. -/
def State.mgmtRegread (s : State) (p : Bytes) : Ans :=
  if !s.hubUp then .fail s 6
  else match Config.mgmtArgs 4 p with
    | some [off, count] =>
      if 128 < count ∨ off % 8 ≠ 0 ∨ regSize < off + 8 * count then .fail s 7
      else
        let r := s.readReg off (8 * count)
        .ok r.2 r.1
    | _ => .fail s 7

/-! ## Attestation (R500, R501) -/

/-- Bytes 0x40 to 0x4F: live, or as at the last READY; before the first READY with main power off they are free. -/
def State.reportHub (s : State) : Bytes × State :=
  if s.boot.main && s.boot.pll then (s.hubInfo, s)
  else if s.mmc.hubInfo.isEmpty then
    let f := s.takeFree
    (freeBytes f.1 16, f.2)
  else (s.mmc.hubInfo, s)

/-- The report, signed. -/
def State.report (s : State) (nonce : Bytes) (programs : Bool) : Bytes × State :=
  let m := s.mmc
  let h := s.reportHub
  let es := if programs then m.meas else m.meas.take 2
  let flags := b2n (!m.cur.confirmed) + b2n s.boot.slotB * 2 + b2n (!s.fuses.debugLocked) * 4
    + b2n (m.meas.length == 64) * 8
  let body := toLE 4 0x41545354 ++ [1, BitVec.ofNat 8 flags] ++ toLE 2 es.length ++ nonce
    ++ toLE 8 (if s.hubUp then s.tb.time.toNat else 0) ++ s.fuses.ident ++ h.1 ++ toLE 4 s.fuseWord
    ++ toLE 1 s.boot.rstClass.toNat ++ [s.boot.rstCount] ++ List.replicate 10 0 ++ m.mext ++ es.flatten
  (body ++ Config.falconSign body, h.2)

/-- ATTEST. Ten requests in the preceding second make it busy (R490): the model holds no time of requests, so that after ten
of them it is a free choice. -/
def State.mgmtAttest (s : State) (p : Bytes) : Ans :=
  match Config.mgmtArgs 6 p with
  | some [flags] =>
    if p.length < 32 then .fail s 7
    else
      let f := s.takeFree
      if 10 ≤ s.mmc.attests ∧ Config.freeBool f.1 = true then .fail f.2 5
      else
        let s := (if 10 ≤ s.mmc.attests then f.2 else s).modMmc fun m => { m with attests := m.attests + 1 }
        if flags.testBit 0 && !s.hubUp then .fail s 6
        else
          let r := s.report (p.take 32) (flags.testBit 0)
          .ok r.2 r.1
  | _ => .fail s 7

/-! ## Power and reset -/

/-- RESET: class 0 power-on, 1 module. -/
def State.mgmtReset (s : State) (p : Bytes) : Ans :=
  match Config.mgmtArgs 0x10 p with
  | some [0] => ⟨0, [], s.closeSession, .powerOn⟩
  | some [1] => ⟨0, [], s.closeSession, .module⟩
  | _ => .fail s 7

/-- POWER. An on that is not accepted answers a status that the manual does not give: free. -/
def State.mgmtPower (s : State) (p : Bytes) : Ans :=
  match Config.mgmtArgs 0x11 p with
  | some [0] => ⟨0, [], s.closeSession, .off⟩
  | some [1] =>
    let r := s.restore
    if r.1 then .ok (r.2.modBoot fun b => { b with off := false })
    else
      let f := r.2.takeFree
      .fail f.2 ((Config.freeWord f.1).toNat % 2 ^ 16)
  | _ => .fail s 7

/-- POWERCAP (table POWERCAP request payload). -/
def State.mgmtPowercap (s : State) (p : Bytes) : Ans :=
  let cap := leField p 0 2
  let fmin := leField p 2 1
  let duty := leField p 3 1
  if p.length = 8 ∧ (cap = 0 ∨ 1000 ≤ cap ∧ cap ≤ 3200) ∧ 12 ≤ fmin ∧ fmin ≤ 24 ∧ 2 ≤ duty ∧ duty ≤ 8 ∧ leField p 4 4 = 0 then
    .ok (s.modPwr fun x => { x with
      ownerCap := BitVec.ofNat 12 cap
      fmin := BitVec.ofNat 5 fmin
      dutymin := BitVec.ofNat 4 duty })
  else .fail s 7

/-! ## Update sessions (R490 to R497) -/

/-- The first byte of a slot and its size (table Flash layout). -/
def slotBase (slotB : Bool) : Nat := if slotB then 0x2800000 else 0x400000
def slotSize : Nat := 0x2400000

/-- The slot erased: its bytes read 0xFF. -/
def Mmc.eraseSlot (m : Mmc) (slotB : Bool) : Mmc :=
  let a := slotBase slotB
  { m with flash := Tab.drop (fun k => decide (a ≤ k) && decide (k < a + slotSize)) m.flash }

/-- The running MMC image copied into the other slot. -/
def Mmc.copyMmc (m : Mmc) (slotB : Bool) : Mmc :=
  let a := imageBase slotB 1
  let b := imageBase (!slotB) 1
  let es := m.flash.filter fun e => decide (a ≤ e.1) && decide (e.1 < a + 0x401000)
  { m with flash := es.foldl (fun t e => Tab.set 0xFF t (b + (e.1 - a)) e.2) m.flash }

/-- UPDATE_BEGIN. -/
def State.mgmtBegin (s : State) (tr : Transport) (p : Bytes) : Ans :=
  let m := s.mmc
  if m.session.isSome then .fail s 5
  else match Config.mgmtArgs 0x20 p with
    | some [mask] =>
      if mask = 0 ∨ 3 < mask then .fail s 7
      else
        let m := m.eraseSlot (!s.boot.slotB)
        let m := if mask.testBit 0 then m else m.copyMmc s.boot.slotB
        let n := m.sessions + 1
        let m := { m with session := some ⟨n, tr, BitVec.ofNat 2 mask, false⟩, sessions := n }
        .ok { s with mmc := m } (Config.mgmtBody 0x20 [toLE 4 n, toLE 1 (b2n (!s.boot.slotB))])
    | _ => .fail s 7

/-- The open session, if a request names it, from the transport that opened it where that matters. -/
def Mmc.sessionOf (m : Mmc) (n : Nat) (tr : Option Transport) : Option Session :=
  m.session.filter fun x => x.num == n && (match tr with | some t => x.tr == t | none => true)

/-- UPDATE_DATA. -/
def State.mgmtData (s : State) (tr : Transport) (p : Bytes) : Ans :=
  match Config.mgmtArgs 0x21 p with
  | some [n, kind, off] =>
    match s.mmc.sessionOf n (some tr) with
    | none => .fail s 0xA
    | some x =>
      let d := Config.mgmtData p
      if (kind = 1 ∧ x.mask.getLsbD 0 ∨ kind = 2 ∧ x.mask.getLsbD 1) ∧ d.length ≤ 4096
          ∧ off + d.length ≤ 0x1000 + bodyMax kind then
        .ok (s.modMmc fun m => { m with
          flash := Tab.setRange 0xFF m.flash (imageBase (!s.boot.slotB) kind + off) d
          session := some { x with verified := false } })
      else .fail s 7
  | _ => .fail s 7

/-- UPDATE_VERIFY: the MMC image, sent or copied, and the hub image when it was sent (R495). -/
def State.mgmtVerify (s : State) (tr : Transport) (p : Bytes) : Ans :=
  match Config.mgmtArgs 0x22 p with
  | some [n] =>
    match s.mmc.sessionOf n (some tr) with
    | none => .fail s 0xA
    | some x =>
      let slot := !s.boot.slotB
      let rs := s.imageStatus slot 1 :: if x.mask.getLsbD 1 then [s.imageStatus slot 2] else []
      let st := if rs.contains 8 then 8 else if rs.contains 9 then 9 else 0
      ⟨st, Config.mgmtBody 0x22 (rs.map (toLE 2)), s.modMmc fun m => { m with session := some { x with verified := st == 0 } },
        .none⟩
  | _ => .fail s 7

/-- UPDATE_COMMIT: a trial pointer that names the new slot, PREV the old one (R493). -/
def State.mgmtCommit (s : State) (p : Bytes) : Ans :=
  match Config.mgmtArgs 0x23 p with
  | some [n, flags] =>
    match s.mmc.sessionOf n none with
    | none => .fail s 0xA
    | some x =>
      if !x.verified then .fail s 8
      else
        let b := s.boot.slotB
        let s := (s.modMmc fun m => m.writePtr ⟨true, 0, !b, false, 0, b⟩).closeSession
        ⟨0, Config.mgmtBody 0x23 [toLE 4 s.mmc.cur.seq.toNat], s, if flags.testBit 0 then .powerOn else .none⟩
  | _ => .fail s 7

def State.mgmtAbort (s : State) (tr : Transport) (p : Bytes) : Ans :=
  match Config.mgmtArgs 0x24 p with
  | some [n] => if (s.mmc.sessionOf n (some tr)).isSome then .ok s.closeSession else .fail s 0xA
  | _ => .fail s 7

/-! ## Owner and network -/

def State.mgmtOwnerSet (s : State) (p : Bytes) : Ans :=
  if p.length = 1793 then .ok (s.modMmc fun m => { m with ownerKey := some p }) (shake256 p 32) else .fail s 7

def State.mgmtNetcfg (s : State) (p : Bytes) : Ans :=
  match Config.mgmtArgs 0x32 p with
  | some _ =>
    let c := Config.netCollectors p
    if 4 < c.length then .fail s 7
    else .ok (s.modMmc fun m => { m with collectors := c, relay := Config.netRelay p, net := p })
  | none => .fail s 7

/-- A command without payload. -/
def noPayload (s : State) (p : Bytes) (a : Ans) : Ans := if p.isEmpty then a else .fail s 7

/-- A listed command, whose authority has been checked. -/
def State.mgmtDo (s : State) (tr : Transport) (cmd : Nat) (p : Bytes) : Ans :=
  match cmd with
  | 0x01 => noPayload s p s.mgmtInfo
  | 0x02 => s.mgmtTelemetry p
  | 0x03 => s.mgmtLogread tr p
  | 0x04 => s.mgmtRegread p
  | 0x05 => noPayload s p (.ok s Config.certificates)
  | 0x06 => s.mgmtAttest p
  | 0x10 => s.mgmtReset p
  | 0x11 => s.mgmtPower p
  | 0x12 => s.mgmtPowercap p
  | 0x20 => s.mgmtBegin tr p
  | 0x21 => s.mgmtData tr p
  | 0x22 => s.mgmtVerify tr p
  | 0x23 => s.mgmtCommit p
  | 0x24 => s.mgmtAbort tr p
  | 0x30 => s.mgmtOwnerSet p
  | 0x31 => noPayload s p (.ok (s.modMmc fun m => { m with ownerKey := none }))
  | 0x32 => s.mgmtNetcfg p
  | _ => .fail s 2

/-! ## Authority (R485 to R487) -/

/-- The signature verifies against the owner key. -/
def Mmc.verifies (m : Mmc) (f : Bytes) : Bool :=
  match m.ownerKey with
  | some k => Config.falconVerify k (frSigned f) (frSig f)
  | none => false

/-- The response to request `f` and what follows it. -/
def mgmtReply (f : Bytes) (a : Ans) : Bytes × After × State :=
  let k := a.s.takeFree
  (respFrame k.1 f a.status a.payload, a.after, k.2)

/-- A request that arrived on `tr`. -/
def State.mgmtRun (s : State) (tr : Transport) (f : Bytes) : Bytes × After × State :=
  let m := s.mmc
  let cmd := frCmd f
  if !frameOk 0 f then mgmtReply f (.fail s 1)
  else if frAuth f = 1 ∧ m.verifies f = false then mgmtReply f (.fail s 3)
  else if !mgmtListed cmd then mgmtReply f (.fail s 2)
  else if frAuth f = 1 then
    if m.ownerSeq < frSeq f then
      let s := s.modMmc fun m => { m with ownerSeq := frSeq f }
      let r := mgmtReply f (s.mgmtDo tr cmd (frPayload f))
      (r.1, r.2.1, r.2.2.modMmc fun m => { m with signed := some (f, r.1) })
    else match m.signed with
      | some (g, r) => if frSeq f = m.ownerSeq ∧ g = f then (r, .none, s) else mgmtReply f (.fail s 4)
      | none => mgmtReply f (.fail s 4)
  else if mgmtSigned cmd && !(cmd == 0x30 && tr == .smbus && m.ownerKey.isNone) then mgmtReply f (.fail s 3)
  else mgmtReply f (s.mgmtDo tr cmd (frPayload f))

/-! ## Transports (R489) -/

/-- The response goes out on the transport of its request. -/
def State.deliver (s : State) (tr : Transport) (r : Bytes) : State :=
  match tr with
  | .mga => s.emit (.frame 0 [] r)
  | .mgb => s.emit (.frame 1 [] r)
  | .smbus => s.modMmc fun m => { m with smb := { m.smb with busy := false, resp := some r, read := 0 } }
  | .mailbox =>
    let s := s.modMmc fun m => { m with mbx := { m.mbx with
      busy := false
      resp := true
      rlen := BitVec.ofNat 14 r.length
      rsp := Tab.setRange 0 m.mbx.rsp 0 r } }
    if s.mmc.mbx.ien then s.msixSend s.mmc.mbx.vector.toNat else s

/-- What is due once the response has been sent (R491). -/
def State.doAfter (s : State) (a : After) : State :=
  match a with
  | .none => s
  | .powerOn => s.powerOn
  | .module => if s.boot.main then s.moduleReset 3 else s
  | .off => (if s.boot.main then s.mainOff else s).modBoot fun b => { b with off := true }

/-- Executes a request and answers it. -/
def State.mgmtServe (s : State) (tr : Transport) (f : Bytes) : State :=
  let r := s.mgmtRun tr f
  (r.2.2.deliver tr r.1).doAfter r.2.1

/-- Executes the held requests in the order of their last bytes; a power-on reset ends them. -/
def State.drainHeld : Nat → State → State
  | 0, s => s
  | n + 1, s =>
    match s.mmc.held with
    | [] => s
    | (tr, f) :: rest => State.drainHeld n ((s.modMmc fun m => { m with held := rest }).mgmtServe tr f)

/-- A request on a network port arrives, and is executed after those that are held. A held one is executed when it is the
oldest. -/
def State.mgmtArrive (s : State) (tr : Transport) (f : Bytes) : State :=
  if !s.boot.has 2 then s
  else match tr with
    | .mga | .mgb =>
      let s := State.drainHeld s.mmc.held.length s
      if s.boot.has 2 then s.mgmtServe tr f else s
    | .smbus | .mailbox =>
      match s.mmc.held with
      | e :: rest => if e = (tr, f) then (s.modMmc fun m => { m with held := rest }).mgmtServe tr f else s
      | [] => s

/-- The command of a row. -/
def mgmtRow (cmd : Nat) (tr : Transport) (f : Bytes) (s : State) : Outcome State Fault Refusal :=
  if frameOk 0 f = true ∧ frCmd f = cmd then .next (s.mgmtArrive tr f) else .refused .illFormed

def execInfo (tr : Transport) (f : Bytes) (s : State) : Outcome State Fault Refusal := mgmtRow 0x01 tr f s
def execTelemetry (tr : Transport) (f : Bytes) (s : State) : Outcome State Fault Refusal := mgmtRow 0x02 tr f s
def execLogread (tr : Transport) (f : Bytes) (s : State) : Outcome State Fault Refusal := mgmtRow 0x03 tr f s
def execRegread (tr : Transport) (f : Bytes) (s : State) : Outcome State Fault Refusal := mgmtRow 0x04 tr f s
def execIdentity (tr : Transport) (f : Bytes) (s : State) : Outcome State Fault Refusal := mgmtRow 0x05 tr f s
def execAttest (tr : Transport) (f : Bytes) (s : State) : Outcome State Fault Refusal := mgmtRow 0x06 tr f s
def execReset (tr : Transport) (f : Bytes) (s : State) : Outcome State Fault Refusal := mgmtRow 0x10 tr f s
def execPower (tr : Transport) (f : Bytes) (s : State) : Outcome State Fault Refusal := mgmtRow 0x11 tr f s
def execPowercap (tr : Transport) (f : Bytes) (s : State) : Outcome State Fault Refusal := mgmtRow 0x12 tr f s
def execUpdateBegin (tr : Transport) (f : Bytes) (s : State) : Outcome State Fault Refusal := mgmtRow 0x20 tr f s
def execUpdateData (tr : Transport) (f : Bytes) (s : State) : Outcome State Fault Refusal := mgmtRow 0x21 tr f s
def execUpdateVerify (tr : Transport) (f : Bytes) (s : State) : Outcome State Fault Refusal := mgmtRow 0x22 tr f s
def execUpdateCommit (tr : Transport) (f : Bytes) (s : State) : Outcome State Fault Refusal := mgmtRow 0x23 tr f s
def execUpdateAbort (tr : Transport) (f : Bytes) (s : State) : Outcome State Fault Refusal := mgmtRow 0x24 tr f s
def execOwnerSet (tr : Transport) (f : Bytes) (s : State) : Outcome State Fault Refusal := mgmtRow 0x30 tr f s
def execOwnerClear (tr : Transport) (f : Bytes) (s : State) : Outcome State Fault Refusal := mgmtRow 0x31 tr f s
def execNetcfg (tr : Transport) (f : Bytes) (s : State) : Outcome State Fault Refusal := mgmtRow 0x32 tr f s

/-- A frame that is none of these. -/
def execBadFrame (tr : Transport) (f : Bytes) (s : State) : Outcome State Fault Refusal :=
  if frameOk 0 f = false ∨ mgmtListed (frCmd f) = false then .next (s.mgmtArrive tr f) else .refused .illFormed

/-- 600 s without a request of the session (R490). -/
def execUpdateSessionTimeout (s : State) : Outcome State Fault Refusal := .next s.closeSession

/-! ## SMBus -/

/-- A fragment; one whose PEC fails is discarded and sets bit 7 of the status. -/
def execSmbusFragmentWrite (d : Bytes) (pecOk : Bool) (s : State) : Outcome State Fault Refusal :=
  if 1 ≤ d.length ∧ d.length ≤ 32 then
    if !s.boot.has 2 then .next s
    else .next (s.modMmc fun m => { m with smb :=
      if pecOk then { m.smb with req := m.smb.req ++ d } else { m.smb with pecErr := true } })
  else .refused .illFormed

/-- The buffer is submitted: held, or BUSY at once while the previous request has not been answered (R489). -/
def execSmbusSubmit (s : State) : Outcome State Fault Refusal :=
  if !s.boot.has 2 then .next s
  else
    let f := s.mmc.smb.req
    if s.mmc.smb.busy then
      let r := mgmtReply f (.fail s 5)
      .next (r.2.2.modMmc fun m => { m with smb := { m.smb with req := [], resp := some r.1, read := 0 } })
    else .next (s.modMmc fun m => { m with
      smb := { m.smb with req := [], busy := true, resp := none, read := 0 }
      held := m.held ++ [(.smbus, f)] })

/-- The next fragment of the response. -/
def execSmbusFragmentRead (s : State) : Outcome State Fault Refusal :=
  if !s.boot.has 2 then .next s
  else .next (s.modMmc fun m =>
    let b := m.smb
    { m with smb := { b with out := slice (b.resp.getD []) b.read 32, read := b.read + 32 } })

/-- The transport status. -/
def Mmc.smbStatus (m : Mmc) : Nat :=
  b2n m.smb.busy + b2n m.smb.resp.isSome * 2 + b2n (decide (m.smbRead < m.eventNo)) * 4 + b2n m.smb.pecErr * 128

def execSmbusStatusRead (s : State) : Outcome State Fault Refusal :=
  if !s.boot.has 2 then .next s
  else .next (s.modMmc fun m => { m with smb := { m.smb with out := toLE 1 m.smbStatus } })

/-! ## Network -/

/-- A relayed event frame (R484): forwarded to the own collectors with the originating node in SOURCE; anything else is
discarded. -/
def execEventRelay (src : BitVec 16) (f : Bytes) (s : State) : Outcome State Fault Refusal :=
  if s.boot.has 2 && frameOk 2 f && frAuth f == 0 && decide (frLen f ≤ 208) then
    let g := f.take 0x14 ++ toLE 2 src.toNat ++ f.drop 0x16
    .next { s with out := s.out ++ s.mmc.collectors.map fun c => .frame c.1 c.2 g }
  else .next s

/-- A port answers ARP, NDP and ICMP echo. -/
def execNetworkEchoReply (tr : Transport) (f : Bytes) (s : State) : Outcome State Fault Refusal :=
  match tr with
  | .mga => if s.boot.has 2 then .next (s.emit (.frame 0 [] (Config.netReply 0 s.fuses.ident s.mmc.net f))) else .next s
  | .mgb => if s.boot.has 2 then .next (s.emit (.frame 1 [] (Config.netReply 1 s.fuses.ident s.mmc.net f))) else .next s
  | .smbus => .refused .illFormed
  | .mailbox => .refused .illFormed

end Sys2Proof.Machine
end

