-- ==== Sys2Proof/Machine/Scalar.lean ====
section
/-! DEFINITION. Scalar, branch and system instructions, and descriptor instructions (04 R104, R109 to R112, R116,
R540). -/

namespace Sys2Proof.Machine

open Host (Outcome)

/-- The second operand's table Scalar operations (R109): `none` for a SUB that is not listed. -/
def aluVal (sub : Nat) (a b : BitVec 64) : BitVec 64 :=
  let n := b.toNat % 64
  match sub with
  | 0x00 => a + b
  | 0x01 => a - b
  | 0x02 => a &&& b
  | 0x03 => a ||| b
  | 0x04 => a ^^^ b
  | 0x05 => a <<< n
  | 0x06 => a >>> n
  | 0x07 => a.sshiftRight n
  | 0x08 => if a.slt b then a else b
  | 0x09 => if a.slt b then b else a
  | 0x0A => if a.ult b then a else b
  | 0x0B => if a.ult b then b else a
  | 0x0C => if a = b then 1 else 0
  | 0x0D => if a.slt b then 1 else 0
  | 0x0E => if a.ult b then 1 else 0
  | 0x10 => a * b
  | 0x11 => BitVec.ofInt 64 (a.toInt * b.toInt / 2 ^ 64)
  | 0x12 => BitVec.ofNat 64 (a.toNat * b.toNat / 2 ^ 64)
  | 0x14 => if b = 0 then BitVec.allOnes 64 else BitVec.ofInt 64 (a.toInt.tdiv b.toInt)
  | 0x15 => if b = 0 then BitVec.allOnes 64 else a / b
  | 0x16 => if b = 0 then a else BitVec.ofInt 64 (a.toInt.tmod b.toInt)
  | 0x17 => if b = 0 then a else a % b
  | _ => 0

/-- The branch condition (R110). -/
def condHolds (cond : Nat) (a b : BitVec 64) : Bool :=
  match cond with
  | 0 => a == b
  | 1 => a != b
  | 2 => a.slt b
  | 3 => !a.slt b
  | 4 => a.ult b
  | 5 => !a.ult b
  | _ => false

/-- The target PC + 8 × OFF of a branch at `pc`. -/
def branchTo (pc : BitVec 64) (w : BitVec 64) : BitVec 64 := pc + (sext64 32 (iOffB w)) * 8

/-- MODESET and host writes of CTX_MODE obey R99: PL1 keeps SFU_COMPAT at 1. -/
def CtxMode.compatWrite (m : CtxMode) (b : Bool) : CtxMode := { m with sfuCompat := b || (m.pl1 && m.sfuCompat) }

def execNop (c t : Nat) (w : BitVec 64) (s : State) : Outcome State Fault Refusal :=
  issue 0x00 0 c t w s fun _ s => .done s

/-- HALT ends the thread under R60; the program counter stays past it. -/
def execHalt (c t : Nat) (w : BitVec 64) (s : State) : Outcome State Fault Refusal :=
  issue 0x01 0 c t w s fun _ s => effThread c t s fun th => th.stopTo .done

def execAlu (c t : Nat) (w : BitVec 64) (s : State) : Outcome State Fault Refusal :=
  issue 0x02 0 c t w s fun th s => effThread c t s fun u =>
    u.putS (iRd w) (aluVal (iSub w) (th.regs.getS (iRa w)) (th.regs.getS (iRb w)))

def execAlui (c t : Nat) (w : BitVec 64) (s : State) : Outcome State Fault Refusal :=
  issue 0x03 0 c t w s fun th s => effThread c t s fun u =>
    u.putS (iRd w) (aluVal (iSubI w) (th.regs.getS (iRa w)) (sext64 36 (iImm w)))

def execMovi (c t : Nat) (w : BitVec 64) (s : State) : Outcome State Fault Refusal :=
  issue 0x04 0 c t w s fun _ s => effThread c t s fun u => u.putS (iRd w) (sext64 45 (iImmL w))

/-- `a` with bits [16 k + 15 : 16 k] replaced by the low 16 bits of `x`. -/
def insert16 (a : BitVec 64) (k x : Nat) : BitVec 64 :=
  (a &&& ~~~(0xFFFF#64 <<< (16 * k))) ||| (BitVec.ofNat 64 (x % 2 ^ 16) <<< (16 * k))

def execMovk (c t : Nat) (w : BitVec 64) (s : State) : Outcome State Fault Refusal :=
  issue 0x05 0 c t w s fun th s => effThread c t s fun u =>
    u.putS (iRd w) (insert16 (th.regs.getS (iRd w)) (iSh w) (iImmL w))

def execCaprd (c t : Nat) (w : BitVec 64) (s : State) : Outcome State Fault Refusal :=
  issue 0x06 0 c t w s fun _ s => effThread c t s fun u => u.putS (iRd w) (s.capReg (ifld w 0 8))

/-- MODESET (R111): a locked core refuses an ARRAY or PRIO other than the default (R95). -/
def execModeset (c t : Nat) (w : BitVec 64) (s : State) : Outcome State Fault Refusal :=
  issue 0x07 0 c t w s fun _ s =>
    let wa := ifld w 9 1 == 1
    let wp := ifld w 10 1 == 1
    if !(s.core c).unlocked && ((wa && ifld w 1 2 != t % 4) || (wp && ifld w 3 2 != 0)) then .exc cExpert
    else effThread c t s fun u =>
      let m := if ifld w 8 1 = 1 then u.mode.compatWrite (ifld w 0 1 == 1) else u.mode
      { u with mode := { m with array := if wa then BitVec.ofNat 2 (ifld w 1 2) else m.array,
                                prio := if wp then BitVec.ofNat 2 (ifld w 3 2) else m.prio } }

/-- CCLK cycles of core `c` since its last reset (04, System values). -/
def State.cycleCount (s : State) (c : Nat) : Nat := (s.die (s.dieOf c)).cycles - (s.core c).cclkBase

/-- A system value (04, table System values). -/
def State.sysVal (s : State) (c t sub : Nat) (th : Thread) : BitVec 64 :=
  match sub with
  | 0 => BitVec.ofNat 64 t
  | 1 => BitVec.ofNat 64 c
  | 2 => BitVec.ofNat 64 (s.dieOf c)
  | 3 => th.fpstat.setWidth 64
  | 4 => BitVec.ofNat 64 (s.cycleCount c)
  | _ => BitVec.ofNat 64 (s.siteOf c)

def execSysrd (c t : Nat) (w : BitVec 64) (s : State) : Outcome State Fault Refusal :=
  issue 0x08 0 c t w s fun th s =>
    if iSubI w = 5 ∧ (s.core c).unlocked = false then .exc cExpert
    else effThread c t s fun u => u.putS (iRd w) (s.sysVal c t (iSubI w) th)

def execSyswr (c t : Nat) (w : BitVec 64) (s : State) : Outcome State Fault Refusal :=
  issue 0x09 0 c t w s fun th s => effThread c t s fun u =>
    { u with fpstat := u.fpstat &&& ~~~((th.regs.getS (iRa w)).extractLsb' 0 4) }

def execBr (c t : Nat) (w : BitVec 64) (s : State) : Outcome State Fault Refusal :=
  issue 0x10 0 c t w s fun th s => effThread c t s fun u =>
    if condHolds (iCond w) (th.regs.getS (iRa w)) (th.regs.getS (iRb w)) then { u with pc := branchTo th.pc w } else u

def execJmp (c t : Nat) (w : BitVec 64) (s : State) : Outcome State Fault Refusal :=
  issue 0x11 0 c t w s fun th s => effThread c t s fun u => { u with pc := branchTo th.pc w }

def execJal (c t : Nat) (w : BitVec 64) (s : State) : Outcome State Fault Refusal :=
  issue 0x12 0 c t w s fun th s => effThread c t s fun u =>
    { u.putS (iRd w) (th.pc + 8) with pc := branchTo th.pc w }

/-- JR: the target is formed before RD is written; a misaligned target raises ALIGN (R110). -/
def execJr (c t : Nat) (w : BitVec 64) (s : State) : Outcome State Fault Refusal :=
  issue 0x13 0 c t w s fun th s =>
    let target := branchTo (th.regs.getS (iRa w)) w
    if target.toNat % 8 ≠ 0 then .exc cAlign
    else effThread c t s fun u => { u.putS (iRd w) (th.pc + 8) with pc := target }

/-! ## Descriptors -/

/-- Bits of a descriptor field code: lowest bit and width (R116). -/
def descField : Nat → Nat × Nat
  | 0x00 => (0, 48)
  | 0x01 => (48, 4)
  | 0x02 => (52, 3)
  | 0x03 => (55, 1)
  | 0x04 => (56, 3)
  | 0x05 => (59, 1)
  | 0x06 => (64, 20)
  | 0x07 => (84, 32)
  | 0x08 => (116, 12)
  | 0x09 => (128, 32)
  | 0x0A => (160, 32)
  | 0x0B => (192, 16)
  | 0x10 => (0, 64)
  | 0x11 => (64, 64)
  | 0x12 => (128, 64)
  | _ => (192, 64)

/-- `d` with the `n`-bit field at `lo` replaced by the low bits of `x`. -/
def setField (d : BitVec 256) (lo n x : Nat) : BitVec 256 :=
  (d &&& ~~~(BitVec.ofNat 256 (2 ^ n - 1) <<< lo)) ||| (BitVec.ofNat 256 (x % 2 ^ n) <<< lo)

/-- The own-scratchpad offset of DLD and DST (R540). -/
def dOffset (th : Thread) (w : BitVec 64) : Nat := (th.regs.getS (iRaD w) + sext64 30 (iOff w)).toNat

/-- ADDR_FORM and ALIGN of DLD and DST, in the order of R106. -/
def dCheck (off : Nat) : Option (BitVec 8) :=
  if spadSize - 32 < off then some cAddrForm else if off % 32 ≠ 0 then some cAlign else none

/-- DLD (R540); CTX_FAULT.UNIT has no code for it, so that of its error status is free (assumption 24). -/
def execDld (c t : Nat) (w : BitVec 64) (s : State) : Outcome State Fault Refusal :=
  issue 0x20 0 c t w s fun th s =>
    let off := dOffset th w
    match dCheck off with
    | some e => .exc e
    | none => match s.readSpad c off 32 with
      | (.ok d, s) => effThread c t s fun u => u.putD (iDd w) (BitVec.ofNat 256 (fromLE d))
      | (.error e, s) =>
        let f := s.takeFree
        .done (f.2.threadError c t e ((Config.freeWord f.1).extractLsb' 0 3) 0 th.pc)

def execDst (c t : Nat) (w : BitVec 64) (s : State) : Outcome State Fault Refusal :=
  issue 0x21 0 c t w s fun th s =>
    let off := dOffset th w
    match dCheck off with
    | some e => .exc e
    | none => .done (s.writeSpad c off (toLE 32 (th.regs.getD (iDa w)).toNat)).2

def execDset (c t : Nat) (w : BitVec 64) (s : State) : Outcome State Fault Refusal :=
  issue 0x22 0 c t w s fun th s =>
    let f := descField (iField w)
    effThread c t s fun u =>
      u.putD (iDd w) (setField (u.regs.getD (iDd w)) f.1 f.2 (th.regs.getS (iRaD w)).toNat)

def execDget (c t : Nat) (w : BitVec 64) (s : State) : Outcome State Fault Refusal :=
  issue 0x23 0 c t w s fun th s =>
    let f := descField (iField w)
    effThread c t s fun u => u.putS (iRaD w) (BitVec.ofNat 64 (fieldNat (th.regs.getD (iDa w)).toNat f.1 f.2))

/-- DADV: BASE advances modulo 2^48, the other fields are copied. -/
def execDadv (c t : Nat) (w : BitVec 64) (s : State) : Outcome State Fault Refusal :=
  issue 0x24 0 c t w s fun th s =>
    let d := th.regs.getD (iDa w)
    let b := (d.extractLsb' 0 48).toNat + (th.regs.getS (iRaD w) + sext64 30 (iOff w)).toNat
    effThread c t s fun u => u.putD (iDd w) (setField d 0 48 b)

def execDmov (c t : Nat) (w : BitVec 64) (s : State) : Outcome State Fault Refusal :=
  issue 0x25 0 c t w s fun th s => effThread c t s fun u => u.putD (iDd w) (th.regs.getD (iDa w))

end Sys2Proof.Machine
end

