-- ==== Sys2Proof/Machine/Vector.lean ====
section
/-! DEFINITION. Vector and predicate instructions (04 R103, R120 to R122). -/

namespace Sys2Proof.Machine

open Host (Outcome)

/-- The floating-point format of a lane format FT. -/
def ftFmt : Nat → FFmt
  | 1 => bf16
  | 2 => fp16
  | _ => fp32

/-- FT names two 16-bit values per lane. -/
def ftPair (ft : Nat) : Bool := ft == 1 || ft == 2

/-- Half `h` of a lane. -/
def half (x : BitVec 32) (h : Nat) : Nat := (x.toNat >>> (16 * h)) % 2 ^ 16

/-- One floating-point VALU operation on codes of format `f` (R120). -/
def valuF (f : FFmt) (sub : Nat) (rm : RMode) (draw : BitVec 32) (a b c : Nat) : Nat × BitVec 4 :=
  let sgn := 2 ^ (f.mb + f.eb)
  match sub with
  | 0 => addF f rm draw a b
  | 1 => roundOp f rm draw ((decodeF f a).add rm (decodeF f b).neg)
  | 2 => mulF f rm draw a b
  | 3 => roundOp f rm draw (fmaV rm (decodeF f a) (decodeF f b) (decodeF f c))
  | 4 => minMaxF f false a b
  | 5 => minMaxF f true a b
  | 6 => (a % sgn, 0)
  | _ => (a ^^^ sgn, 0)

/-- One INT32 VALU operation (R120). -/
def valuI (sub : Nat) (a b : BitVec 32) : BitVec 32 :=
  let n := b.toNat % 32
  match sub with
  | 0x00 => a + b
  | 0x01 => a - b
  | 0x02 => a * b
  | 0x08 => a &&& b
  | 0x09 => a ||| b
  | 0x0A => a ^^^ b
  | 0x0B => a <<< n
  | 0x0C => a >>> n
  | 0x0D => a.sshiftRight n
  | 0x04 => if b.slt a then b else a
  | 0x05 => if a.slt b then b else a
  | 0x0E => if b.ult a then b else a
  | _ => if a.ult b then b else a

/-- ABS and NEG write the NaN they are given: NAN_OUT is set by a NaN written (02, CTX_FPSTAT). -/
def nanOut (f : FFmt) (r : Nat × BitVec 4) : Nat × BitVec 4 :=
  if (decodeF f r.1).isNan then (r.1, r.2 ||| fpNanOut) else r

/-- VALU on lane `i` (R120): the SR element index is i, or 2 i + h for half h. -/
def valuLane (ft sub : Nat) (rm : RMode) (i : Nat) (a b c : BitVec 32) : BitVec 32 × BitVec 4 :=
  if ft = 3 then (valuI sub a b, 0)
  else if ftPair ft then
    let f := ftFmt ft
    let lo := nanOut f (valuF f sub rm (srWord 0 0 (2 * i)) (half a 0) (half b 0) (half c 0))
    let hi := nanOut f (valuF f sub rm (srWord 0 0 (2 * i + 1)) (half a 1) (half b 1) (half c 1))
    (BitVec.ofNat 32 (lo.1 + hi.1 * 2 ^ 16), lo.2 ||| hi.2)
  else
    let r := nanOut fp32 (valuF fp32 sub rm (srWord 0 0 i) a.toNat b.toNat c.toNat)
    (BitVec.ofNat 32 r.1, r.2)

/-- The rounding mode of an instruction word; reserved codes are illegal before they reach here. -/
def iMode' (w : BitVec 64) : RMode := (rmodeOf (iRm w)).getD .rne

/-- The flags that a lane-wise operation sets over its guarded lanes. -/
def laneFlags (g : Nat → Bool) (f : Nat → BitVec 32 × BitVec 4) : BitVec 4 :=
  (List.range 64).foldl (fun a i => if g i then a ||| (f i).2 else a) 0

/-- Writes a lane-wise result and its flags. -/
def Thread.putLanes (th : Thread) (rd : Nat) (g : Nat → Bool) (f : Nat → BitVec 32 × BitVec 4) : Thread :=
  let u := th.putV rd g fun i => (f i).1
  { u with fpstat := u.fpstat ||| laneFlags g f }

def execValu (c t : Nat) (w : BitVec 64) (s : State) : Outcome State Fault Refusal :=
  issue 0x30 0 c t w s fun th s =>
    let a := th.regs.getV (iRa w)
    let b := th.regs.getV (iRb w)
    let d := th.regs.getV (iRc w)
    effThread c t s fun u => u.putLanes (iRd w) (th.laneGuard w) fun i =>
      valuLane (iFt w) (iSub w) (iMode' w) i (lane a i) (lane b i) (lane d i)

/-- The value of a source lane or half: FP32, INT32, or half `h` of a pair. -/
def srcVal (ft : Nat) (x : BitVec 32) (h : Nat) : FVal :=
  if ft = 3 then fvalOfInt x.toInt
  else if ftPair ft then decodeF (ftFmt ft) (half x h) else decodeF fp32 x.toNat

/-- VCVT of lane `i` (R121): `a`, `b` the source registers, `rb` the RB field, `base` the S register value of RC. -/
def vcvtLane (ft target : Nat) (rm : RMode) (rb : Nat) (base : Nat) (a b : BitVec 2048) (i : Nat) :
    BitVec 32 × BitVec 4 :=
  let draw := fun n => srWord 0 0 ((n + base) % 2 ^ 64)
  if target = 1 ∨ target = 2 then
    let lo := convFmt target rm (draw (2 * i)) (srcVal ft (lane a i) 0)
    let hi := convFmt target rm (draw (2 * i + 1)) (if ftPair ft then srcVal ft (lane a i) 1 else srcVal ft (lane b i) 0)
    (BitVec.ofNat 32 (lo.1 + hi.1 * 2 ^ 16), lo.2 ||| hi.2)
  else
    let n := if ftPair ft then 64 * rb + i else i
    let v := if ftPair ft then srcVal ft (lane a (n / 2)) (n % 2) else srcVal ft (lane a i) 0
    let r := convFmt target rm (draw n) v
    (BitVec.ofNat 32 r.1, r.2)

def execVcvt (c t : Nat) (w : BitVec 64) (s : State) : Outcome State Fault Refusal :=
  issue 0x31 0 c t w s fun th s =>
    let a := th.regs.getV (iRa w)
    let b := th.regs.getV (iRb w)
    let base := if iRm w = 4 then (th.regs.getS (iRc w)).toNat else 0
    effThread c t s fun u => u.putLanes (iRd w) (th.laneGuard w) fun i =>
      vcvtLane (iFt w) (iSub w) (iMode' w) (iRb w) base a b i

/-- A lane comparison (R121, VCMP). -/
def vcmpLane (ft cond rc : Nat) (a b : BitVec 32) : Bool :=
  if ft = 3 then
    match cond with
    | 0 => a == b
    | 1 => a != b
    | 2 => a.slt b
    | 3 => !b.slt a
    | 4 => b.slt a
    | 5 => !a.slt b
    | 6 => a.ult b
    | _ => !a.ult b
  else
    let x := srcVal ft a rc
    let y := srcVal ft b rc
    if x.isNan || y.isNan then cond == 1
    else match cond with
      | 0 => x.eqNum y
      | 1 => !x.eqNum y
      | 2 => x.ltNum y
      | 3 => !y.ltNum x
      | 4 => y.ltNum x
      | _ => !x.ltNum y

def execVcmp (c t : Nat) (w : BitVec 64) (s : State) : Outcome State Fault Refusal :=
  issue 0x32 0 c t w s fun th s =>
    let a := th.regs.getV (iRa w)
    let b := th.regs.getV (iRb w)
    effThread c t s fun u => u.putP (iRd w) (BitVec.ofNat 64 (bitsOf 64 fun i =>
      th.laneGuard w i && vcmpLane (iFt w) (iSub w) (iRc w) (lane a i) (lane b i)))

def execVsel (c t : Nat) (w : BitVec 64) (s : State) : Outcome State Fault Refusal :=
  issue 0x33 0 c t w s fun th s =>
    let a := th.regs.getV (iRa w)
    let b := th.regs.getV (iRb w)
    let p := th.regs.getP (iRc w)
    effThread c t s fun u => u.putV (iRd w) (th.laneGuard w) fun i => if p.getLsbD i then lane a i else lane b i

/-- VMOV SUB 0: the low 32 bits of RA to every guarded lane. -/
def execVmovBroadcast (c t : Nat) (w : BitVec 64) (s : State) : Outcome State Fault Refusal :=
  issue 0x34 0 c t w s fun th s =>
    effThread c t s fun u => u.putV (iRd w) (th.laneGuard w) fun _ => (th.regs.getS (iRa w)).extractLsb' 0 32

/-- VMOV SUB 1: the selected lane, zero-extended; no effect when that lane's guard is 0 (R103). -/
def execVmovExtract (c t : Nat) (w : BitVec 64) (s : State) : Outcome State Fault Refusal :=
  issue 0x34 1 c t w s fun th s =>
    let i := (th.regs.getS (iRb w)).toNat % 64
    effThread c t s fun u =>
      if th.laneGuard w i then u.putS (iRd w) ((lane (th.regs.getV (iRa w)) i).setWidth 64) else u

def execVmovIndex (c t : Nat) (w : BitVec 64) (s : State) : Outcome State Fault Refusal :=
  issue 0x34 2 c t w s fun th s => effThread c t s fun u => u.putV (iRd w) (th.laneGuard w) fun i => BitVec.ofNat 32 i

/-- One level of the pairwise tree of VRED FSUM: adds neighbours, with generator words from number `n` on. -/
def fsumPairs (rm : RMode) : List Nat → Nat → List Nat × BitVec 4
  | x :: y :: l, n =>
    let r := addF fp32 rm (srWord 0 0 n) x y
    let q := fsumPairs rm l (n + 1)
    (r.1 :: q.1, r.2 ||| q.2)
  | l, _ => (l, 0)

/-- The tree of R122: `lv` levels left, additions numbered from `n`, the next level having `k` of them. -/
def fsumTree (rm : RMode) : Nat → List Nat → Nat → Nat → Nat × BitVec 4
  | 0, l, _, _ => (l.headD 0, 0)
  | lv + 1, l, n, k =>
    let r := fsumPairs rm l n
    let q := fsumTree rm lv r.1 (n + k) (k / 2)
    (q.1, r.2 ||| q.2)

/-- FMAX or FMIN over the guarded lanes; with no guarded lane the NaN-free identity, −∞ or +∞ (R122). -/
def fminmax (isMax : Bool) (xs : List Nat) : Nat × BitVec 4 :=
  xs.foldl (fun a x => let r := minMaxF fp32 isMax a.1 x; (r.1, a.2 ||| r.2)) (if isMax then 0xFF800000 else 0x7F800000, 0)

/-- VRED (R122): the scalar result and the flags. ISUM adds the sign-extended lanes in 64 bits (assumption 121). -/
def vredVal (sub : Nat) (rm : RMode) (g : Nat → Bool) (a : BitVec 2048) : BitVec 64 × BitVec 4 :=
  let ls := (selectBelow 64 g).map (lane a)
  match sub with
  | 0 =>
    let r := fsumTree rm 6 ((List.range 64).map fun i => if g i then (lane a i).toNat else 0) 0 32
    let r := nanOut fp32 r
    (BitVec.ofNat 64 r.1, r.2)
  | 1 => let r := fminmax true (ls.map BitVec.toNat); (BitVec.ofNat 64 r.1, r.2)
  | 2 => let r := fminmax false (ls.map BitVec.toNat); (BitVec.ofNat 64 r.1, r.2)
  | 3 => (BitVec.ofInt 64 (ls.foldl (fun x y => x + y.toInt) 0), 0)
  | 4 => (BitVec.ofInt 64 (ls.foldl (fun x y => max x y.toInt) (-(2 ^ 31))), 0)
  | _ => (BitVec.ofInt 64 (ls.foldl (fun x y => min x y.toInt) (2 ^ 31 - 1)), 0)

def execVred (c t : Nat) (w : BitVec 64) (s : State) : Outcome State Fault Refusal :=
  issue 0x35 0 c t w s fun th s =>
    let r := vredVal (iSub w) (iMode' w) (th.laneGuard w) (th.regs.getV (iRa w))
    effThread c t s fun u => let u := u.putS (iRd w) r.1; { u with fpstat := u.fpstat ||| r.2 }

def execVperm (c t : Nat) (w : BitVec 64) (s : State) : Outcome State Fault Refusal :=
  issue 0x36 0 c t w s fun th s =>
    let a := th.regs.getV (iRa w)
    let b := th.regs.getV (iRb w)
    effThread c t s fun u => u.putV (iRd w) (th.laneGuard w) fun i => lane a ((lane b i).toNat % 64)

/-- Predicate logic (R122, PLOG). -/
def plogVal (sub : Nat) (a b sreg : BitVec 64) : BitVec 64 :=
  match sub with
  | 0 => a &&& b
  | 1 => a ||| b
  | 2 => a ^^^ b
  | 3 => a &&& ~~~b
  | 4 => ~~~a
  | _ => sreg

/-- PLOG keeps the bits of unguarded lanes (R103). -/
def execPlog (c t : Nat) (w : BitVec 64) (s : State) : Outcome State Fault Refusal :=
  issue 0x37 0 c t w s fun th s =>
    let g := BitVec.ofNat 64 (bitsOf 64 (th.laneGuard w))
    let v := plogVal (iSub w) (th.regs.getP (iRa w)) (th.regs.getP (iRb w)) (th.regs.getS (iRa w))
    effThread c t s fun u => u.putP (iRd w) ((v &&& g) ||| (u.regs.getP (iRd w) &&& ~~~g))

end Sys2Proof.Machine
end

