-- ==== Sys2Proof/Machine/Dispatch.lean ====
section
/-! DEFINITION. Each command of the table to its meaning, one arm per constructor. -/

namespace Sys2Proof.Machine

def exec (i : Instr) (s : State) : Host.Outcome State Fault Refusal :=
  match i with
  | .nop c t w => Sys2Proof.Machine.execNop c t w s
  | .halt c t w => Sys2Proof.Machine.execHalt c t w s
  | .alu c t w => Sys2Proof.Machine.execAlu c t w s
  | .alui c t w => Sys2Proof.Machine.execAlui c t w s
  | .movi c t w => Sys2Proof.Machine.execMovi c t w s
  | .movk c t w => Sys2Proof.Machine.execMovk c t w s
  | .caprd c t w => Sys2Proof.Machine.execCaprd c t w s
  | .modeset c t w => Sys2Proof.Machine.execModeset c t w s
  | .sysrd c t w => Sys2Proof.Machine.execSysrd c t w s
  | .syswr c t w => Sys2Proof.Machine.execSyswr c t w s
  | .br c t w => Sys2Proof.Machine.execBr c t w s
  | .jmp c t w => Sys2Proof.Machine.execJmp c t w s
  | .jal c t w => Sys2Proof.Machine.execJal c t w s
  | .jr c t w => Sys2Proof.Machine.execJr c t w s
  | .dld c t w => Sys2Proof.Machine.execDld c t w s
  | .dst c t w => Sys2Proof.Machine.execDst c t w s
  | .dset c t w => Sys2Proof.Machine.execDset c t w s
  | .dget c t w => Sys2Proof.Machine.execDget c t w s
  | .dadv c t w => Sys2Proof.Machine.execDadv c t w s
  | .dmov c t w => Sys2Proof.Machine.execDmov c t w s
  | .valu c t w => Sys2Proof.Machine.execValu c t w s
  | .vcvt c t w => Sys2Proof.Machine.execVcvt c t w s
  | .vcmp c t w => Sys2Proof.Machine.execVcmp c t w s
  | .vsel c t w => Sys2Proof.Machine.execVsel c t w s
  | .vmovBroadcast c t w => Sys2Proof.Machine.execVmovBroadcast c t w s
  | .vmovExtract c t w => Sys2Proof.Machine.execVmovExtract c t w s
  | .vmovIndex c t w => Sys2Proof.Machine.execVmovIndex c t w s
  | .vred c t w => Sys2Proof.Machine.execVred c t w s
  | .vperm c t w => Sys2Proof.Machine.execVperm c t w s
  | .plog c t w => Sys2Proof.Machine.execPlog c t w s
  | .lds c t w => Sys2Proof.Machine.execLds c t w s
  | .sts c t w => Sys2Proof.Machine.execSts c t w s
  | .ldv c t w => Sys2Proof.Machine.execLdv c t w s
  | .stv c t w => Sys2Proof.Machine.execStv c t w s
  | .gather c t w => Sys2Proof.Machine.execGather c t w s
  | .scatter c t w => Sys2Proof.Machine.execScatter c t w s
  | .atom c t w => Sys2Proof.Machine.execAtom c t w s
  | .rld c t w => Sys2Proof.Machine.execRld c t w s
  | .rst c t w => Sys2Proof.Machine.execRst c t w s
  | .rldv c t w => Sys2Proof.Machine.execRldv c t w s
  | .rstv c t w => Sys2Proof.Machine.execRstv c t w s
  | .ratom c t w => Sys2Proof.Machine.execRatom c t w s
  | .ratomn c t w => Sys2Proof.Machine.execRatomn c t w s
  | .puts c t w => Sys2Proof.Machine.execPuts c t w s
  | .pumpCopy c t w => Sys2Proof.Machine.execPumpCopy c t w s
  | .pumpToHost c t w => Sys2Proof.Machine.execPumpToHost c t w s
  | .pumpFromHost c t w => Sys2Proof.Machine.execPumpFromHost c t w s
  | .pumpPut c t w => Sys2Proof.Machine.execPumpPut c t w s
  | .pumpGet c t w => Sys2Proof.Machine.execPumpGet c t w s
  | .semSig c t w => Sys2Proof.Machine.execSemSig c t w s
  | .semWait c t w => Sys2Proof.Machine.execSemWait c t w s
  | .semTry c t w => Sys2Proof.Machine.execSemTry c t w s
  | .barArrive c t w => Sys2Proof.Machine.execBarArrive c t w s
  | .barWait c t w => Sys2Proof.Machine.execBarWait c t w s
  | .bar c t w => Sys2Proof.Machine.execBar c t w s
  | .fenceL c t w => Sys2Proof.Machine.execFenceL c t w s
  | .fenceM c t w => Sys2Proof.Machine.execFenceM c t w s
  | .fenceG c t w => Sys2Proof.Machine.execFenceG c t w s
  | .stepfence c t w => Sys2Proof.Machine.execStepfence c t w s
  | .stepfenceM c t w => Sys2Proof.Machine.execStepfenceM c t w s
  | .matmul c t w => Sys2Proof.Machine.execMatmul c t w s
  | .conv c t w => Sys2Proof.Machine.execConv c t w s
  | .attend c t w => Sys2Proof.Machine.execAttend c t w s
  | .rowstatStatistics c t w => Sys2Proof.Machine.execRowstatStatistics c t w s
  | .rowstatSoftmax c t w => Sys2Proof.Machine.execRowstatSoftmax c t w s
  | .sfu c t w => Sys2Proof.Machine.execSfu c t w s
  | .verify c t w => Sys2Proof.Machine.execVerify c t w s
  | .commit c t w => Sys2Proof.Machine.execCommit c t w s
  | .sampleGreedy c t w => Sys2Proof.Machine.execSampleGreedy c t w s
  | .sampleTopkTopp c t w => Sys2Proof.Machine.execSampleTopkTopp c t w s
  | .sampleTemperature c t w => Sys2Proof.Machine.execSampleTemperature c t w s
  | .route c t w => Sys2Proof.Machine.execRoute c t w s
  | .accopClr c t w => Sys2Proof.Machine.execAccopClr c t w s
  | .accopRd c t w => Sys2Proof.Machine.execAccopRd c t w s
  | .accopRdClr c t w => Sys2Proof.Machine.execAccopRdClr c t w s
  | .csub c t w => Sys2Proof.Machine.execCsub c t w s
  | .instructionFetch c t => Sys2Proof.Machine.execInstructionFetch c t s
  | .externalResponse c t r => Sys2Proof.Machine.execExternalResponse c t r s
  | .operationErrorStatus op cause dest => Sys2Proof.Machine.execOperationErrorStatus op cause dest s
  | .ctxCtlStart c t => Sys2Proof.Machine.execCtxCtlStart c t s
  | .ctxCtlStop c t => Sys2Proof.Machine.execCtxCtlStop c t s
  | .ctxCtlClear c t => Sys2Proof.Machine.execCtxCtlClear c t s
  | .ctxModeWrite c t w => Sys2Proof.Machine.execCtxModeWrite c t w s
  | .coreSemsigWrite c sem inc => Sys2Proof.Machine.execCoreSemsigWrite c sem inc s
  | .coreSemsetWrite c sem v => Sys2Proof.Machine.execCoreSemsetWrite c sem v s
  | .barCfgEnable die ch w => Sys2Proof.Machine.execBarCfgEnable die ch w s
  | .expertKeyWrite off key => Sys2Proof.Machine.execExpertKeyWrite off key s
  | .arrayInstructionStart c a => Sys2Proof.Machine.execArrayInstructionStart c a s
  | .arrayInstructionEnd c a bad written => Sys2Proof.Machine.execArrayInstructionEnd c a bad written s
  | .sfuInstructionStart c => Sys2Proof.Machine.execSfuInstructionStart c s
  | .sfuInstructionComplete c => Sys2Proof.Machine.execSfuInstructionComplete c s
  | .pumpTransferStart c host p => Sys2Proof.Machine.execPumpTransferStart c host p s
  | .pumpTransferComplete host p => Sys2Proof.Machine.execPumpTransferComplete host p s
  | .maCtlGoSet c a w => Sys2Proof.Machine.execMaCtlGoSet c a w s
  | .maCtlGoClear c a w => Sys2Proof.Machine.execMaCtlGoClear c a w s
  | .maStestStart c a => Sys2Proof.Machine.execMaStestStart c a s
  | .arraySelfTestDone c a code => Sys2Proof.Machine.execArraySelfTestDone c a code s
  | .coreDike c cause => Sys2Proof.Machine.execCoreDike c cause s
  | .siteJournalAppend site => Sys2Proof.Machine.execSiteJournalAppend site s
  | .spadEccWriteback c word => Sys2Proof.Machine.execSpadEccWriteback c word s
  | .lpddrSectorAccess id e => Sys2Proof.Machine.execLpddrSectorAccess id e s
  | .lpddrEccWriteback sector => Sys2Proof.Machine.execLpddrEccWriteback sector s
  | .rowRemapCopyDone die ch k => Sys2Proof.Machine.execRowRemapCopyDone die ch k s
  | .remapJournalAppend die ch k => Sys2Proof.Machine.execRemapJournalAppend die ch k s
  | .rowTrackerDecay die ch => Sys2Proof.Machine.execRowTrackerDecay die ch s
  | .patrolScrub sector e => Sys2Proof.Machine.execPatrolScrub sector e s
  | .wckDqCheck die ch => Sys2Proof.Machine.execWckDqCheck die ch s
  | .lpdCtlGoSet die w => Sys2Proof.Machine.execLpdCtlGoSet die w s
  | .pilPacketReceive d dir g pkt => Sys2Proof.Machine.execPilPacketReceive d dir g pkt s
  | .pilNak d dir g gseq => Sys2Proof.Machine.execPilNak d dir g gseq s
  | .pilNakRepeat d dir g => Sys2Proof.Machine.execPilNakRepeat d dir g s
  | .pilReplayWaitTimeout d dir g => Sys2Proof.Machine.execPilReplayWaitTimeout d dir g s
  | .pilGroupCheckDone d dir g failed => Sys2Proof.Machine.execPilGroupCheckDone d dir g failed s
  | .laneMarginSample d dir p margin => Sys2Proof.Machine.execLaneMarginSample d dir p margin s
  | .laneLossOfLock d dir p => Sys2Proof.Machine.execLaneLossOfLock d dir p s
  | .laneOfflineRetrainDone d dir p pass => Sys2Proof.Machine.execLaneOfflineRetrainDone d dir p pass s
  | .laneReplacement d dir l => Sys2Proof.Machine.execLaneReplacement d dir l s
  | .widthStep d dir => Sys2Proof.Machine.execWidthStep d dir s
  | .dluChangeover => Sys2Proof.Machine.execDluChangeover s
  | .dluChangeoverDone lost => Sys2Proof.Machine.execDluChangeoverDone lost s
  | .dluFailure => Sys2Proof.Machine.execDluFailure s
  | .hubDiectlDieReset d => Sys2Proof.Machine.execHubDiectlDieReset d s
  | .pilCtlGoSet d w => Sys2Proof.Machine.execPilCtlGoSet d w s
  | .flitReceive l flit => Sys2Proof.Machine.execFlitReceive l flit s
  | .flitNakRepeat l => Sys2Proof.Machine.execFlitNakRepeat l s
  | .laneSetChange l tx => Sys2Proof.Machine.execLaneSetChange l tx s
  | .laneOut l mseq lanes => Sys2Proof.Machine.execLaneOut l mseq lanes s
  | .laneOutAck l mseq lanes => Sys2Proof.Machine.execLaneOutAck l mseq lanes s
  | .laneIn l mseq lanes => Sys2Proof.Machine.execLaneIn l mseq lanes s
  | .laneInAck l mseq lanes => Sys2Proof.Machine.execLaneInAck l mseq lanes s
  | .laneQuar l mseq lanes => Sys2Proof.Machine.execLaneQuar l mseq lanes s
  | .laneReady l mseq lanes => Sys2Proof.Machine.execLaneReady l mseq lanes s
  | .retrainReq l => Sys2Proof.Machine.execRetrainReq l s
  | .laneLossOfSignal l lanes => Sys2Proof.Machine.execLaneLossOfSignal l lanes s
  | .ringRelockDone l k ok => Sys2Proof.Machine.execRingRelockDone l k ok s
  | .ringDither => Sys2Proof.Machine.execRingDither s
  | .embankmentMeasure l k emb => Sys2Proof.Machine.execEmbankmentMeasure l k emb s
  | .laserSample => Sys2Proof.Machine.execLaserSample s
  | .changeoverTimeout p k => Sys2Proof.Machine.execChangeoverTimeout p k s
  | .sourceOutputLost p k => Sys2Proof.Machine.execSourceOutputLost p k s
  | .biasLoop limit => Sys2Proof.Machine.execBiasLoop limit s
  | .tklWaveForceChg p k => Sys2Proof.Machine.execTklWaveForceChg p k s
  | .tklCtlGoSet p w => Sys2Proof.Machine.execTklCtlGoSet p w s
  | .portReset p => Sys2Proof.Machine.execPortReset p s
  | .linkOffRetry l => Sys2Proof.Machine.execLinkOffRetry l s
  | .linkLightDetect l => Sys2Proof.Machine.execLinkLightDetect l s
  | .linkLightDone l => Sys2Proof.Machine.execLinkLightDone l s
  | .linkTrainDone l tx rx => Sys2Proof.Machine.execLinkTrainDone l tx rx s
  | .linkAlignDone l => Sys2Proof.Machine.execLinkAlignDone l s
  | .linkRetrainDone l tx rx => Sys2Proof.Machine.execLinkRetrainDone l tx rx s
  | .linkStageTimeout l => Sys2Proof.Machine.execLinkStageTimeout l s
  | .linkRetrainTimeout l => Sys2Proof.Machine.execLinkRetrainTimeout l s
  | .fabCtlGoSet w => Sys2Proof.Machine.execFabCtlGoSet w s
  | .fabCtlGoClear w => Sys2Proof.Machine.execFabCtlGoClear w s
  | .fabCtlRediscover => Sys2Proof.Machine.execFabCtlRediscover s
  | .discoveryReevaluate l => Sys2Proof.Machine.execDiscoveryReevaluate l s
  | .disc l rec => Sys2Proof.Machine.execDisc l rec s
  | .discRecordSend l => Sys2Proof.Machine.execDiscRecordSend l s
  | .discTimeout l => Sys2Proof.Machine.execDiscTimeout l s
  | .discoveryRetry l => Sys2Proof.Machine.execDiscoveryRetry l s
  | .fabRouteWrite n w => Sys2Proof.Machine.execFabRouteWrite n w s
  | .routeDrainEnd n => Sys2Proof.Machine.execRouteDrainEnd n s
  | .fabricForward l pkt => Sys2Proof.Machine.execFabricForward l pkt s
  | .fabricRd l pkt => Sys2Proof.Machine.execFabricRd l pkt s
  | .fabricWr l pkt => Sys2Proof.Machine.execFabricWr l pkt s
  | .fabricPut l pkt => Sys2Proof.Machine.execFabricPut l pkt s
  | .fabricAtom l pkt => Sys2Proof.Machine.execFabricAtom l pkt s
  | .fabricAtomn l pkt => Sys2Proof.Machine.execFabricAtomn l pkt s
  | .fabricRdrsp l pkt => Sys2Proof.Machine.execFabricRdrsp l pkt s
  | .fabricAck l pkt => Sys2Proof.Machine.execFabricAck l pkt s
  | .fabricTimeout id => Sys2Proof.Machine.execFabricTimeout id s
  | .atomicLineIdleRelease line => Sys2Proof.Machine.execAtomicLineIdleRelease line s
  | .ttAnnounce l hops locked gm => Sys2Proof.Machine.execTtAnnounce l hops locked gm s
  | .ttAnnounceSend => Sys2Proof.Machine.execTtAnnounceSend s
  | .ttExchangeStart => Sys2Proof.Machine.execTtExchangeStart s
  | .ttSync l t1 t2 => Sys2Proof.Machine.execTtSync l t1 t2 s
  | .ttDreq l t3 t4 => Sys2Proof.Machine.execTtDreq l t3 t4 s
  | .ttDresp l t4 asym => Sys2Proof.Machine.execTtDresp l t4 asym s
  | .timebaseParentLoss => Sys2Proof.Machine.execTimebaseParentLoss s
  | .stepEdge => Sys2Proof.Machine.execStepEdge s
  | .rackclkLoss => Sys2Proof.Machine.execRackclkLoss s
  | .tbCtlGoSet w => Sys2Proof.Machine.execTbCtlGoSet w s
  | .collectiveDescriptorAccept c => Sys2Proof.Machine.execCollectiveDescriptorAccept c s
  | .open l pkt => Sys2Proof.Machine.execOpen l pkt s
  | .exp l pkt => Sys2Proof.Machine.execExp l pkt s
  | .tv l pkt => Sys2Proof.Machine.execTv l pkt s
  | .win l pkt => Sys2Proof.Machine.execWin l pkt s
  | .spec l pkt => Sys2Proof.Machine.execSpec l pkt s
  | .res l pkt => Sys2Proof.Machine.execRes l pkt s
  | .data l pkt => Sys2Proof.Machine.execData l pkt s
  | .cnt l pkt => Sys2Proof.Machine.execCnt l pkt s
  | .bucketComplete tag => Sys2Proof.Machine.execBucketComplete tag s
  | .stepTimeout tag => Sys2Proof.Machine.execStepTimeout tag s
  | .stepAbort l tag attempt g k => Sys2Proof.Machine.execStepAbort l tag attempt g k s
  | .fenceArrive l g k => Sys2Proof.Machine.execFenceArrive l g k s
  | .fenceRelease l g k => Sys2Proof.Machine.execFenceRelease l g k s
  | .colCtlGoSet w => Sys2Proof.Machine.execColCtlGoSet w s
  | .colCtlGoClear w => Sys2Proof.Machine.execColCtlGoClear w s
  | .colTreeEnSet e w => Sys2Proof.Machine.execColTreeEnSet e w s
  | .colTreeEnClear e w => Sys2Proof.Machine.execColTreeEnClear e w s
  | .colGroupEnSet g w => Sys2Proof.Machine.execColGroupEnSet g w s
  | .colGroupEnClear g w => Sys2Proof.Machine.execColGroupEnClear g w s
  | .configurationRequest off wr => Sys2Proof.Machine.execConfigurationRequest off wr s
  | .d3hotEntry => Sys2Proof.Machine.execD3hotEntry s
  | .functionLevelReset => Sys2Proof.Machine.execFunctionLevelReset s
  | .bar2SizeWrite sz => Sys2Proof.Machine.execBar2SizeWrite sz s
  | .bar0Write off d => Sys2Proof.Machine.execBar0Write off d s
  | .bar2Access off len wr => Sys2Proof.Machine.execBar2Access off len wr s
  | .devCtlGoSet w => Sys2Proof.Machine.execDevCtlGoSet w s
  | .devIrqsetWrite v => Sys2Proof.Machine.execDevIrqsetWrite v s
  | .msixUnmask v => Sys2Proof.Machine.execMsixUnmask v s
  | .sqCfgGoSet q w => Sys2Proof.Machine.execSqCfgGoSet q w s
  | .sqCfgGoClear q w => Sys2Proof.Machine.execSqCfgGoClear q w s
  | .sqTailDoorbell q idx => Sys2Proof.Machine.execSqTailDoorbell q idx s
  | .cqHeadDoorbell q idx => Sys2Proof.Machine.execCqHeadDoorbell q idx s
  | .sqEntryFetch q => Sys2Proof.Machine.execSqEntryFetch q s
  | .commandNop q => Sys2Proof.Machine.execCommandNop q s
  | .launch q => Sys2Proof.Machine.execLaunch q s
  | .load q => Sys2Proof.Machine.execLoad q s
  | .copyIn q => Sys2Proof.Machine.execCopyIn q s
  | .copyOut q => Sys2Proof.Machine.execCopyOut q s
  | .signal q => Sys2Proof.Machine.execSignal q s
  | .commandFence q => Sys2Proof.Machine.execCommandFence q s
  | .commandComplete q n => Sys2Proof.Machine.execCommandComplete q n s
  | .cqCoalesceTimeout q => Sys2Proof.Machine.execCqCoalesceTimeout q s
  | .hostAbort p => Sys2Proof.Machine.execHostAbort p s
  | .hubCorerstWrite w => Sys2Proof.Machine.execHubCorerstWrite w s
  | .hubDikeSelfTest c => Sys2Proof.Machine.execHubDikeSelfTest c s
  | .hubDikeDike c => Sys2Proof.Machine.execHubDikeDike c s
  | .errDbgdataRead => Sys2Proof.Machine.execErrDbgdataRead s
  | .perturbCtlGoSet => Sys2Proof.Machine.execPerturbCtlGoSet s
  | .perturbCtlGoClear => Sys2Proof.Machine.execPerturbCtlGoClear s
  | .perturbEntWrite idx w => Sys2Proof.Machine.execPerturbEntWrite idx w s
  | .mmcMbxSubmit w => Sys2Proof.Machine.execMmcMbxSubmit w s
  | .mmcMbxAck => Sys2Proof.Machine.execMmcMbxAck s
  | .pwrCapWrite w => Sys2Proof.Machine.execPwrCapWrite w s
  | .registerWrite off size v => Sys2Proof.Machine.execRegisterWrite off size v s
  | .standbyPowerOn => Sys2Proof.Machine.execStandbyPowerOn s
  | .mmcFirmwareVerify => Sys2Proof.Machine.execMmcFirmwareVerify s
  | .mainPowerSequencing => Sys2Proof.Machine.execMainPowerSequencing s
  | .powerSequenceTimeout => Sys2Proof.Machine.execPowerSequenceTimeout s
  | .hubFirmwareLoad => Sys2Proof.Machine.execHubFirmwareLoad s
  | .bundleTraining bad dluOk => Sys2Proof.Machine.execBundleTraining bad dluOk s
  | .featureLevelWrite => Sys2Proof.Machine.execFeatureLevelWrite s
  | .dieRelease => Sys2Proof.Machine.execDieRelease s
  | .lpddrTraining out hppr stepTwoOk => Sys2Proof.Machine.execLpddrTraining out hppr stepTwoOk s
  | .scratchpadSelfTest bad => Sys2Proof.Machine.execScratchpadSelfTest bad s
  | .pcieControllerReady => Sys2Proof.Machine.execPcieControllerReady s
  | .portLaserStart failed => Sys2Proof.Machine.execPortLaserStart failed s
  | .timebaseLockTimeout => Sys2Proof.Machine.execTimebaseLockTimeout s
  | .readySet => Sys2Proof.Machine.execReadySet s
  | .moduleReset pin => Sys2Proof.Machine.execModuleReset pin s
  | .hubLedDieResetEnd d bad rate badSites => Sys2Proof.Machine.execHubLedDieResetEnd d bad rate badSites s
  | .info tr f => Sys2Proof.Machine.execInfo tr f s
  | .telemetry tr f => Sys2Proof.Machine.execTelemetry tr f s
  | .logread tr f => Sys2Proof.Machine.execLogread tr f s
  | .regread tr f => Sys2Proof.Machine.execRegread tr f s
  | .identity tr f => Sys2Proof.Machine.execIdentity tr f s
  | .attest tr f => Sys2Proof.Machine.execAttest tr f s
  | .reset tr f => Sys2Proof.Machine.execReset tr f s
  | .power tr f => Sys2Proof.Machine.execPower tr f s
  | .powercap tr f => Sys2Proof.Machine.execPowercap tr f s
  | .updateBegin tr f => Sys2Proof.Machine.execUpdateBegin tr f s
  | .updateData tr f => Sys2Proof.Machine.execUpdateData tr f s
  | .updateVerify tr f => Sys2Proof.Machine.execUpdateVerify tr f s
  | .updateCommit tr f => Sys2Proof.Machine.execUpdateCommit tr f s
  | .updateAbort tr f => Sys2Proof.Machine.execUpdateAbort tr f s
  | .updateSessionTimeout => Sys2Proof.Machine.execUpdateSessionTimeout s
  | .ownerSet tr f => Sys2Proof.Machine.execOwnerSet tr f s
  | .ownerClear tr f => Sys2Proof.Machine.execOwnerClear tr f s
  | .netcfg tr f => Sys2Proof.Machine.execNetcfg tr f s
  | .smbusFragmentWrite d pecOk => Sys2Proof.Machine.execSmbusFragmentWrite d pecOk s
  | .smbusSubmit => Sys2Proof.Machine.execSmbusSubmit s
  | .smbusFragmentRead => Sys2Proof.Machine.execSmbusFragmentRead s
  | .smbusStatusRead => Sys2Proof.Machine.execSmbusStatusRead s
  | .eventRelay src f => Sys2Proof.Machine.execEventRelay src f s
  | .networkEchoReply tr f => Sys2Proof.Machine.execNetworkEchoReply tr f s
  | .cappingEvaluation mean => Sys2Proof.Machine.execCappingEvaluation mean s
  | .peakLimit mean calm => Sys2Proof.Machine.execPeakLimit mean calm s
  | .cclkStep d => Sys2Proof.Machine.execCclkStep d s
  | .inputOutOfRange => Sys2Proof.Machine.execInputOutOfRange s
  | .railOutOfRange r => Sys2Proof.Machine.execRailOutOfRange r s
  | .pwrEnLow => Sys2Proof.Machine.execPwrEnLow s
  | .pwrEnHigh => Sys2Proof.Machine.execPwrEnHigh s
  | .thermalSample ch v => Sys2Proof.Machine.execThermalSample ch v s
  | .throttleStepDown ch => Sys2Proof.Machine.execThrottleStepDown ch s
  | .throttleStepUp ch => Sys2Proof.Machine.execThrottleStepUp ch s
  | .flowEstimate mean => Sys2Proof.Machine.execFlowEstimate mean s
  | .auxiliaryFeedLoss => Sys2Proof.Machine.execAuxiliaryFeedLoss s
  | .refclkFailure => Sys2Proof.Machine.execRefclkFailure s
  | .rackclkPresent => Sys2Proof.Machine.execRackclkPresent s
  | .startUpStepTimeout step => Sys2Proof.Machine.execStartUpStepTimeout step s
  | .spareLineSettled p k ok => Sys2Proof.Machine.execSpareLineSettled p k ok s
  | .laneRetrained l k ok => Sys2Proof.Machine.execLaneRetrained l k ok s
  | .badFrame tr f => Sys2Proof.Machine.execBadFrame tr f s

end Sys2Proof.Machine
end

