-- ==== Sys2Proof/WellFormed.lean ====
section
/-! DEFINITION. When a command is well formed: its operands name a core, a thread, a link, a register … that the module
has, and an instruction word belongs to its row. Everything else about a command is decided by its meaning. -/

namespace Sys2Proof

open Machine

/-- A thread instruction: the core and the thread exist, the word belongs to the row (opcode, SUB), or to none. -/
def threadFits (op sub : Nat) (s : State) (c t : Nat) (w : BitVec 64) : Bool :=
  decide (c < s.lcores) && decide (t < 32) && rowFits op sub w

/-- A collective packet of KIND `kind` on a link. -/
def collFits (kind l : Nat) (d : Bytes) : Bool :=
  decide (l < 48) && decide (16 ≤ d.length) && decide (d.length ≤ 256) && hFld d 0 4 == kind

/-- A training outcome of die `d` is no faster than LPD_CTL.RATE allows. -/
def rateFits (s : State) (d : Nat) (r : TrainOutcome) : Bool :=
  match r with
  | some r => decide (r.toNat ≤ (s.die d).lpd.rate.toNat)
  | none => true

/-- The command is well formed on a module in state `s` (its grade, its packages, its spare sites). -/
def Instr.wf (s : State) : Instr → Bool
  | .nop c t w => threadFits 0x00 0 s c t w
  | .halt c t w => threadFits 0x01 0 s c t w
  | .alu c t w => threadFits 0x02 0 s c t w
  | .alui c t w => threadFits 0x03 0 s c t w
  | .movi c t w => threadFits 0x04 0 s c t w
  | .movk c t w => threadFits 0x05 0 s c t w
  | .caprd c t w => threadFits 0x06 0 s c t w
  | .modeset c t w => threadFits 0x07 0 s c t w
  | .sysrd c t w => threadFits 0x08 0 s c t w
  | .syswr c t w => threadFits 0x09 0 s c t w
  | .br c t w => threadFits 0x10 0 s c t w
  | .jmp c t w => threadFits 0x11 0 s c t w
  | .jal c t w => threadFits 0x12 0 s c t w
  | .jr c t w => threadFits 0x13 0 s c t w
  | .dld c t w => threadFits 0x20 0 s c t w
  | .dst c t w => threadFits 0x21 0 s c t w
  | .dset c t w => threadFits 0x22 0 s c t w
  | .dget c t w => threadFits 0x23 0 s c t w
  | .dadv c t w => threadFits 0x24 0 s c t w
  | .dmov c t w => threadFits 0x25 0 s c t w
  | .valu c t w => threadFits 0x30 0 s c t w
  | .vcvt c t w => threadFits 0x31 0 s c t w
  | .vcmp c t w => threadFits 0x32 0 s c t w
  | .vsel c t w => threadFits 0x33 0 s c t w
  | .vmovBroadcast c t w => threadFits 0x34 0 s c t w
  | .vmovExtract c t w => threadFits 0x34 1 s c t w
  | .vmovIndex c t w => threadFits 0x34 2 s c t w
  | .vred c t w => threadFits 0x35 0 s c t w
  | .vperm c t w => threadFits 0x36 0 s c t w
  | .plog c t w => threadFits 0x37 0 s c t w
  | .lds c t w => threadFits 0x50 0 s c t w
  | .sts c t w => threadFits 0x51 0 s c t w
  | .ldv c t w => threadFits 0x52 0 s c t w
  | .stv c t w => threadFits 0x53 0 s c t w
  | .gather c t w => threadFits 0x54 0 s c t w
  | .scatter c t w => threadFits 0x55 0 s c t w
  | .atom c t w => threadFits 0x56 0 s c t w
  | .rld c t w => threadFits 0x58 0 s c t w
  | .rst c t w => threadFits 0x59 0 s c t w
  | .rldv c t w => threadFits 0x5A 0 s c t w
  | .rstv c t w => threadFits 0x5B 0 s c t w
  | .ratom c t w => threadFits 0x5C 0 s c t w
  | .ratomn c t w => threadFits 0x5D 0 s c t w
  | .puts c t w => threadFits 0x5E 0 s c t w
  | .pumpCopy c t w => threadFits 0x60 0 s c t w
  | .pumpToHost c t w => threadFits 0x60 1 s c t w
  | .pumpFromHost c t w => threadFits 0x60 2 s c t w
  | .pumpPut c t w => threadFits 0x60 3 s c t w
  | .pumpGet c t w => threadFits 0x60 4 s c t w
  | .semSig c t w => threadFits 0x68 0 s c t w
  | .semWait c t w => threadFits 0x68 1 s c t w
  | .semTry c t w => threadFits 0x68 2 s c t w
  | .barArrive c t w => threadFits 0x69 0 s c t w
  | .barWait c t w => threadFits 0x69 1 s c t w
  | .bar c t w => threadFits 0x69 2 s c t w
  | .fenceL c t w => threadFits 0x6A 0 s c t w
  | .fenceM c t w => threadFits 0x6A 1 s c t w
  | .fenceG c t w => threadFits 0x6A 2 s c t w
  | .stepfence c t w => threadFits 0x6B 0 s c t w
  | .stepfenceM c t w => threadFits 0x6B 1 s c t w
  | .matmul c t w => threadFits 0x70 0 s c t w
  | .conv c t w => threadFits 0x71 0 s c t w
  | .attend c t w => threadFits 0x72 0 s c t w
  | .rowstatStatistics c t w => threadFits 0x73 0 s c t w
  | .rowstatSoftmax c t w => threadFits 0x73 1 s c t w
  | .sfu c t w => threadFits 0x74 0 s c t w
  | .verify c t w => threadFits 0x75 0 s c t w
  | .commit c t w => threadFits 0x76 0 s c t w
  | .sampleGreedy c t w => threadFits 0x77 0 s c t w
  | .sampleTopkTopp c t w => threadFits 0x77 1 s c t w
  | .sampleTemperature c t w => threadFits 0x77 2 s c t w
  | .route c t w => threadFits 0x78 0 s c t w
  | .accopClr c t w => threadFits 0x79 0 s c t w
  | .accopRd c t w => threadFits 0x79 1 s c t w
  | .accopRdClr c t w => threadFits 0x79 2 s c t w
  | .csub c t w => threadFits 0x90 0 s c t w
  | .instructionFetch c t => decide (c < s.lcores) && decide (t < 32)
  | .externalResponse c t _ => decide (c < s.lcores) && decide (t < 32)
  | .operationErrorStatus _ cause dest =>
      [cEcc, cAddrInvalid, cDiked, cUnreach, cFabTimeout, cHostAbort].contains cause && decide (dest.toNat ≤ 5)
  | .ctxCtlStart c t => decide (c < s.lcores) && decide (t < 32)
  | .ctxCtlStop c t => decide (c < s.lcores) && decide (t < 32)
  | .ctxCtlClear c t => decide (c < s.lcores) && decide (t < 32)
  | .ctxModeWrite c t _ => decide (c < s.lcores) && decide (t < 32)
  | .coreSemsigWrite c sem _ => decide (c < s.lcores) && decide (sem < 64)
  | .coreSemsetWrite c sem _ => decide (c < s.lcores) && decide (sem < 64)
  | .barCfgEnable die ch w => decide (die < 4) && decide (ch < 64) && w.getLsbD 12
  | .expertKeyWrite off _ => s.isExpert off
  | .arrayInstructionStart c a => decide (c < s.lcores) && decide (a < 4)
  | .arrayInstructionEnd c a _ _ => decide (c < s.lcores) && decide (a < 4)
  | .sfuInstructionStart c => decide (c < s.lcores)
  | .sfuInstructionComplete c => decide (c < s.lcores)
  | .pumpTransferStart c host p => decide (c < s.lcores) && decide (p < if host then 16 else 8)
  | .pumpTransferComplete host p => decide (p < if host then 16 else 32)
  | .maCtlGoSet c a w => decide (c < s.lcores) && decide (a < 4) && w.getLsbD 0
  | .maCtlGoClear c a w => decide (c < s.lcores) && decide (a < 4) && !w.getLsbD 0
  | .maStestStart c a => decide (c < s.lcores) && decide (a < 4)
  | .arraySelfTestDone c a code => decide (c < s.lcores) && decide (a < 4) && decide (code.toNat ≤ 6)
  | .coreDike c cause => decide (c < s.lcores) && decide (cause = 0x25)
  | .siteJournalAppend site => decide (site < 176)
  | .spadEccWriteback c word => decide (c < s.lcores) && decide (word < spadSize / 8)
  | .lpddrSectorAccess _ _ => true
  | .lpddrEccWriteback sector => decide (sector < s.lpdTop / 32)
  | .rowRemapCopyDone die ch k => decide (die < 4) && decide (ch < 24) && decide (k < 512)
  | .remapJournalAppend die ch k => decide (die < 4) && decide (ch < 24) && decide (k < 512)
  | .rowTrackerDecay die ch => decide (die < 4) && decide (ch < 24)
  | .patrolScrub sector _ => decide (sector < s.lpdTop / 32)
  | .wckDqCheck die ch => decide (die < 4) && decide (ch < 24)
  | .lpdCtlGoSet die w => decide (die < 4) && w.getLsbD 0
  | .pilPacketReceive d dir g pkt => decide (d < 4) && decide (dir < 2) && decide (g < 16) && decide (pkt.length = 64)
  | .pilNak d dir g gseq => decide (d < 4) && decide (dir < 2) && decide (g < 16) && decide (gseq < 128)
  | .pilNakRepeat d dir g => decide (d < 4) && decide (dir < 2) && decide (g < 16)
  | .pilReplayWaitTimeout d dir g => decide (d < 4) && decide (dir < 2) && decide (g < 16)
  | .pilGroupCheckDone d dir g failed =>
      decide (d < 4) && decide (dir < 2) && decide (g < 16) && failed.all fun p => decide (p < 272)
  | .laneMarginSample d dir p _ => decide (d < 4) && decide (dir < 2) && decide (p < 272)
  | .laneLossOfLock d dir p => decide (d < 4) && decide (dir < 2) && decide (p < 272)
  | .laneOfflineRetrainDone d dir p _ => decide (d < 4) && decide (dir < 2) && decide (p < 272)
  | .laneReplacement d dir l => decide (d < 4) && decide (dir < 2) && decide (l < 256)
  | .widthStep d dir => decide (d < 4) && decide (dir < 2)
  | .dluChangeover => true
  | .dluChangeoverDone lost => lost.all fun e => decide (e.1 < 4) && decide (e.2.1 < 2) && decide (e.2.2 < 272)
  | .dluFailure => true
  | .hubDiectlDieReset d => decide (d < 4)
  | .pilCtlGoSet d w => decide (d < 4) && w.getLsbD 0
  | .flitReceive l flit => decide (l < 48) && decide (256 ≤ flit.length) && decide (flit.length ≤ 288)
  | .flitNakRepeat l => decide (l < 48)
  | .laneSetChange l _ => decide (l < 48)
  | .laneOut l _ _ => decide (l < 48)
  | .laneOutAck l _ _ => decide (l < 48)
  | .laneIn l _ _ => decide (l < 48)
  | .laneInAck l _ _ => decide (l < 48)
  | .laneQuar l _ _ => decide (l < 48)
  | .laneReady l _ _ => decide (l < 48)
  | .retrainReq l => decide (l < 48)
  | .laneLossOfSignal l _ => decide (l < 48)
  | .ringRelockDone l k _ => decide (l < 48) && decide (k < 16)
  | .ringDither => true
  | .embankmentMeasure l k _ => decide (l < 48) && decide (k < 16)
  | .laserSample => true
  | .changeoverTimeout p k => decide (p < 8) && decide (k < 16)
  | .sourceOutputLost p k => decide (p < 8) && decide (k < 16)
  | .biasLoop _ => true
  | .tklWaveForceChg p k => decide (p < 8) && decide (k < 16)
  | .tklCtlGoSet p w => decide (p < 8) && w.getLsbD 0
  | .portReset p => decide (p < 8)
  | .linkOffRetry l => decide (l < 48)
  | .linkLightDetect l => decide (l < 48)
  | .linkLightDone l => decide (l < 48)
  | .linkTrainDone l _ _ => decide (l < 48)
  | .linkAlignDone l => decide (l < 48)
  | .linkRetrainDone l _ _ => decide (l < 48)
  | .linkStageTimeout l => decide (l < 48)
  | .linkRetrainTimeout l => decide (l < 48)
  | .fabCtlGoSet w => w.getLsbD 0
  | .fabCtlGoClear w => !w.getLsbD 0
  | .fabCtlRediscover => true
  | .discoveryReevaluate l => decide (l < 48)
  | .disc l rec => decide (l < 48) && decide (rec.length = 64)
  | .discRecordSend l => decide (l < 48)
  | .discTimeout l => decide (l < 48)
  | .discoveryRetry l => decide (l < 48)
  | .fabRouteWrite n _ => decide (n < 0xFFFF)
  | .routeDrainEnd n => decide (n < 0xFFFF)
  | .fabricForward l pkt =>
      pktFits l pkt (fun p => p.dst != s.fab.nodeId && p.dst != 0xFFFF && p.type != 8 && p.type != 9) fun _ => true
  | .fabricRd l pkt => pktFits l pkt (s.mine 1) rdOk
  | .fabricWr l pkt => pktFits l pkt (s.mine 2) wrOk
  | .fabricPut l pkt => pktFits l pkt (fun p => p.type == 3 && (p.dst == s.fab.nodeId || p.dst == 0xFFFF)) wrOk
  | .fabricAtom l pkt => pktFits l pkt (s.mine 4) atomOk
  | .fabricAtomn l pkt => pktFits l pkt (s.mine 5) atomOk
  | .fabricRdrsp l pkt => pktFits l pkt (s.mine 6) fun _ => true
  | .fabricAck l pkt => pktFits l pkt (s.mine 7) fun p => p.body.isEmpty
  | .fabricTimeout _ => true
  | .atomicLineIdleRelease _ => true
  | .ttAnnounce l _ _ _ => decide (l < 48)
  | .ttAnnounceSend => true
  | .ttExchangeStart => true
  | .ttSync l _ _ => decide (l < 48)
  | .ttDreq l _ _ => decide (l < 48)
  | .ttDresp l _ _ => decide (l < 48)
  | .timebaseParentLoss => true
  | .stepEdge => true
  | .rackclkLoss => true
  | .tbCtlGoSet w => w.getLsbD 4
  | .collectiveDescriptorAccept c => decide (c < s.lcores)
  | .open l pkt => collFits 0 l pkt
  | .exp l pkt => collFits 1 l pkt
  | .tv l pkt => collFits 2 l pkt
  | .win l pkt => collFits 3 l pkt
  | .spec l pkt => collFits 4 l pkt
  | .res l pkt => collFits 5 l pkt
  | .data l pkt => collFits 6 l pkt
  | .cnt l pkt => collFits 7 l pkt
  | .bucketComplete tag => decide (tag < 4096)
  | .stepTimeout tag => decide (tag < 4096)
  | .stepAbort l _ _ _ _ => decide (l < 48)
  | .fenceArrive l _ _ => decide (l < 48)
  | .fenceRelease l _ _ => decide (l < 48)
  | .colCtlGoSet w => w.getLsbD 0
  | .colCtlGoClear w => !w.getLsbD 0
  | .colTreeEnSet e w => decide (e < 64) && w.getLsbD 0
  | .colTreeEnClear e w => decide (e < 64) && !w.getLsbD 0
  | .colGroupEnSet g w => decide (g < 16) && w.getLsbD 0
  | .colGroupEnClear g w => decide (g < 16) && !w.getLsbD 0
  | .configurationRequest off _ => decide (off % 4 = 0) && decide (off < 4096)
  | .d3hotEntry => true
  | .functionLevelReset => true
  | .bar2SizeWrite sz => decide (sz ≤ 6)
  | .bar0Write off d => decide (0 < d.length) && decide (off + d.length ≤ regSize)
  | .bar2Access _ len wr => decide (0 < len) && (match wr with | some d => d.length == len | none => true)
  | .devCtlGoSet w => w.getLsbD 0
  | .devIrqsetWrite _ => true
  | .msixUnmask _ => true
  | .sqCfgGoSet q w => decide (q < 64) && w.getLsbD 0
  | .sqCfgGoClear q w => decide (q < 64) && !w.getLsbD 0
  | .sqTailDoorbell q _ => decide (q < 64)
  | .cqHeadDoorbell q _ => decide (q < 64)
  | .sqEntryFetch q => decide (q < 64)
  | .commandNop q => decide (q < 64)
  | .launch q => decide (q < 64)
  | .load q => decide (q < 64)
  | .copyIn q => decide (q < 64)
  | .copyOut q => decide (q < 64)
  | .signal q => decide (q < 64)
  | .commandFence q => decide (q < 64)
  | .commandComplete q _ => decide (q < 64)
  | .cqCoalesceTimeout q => decide (q < 64)
  | .hostAbort p => decide (p < 16)
  | .hubCorerstWrite _ => true
  | .hubDikeSelfTest c => decide (c < 256)
  | .hubDikeDike c => decide (c < 256)
  | .errDbgdataRead => true
  | .perturbCtlGoSet => true
  | .perturbCtlGoClear => true
  | .perturbEntWrite i _ => decide (i < 64)
  | .mmcMbxSubmit w => w.getLsbD 0
  | .mmcMbxAck => true
  | .pwrCapWrite _ => true
  | .registerWrite off size _ => (size == 4 || size == 8) && decide (off % size = 0) && decide (off + size ≤ regSize)
  | .standbyPowerOn => true
  | .mmcFirmwareVerify => true
  | .mainPowerSequencing => true
  | .powerSequenceTimeout => true
  | .hubFirmwareLoad => true
  | .bundleTraining bad _ => lanesOk bad
  | .featureLevelWrite => true
  | .dieRelease => true
  | .lpddrTraining out _ _ => decide (out.length = 4) && out.zipIdx.all fun e => rateFits s e.2 e.1
  | .scratchpadSelfTest bad => bad.all fun x => decide (x < 176)
  | .pcieControllerReady => true
  | .portLaserStart failed => failed.all fun e => decide (e.1 < 2) && decide (e.2 < 16)
  | .timebaseLockTimeout => true
  | .readySet => true
  | .moduleReset _ => true
  | .hubLedDieResetEnd d bad rate badSites =>
      decide (d < 4) && lanesOk bad && (badSites.all fun x => decide (x < 176)) && rateFits s d rate
  | .info _ f => frameOk 0 f && frCmd f == 0x01
  | .telemetry _ f => frameOk 0 f && frCmd f == 0x02
  | .logread _ f => frameOk 0 f && frCmd f == 0x03
  | .regread _ f => frameOk 0 f && frCmd f == 0x04
  | .identity _ f => frameOk 0 f && frCmd f == 0x05
  | .attest _ f => frameOk 0 f && frCmd f == 0x06
  | .reset _ f => frameOk 0 f && frCmd f == 0x10
  | .power _ f => frameOk 0 f && frCmd f == 0x11
  | .powercap _ f => frameOk 0 f && frCmd f == 0x12
  | .updateBegin _ f => frameOk 0 f && frCmd f == 0x20
  | .updateData _ f => frameOk 0 f && frCmd f == 0x21
  | .updateVerify _ f => frameOk 0 f && frCmd f == 0x22
  | .updateCommit _ f => frameOk 0 f && frCmd f == 0x23
  | .updateAbort _ f => frameOk 0 f && frCmd f == 0x24
  | .updateSessionTimeout => true
  | .ownerSet _ f => frameOk 0 f && frCmd f == 0x30
  | .ownerClear _ f => frameOk 0 f && frCmd f == 0x31
  | .netcfg _ f => frameOk 0 f && frCmd f == 0x32
  | .smbusFragmentWrite d _ => decide (1 ≤ d.length) && decide (d.length ≤ 32)
  | .smbusSubmit => true
  | .smbusFragmentRead => true
  | .smbusStatusRead => true
  | .eventRelay _ _ => true
  | .networkEchoReply tr _ => tr == .mga || tr == .mgb
  | .cappingEvaluation _ => true
  | .peakLimit _ _ => true
  | .cclkStep d => decide (d < 4)
  | .inputOutOfRange => true
  | .railOutOfRange r => decide (r < 11)
  | .pwrEnLow => true
  | .pwrEnHigh => true
  | .thermalSample ch v =>
      isChan ch && (match v with | some t => decide (-32768 ≤ t) && decide (t < 32768) | none => true)
  | .throttleStepDown ch => isChan ch
  | .throttleStepUp ch => isChan ch
  | .flowEstimate _ => true
  | .auxiliaryFeedLoss => true
  | .refclkFailure => true
  | .rackclkPresent => true
  | .startUpStepTimeout step => decide (1 ≤ step) && decide (step ≤ 14)
  | .spareLineSettled p k _ => decide (p < 8) && decide (k < 16)
  | .laneRetrained l k _ => decide (l < 48) && decide (k < 16)
  | .badFrame _ f => !frameOk 0 f || !mgmtListed (frCmd f)

/-- A well-formed command. -/
abbrev Instr.WellFormed (s : State) (i : Instr) : Prop := i.wf s = true

end Sys2Proof
end

