-- ==== Sys2Proof/Safety.lean ====
section
/-! DEFINITION. What a safe run is: the canonical form of memory, the part of the state that no command may change, and
the steps that stop. -/

namespace Sys2Proof.Machine

/-- Memory and its marks are in canonical form: keys strictly rising, no entry equal to what an unlisted address reads
as (0; assumption 3). -/
def Memory.wf (m : Mem) : Bool :=
  Tab.wf 0 m.cells && Tab.wf 0 m.wordErr && Tab.wf 0 m.secErr && Tab.wf 0 m.grpErr && Tab.wf 0 m.host

/-- The event log of the MMC keeps at most its 256 newest events (R492). -/
def State.logFits (s : State) : Bool := decide (s.mmc.events.length ≤ 256)

/-- Thread `t` of core `c` can issue the word `w` of the row (opcode, SUB): the conditions of R67 and R59, on the state
and the word alone. -/
structure Runs (op sub c t : Nat) (w : BitVec 64) (s : State) : Prop where
  core : c < s.lcores
  thread : t < 32
  opcode : iOp w = op
  row : (rowSub w).1 = sub
  listed : unlisted w = false
  legal : legal w = true
  canIssue : (s.thread c t).canIssue = true
  awake : s.awake c = true
  pc : (s.thread c t).pc.toNat < spadSize
  fetched : (s.thread c t).fetchBad = false
  sources : (sources w).any (s.thread c t).srcPending = false

/-- … and its guard is 1, or is taken lane by lane (R103). -/
structure Acts (op sub c t : Nat) (w : BitVec 64) (s : State) : Prop extends Runs op sub c t w s where
  guard : laneGuarded op = true ∨ (s.thread c t).guard w = true

/-- The thread once its instruction has issued: READY, the program counter past the instruction. -/
def Thread.stepped (th : Thread) : Thread := { th with state := .ready, pc := th.pc + 8 }

/-- The command at the front of the queue, if any, is well formed: the step answers a next state. -/
def State.ready (s : State) : Prop :=
  match s.pending with
  | [] => True
  | c :: _ => c.WellFormed s

end Sys2Proof.Machine
end

