-- ==== Sys2Proof/Certificates/Slice0/Obligations.lean ====
section
/-! DEFINITION. The statements about the model, one definition each. -/

open Sys2Proof Sys2Proof.Machine

/-- A step runs the command at the front of the queue. With a command at the front of the queue, a step is exec of that
command on the state whose queue is the rest; with an empty queue it is a 20 ns tick (the model's choice, assumption
6). -/
def Obligations.StepRunsFrontCommand : Prop :=
  (∀ (c : Instr) (rest : List Instr) (s : State),
    step { s with pending := c :: rest } = exec c { s with pending := rest }) ∧
  ∀ s : State, step { s with pending := [] } = .next (State.tick { s with pending := [] })

/-- Every well-formed command completes, and an ill-formed one is refused. For every command and state: a command whose
operands name parts of the module answers a next state, and any other command is refused as ill formed; no command
faults (the checks are the model's choice, assumption 5). -/
def Obligations.StopsExactlyWhenIllFormed : Prop :=
  ∀ (i : Instr) (s : State),
    (i.WellFormed s → ∃ u, exec i s = .next u) ∧ (¬ i.WellFormed s → exec i s = .refused .illFormed)

/-- Memory keeps its canonical form. Every step from a state whose memory is in canonical form (keys strictly rising, no
entry equal to what an unlisted address reads as) leads to a state whose memory is in canonical form, so that equal
memories are equal data (assumption 3). -/
def Obligations.MemoryStaysCanonical : Prop :=
  ∀ s u : State, Memory.wf s.mem = true → step s = .next u → Memory.wf u.mem = true

/-- No command changes a fuse or the queue. No command of the table, whatever its operands, changes what the fuses and the
build of the module fix (grade, packages, steppings, spare sites, keys), or the queue of commands that wait. -/
def Obligations.FusesAndQueueKept : Prop :=
  ∀ (i : Instr) (s u : State), exec i s = .next u → u.fuses = s.fuses ∧ u.pending = s.pending

/-- The scalar operations. Each SUB of the table Scalar operations computes the listed result; a division by zero gives a
quotient of all ones and a remainder equal to RA, DIV of −2^63 by −1 gives −2^63 with remainder 0; and ALU, whatever
the values, completes without touching the exception record. -/
def Obligations.AluTable : Prop :=
  (∀ a b : BitVec 64,
    aluVal 0x00 a b = a + b ∧ aluVal 0x01 a b = a - b ∧ aluVal 0x02 a b = a &&& b ∧ aluVal 0x03 a b = a ||| b ∧
    aluVal 0x04 a b = a ^^^ b ∧ aluVal 0x05 a b = a <<< (b.toNat % 64) ∧ aluVal 0x06 a b = a >>> (b.toNat % 64) ∧
    aluVal 0x07 a b = a.sshiftRight (b.toNat % 64) ∧
    (aluVal 0x08 a b).toInt = min a.toInt b.toInt ∧ (aluVal 0x09 a b).toInt = max a.toInt b.toInt ∧
    (aluVal 0x0A a b).toNat = min a.toNat b.toNat ∧ (aluVal 0x0B a b).toNat = max a.toNat b.toNat ∧
    aluVal 0x0C a b = (if a = b then 1 else 0) ∧ aluVal 0x0D a b = (if a.toInt < b.toInt then 1 else 0) ∧
    aluVal 0x0E a b = (if a.toNat < b.toNat then 1 else 0) ∧ aluVal 0x10 a b = a * b ∧
    aluVal 0x11 a b = (a.signExtend 128 * b.signExtend 128).extractLsb' 64 64 ∧
    aluVal 0x12 a b = (a.setWidth 128 * b.setWidth 128).extractLsb' 64 64 ∧
    (b ≠ 0 → aluVal 0x14 a b = a.sdiv b ∧ aluVal 0x15 a b = a / b ∧ aluVal 0x16 a b = a.srem b ∧
      aluVal 0x17 a b = a % b) ∧
    (b = 0 → aluVal 0x14 a b = BitVec.allOnes 64 ∧ aluVal 0x15 a b = BitVec.allOnes 64 ∧ aluVal 0x16 a b = a ∧
      aluVal 0x17 a b = a)) ∧
  aluVal 0x14 (BitVec.intMin 64) (-1) = BitVec.intMin 64 ∧ aluVal 0x16 (BitVec.intMin 64) (-1) = 0 ∧
  (∀ c t w s, Acts 0x02 0 c t w s → ∃ u, exec (.alu c t w) s = .next u ∧
    (u.thread c t).fault = (s.thread c t).fault ∧ (u.thread c t).stopping = none) ∧
  ∀ c t w s, Acts 0x03 0 c t w s → ∃ u, exec (.alui c t w) s = .next u ∧
    (u.thread c t).fault = (s.thread c t).fault ∧ (u.thread c t).stopping = none

/-- NOP, HALT, ALU, ALUI, MOVI and MOVK. Each of these, issued with its guard 1, changes its thread only: the program
counter advances by 8, RD takes the value of the opcode map (S0 discards it, loads outstanding to RD are superseded),
HALT begins to stop the thread toward DONE. -/
def Obligations.ScalarResults : Prop :=
  ∀ (c t : Nat) (w : BitVec 64) (s : State),
    let th := s.thread c t
    let next := fun (x : Thread) => Host.Outcome.next (φ := Fault) (ρ := Refusal) (s.setThread c t x)
    (Acts 0x00 0 c t w s → exec (.nop c t w) s = next th.stepped) ∧
    (Acts 0x01 0 c t w s → exec (.halt c t w) s = next (th.stepped.stopTo .done)) ∧
    (Acts 0x02 0 c t w s →
      exec (.alu c t w) s = next (th.stepped.putS (iRd w) (aluVal (iSub w) (th.regs.getS (iRa w)) (th.regs.getS (iRb w))))) ∧
    (Acts 0x03 0 c t w s →
      exec (.alui c t w) s = next (th.stepped.putS (iRd w)
        (aluVal (iSubI w) (th.regs.getS (iRa w)) ((w.extractLsb' 0 36).signExtend 64)))) ∧
    (Acts 0x04 0 c t w s →
      exec (.movi c t w) s = next (th.stepped.putS (iRd w) ((w.extractLsb' 0 45).signExtend 64))) ∧
    (Acts 0x05 0 c t w s → ∃ v : BitVec 64,
      exec (.movk c t w) s = next (th.stepped.putS (iRd w) v) ∧
      ∀ i < 64, v.getLsbD i =
        if 16 * iSh w ≤ i ∧ i < 16 * iSh w + 16 then w.getLsbD (i - 16 * iSh w) else (th.regs.getS (iRd w)).getLsbD i)

/-- Register writes take effect in program order. A read of an S register after a write gives the value written, except
that S0 reads 0; other registers keep theirs; P0 reads all ones; D and V registers read back what was written; and an
external load that returns to a register a later instruction has written is discarded, so that the later write stays. -/
def Obligations.RegisterWrites : Prop :=
  (∀ (r : Regs) (n m : Nat) (v : BitVec 64),
    (r.setS n v).getS m = if m = 0 then 0 else if m = n then v else r.getS m) ∧
  (∀ (r : Regs) (n m : Nat) (v : BitVec 64),
    (r.setP n v).getP m = if m = 0 then BitVec.allOnes 64 else if m = n then v else r.getP m) ∧
  (∀ (r : Regs) (n m : Nat) (v : BitVec 256), (r.setD n v).getD m = if m = n then v else r.getD m) ∧
  (∀ (r : Regs) (n m : Nat) (v : BitVec 2048), (r.setV n v).getV m = if m = n then v else r.getV m) ∧
  (∀ (th : Thread) (n : Nat) (v : BitVec 64) (q : Req) (width : Nat) (sg : Bool), q ∈ th.reqs →
    q.dst = .s n width sg → ∃ q' ∈ (th.putS n v).reqs, q'.id = q.id ∧ q'.superseded = true)

/-- CAPRD, MODESET, SYSRD and SYSWR. CAPRD reads the capability register that the low byte of IMM names; SYSRD reads the
value SUB selects (the physical site of an unlocked core only); SYSWR clears the CTX_FPSTAT bits that are 1 in RA;
MODESET writes the fields whose write bits are 1, SFU_COMPAT staying 1 in a PL1 context; a locked core faults a non-
default ARRAY or PRIO, and a read of the physical site, with EXPERT_LOCKED before any effect. -/
def Obligations.SystemAccess : Prop :=
  ∀ (c t : Nat) (w : BitVec 64) (s : State),
    let th := s.thread c t
    let next := fun (x : Thread) => Host.Outcome.next (φ := Fault) (ρ := Refusal) (s.setThread c t x)
    let locked := (s.core c).unlocked = false
    (Acts 0x06 0 c t w s → exec (.caprd c t w) s = next (th.stepped.putS (iRd w) (s.capReg (ifld w 0 8)))) ∧
    (Acts 0x08 0 c t w s → ¬ (iSubI w = 5 ∧ locked) →
      exec (.sysrd c t w) s = next (th.stepped.putS (iRd w) (match iSubI w with
        | 0 => BitVec.ofNat 64 t
        | 1 => BitVec.ofNat 64 c
        | 2 => BitVec.ofNat 64 (s.dieOf c)
        | 3 => th.fpstat.setWidth 64
        | 4 => BitVec.ofNat 64 ((s.die (s.dieOf c)).cycles - (s.core c).cclkBase)
        | _ => BitVec.ofNat 64 (s.siteOf c)))) ∧
    (Acts 0x08 0 c t w s → iSubI w = 5 → locked →
      exec (.sysrd c t w) s = next (Thread.except { th with state := .ready } cExpert 1 0)) ∧
    (Acts 0x09 0 c t w s → exec (.syswr c t w) s =
      next { th.stepped with fpstat := th.fpstat &&& ~~~((th.regs.getS (iRa w)).extractLsb' 0 4) }) ∧
    (Acts 0x07 0 c t w s → ∃ u, exec (.modeset c t w) s = .next u ∧ u = s.setThread c t (u.thread c t) ∧
      (if (s.core c).unlocked = false ∧
          ((w.getLsbD 9 = true ∧ ifld w 1 2 ≠ t % 4) ∨ (w.getLsbD 10 = true ∧ ifld w 3 2 ≠ 0)) then
        u.thread c t = Thread.except { th with state := .ready } cExpert 1 0
      else
        u.thread c t = { th.stepped with mode := (u.thread c t).mode } ∧
        (u.thread c t).mode = ⟨if w.getLsbD 8 then w.getLsbD 0 || (th.mode.pl1 && th.mode.sfuCompat) else th.mode.sfuCompat,
          th.mode.pl1, if w.getLsbD 9 then w.extractLsb' 1 2 else th.mode.array,
          if w.getLsbD 10 then w.extractLsb' 3 2 else th.mode.prio⟩))

/-- Branches. BR goes to its own offset plus 8 × OFF when RA COND RB holds for the coded condition, and past itself
otherwise; JMP, JAL and JR go to their targets, JAL and JR writing PC + 8 to RD; a JR target that is no multiple of 8
raises ALIGN with no effect; and a program counter at or beyond 48 MiB raises PC_RANGE at the fetch of the target,
before the instruction there executes. -/
def Obligations.BranchResults : Prop :=
  ∀ (c t : Nat) (w : BitVec 64) (s : State),
    let th := s.thread c t
    let next := fun (x : Thread) => Host.Outcome.next (φ := Fault) (ρ := Refusal) (s.setThread c t x)
    let off := (w.extractLsb' 0 32).signExtend 64 * 8
    let a := th.regs.getS (iRa w)
    let b := th.regs.getS (iRb w)
    (Acts 0x10 0 c t w s → exec (.br c t w) s = next { th.stepped with
      pc := if (match iCond w with
        | 0 => decide (a = b)
        | 1 => decide (a ≠ b)
        | 2 => decide (a.toInt < b.toInt)
        | 3 => decide (b.toInt ≤ a.toInt)
        | 4 => decide (a.toNat < b.toNat)
        | _ => decide (b.toNat ≤ a.toNat)) then th.pc + off else th.pc + 8 }) ∧
    (Acts 0x11 0 c t w s → exec (.jmp c t w) s = next { th.stepped with pc := th.pc + off }) ∧
    (Acts 0x12 0 c t w s →
      exec (.jal c t w) s = next { th.stepped.putS (iRd w) (th.pc + 8) with pc := th.pc + off }) ∧
    (Acts 0x13 0 c t w s → (a + off).toNat % 8 = 0 →
      exec (.jr c t w) s = next { th.stepped.putS (iRd w) (th.pc + 8) with pc := a + off }) ∧
    (Acts 0x13 0 c t w s → (a + off).toNat % 8 ≠ 0 →
      exec (.jr c t w) s = next (Thread.except { th with state := .ready } cAlign 1 0)) ∧
    (c < s.lcores → t < 32 → th.canIssue = true → s.awake c = true → spadSize ≤ th.pc.toNat → ∀ i : Instr,
      i ∈ [Instr.nop c t w, .br c t w, .jmp c t w, .jal c t w, .jr c t w, .alu c t w, .lds c t w, .matmul c t w] →
      i.WellFormed s → exec i s = next (Thread.except { th with state := .ready } cPcRange 0 0))

/-- What scalar and branch instructions leave alone. NOP, HALT, ALU, ALUI, MOVI, MOVK, CAPRD, MODESET, SYSRD, SYSWR,
BR, JMP, JAL and JR change nothing but their own thread: every byte of memory, every other thread, core and register
stays; in that thread D, V and P registers, the arguments and the S registers other than RD stay, CTX_FPSTAT changes
by SYSWR only and CTX_MODE by MODESET only. Only the model's counter of free values may advance besides, for the UNIT
of an exception that has no code (log entry 24). -/
def Obligations.ScalarFrame : Prop :=
  ∀ k ∈ [Instr.nop, .halt, .alu, .alui, .movi, .movk, .caprd, .modeset, .sysrd, .syswr, .br, .jmp, .jal, .jr],
  ∀ (c t : Nat) (w : BitVec 64) (s u : State), exec (k c t w) s = .next u →
    let th := s.thread c t
    let th' := u.thread c t
    u = { s with freeCtr := u.freeCtr }.setThread c t th' ∧ (∀ a n, u.bytes a n = s.bytes a n) ∧
    (∀ c' t', c' * 32 + t' ≠ c * 32 + t → u.thread c' t' = s.thread c' t') ∧
    th'.regs.d = th.regs.d ∧ th'.regs.v = th.regs.v ∧ th'.regs.p = th.regs.p ∧ th'.args = th.args ∧
    (∀ n, n ≠ iRd w → th'.regs.getS n = th.regs.getS n) ∧
    (iOp w ≠ 0x09 → th'.fpstat = th.fpstat) ∧ (iOp w ≠ 0x07 → th'.mode = th.mode) ∧
    (iOp w ∈ [0x00, 0x01, 0x07, 0x09, 0x10, 0x11] → th'.regs = th.regs)

/-- DSET, DGET, DADV, DMOV, DLD and DST. DSET writes the low bits of RA into the field that FIELD names and keeps
every other bit of DD; DGET writes the field of DA, zero-extended; DADV advances BASE modulo 2^48 by RA plus the
sign-extended OFF and copies the other bits; DMOV copies; each changes its thread only. DLD and DST address their own
scratchpad by RA + sext(OFF) modulo 2^64: an offset beyond 48 MiB − 32 raises ADDR_FORM, one that is no multiple of 32
raises ALIGN, both with no effect but the record, whose UNIT is left open (log entry 24), and the thread's stop. With
no ECC mark on the 32 bytes, no perturbation and no fault, DLD writes those 32 bytes to DD and DST stores the 32 bytes
of DA there and nowhere else. -/
def Obligations.DescriptorResults : Prop :=
  (∀ (c t : Nat) (w : BitVec 64) (s : State),
    let th := s.thread c t
    let next := fun (x : Thread) => Host.Outcome.next (φ := Fault) (ρ := Refusal) (s.setThread c t x)
    let f := descField (iField w)
    (Acts 0x22 0 c t w s → ∃ v : BitVec 256, exec (.dset c t w) s = next (th.stepped.putD (iDd w) v) ∧
      ∀ i < 256, v.getLsbD i = if f.1 ≤ i ∧ i < f.1 + f.2 then (th.regs.getS (iRaD w)).getLsbD (i - f.1)
        else (th.regs.getD (iDd w)).getLsbD i) ∧
    (Acts 0x23 0 c t w s → ∃ v : BitVec 64, exec (.dget c t w) s = next (th.stepped.putS (iRaD w) v) ∧
      ∀ i < 64, v.getLsbD i = (decide (i < f.2) && (th.regs.getD (iDa w)).getLsbD (f.1 + i))) ∧
    (Acts 0x24 0 c t w s → ∃ v : BitVec 256, exec (.dadv c t w) s = next (th.stepped.putD (iDd w) v) ∧
      v.extractLsb' 48 208 = (th.regs.getD (iDa w)).extractLsb' 48 208 ∧
      v.extractLsb' 0 48 = (th.regs.getD (iDa w)).extractLsb' 0 48
        + (th.regs.getS (iRaD w) + (w.extractLsb' 0 30).signExtend 64).setWidth 48) ∧
    (Acts 0x25 0 c t w s → exec (.dmov c t w) s = next (th.stepped.putD (iDd w) (th.regs.getD (iDa w))))) ∧
  (∀ (c t : Nat) (w : BitVec 64) (s : State),
    let th := s.thread c t
    let next := fun (x : Thread) => Host.Outcome.next (φ := Fault) (ρ := Refusal) (s.setThread c t x)
    let off := (th.regs.getS (iRaD w) + (w.extractLsb' 0 30).signExtend 64).toNat
    let ex := if 0x3000000 - 32 < off then some cAddrForm else if off % 32 ≠ 0 then some cAlign else none
    (∀ e, ex = some e → Acts 0x20 0 c t w s → ∃ (unit : BitVec 3) (k : Nat), exec (.dld c t w) s =
      .next ({ s with freeCtr := k }.setThread c t (Thread.except { th with state := .ready } e unit 0))) ∧
    (∀ e, ex = some e → Acts 0x21 0 c t w s → ∃ (unit : BitVec 3) (k : Nat), exec (.dst c t w) s =
      .next ({ s with freeCtr := k }.setThread c t (Thread.except { th with state := .ready } e unit 0))) ∧
    (ex = none → Acts 0x20 0 c t w s → s.err.perturbGo = false → s.mem.wordErr = [] →
      exec (.dld c t w) s = next (th.stepped.putD (iDd w) (BitVec.ofNat 256 (fromLE (s.bytes (spadAddr c off) 32))))) ∧
    (ex = none → Acts 0x21 0 c t w s → s.mem.wordErr = [] →
      ∃ u, exec (.dst c t w) s = .next u ∧ u.thread c t = th.stepped ∧
        u = (s.setThread c t th.stepped).setBytes (spadAddr c off) (toLE 32 (th.regs.getD (iDa w)).toNat) ∧
        ∀ a, u.bytes a 1 = if spadAddr c off ≤ a ∧ a < spadAddr c off + 32
          then [BitVec.ofNat 8 ((th.regs.getD (iDa w)).toNat / 256 ^ (a - spadAddr c off))] else s.bytes a 1))

/-- A vector instruction has gone through: it changed its thread only, and of that thread the program counter, the
guarded lanes of V register `rd`, which take `f`, and CTX_FPSTAT; loads outstanding to those lanes are superseded. -/
def Sys2Proof.Machine.VecDone (c t : Nat) (w : BitVec 64) (s u : State) (rd : Nat) (f : Nat → BitVec 32) : Prop :=
  let th := s.thread c t
  let th' := u.thread c t
  u = s.setThread c t th' ∧ th'.pc = th.pc + 8 ∧ th'.state = .ready ∧ th'.regs.s = th.regs.s ∧ th'.regs.d = th.regs.d ∧
  th'.regs.p = th.regs.p ∧ th'.mode = th.mode ∧ th'.fault = th.fault ∧ (∀ n, n ≠ rd →
    th'.regs.getV n = th.regs.getV n) ∧
  ∀ i < 64, lane (th'.regs.getV rd) i =
    if ((th.regs.getP (iPg w)).getLsbD i ^^ iPn w) = true then f i else lane (th.regs.getV rd) i

/-- VALU, VCVT, VSEL, VMOV to a vector and VPERM. With FT INT32 every SUB of the list computes its 32-bit result on the
lane, shift counts taken modulo 32, and sets no status bit. Each writes the guarded lanes of RD with the operation of
its own lane and keeps the other lanes, the other registers and all memory; VALU and VCVT set the CTX_FPSTAT bits of
their guarded lanes, the others none. -/
def Obligations.VectorResults : Prop :=
  (∀ (rm : RMode) (i : Nat) (a b d : BitVec 32),
    let v := fun sub => valuLane 3 sub rm i a b d
    v 0x00 = (a + b, 0) ∧ v 0x01 = (a - b, 0) ∧ v 0x02 = (a * b, 0) ∧ v 0x08 = (a &&& b, 0) ∧ v 0x09 = (a ||| b, 0) ∧
    v 0x0A = (a ^^^ b, 0) ∧ v 0x0B = (a <<< (b.toNat % 32), 0) ∧ v 0x0C = (a >>> (b.toNat % 32), 0) ∧
    v 0x0D = (a.sshiftRight (b.toNat % 32), 0) ∧ (v 0x04).1.toInt = min a.toInt b.toInt ∧
    (v 0x05).1.toInt = max a.toInt b.toInt ∧ (v 0x0E).1.toNat = min a.toNat b.toNat ∧
    (v 0x0F).1.toNat = max a.toNat b.toNat) ∧
  (∀ (c t : Nat) (w : BitVec 64) (s : State),
    let th := s.thread c t
    let a := th.regs.getV (iRa w)
    let b := th.regs.getV (iRb w)
    let d := th.regs.getV (iRc w)
    let fp := fun u : State => (u.thread c t).fpstat
    let alu := fun i => valuLane (iFt w) (iSub w) (iMode' w) i (lane a i) (lane b i) (lane d i)
    let cvt := fun i => vcvtLane (iFt w) (iSub w) (iMode' w) (iRb w)
      (if iRm w = 4 then (th.regs.getS (iRc w)).toNat else 0) a b i
    (Acts 0x30 0 c t w s → ∃ u, exec (.valu c t w) s = .next u ∧ VecDone c t w s u (iRd w) (fun i => (alu i).1) ∧
      fp u = fp s ||| laneFlags (th.laneGuard w) alu) ∧
    (Acts 0x31 0 c t w s → ∃ u, exec (.vcvt c t w) s = .next u ∧ VecDone c t w s u (iRd w) (fun i => (cvt i).1) ∧
      fp u = fp s ||| laneFlags (th.laneGuard w) cvt) ∧
    (Acts 0x33 0 c t w s → ∃ u, exec (.vsel c t w) s = .next u ∧ fp u = fp s ∧ VecDone c t w s u (iRd w)
      (fun i => if (th.regs.getP (iRc w)).getLsbD i then lane a i else lane b i)) ∧
    (Acts 0x34 0 c t w s → ∃ u, exec (.vmovBroadcast c t w) s = .next u ∧ fp u = fp s ∧ VecDone c t w s u (iRd w)
      (fun _ => (th.regs.getS (iRa w)).setWidth 32)) ∧
    (Acts 0x34 2 c t w s → ∃ u, exec (.vmovIndex c t w) s = .next u ∧ fp u = fp s ∧ VecDone c t w s u (iRd w)
      (fun i => BitVec.ofNat 32 i)) ∧
    (Acts 0x36 0 c t w s → ∃ u, exec (.vperm c t w) s = .next u ∧ fp u = fp s ∧ VecDone c t w s u (iRd w)
      (fun i => lane a ((lane b i).toNat % 64))))

/-- VCMP, PLOG, VRED and VMOV to a scalar. VCMP gives each lane of the destination predicate its comparison, and 0 where
the guard is 0; PLOG computes bitwise on P registers and keeps the bits of unguarded lanes; a write to P0 is
discarded; VRED writes its reduction to an S register with its status bits; VMOV SUB 1 writes the selected lane, zero-
extended, when the guard of that lane is 1 and has no effect otherwise. -/
def Obligations.PredicateResults : Prop :=
  ∀ (c t : Nat) (w : BitVec 64) (s : State),
    let th := s.thread c t
    let g := fun i => (th.regs.getP (iPg w)).getLsbD i ^^ iPn w
    let a := th.regs.getV (iRa w)
    let b := th.regs.getV (iRb w)
    let next := fun (x : Thread) => Host.Outcome.next (φ := Fault) (ρ := Refusal) (s.setThread c t x)
    (Acts 0x32 0 c t w s → ∃ v : BitVec 64, exec (.vcmp c t w) s = next (th.stepped.putP (iRd w) v) ∧
      ∀ i < 64, v.getLsbD i = (g i && vcmpLane (iFt w) (iSub w) (iRc w) (lane a i) (lane b i))) ∧
    (Acts 0x37 0 c t w s → ∃ v : BitVec 64, exec (.plog c t w) s = next (th.stepped.putP (iRd w) v) ∧
      ∀ i < 64, v.getLsbD i = if g i then
          (let x := (th.regs.getP (iRa w)).getLsbD i
           let y := (th.regs.getP (iRb w)).getLsbD i
           match iSub w with
           | 0 => x && y
           | 1 => x || y
           | 2 => x ^^ y
           | 3 => x && !y
           | 4 => !x
           | _ => (th.regs.getS (iRa w)).getLsbD i)
        else (th.regs.getP (iRd w)).getLsbD i) ∧
    (Acts 0x35 0 c t w s → exec (.vred c t w) s =
      let r := vredVal (iSub w) (iMode' w) (th.laneGuard w) a
      next { th.stepped.putS (iRd w) r.1 with fpstat := th.fpstat ||| r.2 }) ∧
    (Acts 0x34 1 c t w s → exec (.vmovExtract c t w) s =
      let i := (th.regs.getS (iRb w)).toNat % 64
      next (if g i then th.stepped.putS (iRd w) ((lane a i).setWidth 64) else th.stepped))

/-- What vector and descriptor-register instructions leave alone. VALU, VCVT, VCMP, VSEL, the three forms of VMOV,
VRED, VPERM, PLOG, DSET, DGET, DADV and DMOV change nothing but their own thread: every byte of memory, every other
thread, core and register stays; in that thread CTX_MODE and the arguments stay, and so does CTX_FPSTAT except by
VALU, VCVT and VRED. Only the model's counter of free values may advance besides, for the UNIT of an exception that
has no code (log entry 24). -/
def Obligations.VectorFrame : Prop :=
  ∀ k ∈ [Instr.valu, .vcvt, .vcmp, .vsel, .vmovBroadcast, .vmovExtract, .vmovIndex, .vred, .vperm, .plog, .dset, .dget,
    .dadv, .dmov], ∀ (c t : Nat) (w : BitVec 64) (s u : State), exec (k c t w) s = .next u →
    let th := s.thread c t
    let th' := u.thread c t
    u = { s with freeCtr := u.freeCtr }.setThread c t th' ∧ (∀ a n, u.bytes a n = s.bytes a n) ∧
    (∀ c' t', c' * 32 + t' ≠ c * 32 + t → u.thread c' t' = s.thread c' t') ∧
    th'.mode = th.mode ∧ th'.args = th.args ∧ (iOp w ∉ [0x30, 0x31, 0x35] → th'.fpstat = th.fpstat) ∧
    (iOp w ∉ [0x22, 0x24, 0x25] → th'.regs.d = th.regs.d) ∧ (iOp w ∉ [0x32, 0x37] → th'.regs.p = th.regs.p) ∧
    (∀ n, n ≠ iRd w → th'.regs.getV n = th.regs.getV n) ∧
    (∀ n, n ≠ (if iOp w = 0x23 then iRaD w else iRd w) → th'.regs.getS n = th.regs.getS n)

/-- The `n` bytes at device address `a` lie in the own scratchpad of core `c`, with no ECC mark and no perturbation at
work, in no line that the remote-atomic unit holds. -/
structure Sys2Proof.Machine.OwnClean (s : State) (c a n : Nat) : Prop where
  window : ∃ off, a = spadAddr c off ∧ off + n ≤ spadSize
  live : (s.core c).diked = false
  quiet : s.err.perturbGo = false
  clean : s.mem.wordErr = []
  free : s.lineAt a n = none

/-- Every request of this module at the fabric endpoint has been accepted and sent; none waits. -/
def Sys2Proof.Machine.State.fabricSent (s : State) : Prop :=
  ∀ r ∈ s.fab.reqs, r.atHub = true ∧ r.sent = true ∧ r.id < s.nextId

/-- Addresses that fault at issue. LDS, STS and ATOM take RA plus the sign-extended OFF modulo 2^64: a physical-site
address on a locked core raises EXPERT_LOCKED, bits [63:48] not 0 raise ADDR_FORM, and an address that is no multiple
of WIDTH raises ALIGN, in that order, with no effect but the record of the exception and the stop of the thread. -/
def Obligations.AddressExceptions : Prop :=
  ∀ (c t : Nat) (w : BitVec 64) (s : State), ∀ k ∈ [(0x50, Instr.lds), (0x51, .sts), (0x56, .atom)],
    let th := s.thread c t
    let a := (th.regs.getS (iRa w) + (w.extractLsb' 0 30).signExtend 64).toNat
    let site := 0x010000000000 ≤ a ∧ a < 0x010000000000 + 176 * 0x4000000
    ∀ e, Acts k.1 0 c t w s →
      (if (s.core c).unlocked = false ∧ site then e = cExpert
       else if 2 ^ 48 ≤ a then e = cAddrForm else a % 2 ^ iWidth w ≠ 0 ∧ e = cAlign) →
      exec (k.2 c t w) s = .next (s.setThread c t (Thread.except { th with state := .ready } e 3 0))

/-- LDS, STS and ATOM on the own scratchpad. On clean words of the own scratchpad, LDS writes RD with the WIDTH bytes at
the address, zero- or sign-extended; STS stores the low WIDTH bytes of its register there and changes no other byte;
ATOM stores the result of its operation there and writes the old value, zero-extended, to RD. -/
def Obligations.OwnScratchpadAccess : Prop :=
  ∀ (c t : Nat) (w : BitVec 64) (s : State),
    let th := s.thread c t
    let a := (th.regs.getS (iRa w) + (w.extractLsb' 0 30).signExtend 64).toNat
    let n := 2 ^ iWidth w
    let old := s.bytes a n
    let v := BitVec.ofNat (8 * n) (fromLE old)
    let new := toLE n (atomVal (iAop w) n (fromLE old) (th.regs.getS (iRd w)).toNat (th.regs.getS (iRb w)).toNat)
    OwnClean s c a n → a % n = 0 →
    (Acts 0x50 0 c t w s → exec (.lds c t w) s = .next (s.setThread c t (th.stepped.putS (iRd w)
      (if iAop w = 1 then v.signExtend 64 else v.setWidth 64)))) ∧
    (Acts 0x51 0 c t w s → ∃ u, exec (.sts c t w) s = .next u ∧
      u = (s.setThread c t th.stepped).setBytes a (toLE n (th.regs.getS (iRd w)).toNat) ∧
      ∀ x, u.bytes x 1 = if a ≤ x ∧ x < a + n then (toLE n (th.regs.getS (iRd w)).toNat).drop (x - a) |>.take 1
        else s.bytes x 1) ∧
    (Acts 0x56 0 c t w s → ∃ u, exec (.atom c t w) s = .next u ∧
      u.thread c t = th.stepped.putS (iRd w) (v.setWidth 64) ∧
      u = (s.setThread c t (u.thread c t)).setBytes a new ∧
      ∀ x, u.bytes x 1 = if a ≤ x ∧ x < a + n then (new.drop (x - a)).take 1 else s.bytes x 1)

/-- The atomic operations. On 4 and 8 bytes each AOP stores its listed result, MIN and MAX comparing as signed and MINU
and MAXU as unsigned numbers of that width; CAS stores RD only where the old value equals the low bytes of RB; and the
result has the width of the operation. -/
def Obligations.AtomicTable : Prop :=
  ∀ n ∈ [4, 8], ∀ (o v cmp : Nat), o < 2 ^ (8 * n) → v < 2 ^ (8 * n) →
    let sg := fun x : Nat => (BitVec.ofNat (8 * n) x).toInt
    let r := fun op => atomVal op n o v cmp
    r 0 = (o + v) % 2 ^ (8 * n) ∧ r 1 = v ∧ r 2 = (if o = cmp % 2 ^ (8 * n) then v else o) ∧ r 3 = o &&& v ∧
    r 4 = o ||| v ∧ r 5 = o ^^^ v ∧ sg (r 6) = min (sg o) (sg v) ∧ sg (r 7) = max (sg o) (sg v) ∧ r 8 = min o v ∧
    r 9 = max o v ∧ ∀ op, r op < 2 ^ (8 * n)

/-- LDS, STS and ATOM outside the own scratchpad. An aligned access to another place becomes one outstanding request of
the thread, with one part at the address, if the thread holds fewer than 8 instruction slots and the core a free
sector slot; a load of a sector that a load outstanding on the core already reads shares that sector request and what
it has returned; no register and no byte of memory changes yet. With 8 slots in use the thread enters WAIT_MEM with
the program counter, the registers and the requests as they were. -/
def Obligations.ExternalAccess : Prop :=
  ∀ (c t : Nat) (w : BitVec 64) (s : State),
    let th := s.thread c t
    let a := (th.regs.getS (iRa w) + (w.extractLsb' 0 30).signExtend 64).toNat
    let n := 2 ^ iWidth w
    let x := th.regs.getS (iRd w)
    ∀ k ∈ [(0x50, Instr.lds, ReqDst.s (iRd w) n (iAop w == 1), PartOp.rd),
           (0x51, .sts, .none, .wr (toLE n x.toNat)),
           (0x56, .atom, .s (iRd w) n false, .atom (iAop w) n x (th.regs.getS (iRb w)))],
    Acts k.1 0 c t w s → a < 2 ^ 48 → a % n = 0 → s.own c a = false →
    ((s.core c).unlocked = true ∨ physAddr a = false) →
    (th.slots < 8 → s.slotsUsed c < 256 → ∃ u q p, exec (k.2.1 c t w) s = .next u ∧ u.mem = s.mem ∧
      (u.thread c t).regs = th.regs ∧ (u.thread c t).pc = th.pc + 8 ∧ (u.thread c t).reqs.length = th.reqs.length + 1 ∧
      (u.thread c t).reqs.getLast? = some q ∧ q.pc = th.pc ∧ q.dst = k.2.2.1 ∧ q.superseded = false ∧ q.parts = [p] ∧
      p.addr = a ∧ p.len = n ∧ p.op = k.2.2.2 ∧ p.node = none ∧
      (p.res = none ∨ ∃ y ∈ s.coreParts c, y.op = .rd ∧ p.op = .rd ∧ p.sid = y.sid ∧ p.res = y.snap.bind p.take) ∧
      (p.err = none ↔ ∃ pl, s.placeOf a n = .ok pl)) ∧
    (8 ≤ th.slots → ∃ u, exec (k.2.1 c t w) s = .next u ∧ u = s.setThread c t (u.thread c t) ∧
      u.thread c t = { th with state := .waitMem, memNeed := (u.thread c t).memNeed })

/-- LDV, STV, GATHER and SCATTER. On clean words of the own scratchpad each moves the 4-byte words of its guarded lanes
and no others: LDV and GATHER write those lanes of RD; STV and SCATTER store those lanes and change no byte outside
the words of guarded lanes. With no guarded lane each only advances. -/
def Obligations.VectorMemory : Prop :=
  ∀ (c t : Nat) (w : BitVec 64) (s : State),
    let th := s.thread c t
    let g := th.laneGuard w
    let base := (th.regs.getS (iRa w) + (w.extractLsb' 0 30).signExtend 64).toNat
    let run := fun i => base + 4 * i
    let idx := fun i => base + 4 * (lane (th.regs.getV (iRb w)) i).toNat
    let src := fun i => lane (th.regs.getV (iRd w)) i
    let clean := fun (at' : Nat → Nat) => base % 4 = 0 ∧ ∀ i < 64, g i = true → OwnClean s c (at' i) 4
    let stored := fun (u : State) (at' : Nat → Nat) =>
      (∀ x, (∀ i < 64, g i = true → x < at' i ∨ at' i + 4 ≤ x) → u.bytes x 1 = s.bytes x 1) ∧
      ∀ i < 64, g i = true → (∀ j < 64, g j = true → at' j = at' i → src j = src i) →
        fromLE (u.bytes (at' i) 4) = (src i).toNat
    (Acts 0x52 0 c t w s → clean run → ∃ u, exec (.ldv c t w) s = .next u ∧
      VecDone c t w s u (iRd w) (fun i => BitVec.ofNat 32 (fromLE (s.bytes (run i) 4)))) ∧
    (Acts 0x54 0 c t w s → clean idx → ∃ u, exec (.gather c t w) s = .next u ∧
      VecDone c t w s u (iRd w) (fun i => BitVec.ofNat 32 (fromLE (s.bytes (idx i) 4)))) ∧
    (Acts 0x53 0 c t w s → clean run → ∃ u, exec (.stv c t w) s = .next u ∧ u.thread c t = th.stepped ∧ stored u run) ∧
    (Acts 0x55 0 c t w s → clean idx → ∃ u, exec (.scatter c t w) s = .next u ∧ u.thread c t = th.stepped ∧
      stored u idx) ∧
    ((∀ i < 64, g i = false) →
      (Acts 0x52 0 c t w s → exec (.ldv c t w) s = .next (s.advance c t)) ∧
      (Acts 0x53 0 c t w s → exec (.stv c t w) s = .next (s.advance c t)) ∧
      (Acts 0x54 0 c t w s → exec (.gather c t w) s = .next (s.advance c t)) ∧
      (Acts 0x55 0 c t w s → exec (.scatter c t w) s = .next (s.advance c t)))

/-- RLD, RST, RLDV, RSTV and RATOM. To a node other than 0xFFFF, aligned, with slots free and no earlier request waiting
at the fabric endpoint, each becomes one more outstanding request of its thread, with the destination register it
names, and changes no other register and no byte of memory. A scalar form has one part with its address, width and
operation, and sends one packet with them: RLD to the nearer replica where one covers the address; every guarded lane
of a vector form lies in one part at RA + sext(OFF) + 4 × lane, with the data of its lane for RSTV, and that part is
one packet. A part whose node is not reachable (no NODE_ID, no route of at most two hops) ends with NODE_UNREACH and
sends nothing. With 8 slots in use the thread enters WAIT_MEM with everything else as it was. -/
def Obligations.RemoteIssue : Prop :=
  ∀ (c t : Nat) (w : BitVec 64) (s : State),
    let th := s.thread c t
    let node := (th.regs.getS (iRa w)).extractLsb' 48 16
    let a := ((th.regs.getS (iRa w)).extractLsb' 0 48 + ((w.extractLsb' 0 30).signExtend 64).extractLsb' 0 48).toNat
    let n := 2 ^ iWidth w
    let x := th.regs.getS (iRd w)
    let y := th.regs.getS (iRb w)
    let g := th.laneGuard w
    let at' := fun i => (a + 4 * i) % 2 ^ 48
    let waits := fun (i : Instr) => 8 ≤ th.slots → ∃ u, exec i s = .next u ∧ u = s.setThread c t (u.thread c t) ∧
      u.thread c t = { th with state := .waitMem, memNeed := (u.thread c t).memNeed }
    let went := fun (u : State) (q : Req) (dst : ReqDst) => u.mem = s.mem ∧ (u.thread c t).regs = th.regs ∧
      (u.thread c t).pc = th.pc + 8 ∧ (u.thread c t).reqs = th.reqs ++ [q] ∧ q.pc = th.pc ∧ q.dst = dst ∧
      q.superseded = false
    let sent := fun (u : State) (q : Req) (p : Part) (dest : BitVec 16) (type : Nat) (body : Bytes) =>
      if s.reachable dest false = true then p.err = none ∧ ∃ f ∈ u.fab.reqs, f.owner = .part c t q.id p.off ∧
        f.node = dest ∧ f.addr = p.addr ∧ f.len = p.len ∧ f.type = type ∧ f.body = body
      else p.err = some (cUnreach, 4)
    (∀ k ∈ [(0x58, Instr.rld, ReqDst.s (iRd w) n (iAop w == 1), PartOp.rd, 1, globalBytes node a ++ toLE 2 n),
            (0x59, .rst, .none, .wr (toLE n x.toNat), 2, globalBytes node a ++ toLE n x.toNat),
            (0x5C, .ratom, .s (iRd w) n false, .atom (iAop w) n x y, 4,
              globalBytes node a ++ toLE 1 (iAop w) ++ toLE 1 n ++ toLE 6 0 ++ toLE 8 x.toNat ++ toLE 8 y.toNat)],
      Acts k.1 0 c t w s → node ≠ 0xFFFF → a % n = 0 → ((s.core c).unlocked = true ∨ physAddr a = false) →
      (th.slots < 8 → s.slotsUsed c < 256 → s.fabricSent → ∃ u q p, exec (k.2.1 c t w) s = .next u ∧
        went u q k.2.2.1 ∧ q.parts = [p] ∧ p.addr = a ∧ p.len = n ∧ p.op = k.2.2.2.1 ∧ p.node = some node ∧
          p.res = none ∧
        sent u q p (if k.1 = 0x58 then s.replicaOf node a else node) k.2.2.2.2.1 k.2.2.2.2.2) ∧ waits (k.2.1 c t w)) ∧
    ∀ k ∈ [(0x5A, Instr.rldv, ReqDst.v (iRd w) (BitVec.ofNat 64 (bitsOf 64 g)) 0), (0x5B, .rstv, .none)],
      Acts k.1 0 c t w s → node ≠ 0xFFFF → a % 4 = 0 → (∃ i < 64, g i = true) →
      ((s.core c).unlocked = true ∨ ∀ i < 64, g i = true → physAddr (at' i) = false) →
      (th.slots < 8 → s.slotsUsed c + 16 ≤ 256 → s.fabricSent → ∃ u q, exec (k.2.1 c t w) s = .next u ∧
        went u q k.2.2 ∧ ∀ i < 64, g i = true → ∃ p ∈ q.parts, p.node = some node ∧ p.res = none ∧ p.off ≤ 4 * i ∧
          4 * i + 4 ≤ p.off + p.len ∧ (p.addr + (4 * i - p.off)) % 2 ^ 48 = at' i ∧
          if k.1 = 0x5A then p.op = .rd ∧
            sent u q p (s.replicaOf node p.addr) 1 (globalBytes node p.addr ++ toLE 2 p.len)
          else ∃ d, p.op = .wr d ∧ leField d (4 * i - p.off) 4 = (lane (th.regs.getV (iRd w)) i).toNat ∧
            sent u q p node 2 (globalBytes node p.addr ++ d)) ∧ waits (k.2.1 c t w)

/-- RATOMN and PUTS. To a routed node, with slots free and no earlier request waiting at the fabric endpoint, each becomes
one request of that node with its payload, and a message of its thread that awaits its acknowledgement, and writes no
register and no memory; PUTS keeps its slots until then, RATOMN until the hub has accepted it, which a bundle that
carries packets lets it do at once. To a node that is not routed it records NODE_UNREACH and stops the thread. With
8 slots in use the thread enters WAIT_MEM. PUTS to node 0xFFFF is a broadcast packet that nothing acknowledges, which
waits while the bundle is down, and RATOMN to it raises ADDR_FORM. -/
def Obligations.MessageIssue : Prop :=
  ∀ (c t : Nat) (w : BitVec 64) (s : State),
    let th := s.thread c t
    let node := (th.regs.getS (iRa w)).extractLsb' 48 16
    let a := ((th.regs.getS (iRa w)).extractLsb' 0 48 + ((w.extractLsb' 0 30).signExtend 64).extractLsb' 0 48).toNat
    let x := th.regs.getS (iRd w)
    let n := 2 ^ iWidth w
    let up := s.pilUp (s.dieOf c)
    let data := globalBytes node a ++ toLE n x.toNat
    let ops := globalBytes node a ++ toLE 1 (iAop w) ++ toLE 1 n ++ toLE 6 0 ++ toLE 8 x.toNat
      ++ toLE 8 (th.regs.getS (iRb w)).toNat
    let room := th.slots < 8 ∧ s.slotsUsed c < 256
    ((s.core c).unlocked = true ∨ physAddr a = false) → a % n = 0 →
    (∀ k ∈ [(0x5D, Instr.ratomn, 5, ops), (0x5E, .puts, 3, data)], Acts k.1 0 c t w s → node ≠ 0xFFFF →
      (s.reachable node true = true → room → s.fabricSent → (∀ m ∈ th.msgs, m.id < s.nextId) →
        ∃ u q, exec (k.2.1 c t w) s = .next u ∧ u.mem = s.mem ∧
        u.thread c t = { th.stepped with msgs := th.msgs ++ [⟨s.nextId, th.pc, k.2.2.1 == 3 || !up⟩] } ∧
        u.fab.reqs = s.fab.reqs ++ [q] ∧ q.id = s.nextId ∧ q.owner = .msg c t ∧ q.type = k.2.2.1 ∧ q.node = node ∧
        q.addr = a ∧ q.len = n ∧ q.body = k.2.2.2) ∧
      (s.reachable node true = false → room → ∃ u, exec (k.2.1 c t w) s = .next u ∧ u.mem = s.mem ∧
        u.thread c t = (th.stepped.record cUnreach 3 4 th.pc).stopTo .faulted) ∧
      (8 ≤ th.slots → exec (k.2.1 c t w) s = .next (s.setThread c t { th with state := .waitMem, memNeed := 1 }))) ∧
    (Acts 0x5D 0 c t w s → node = 0xFFFF →
      exec (.ratomn c t w) s = .next (s.setThread c t (Thread.except { th with state := .ready } cAddrForm 3 0))) ∧
    (Acts 0x5E 0 c t w s → node = 0xFFFF → s.fab.node ≠ 0xFFFF → room →
      (up = true → ∃ u p, exec (.puts c t w) s = .next u ∧ u.mem = s.mem ∧
        u.threads = (s.setThread c t th.stepped).threads ∧ u.fab.reqs = s.fab.reqs ∧
        (u.link 48).queue = (s.link 48).queue ++ [(0, Pkt.bytes p)] ∧ p.dst = 0xFFFF ∧ p.src = s.fab.nodeId ∧
        p.type = 3 ∧ p.body = data) ∧
      (up = false → exec (.puts c t w) s = .next s))

/-- SEM.SIG, SEM.WAIT and SEM.TRY. SEM.SIG adds n, saturating at 0xFFFF with the bit of CORE_SEMOVF; SEM.WAIT with the
value at least n and no earlier waiter subtracts n and goes on, and otherwise waits behind the others in WAIT_SYNC;
SEM.TRY then subtracts n and writes 1, or changes no semaphore and writes 0. Other semaphores keep their values. -/
def Obligations.SemaphoreResults : Prop :=
  ∀ (c t : Nat) (w : BitVec 64) (s : State),
    let th := s.thread c t
    let k := s.core c
    let id := iId w
    let val := fun (u : State) (m : Nat) => (Tab.get 0 (u.core c).sems m).toNat
    let free := (∀ x ∈ k.waiters, x.1 ≠ id) ∧ iN w ≤ val s id
    let others := fun u : State => ∀ m, m ≠ id → val u m = val s m
    k.diked = false →
    (Acts 0x68 0 c t w s → (∀ x ∈ k.waiters, x.1 ≠ id) → ∃ u, exec (.semSig c t w) s = .next u ∧
      u.thread c t = th.stepped ∧ val u id = min (val s id + iN w) 0xFFFF ∧ others u ∧
      (u.core c).semOvf = if 0xFFFF < val s id + iN w then k.semOvf ||| (1#64 <<< id) else k.semOvf) ∧
    (Acts 0x68 1 c t w s → free → ∃ u, exec (.semWait c t w) s = .next u ∧ u.thread c t = th.stepped ∧
      val u id = val s id - iN w ∧ others u ∧ (u.core c).waiters = k.waiters) ∧
    (Acts 0x68 1 c t w s → ¬ free → ∃ u, exec (.semWait c t w) s = .next u ∧
      u.thread c t = { th.stepped with state := .waitSync, wait := some (.sem id (iN w)) } ∧
      u.core c = { k with waiters := k.waiters ++ [(id, t, iN w)] }) ∧
    (Acts 0x68 2 c t w s → free → ∃ u, exec (.semTry c t w) s = .next u ∧ u.thread c t = th.stepped.putS (iRd w) 1 ∧
      val u id = val s id - iN w ∧ others u) ∧
    (Acts 0x68 2 c t w s → ¬ free → exec (.semTry c t w) s = .next (s.setThread c t (th.stepped.putS (iRd w) 0)))

/-- Waiters are served in order. Serving the waiters of a semaphore releases, in the order of their SEM.WAIT, the longest
run of them that the value satisfies one after another; the first whose n exceeds the remaining value blocks every
later one; the value falls by the sum of the released counts; waiters on other semaphores stay. While any SEM.WAIT
waits, SEM.TRY writes 0 and changes nothing else. -/
def Obligations.WaiterOrder : Prop :=
  (∀ (sem v : Nat) (ws : List (Nat × Nat × Nat)),
    let mine := ws.filter fun x => x.1 == sem
    let r := serveWaiters sem ws v
    ∃ k, k ≤ mine.length ∧ r.2.2 = (mine.take k).map (fun x => x.2.1) ∧
      r.2.1 + ((mine.take k).map fun x => x.2.2).sum = v ∧
      (r.1.filter fun x => x.1 == sem) = mine.drop k ∧
      (r.1.filter fun x => x.1 != sem) = (ws.filter fun x => x.1 != sem) ∧
      ∀ x, (mine.drop k).head? = some x → r.2.1 < x.2.2) ∧
  ∀ (c t : Nat) (w : BitVec 64) (s : State), Acts 0x68 2 c t w s → (∃ x ∈ (s.core c).waiters, x.1 = iId w) →
    exec (.semTry c t w) s = .next (s.setThread c t ((s.thread c t).stepped.putS (iRd w) 0))

/-- FENCE and STEPFENCE. FENCE.L only advances. FENCE.M advances once the thread has no request to this module
outstanding, FENCE.G once it has no request and no unacknowledged message, and until then they stay where they are and
change nothing. STEPFENCE advances with 0 in its register when the counter of the group is at least k, with 1 (LATE)
while the group or the engine is off, and waits in WAIT_SYNC otherwise; STEPFENCE.M does the same and is counted as an
arrival of its round; the arrival that completes the round of a group without MFENCE sets the counter and ends the
wait with 0. -/
def Obligations.FenceResults : Prop :=
  ∀ (c t : Nat) (w : BitVec 64) (s : State),
    let th := s.thread c t
    let loc := ∃ r ∈ th.reqs, ∃ p ∈ r.parts, p.node = none
    let k := (th.regs.getS (iRa w)).extractLsb' 0 32
    let x := s.group (iId w)
    let reached := (x.step - k).toNat < 2 ^ 31
    (Acts 0x6A 0 c t w s → exec (.fenceL c t w) s = .next (s.setThread c t th.stepped)) ∧
    (Acts 0x6A 1 c t w s → ¬ loc → exec (.fenceM c t w) s = .next (s.setThread c t th.stepped)) ∧
    (Acts 0x6A 1 c t w s → loc → exec (.fenceM c t w) s = .next s) ∧
    (Acts 0x6A 2 c t w s → th.reqs = [] → th.msgs = [] → exec (.fenceG c t w) s = .next (s.setThread c t th.stepped)) ∧
    (Acts 0x6A 2 c t w s → th.reqs ≠ [] ∨ th.msgs ≠ [] → exec (.fenceG c t w) s = .next s) ∧
    (Acts 0x6B 0 c t w s → x.en = true → s.col.go = true → reached →
      exec (.stepfence c t w) s = .next (s.setThread c t (th.stepped.putS (iRd w) 0))) ∧
    (Acts 0x6B 0 c t w s → x.en = true → s.col.go = true → ¬ reached → exec (.stepfence c t w) s =
      .next (s.setThread c t { th.stepped with state := .waitSync, wait := some (.step (iId w) k (iRd w)) })) ∧
    (∀ e ∈ [(0, Instr.stepfence), (1, .stepfenceM)], Acts 0x6B e.1 c t w s → x.en = false ∨ s.col.go = false →
      exec (e.2 c t w) s = .next (s.setThread c t (th.stepped.putS (iRd w) 1))) ∧
    (Acts 0x6B 1 c t w s → x.en = true → s.col.go = true → (x.round k).count + 1 < x.fcount →
      exec (.stepfenceM c t w) s = .next ((s.setThread c t (if reached then th.stepped.putS (iRd w) 0
        else { th.stepped with state := .waitSync, wait := some (.step (iId w) k (iRd w)) })).setGroup (iId w)
          (x.setRound { x.round k with count := (x.round k).count + 1 }))) ∧
    (Acts 0x6B 1 c t w s → x.en = true → s.col.go = true → x.mfence = false → (x.round k).sent = false →
      x.fcount ≤ (x.round k).count + 1 → ∃ u, exec (.stepfenceM c t w) s = .next u ∧ u.mem = s.mem ∧
        (u.group (iId w)).step = (if reached then x.step else k) ∧ (∀ r ∈ (u.group (iId w)).rounds, r.k ≠ k) ∧
        (u.thread c t).regs = (th.regs.setS (iRd w) 0) ∧ (u.thread c t).state = .ready)

/-- The commands of the list, one after another, lead from `s` to `u`. -/
def Sys2Proof.Machine.Leads : List Instr → State → State → Prop
  | [], s, u => u = s
  | i :: is, s, u => ∃ v, exec i s = .next v ∧ Leads is v u

/-- The instruction entered a unit queue of `depth` places as operation `o`, the last of the queue `q`, with the
operands it had at issue; its thread has stepped; no byte of memory changed. -/
def Sys2Proof.Machine.QueuedAs (o : AsyncOp) (c t : Nat) (w ra rb : BitVec 64) (s u : State) (q : State → List Nat) :
    Prop :=
  u.ops = s.ops ++ [o] ∧ q u = q s ++ [o.id] ∧ o.id = s.nextId ∧ o.core = c ∧ o.thread = t ∧ o.word = w ∧
  o.pc = (s.thread c t).pc ∧ o.d = (s.thread c t).regs.d ∧ o.ra = ra ∧ o.rb = rb ∧
  o.compat = (s.thread c t).mode.sfuCompat ∧ o.array = (s.thread c t).mode.array.toNat ∧ o.mute = false ∧
  u.thread c t = (s.thread c t).stepped ∧ u.mem = s.mem

/-- Some operation entered the queue so. -/
def Sys2Proof.Machine.Queued (c t : Nat) (w ra rb : BitVec 64) (s u : State) (q : State → List Nat) : Prop :=
  ∃ o, QueuedAs o c t w ra rb s u q

/-- Every output of a list goes to clean bytes of the own scratchpad of core `c`. -/
def Sys2Proof.Machine.OutsClean (s : State) (c : Nat) (l : List OutW) : Prop :=
  ∀ w ∈ l, w.data ≠ [] ∧ OwnClean s c w.addr w.data.length

/-- Memory with every output of a list written, in order. -/
def Sys2Proof.Machine.State.written (s : State) (l : List OutW) : Mem :=
  (l.foldl (fun s w => State.setBytes s w.addr w.data) s).mem

/-- Operation `o` has completed without error: it has left the module, its semaphore has risen by one (saturating) where
nothing waits on it, and its thread has the status bits `fl`. -/
def Sys2Proof.Machine.Completed (o : AsyncOp) (fl : BitVec 4) (s u : State) : Prop :=
  u.op? o.id = none ∧ (u.thread o.core o.thread).fault = (s.thread o.core o.thread).fault ∧
  (u.thread o.core o.thread).fpstat = (s.thread o.core o.thread).fpstat ||| fl ∧
  ∀ sem, opSem o.word = some sem → (s.core o.core).diked = false → (∀ x ∈ (s.core o.core).waiters, x.1 ≠ sem) →
    Tab.get 0 (u.core o.core).sems sem = BitVec.ofNat 16 (min ((Tab.get 0 (s.core o.core).sems sem).toNat + 1) 0xFFFF)

/-- The places lie where the bundles and the held lines let a unit of die `d` (or of the hub) access them now. -/
def Sys2Proof.Machine.State.reaches (s : State) (d : Option Nat) (segs : List (Nat × Nat)) : Prop :=
  s.segsUp d segs = true ∧ s.segsLine segs = none

/-- No operation has a number that is still to be given. -/
def Sys2Proof.Machine.State.opsOld (s : State) : Prop := ∀ y ∈ s.ops, y.id < s.nextId

/-- MATMUL, CONV, ATTEND and ACCOP. With a place free in the queue of the array that CTX_MODE.ARRAY names and no
failed check, each becomes an operation at the end of that queue, holding the descriptor registers of its issue; a
failed check raises its cause with no other effect; while the queue holds 8 operations the instruction does not issue.
On an array with GO 1, an empty queue and nothing held or executing, that can reach its tiles, it then starts: what it
computes without an exception gives the bank its new contents and the outputs, flags and checks of the run, and the end
of the run, no check failing, writes exactly those outputs and signals. -/
def Obligations.ArrayIssue : Prop :=
  ∀ (c t : Nat) (w : BitVec 64) (s : State),
    let th := s.thread c t
    let a := th.mode.array.toNat
    let locked := !(s.core c).unlocked
    let queue := fun u : State => (u.arr c a).queue
    let x := s.arr c a
    ∀ k ∈ [(0x70, 0, Instr.matmul, checkMatmul), (0x71, 0, .conv, checkConv), (0x72, 0, .attend, checkAttend),
           (0x79, 0, .accopClr, checkAccop), (0x79, 1, .accopRd, checkAccop), (0x79, 2, .accopRdClr, checkAccop)],
    Acts k.1 k.2.1 c t w s →
    ((queue s).length < 8 → k.2.2.2 locked th.regs.d w = none →
      ∃ u, exec (k.2.2.1 c t w) s = .next u ∧ Queued c t w 0 0 s u queue) ∧
    (∀ e, (queue s).length < 8 → k.2.2.2 locked th.regs.d w = some e →
      exec (k.2.2.1 c t w) s = .next (s.setThread c t (Thread.except { th with state := .ready } e 4 0))) ∧
    (8 ≤ (queue s).length → exec (k.2.2.1 c t w) s = .next s) ∧
    (k.2.2.2 locked th.regs.d w = none → x.queue = [] → x.run = [] → x.go = true → x.held = false →
      x.stestBusy = false →
      x.stestWait = false → (s.core c).sfuRun = none → s.slotsUsed c < 256 → s.err.perturbGo = false → s.opsOld →
      (∀ o : AsyncOp, o.word = w → o.d = th.regs.d → s.reaches (some (s.dieOf c)) o.spans) →
      ∃ o u v, exec (k.2.2.1 c t w) s = .next u ∧ QueuedAs o c t w 0 0 s u queue ∧
        exec (.arrayInstructionStart c a) u = .next v ∧ (v.arr c a).queue = [] ∧
        ∀ out y, State.arrRun (u.setArr c a { u.arr c a with queue := [] }) o = (.ok out, y) → ∃ r,
          (v.arr c a).run = [r] ∧ r.op = o.id ∧ r.writes = out.writes ∧ r.flags = out.flags ∧ r.checks = out.checks ∧
          v.mem = y.mem ∧ (∀ b z, out.bank = some (b, z) → v.bank c a b = z) ∧
          (OutsClean v c r.writes → (∀ d ∈ r.checks, d.differs = false) → ∃ z,
            exec (.arrayInstructionEnd c a none 0) v = .next z ∧ (z.arr c a).run = [] ∧ z.mem = v.written r.writes ∧
            Completed o r.flags v z))

/-- The instructions of the SFU queue. ROWSTAT, SFU, VERIFY, COMMIT, SAMPLE and ROUTE, with a place free in the SFU
queue of their core and no failed check, become an operation at its end; a failed check raises its cause with no other
effect; while the queue holds 8 operations the instruction does not issue. On a free SFU with an empty queue, that can
reach its tiles, the instruction then starts: what it computes without an exception gives its outputs and flags, and its
completion writes exactly those outputs and signals. -/
def Obligations.SfuIssue : Prop :=
  ∀ (c t : Nat) (w : BitVec 64) (s : State),
    let th := s.thread c t
    let locked := !(s.core c).unlocked
    let queue := fun u : State => (u.core c).sfuQ
    ∀ k ∈ [(0x73, 0, Instr.rowstatStatistics, checkRowstat), (0x73, 1, .rowstatSoftmax, checkRowstat),
           (0x74, 0, .sfu, checkSfu), (0x75, 0, .verify, fun l d w => checkVerify l s.maxTree d w),
           (0x76, 0, .commit, checkCommit), (0x77, 0, .sampleGreedy, checkSample), (0x77, 1, .sampleTopkTopp, checkSample),
           (0x77, 2, .sampleTemperature, checkSample), (0x78, 0, .route, checkRoute)],
    Acts k.1 k.2.1 c t w s →
    ((queue s).length < 8 → k.2.2.2 locked th.regs.d w = none →
      ∃ u, exec (k.2.2.1 c t w) s = .next u ∧ Queued c t w 0 0 s u queue) ∧
    (∀ e, (queue s).length < 8 → k.2.2.2 locked th.regs.d w = some e →
      exec (k.2.2.1 c t w) s = .next (s.setThread c t (Thread.except { th with state := .ready } e 4 0))) ∧
    (8 ≤ (queue s).length → exec (k.2.2.1 c t w) s = .next s) ∧
    (k.2.2.2 locked th.regs.d w = none → (s.core c).sfuQ = [] → (s.core c).sfuRun = none → s.opsOld →
      (∀ a < 4, (s.arr c a).run = []) →
      (∀ o : AsyncOp, o.word = w → o.d = th.regs.d → s.reaches (some (s.dieOf c)) o.spans) →
      ∃ o u v, exec (k.2.2.1 c t w) s = .next u ∧ QueuedAs o c t w 0 0 s u queue ∧
        exec (.sfuInstructionStart c) u = .next v ∧ (v.core c).sfuQ = [] ∧
        ∀ ws fl y, State.sfuExec (u.setCore c { u.core c with sfuQ := [] }) o = (.ok (ws, fl), y) →
          (v.core c).sfuRun = some ⟨o.id, ws, fl⟩ ∧ v.mem = y.mem ∧
          (OutsClean v c ws → ∃ z, exec (.sfuInstructionComplete c) v = .next z ∧ (z.core c).sfuRun = none ∧
            z.mem = v.written ws ∧ Completed o fl v z))

/-- PUMP and CSUB. COPY, PUT and GET enter the stream-pump queue of 4 of their core, TO_HOST and FROM_HOST the host-
pump queue of 2, CSUB the collective-submit queue of 4, with RA (and RB for CSUB) as operands; a CSUB descriptor
beyond 48 MiB − 64 raises ADDR_FORM and one that is no multiple of 64 raises ALIGN; a failed check of PUMP raises its
cause; a full queue holds the instruction. With no other transfer waiting and a free pump, clean tiles that the pump
can reach and DEV_CTL.GO 1 for the host's, the transfer then runs to its end: COPY leaves the bytes of its source in
its destination, TO_HOST in host memory at RA, FROM_HOST the bytes of host memory at RA in its destination, each with
its signal; PUT hands the fabric a packet for each 248 bytes of a destination row and GET a read for each chunk. The hub
accepts the descriptor of a CSUB that waits alone once the bundle carries packets. -/
def Obligations.PumpAndSubmitIssue : Prop :=
  ∀ (c t : Nat) (w : BitVec 64) (s : State),
    let th := s.thread c t
    let bad := checkPump (!(s.core c).unlocked) th.regs.d w
    let ra := th.regs.getS (iRaD w)
    let sa := th.regs.getS (iRaC w)
    let form := if 0x3000000 < sa.toNat + 64 then some cAddrForm else if sa.toNat % 64 ≠ 0 then some cAlign else none
    let stream := fun u : State => (u.core c).pumpQ
    let host := fun u : State => (u.core c).hostQ
    (∀ k ∈ [(0, Instr.pumpCopy, stream, 4), (3, .pumpPut, stream, 4), (4, .pumpGet, stream, 4), (1, .pumpToHost, host, 2),
            (2, .pumpFromHost, host, 2)], Acts 0x60 k.1 c t w s →
      ((k.2.2.1 s).length < k.2.2.2 → bad = none →
        ∃ u, exec (k.2.1 c t w) s = .next u ∧ Queued c t w ra 0 s u k.2.2.1) ∧
      (∀ e, (k.2.2.1 s).length < k.2.2.2 → bad = some e →
        exec (k.2.1 c t w) s = .next (s.setThread c t (Thread.except { th with state := .ready } e 5 0))) ∧
      (k.2.2.2 ≤ (k.2.2.1 s).length → exec (k.2.1 c t w) s = .next s)) ∧
    (let da := descAt th.regs.d (iDa w)
     let dd := descAt th.regs.d (iDd w)
     let node := ra.extractLsb' 0 16
     let data := (da.segs.map fun e => s.bytes e.1 e.2).flatten
     let rows := cutSegs (dd.segs.take da.segs.length) data
     let clean := s.err.perturbGo = false ∧ ∀ e ∈ da.segs, 0 < e.2 ∧ OwnClean s c e.1 e.2
     let pairs := remoteChunks 256 da.segs dd.segs
     let ran := fun (is : List Instr) (mem : State → Prop) => ∃ o z, Leads is s z ∧ o.id = s.nextId ∧ o.word = w ∧
       o.core = c ∧ o.thread = t ∧ mem z ∧ Completed o 0 s z
     bad = none → s.opsOld → (∀ q ∈ s.pumps, q.host = false → q.pump < 8) →
     (∀ p < 8, (∀ c', (s.core c').pumpQ = []) → s.pumpFree false (s.dieOf c) p = true → (iPsel w = 0 ∨
       iPsel w = p + 8) →
       let x := s.dieOf c * 8 + p
       (Acts 0x60 0 c t w s → s.reaches (some (s.dieOf c)) da.segs → clean → OutsClean s c rows →
         ran [.pumpCopy c t w, .pumpTransferStart c false p, .pumpTransferComplete false x]
           fun z => z.mem.cells = (s.written rows).cells) ∧
       (Acts 0x60 3 c t w s → s.reaches (some (s.dieOf c)) da.segs → clean → s.reachable node true = true →
         s.fabricSent →
         ∃ z, Leads [.pumpPut c t w, .pumpTransferStart c false p] s z ∧ z.mem.cells = s.mem.cells ∧
           ∀ y ∈ rows, y.data ≠ [] → ∀ i, 248 * i < y.data.length → ∃ f ∈ z.fab.reqs, f.owner = .pump x ∧ f.type = 3 ∧
             f.node = node ∧ f.addr = y.addr + 248 * i ∧
             f.body = globalBytes node (y.addr + 248 * i) ++ (y.data.drop (248 * i)).take 248) ∧
       (Acts 0x60 4 c t w s → s.fabricSent → (∀ k ∈ pairs, s.reachable (s.replicaOf node k.1) false = true) →
         ∃ z, Leads [.pumpGet c t w, .pumpTransferStart c false p] s z ∧ z.mem.cells = s.mem.cells ∧
           ∀ k ∈ pairs, ∃ f ∈ z.fab.reqs, f.owner = .pump x ∧ f.type = 1 ∧ f.node = s.replicaOf node k.1 ∧
             f.addr = k.1 ∧ f.len = k.2.2)) ∧
     (∀ p, (∀ c', (s.core c').hostQ = []) → s.dev.go = true → s.threadHostPump = some p → s.pilUp (s.dieOf c) = true →
       s.err.perturbGo = false →
       (Acts 0x60 1 c t w s → s.reaches none da.segs → clean →
         ran [.pumpToHost c t w, .pumpTransferStart c true p, .pumpTransferComplete true p]
           fun z => z.mem.cells = s.mem.cells ∧ z.mem.host = (s.setHostBytes ra.toNat data).mem.host) ∧
       (let got := cutSegs dd.segs (s.hostBytes ra.toNat (dd.segs.map Prod.snd).sum)
        Acts 0x60 2 c t w s → OutsClean s c got →
         ran [.pumpFromHost c t w, .pumpTransferStart c true p, .pumpTransferComplete true p]
           fun z => z.mem.cells = (s.written got).cells ∧ z.mem.host = s.mem.host))) ∧
    (Acts 0x90 0 c t w s →
      ((s.core c).colQ.length < 4 → form = none →
        ∃ u, exec (.csub c t w) s = .next u ∧
          Queued c t w sa (th.regs.getS (iRbC w)) s u fun u => (u.core c).colQ) ∧
      (∀ e, (s.core c).colQ.length < 4 → form = some e →
        exec (.csub c t w) s = .next (s.setThread c t (Thread.except { th with state := .ready } e 7 0))) ∧
      (4 ≤ (s.core c).colQ.length → exec (.csub c t w) s = .next s) ∧
      ((s.core c).colQ = [] → form = none → s.opsOld → s.pilUp (s.dieOf c) = true → ∃ o u, exec (.csub c t w) s = .next u ∧
        QueuedAs o c t w sa (th.regs.getS (iRbC w)) s u (fun u => (u.core c).colQ) ∧
        exec (.collectiveDescriptorAccept c) u =
          .next (State.acceptDesc (u.setCore c { u.core c with colQ := [] }) c o)))

/-- A guard of 0. A legal instruction that takes one guard, with that guard 0, occupies its issue: the program counter
advances, and nothing else changes, for every such instruction of the table. -/
def Obligations.GuardSkips : Prop :=
  ∀ k ∈ [(0x00, 0, Instr.nop), (0x01, 0, .halt), (0x02, 0, .alu), (0x03, 0, .alui), (0x04, 0, .movi), (0x05, 0, .movk),
         (0x06, 0, .caprd), (0x07, 0, .modeset), (0x08, 0, .sysrd), (0x09, 0, .syswr), (0x10, 0, .br), (0x11, 0, .jmp),
         (0x12, 0, .jal), (0x13, 0, .jr), (0x20, 0, .dld), (0x21, 0, .dst), (0x22, 0, .dset), (0x23, 0, .dget),
         (0x24, 0, .dadv), (0x25, 0, .dmov), (0x50, 0, .lds), (0x51, 0, .sts), (0x56, 0, .atom), (0x58, 0, .rld),
         (0x59, 0, .rst), (0x5C, 0, .ratom), (0x5D, 0, .ratomn), (0x5E, 0, .puts), (0x60, 0, .pumpCopy),
         (0x60, 1, .pumpToHost), (0x60, 2, .pumpFromHost), (0x60, 3, .pumpPut), (0x60, 4, .pumpGet), (0x68, 0, .semSig),
         (0x68, 1, .semWait), (0x68, 2, .semTry), (0x69, 0, .barArrive), (0x69, 1, .barWait), (0x69, 2, .bar),
         (0x6A, 0, .fenceL), (0x6A, 1, .fenceM), (0x6A, 2, .fenceG), (0x6B, 0, .stepfence), (0x6B, 1, .stepfenceM),
         (0x70, 0, .matmul), (0x71, 0, .conv), (0x72, 0, .attend), (0x73, 0, .rowstatStatistics),
         (0x73, 1, .rowstatSoftmax), (0x74, 0, .sfu), (0x75, 0, .verify), (0x76, 0, .commit), (0x77, 0, .sampleGreedy),
         (0x77, 1, .sampleTopkTopp), (0x77, 2, .sampleTemperature), (0x78, 0, .route), (0x79, 0, .accopClr),
         (0x79, 1, .accopRd), (0x79, 2, .accopRdClr), (0x90, 0, .csub)],
  ∀ (c t : Nat) (w : BitVec 64) (s : State), Runs k.1 k.2.1 c t w s →
    ((s.thread c t).regs.getP (iPg w)).getLsbD 0 = iPn w →
    exec (k.2.2 c t w) s = .next (s.setThread c t (s.thread c t).stepped)

/-- EXTERNAL_RESPONSE and OPERATION_ERROR_STATUS. When the last part of a request has returned, and the bundles between
the core and the places accessed carry packets, the
destination takes the value (a superseded S destination keeps the later one), an earlier load to the same S register
will be discarded when it returns, the request leaves the thread, and a
stopping thread with nothing else outstanding enters its final state; a part with an error status is recorded with the
address of the request's instruction. An error status of an operation that an array, a pump or the SFU executes ends it
and is recorded by its thread, for the SFU with some of its status bits (which, is left open, log entry 33); one of a
contribution aborts its bucket. -/
def Obligations.ResponseResults : Prop :=
  (∀ (c t r : Nat) (s : State) (q : Req), c < s.lcores → t < 32 →
    let th := s.thread c t
    th.reqs.find? (fun x => x.id == r) = some q →
    (∀ p ∈ q.parts, (p.res.isSome = true ∨ p.err.isSome = true) ∧ s.partPath c p = true) →
    ∃ u, exec (.externalResponse c t r) s = .next u ∧ u.mem = s.mem ∧
      (u.thread c t).reqs = (th.reqs.filter (fun x => x.id != r)).map q.overtake ∧ (u.thread c t).pc = th.pc ∧
      (u.thread c t).regs = q.deliver th.regs ∧
      (∀ rd width sg d, q.dst = .s rd width sg → q.superseded = false → (q.parts.head?.bind Part.res) = some d →
        rd ≠ 0 →
        (u.thread c t).regs.getS rd = if sg then BitVec.ofInt 64 (BitVec.ofNat (8 * d.length) (fromLE d)).toInt
          else BitVec.ofNat 64 (fromLE d)) ∧
      (∀ rd width sg, q.dst = .s rd width sg → q.superseded = true → (u.thread c t).regs = th.regs) ∧
      (∀ rd width sg x k m, q.dst = .s rd width sg → (q.parts.head?.bind Part.res).isSome = true → x ∈ th.reqs →
        x.id < r →
        x.dst = .s rd k m → ∃ y ∈ (u.thread c t).reqs, y.id = x.id ∧ y.superseded = true) ∧
      (∀ f, th.stopping = some f → th.reqs = [q] → th.msgs = [] → (∀ p ∈ q.parts, p.err = none) → f ≠ .waitMem →
        (u.thread c t).state = f) ∧
      (∀ e, q.parts.findSome? Part.err = some e → th.state ∉ [.free, .fenced, .faulted] → th.fault.valid = false →
        (u.thread c t).fault = ⟨e.1, 3, e.2, true, q.pc.extractLsb' 3 23⟩)) ∧
  (∀ (op : Nat) (cause : BitVec 8) (dest : BitVec 4) (s : State) (o : AsyncOp),
    cause ∈ [0x20, 0x21, 0x22, 0x23, 0x24, 0x26] → dest.toNat ≤ 5 → s.op? op = some o → o.mute = false →
    let fault := ((s.thread o.core o.thread).errorStatus cause (opUnit o.word) dest o.pc).fault
    let idle := (s.core o.core).sfuRun.filter (fun r => r.op == o.id) = none
    (∀ a r, s.arrRunOf o = some (a, r) → ∃ u, exec (.operationErrorStatus op cause dest) s = .next u ∧
      u.op? op = none ∧ (∀ q ∈ (u.arr o.core a).run, q.op ≠ o.id) ∧ (u.thread o.core o.thread).fault = fault) ∧
    (∀ r, s.arrRunOf o = none → idle → (s.pumps.find? fun r => r.op == some o.id) = some r → r.cmd = none →
      r.writes = [] → r.hostWrites = [] → ∃ u, exec (.operationErrorStatus op cause dest) s = .next u ∧ u.mem = s.mem ∧
      u.op? op = none ∧ r ∉ u.pumps ∧ (u.thread o.core o.thread).fault = fault) ∧
    ∀ b, s.arrRunOf o = none → idle → (s.pumps.find? fun r => r.op == some o.id) = none →
      (s.col.buckets.find? fun b => b.locals.any fun x => x.op == o.id) = some b →
      exec (.operationErrorStatus op cause dest) s = .next ((s.opFail o cause dest).abortBucket b.tag)) ∧
  ∀ (op : Nat) (cause : BitVec 8) (dest : BitVec 4) (s : State) (o : AsyncOp) (r : SfuRun),
    cause ∈ [0x20, 0x21, 0x22, 0x23, 0x24, 0x26] → dest.toNat ≤ 5 → s.op? op = some o → o.mute = false →
    s.arrRunOf o = none → (s.core o.core).sfuRun = some r → r.op = o.id → r.writes = [] →
    ∃ u, exec (.operationErrorStatus op cause dest) s = .next u ∧ u.mem = s.mem ∧ u.op? op = none ∧
      (u.core o.core).sfuRun = none ∧
      (∀ m, (Tab.get 0 (u.core o.core).sems m).toNat ≤ (Tab.get 0 (s.core o.core).sems m).toNat) ∧
      ((s.thread o.core o.thread).state ≠ .waitSync → (u.core o.core).sems = (s.core o.core).sems) ∧
      ∃ fl : BitVec 4, fl &&& ~~~r.flags = 0 ∧ u.thread o.core o.thread =
        Thread.errorStatus { s.thread o.core o.thread with fpstat := (s.thread o.core o.thread).fpstat ||| fl }
          cause (opUnit o.word) dest o.pc

/-- INSTRUCTION_FETCH. For a thread that can issue: a program counter at or beyond 48 MiB stops it in FAULTED with
PC_RANGE; otherwise the whole 32-byte sector is read into its fetch buffer with each of the four words checked, the
thread stops with ECC_UNCORR, UNIT 0 and DEST 0 when the word at CTX_PC is uncorrectable, and an uncorrectable word
elsewhere stops nothing. A thread that cannot issue fetches nothing. -/
def Obligations.FetchResults : Prop :=
  ∀ (c t : Nat) (s : State), c < s.lcores → t < 32 →
    let th := s.thread c t
    let sec := th.pc.toNat / 32
    let key := spadAddr c (32 * sec)
    let bad := fun i => Tab.get 0 s.mem.wordErr (key / 8 + i) == 3
    (th.canIssue = true → s.awake c = true → spadSize ≤ th.pc.toNat →
      exec (.instructionFetch c t) s = .next (s.setThread c t (Thread.except { th with state := .ready } cPcRange 0 0))) ∧
    (th.canIssue = true → s.awake c = true → th.pc.toNat < spadSize → s.err.perturbGo = false → Memory.wf s.mem = true →
      ∃ u b, exec (.instructionFetch c t) s = .next u ∧ b.sector = sec ∧
        b.data = BitVec.ofNat 256 (fromLE (s.bytes key 32)) ∧ (∀ i < 4, b.bad.getLsbD i = bad i) ∧
        u.thread c t = (if bad (th.pc.toNat / 8 % 4) then
          Thread.except { th with fetch := some b, state := .ready } cEcc 0 0 else { th with fetch := some b }) ∧
        u.mem.cells = s.mem.cells) ∧
    (th.canIssue = false → exec (.instructionFetch c t) s = .next s)

/-- CTX_CTL START, STOP and CLEAR, and CTX_MODE. START of a context that may start makes it READY with ARG0 to ARG3 in S1
to S4 and every other register 0, and leaves CTX_MODE and the program counter; START of one that runs, and CLEAR of
one with unfinished operations, change only CORE_STATUS.REASON, to CTX_BUSY. STOP of a running thread stops it
once its requests have completed; where it waited on a semaphore, the waiters behind it are then served as WaiterOrder
says. CLEAR frees a stopped context and clears its registers and status. On a core that is
not diked the write changes CTX_MODE of that thread only: SFU_COMPAT takes its bit, except that it stays 1 while PL1
is 1; PL1 never changes; ARRAY and PRIO take theirs while the core is unlocked and are kept while it is locked.
MODESET likewise leaves SFU_COMPAT at 1 in a PL1 context. -/
def Obligations.ContextControl : Prop :=
  (∀ (c t : Nat) (s : State), c < s.lcores → t < 32 →
    let th := s.thread c t
    let busy := s.setCore c { s.core c with reason := 0x01 }
    let still := [TState.free, .done, .stopped, .faulted]
    (s.ctxTaken c t = true → exec (.ctxCtlStart c t) s = .next busy) ∧
    (s.ctxTaken c t = false → (s.core c).retest = false → s.awake c = true → ∃ r : Regs,
      exec (.ctxCtlStart c t) s = .next (s.setThread c t { th with state := .ready, regs := r, fetch := none }) ∧
      (∀ n, r.getS n = if n ∈ [1, 2, 3, 4] then Tab.get 0 th.args (n - 1) else 0) ∧ (∀ n, r.getD n = 0) ∧
      (∀ n, r.getV n = 0) ∧ ∀ n, n ≠ 0 → r.getP n = 0) ∧
    (th.state ∉ TState.fenced :: still → th.stopping = none → ∃ u, exec (.ctxCtlStop c t) s = .next u ∧ u.mem = s.mem ∧
      if th.reqs = [] ∧ th.msgs = [] then u.thread c t = { th with state := .stopped, wait := none }
      else u.thread c t = { th with stopping := some .stopped }) ∧
    (∀ sem n, th.state = .waitSync → th.stopping = none →
      (s.core c).waiters.find? (fun w => w.2.1 == t) = some (sem, t, n) →
      let r := serveWaiters sem ((s.core c).waiters.filter fun w => w.2.1 != t) (Tab.get 0 (s.core c).sems sem).toNat
      ∃ u, exec (.ctxCtlStop c t) s = .next u ∧ (u.core c).waiters = r.1 ∧
        Tab.get 0 (u.core c).sems sem = BitVec.ofNat 16 r.2.1 ∧
        ∀ t' ∈ r.2.2, (s.thread c t').state = .waitSync → (s.thread c t').stopping = none →
          (u.thread c t').state = .ready) ∧
    (th.state ∈ TState.fenced :: still → exec (.ctxCtlStop c t) s = .next s) ∧
    (s.unfinished c t = true → exec (.ctxCtlClear c t) s = .next busy) ∧
    (th.state ∈ [.done, .stopped, .faulted] → s.unfinished c t = false → ∃ u, exec (.ctxCtlClear c t) s = .next u ∧
      u = s.setThread c t (u.thread c t) ∧ (u.thread c t).state = .free ∧ (u.thread c t).regs = ⟨[], [], [], []⟩ ∧
      (u.thread c t).fpstat = 0 ∧ (u.thread c t).fault.valid = false ∧
      (u.thread c t).mode = ⟨s.compat, false, BitVec.ofNat 2 t, 0⟩) ∧
    (th.state ∉ [.done, .stopped, .faulted] → s.unfinished c t = false → exec (.ctxCtlClear c t) s = .next s)) ∧
  ((∀ (c t : Nat) (w : BitVec 32) (s : State), c < s.lcores → t < 32 → (s.core c).diked = false →
    let th := s.thread c t
    exec (.ctxModeWrite c t w) s = .next (s.setThread c t { th with
      mode := ⟨w.getLsbD 0 || th.mode.pl1, th.mode.pl1, if (s.core c).unlocked then w.extractLsb' 4 2 else th.mode.array,
        if (s.core c).unlocked then w.extractLsb' 6 2 else th.mode.prio⟩ })) ∧
  ∀ (c t : Nat) (w : BitVec 64) (s u : State), (s.thread c t).mode.pl1 = true → (s.thread c t).mode.sfuCompat = true →
    exec (.modeset c t w) s = .next u → (u.thread c t).mode.sfuCompat = true ∧ (u.thread c t).mode.pl1 = true)

/-- Host writes of CORE_SEMSIG and CORE_SEMSET. On a core that is not diked, CORE_SEMSIG adds its increment, saturating,
and CORE_SEMSET sets the value; in both the waiters are then served in order from that value: the value left, the
waiters left and the threads woken are those of WaiterOrder. Other semaphores, all memory and all other cores stay; an
increment of 0 changes nothing. A core reset leaves every semaphore 0. -/
def Obligations.HostSemaphores : Prop :=
  (∀ (c sem : Nat) (s : State), c < s.lcores → sem < 64 → (s.core c).diked = false →
    let k := s.core c
    let v := (Tab.get 0 k.sems sem).toNat
    let served := fun (u : State) (x : Nat) =>
      let r := serveWaiters sem k.waiters x
      Tab.get 0 (u.core c).sems sem = BitVec.ofNat 16 r.2.1 ∧ (u.core c).waiters = r.1 ∧ u.mem = s.mem ∧
      (∀ m, m ≠ sem → Tab.get 0 (u.core c).sems m = Tab.get 0 k.sems m) ∧ (∀ c', c' ≠ c → u.core c' = s.core c') ∧
      ∀ t < 32, u.thread c t = if t ∈ r.2.2 ∧ (s.thread c t).state = .waitSync then
        Thread.settle { s.thread c t with state := .ready, wait := none } else s.thread c t
    (∀ n : BitVec 8, n ≠ 0 → ∃ u, exec (.coreSemsigWrite c sem n) s = .next u ∧ served u (min (v + n.toNat) 0xFFFF)) ∧
    (exec (.coreSemsigWrite c sem 0) s = .next s) ∧
    ∀ x : BitVec 16, ∃ u, exec (.coreSemsetWrite c sem x) s = .next u ∧ served u x.toNat) ∧
  ∀ (s : State) (c sem : Nat), Tab.get 0 ((s.coreReset c).core c).sems sem = 0

/-- BAR_CFG.ENABLE, BAR.ARRIVE, BAR.WAIT and BAR. On a disabled channel the write sets COUNT and SCOPE; the channel is
enabled, with no arrivals, when COUNT lies between 1 and the live thread contexts of the die, and otherwise stays
disabled with reason BAR_COUNT. On an enabled channel COUNT and SCOPE keep their values. On a disabled channel each
faults the thread with BAR_DISABLED and has no other effect. On an enabled die-scope channel an arrival is recorded,
and the arrival that completes COUNT releases the generation and wakes the threads of the die that wait for it;
BAR.WAIT after an arrival for a generation not yet released waits in WAIT_SYNC; BAR does both. -/
def Obligations.BarrierResults : Prop :=
  (∀ (d ch : Nat) (w : BitVec 32) (s : State), d < 4 → ch < 64 → w.getLsbD 12 = true →
    let b := s.bar d ch
    let n := w.extractLsb' 0 11
    let bad := n = 0 ∨ s.liveContexts d < n.toNat
    (b.enable = false → bad → ∃ u, exec (.barCfgEnable d ch w) s = .next u ∧ (u.bar d ch).enable = false ∧
      (u.die d).barReason = 0x04 ∧ u.mem = s.mem) ∧
    (b.enable = false → ¬ bad → ∃ u, exec (.barCfgEnable d ch w) s = .next u ∧
      u.bar d ch = ⟨n, w.getLsbD 11, true, b.gen, 0⟩ ∧ u.mem = s.mem) ∧
    (b.enable = true → ∃ u, exec (.barCfgEnable d ch w) s = .next u ∧ u.bar d ch = b)) ∧
  (∀ (c t : Nat) (w : BitVec 64) (s : State),
    let th := s.thread c t
    let d := s.dieOf c
    let ch := iId w
    let b := s.bar d ch
    let last := b.count.toNat ≤ b.arrivals + 1
    let gen := (b.gen.toNat + b.arrivals / max 1 b.count.toNat) % 2 ^ 16
    let arr := Tab.set 0 th.arrived ch (gen + 1)
    let bar' : Bar := if last then { b with gen := b.gen + 1, arrivals := b.arrivals + 1 - b.count.toNat }
      else { b with arrivals := b.arrivals + 1 }
    (b.enable = false → ∀ k ∈ [(0, Instr.barArrive), (1, .barWait), (2, .bar)], Acts 0x69 k.1 c t w s →
      exec (k.2 c t w) s = .next (s.setThread c t (Thread.except { th with state := .ready } cBarDisabled 6 0))) ∧
    (b.enable = true → b.scope = false →
      (Acts 0x69 0 c t w s → ∃ u, exec (.barArrive c t w) s = .next u ∧ u.mem = s.mem ∧ u.bar d ch = bar' ∧
        (u.thread c t).pc = th.pc + 8 ∧ (u.thread c t).state = .ready ∧ (u.thread c t).arrived = arr ∧
        (u.thread c t).regs = th.regs ∧
        (last → ∀ c' t', t' < 32 → s.dieOf c' = d → (s.thread c' t').state = .waitSync →
          (s.thread c' t').stopping = none → (s.thread c' t').wait = some (.bar ch b.gen.toNat) →
          (u.thread c' t').state = .ready ∧ (u.thread c' t').wait = none)) ∧
      (Acts 0x69 1 c t w s → ∀ g, Tab.get 0 th.arrived ch = g + 1 →
        exec (.barWait c t w) s = .next (s.setThread c t
          (if (g + 2 ^ 16 - b.gen.toNat) % 2 ^ 16 < 2 ^ 15 then
            { th.stepped with state := .waitSync, wait := some (.bar ch g) } else th.stepped))) ∧
      (Acts 0x69 2 c t w s → b.arrivals < b.count.toNat → ∃ u, exec (.bar c t w) s = .next u ∧ u.mem = s.mem ∧
        u.bar d ch = bar' ∧ (u.thread c t).pc = th.pc + 8 ∧ (u.thread c t).arrived = arr ∧
        if last then (u.thread c t).state = .ready
        else (u.thread c t).state = .waitSync ∧ (u.thread c t).wait = some (.bar ch b.gen.toNat))))

/-- MA_CTL.GO. GO set while CHK_WINDOW is 0 leaves GO at 0 with reason CHK_WINDOW_ZERO, on a diked core with CORE_FENCED;
otherwise the array goes, and HELD left by a passed self-test clears. GO cleared keeps the queue and the executing
instruction, the array then starts no other, and goes on from its queue once GO is set again. -/
def Obligations.ArrayControl : Prop :=
  ∀ (c a : Nat) (s : State), c < s.lcores → a < 4 →
    let x := s.arr c a
    let k := s.core c
    (∀ w : BitVec 32, w.getLsbD 0 = true → x.go = false → k.diked = false → w.extractLsb' 16 16 = 0 →
      ∃ u, exec (.maCtlGoSet c a w) s = .next u ∧ (u.arr c a).go = false ∧ (u.arr c a).reason = 0x03 ∧
        (u.arr c a).queue = x.queue) ∧
    (∀ w : BitVec 32, w.getLsbD 0 = true → x.go = false → k.diked = true → x.chkWindow ≠ 0 →
      exec (.maCtlGoSet c a w) s = .next (s.setArr c a { x with reason := 0x02 })) ∧
    (∀ w : BitVec 32, w.getLsbD 0 = true → x.go = false → k.diked = false → w.extractLsb' 16 16 ≠ 0 →
      exec (.maCtlGoSet c a w) s = .next (s.setArr c a { x with
        go := true
        chkEn := if k.unlocked then w.getLsbD 1 else x.chkEn
        chkWindow := w.extractLsb' 16 16
        held := x.held && !(x.stestDone && x.stestPass && !x.suspect && !x.stestBusy && !x.stestWait) })) ∧
    (∀ w : BitVec 32, w.getLsbD 0 = false → x.go = true →
      exec (.maCtlGoClear c a w) s = .next (s.setArr c a { x with go := false })) ∧
    (x.go = false → ∀ id rest o, x.queue = id :: rest → s.op? id = some o →
      exec (.arrayInstructionStart c a) s = .next s)

/-- Array and SFU instructions and pump transfers complete. The oldest instruction of an array (its checks passed), the
instruction of the SFU and a transfer with nothing outstanding write their outputs, signal their semaphore and leave; a
counted array instruction adds 1 to MA_OPS; a transfer to the host writes host memory; no byte outside the outputs
changes. -/
def Obligations.UnitCompletions : Prop :=
  (∀ (c a id : Nat) (r : ArrRun) (rs : List ArrRun) (bad : Option Nat) (n : Nat) (o : AsyncOp) (s : State),
    c < s.lcores → a < 4 → s.awake c = true → (s.arr c a).run = r :: rs → r.op = id → s.op? id = some o →
    o.mute = false → s.err.perturbGo = false → OutsClean s c r.writes →
    (∀ (i : Nat) (k : Check), r.checks[i]? = some k → k.differs = false ∧ (bad = some i → k.live = false)) →
    ∃ u, exec (.arrayInstructionEnd c a bad n) s = .next u ∧ (u.arr c a).run = rs ∧
      (u.arr c a).ops = (s.arr c a).ops + (if r.counted then 1 else 0) ∧ u.mem = s.written r.writes ∧
      Completed o r.flags s u) ∧
  (∀ (c : Nat) (r : SfuRun) (o : AsyncOp) (s : State), c < s.lcores → s.awake c = true →
    (s.core c).sfuRun = some r → s.op? r.op = some o → o.mute = false → OutsClean s c r.writes →
    ∃ u, exec (.sfuInstructionComplete c) s = .next u ∧ (u.core c).sfuRun = none ∧ u.mem = s.written r.writes ∧
      Completed o r.flags s u) ∧
  ∀ (host : Bool) (p c id : Nat) (o : AsyncOp) (r : PumpRun) (s : State), p < (if host then 16 else 32) →
    c < s.lcores → s.awake c = true →
    (s.pumps.find? fun r => r.host == host && (if host then r.pump == p else r.die * 8 + r.pump == p)) = some r →
    r.waiting = [] → r.op = some id → r.cmd = none → r.err = none → s.op? id = some o → o.mute = false →
    OutsClean s c r.writes → (if host then s.pilUp (s.dieOf c) = true else r.die = s.dieOf c) →
    ∃ u, exec (.pumpTransferComplete host p) s = .next u ∧ r ∉ u.pumps ∧ u.mem.cells = (s.written r.writes).cells ∧
      u.mem.host = (r.hostWrites.foldl (fun s w => State.setHostBytes s w.addr w.data) s).mem.host ∧ Completed o 0 s u

/-- Arrays, the SFU and pumps take the head of their queue. A free array with GO 1 and HELD 0, and a free SFU, that
can reach their tiles, take the operation at the head of their queue: it leaves the queue and executes with the
outputs that its computation gives, or it ends at its start with an exception that its thread records; no byte of
memory changes yet, but for the cache rows that ATTEND appends and moves and what the SFU wrote before an exception.
ACCOP CLR executes with nothing to write and leaves its bank clear. A free stream pump takes, in the order of the
heads, a COPY with the bytes of its source to write, a PUT with one request for each packet of a source row, and a
GET with one request for each chunk; the next free host pump of the thread pool takes, in the order of arrival, a
TO_HOST with the source's bytes for the host address, and a FROM_HOST with the host's bytes for its rows, while
DEV_CTL.GO is 1, and while GO is 0 the transfer ends with HOST_ABORT; no byte of memory changes yet. -/
def Obligations.UnitStarts : Prop :=
  ((∀ (c a id : Nat) (rest : List Nat) (o : AsyncOp) (s : State), c < s.lcores → a < 4 →
    let x := s.arr c a
    x.queue = id :: rest → s.op? id = some o → s.awake c = true → x.go = true → x.held = false → x.stestBusy = false →
    x.stestWait = false → x.run = [] → (o.fetchesOut s = true → s.slotsUsed c < 256) →
      s.reaches (some (s.dieOf c)) o.spans →
    ∃ u, exec (.arrayInstructionStart c a) s = .next u ∧ (u.arr c a).queue = rest ∧
      (iOp o.word ≠ 0x72 → u.mem.cells = s.mem.cells) ∧
      ((∃ r, (u.arr c a).run = [r] ∧ r.op = o.id ∧ u.op? id = some o) ∨ ((u.arr c a).run = [] ∧ u.op? id = none)) ∧
      (iOp o.word = 0x79 → iSubT o.word = 0 → (u.bank c a (iBank o.word)).kind = .clear ∧
        (u.bank c a (iBank o.word)).elems = [] ∧ ∃ r, (u.arr c a).run = [r] ∧ r.writes = [])) ∧
  ∀ (c id : Nat) (rest : List Nat) (o : AsyncOp) (s : State), c < s.lcores → (s.core c).sfuQ = id :: rest →
    s.op? id = some o → s.awake c = true → (s.core c).sfuRun = none → s.reaches (some (s.dieOf c)) o.spans →
    ∃ u, exec (.sfuInstructionStart c) s = .next u ∧ (u.core c).sfuQ = rest ∧
      ((∃ r, (u.core c).sfuRun = some r ∧ r.op = o.id ∧ u.op? id = some o ∧ u.mem.cells = s.mem.cells) ∨
        ((u.core c).sfuRun = none ∧ u.op? id = none)) ∧
      ∀ ws fl v, s.attending c = false →
        State.sfuExec (s.setCore c { s.core c with sfuQ := rest }) o = (.ok (ws, fl), v) →
        (u.core c).sfuRun = some ⟨o.id, ws, fl⟩) ∧
  ((∀ (c p id : Nat) (rest : List Nat) (o : AsyncOp) (s : State), c < s.lcores → p < 8 → s.awake c = true →
    (s.core c).pumpQ = id :: rest → s.op? id = some o → s.pumpFree false (s.dieOf c) p = true →
    (iPsel o.word = 0 ∨ iPsel o.word = p + 8) → s.syncHeads.earlierHead c o.id = false →
    s.reaches (some (s.dieOf c)) o.reads →
    let da := descAt o.d (iDa o.word)
    let dd := descAt o.d (iDd o.word)
    let node := o.ra.extractLsb' 0 16
    let clean := ∀ e ∈ da.segs, 0 < e.2 ∧ OwnClean s c e.1 e.2
    let data := da.segs.map fun e => s.bytes e.1 e.2
    let x := s.dieOf c * 8 + p
    let low := ∀ q ∈ s.pumps, q.host = false → q.pump < 8
    let taken := fun (u : State) (r : PumpRun) => exec (.pumpTransferStart c false p) s = .next u ∧
      (u.core c).pumpQ = rest ∧ u.mem.cells = s.mem.cells ∧ u.pumps = s.pumps ++ [r] ∧ r.host = false ∧
      r.die = s.dieOf c ∧ r.pump = p ∧ r.op = some o.id
    (iSubP o.word = 0 → ∃ u r, taken u r ∧ r.waiting = [] ∧
      (clean → r.err = none ∧ r.writes = cutSegs (dd.segs.take da.segs.length) data.flatten)) ∧
    (iSubP o.word = 3 → s.reachable node true = true → s.fabricSent → low → clean → ∃ u r, taken u r ∧ r.writes = [] ∧
      r.err = none ∧
      ∀ w ∈ cutSegs (dd.segs.take da.segs.length) data.flatten, w.data ≠ [] → ∀ i, 248 * i < w.data.length →
        ∃ f ∈ u.fab.reqs, f.owner = .pump x ∧ f.type = 3 ∧ f.node = node ∧ f.addr = w.addr + 248 * i ∧
          f.body = globalBytes node (w.addr + 248 * i) ++ (w.data.drop (248 * i)).take 248) ∧
    (iSubP o.word = 4 → s.fabricSent → low → (∀ k ∈ remoteChunks 256 da.segs dd.segs,
        s.reachable (s.replicaOf node k.1) false = true) →
      ∃ u r, taken u r ∧ r.writes = [] ∧ r.err = none ∧ r.waiting.length = (remoteChunks 256 da.segs dd.segs).length ∧
        ∀ k ∈ remoteChunks 256 da.segs dd.segs, ∃ f ∈ u.fab.reqs, f.owner = .pump x ∧ f.type = 1 ∧
          f.node = s.replicaOf node k.1 ∧ f.addr = k.1 ∧ f.len = k.2.2 ∧ (f.id, k.2.1) ∈ r.waiting)) ∧
  (∀ (c p id : Nat) (rest : List Nat) (o : AsyncOp) (s : State), c < s.lcores → p < 16 → s.awake c = true →
    (s.core c).hostQ = id :: rest → s.op? id = some o → s.dev.go = true → s.threadHostPump = some p →
    s.earlierHost o.id = false → s.reaches none o.reads → s.err.perturbGo = false →
    let da := descAt o.d (iDa o.word)
    let dd := descAt o.d (iDd o.word)
    ∃ u r, exec (.pumpTransferStart c true p) s = .next u ∧ (u.core c).hostQ = rest ∧ u.pumps = s.pumps ++ [r] ∧
      r.host = true ∧ r.pump = p ∧ r.op = some o.id ∧ u.mem.cells = s.mem.cells ∧ u.mem.host = s.mem.host ∧
      (iSubP o.word = 1 → (∀ e ∈ da.segs, 0 < e.2 ∧ OwnClean s c e.1 e.2) → r.err = none ∧ r.writes = [] ∧
        r.hostWrites = [⟨o.ra.toNat, (da.segs.map fun e => s.bytes e.1 e.2).flatten⟩]) ∧
      (iSubP o.word = 2 → r.hostWrites = [] ∧
        r.writes = cutSegs dd.segs (s.hostBytes o.ra.toNat (dd.segs.map Prod.snd).sum))) ∧
  ∀ (c p id : Nat) (rest : List Nat) (o : AsyncOp) (s : State), c < s.lcores → p < 16 → s.awake c = true →
    (s.core c).hostQ = id :: rest → s.op? id = some o → s.dev.go = false → o.mute = false → o.core = c →
    ∃ u, exec (.pumpTransferStart c true p) s = .next u ∧ (u.core c).hostQ = rest ∧ u.op? o.id = none ∧ u.mem = s.mem ∧
      u.thread c o.thread = (s.thread c o.thread).errorStatus cHostAbort (opUnit o.word) 5 o.pc)

/-- Array self-tests. MA_STEST.START on a core that is not diked holds the array and tests it at once when it executes
nothing, and after the executing instruction otherwise; tests of suspect arrays and those after a core reset run one
at a time on a core. A test that passes outside a suspect sequence, a core reset's retest and HUB_DIKE leaves HELD set
with PASS; GO written 0 and then 1 clears it. A pass of a suspect array clears SUSPECT, ARMED and HELD; a failure
keeps them and records its code; the pass that ends a core reset's retest starts the arrays. -/
def Obligations.SelfTests : Prop :=
  (∀ (c a : Nat) (s : State), c < s.lcores → a < 4 → (s.core c).diked = false →
    let x := s.arr c a
    let fw := fun b => (s.arr c b).suspect || (s.core c).retest
    let now := x.run.isEmpty && !(fw a && (List.range 4).any fun b => b != a && (s.arr c b).stestBusy && fw b)
    x.stestBusy = false → x.stestWait = false → exec (.maStestStart c a) s = .next (s.setArr c a { x with
      held := true
      stestBusy := now
      stestWait := !now
      stestDone := false
      stestPass := false
      failcode := 0 })) ∧
  (∀ (c a : Nat) (s : State), c < s.lcores → a < 4 → s.awake c = true →
    let x := s.arr c a
    x.stestBusy = true → x.stestWait = false → s.hubDike.busy = false →
    ((s.core c).retest = false →
      (x.suspect = false → ∃ u, exec (.arraySelfTestDone c a 0) s = .next u ∧ (u.arr c a).stestDone = true ∧
        (u.arr c a).stestPass = true ∧ (u.arr c a).held = x.held ∧ (u.arr c a).stestBusy = false) ∧
      (x.suspect = true → ∃ u, exec (.arraySelfTestDone c a 0) s = .next u ∧ (u.arr c a).suspect = false ∧
        (u.arr c a).armed = false ∧ (u.arr c a).held = false) ∧
      ∀ n : BitVec 8, n ≠ 0 → n.toNat ≤ 6 → ∃ u, exec (.arraySelfTestDone c a n) s = .next u ∧
        (u.arr c a).stestPass = false ∧ (u.arr c a).failcode = n ∧ (u.arr c a).suspect = x.suspect ∧
        (u.arr c a).held = x.held) ∧
    ((s.core c).retest = true → x.suspect = false →
      (∀ b < 4, b ≠ a → (s.arr c b).stestBusy = false ∧ (s.arr c b).stestWait = false) →
      ∃ u, exec (.arraySelfTestDone c a 0) s = .next u ∧ (u.core c).retest = false ∧ (u.arr c a).held = false ∧
        ∀ b < 4, (u.arr c b).go = true ∧ (u.arr c b).chkEn = true ∧ (u.arr c b).chkWindow = 1024)) ∧
  ∀ (c a : Nat) (s u v : State) (w w' : BitVec 32), c < s.lcores → a < 4 → (s.core c).diked = false →
    (s.arr c a).stestDone = true → (s.arr c a).stestPass = true → (s.arr c a).suspect = false →
    (s.arr c a).stestBusy = false → (s.arr c a).stestWait = false → (s.arr c a).go = true →
    w.getLsbD 0 = false → w'.getLsbD 0 = true → w'.extractLsb' 16 16 ≠ 0 → exec (.maCtlGoClear c a w) s = .next u →
    exec (.maCtlGoSet c a w') u = .next v → (v.arr c a).go = true ∧ (v.arr c a).held = false

/-- An array check fails: its sides differ, or a fault of the cells makes them differ. A mismatch while the window
is not armed arms it with SINCE 0, sets CHK_FAIL and counts the operation; a mismatch while armed sets SUSPECT and
HELD; in both the thread records CHK_FAIL with the instruction's offset, the semaphore is not signalled, and the
registers say which kind of check it was. -/
def Obligations.Mismatch : Prop :=
  ∀ (c a : Nat) (k : Check) (r : ArrRun) (rs : List ArrRun) (o : AsyncOp) (s : State), c < s.lcores → a < 4 →
    s.awake c = true → s.err.perturbGo = false → (s.arr c a).run = r :: rs → s.op? r.op = some o → o.mute = false →
    r.checks = [k] → (k.differs = true ∨ k.live = true) → s.reaches (some (s.dieOf c)) (outSegs r.writes) →
      (s.thread o.core o.thread).fault.valid = false →
    (s.thread o.core o.thread).state ∉ [.free, .fenced, .faulted] →
    ∃ u, exec (.arrayInstructionEnd c a (some 0) 0) s = .next u ∧ u.mem = s.mem ∧ u.op? r.op = none ∧
      (u.arr c a).run.length = rs.length ∧ (u.arr c a).chkFail = true ∧ (u.arr c a).ops = (s.arr c a).ops + 1 ∧
      (u.arr c a).log.extractLsb' 16 3 = k.kind ∧
      (∀ m, (Tab.get 0 (u.core o.core).sems m).toNat ≤ (Tab.get 0 (s.core o.core).sems m).toNat) ∧
      ((s.thread o.core o.thread).state ≠ .waitSync → (u.core o.core).sems = (s.core o.core).sems) ∧
      (u.thread o.core o.thread).fault = ⟨cChkFail, opUnit o.word, 0, true, o.pc.extractLsb' 3 23⟩ ∧
      (if (s.arr c a).armed then (u.arr c a).suspect = true ∧ (u.arr c a).held = true ∧
          (u.err.pend.getLsbD 0 = true)
        else (u.arr c a).armed = true ∧ (u.arr c a).since = 0 ∧ (u.arr c a).held = (s.arr c a).held)

/-- CORE_DIKE, HUB_DIKE and the site journal. Diking a core after a failed self-test, or by HUB_DIKE of an unlocked hub,
fences its 32 contexts with nothing outstanding, empties its queues and arrays, makes its scratchpad read 0 once no
window reaches it, and leaves the site to be journalled; the journal entry then raises CORE_DIKED once. HUB_DIKE with
a self-test begins with array 0. -/
def Obligations.Diking : Prop :=
  (∀ (c : Nat) (s : State), c < s.lcores →
    let gone := fun u : State => (u.core c).diked = true ∧ (∀ t < 32, (u.thread c t).state = .fenced ∧
        (u.thread c t).reqs = [] ∧ (u.thread c t).msgs = []) ∧ (u.core c).sfuQ = [] ∧ (u.core c).pumpQ = [] ∧
      (∀ a < 4, (u.arr c a).queue = [] ∧ (u.arr c a).run = []) ∧
      (∀ off < 0x4000000, u.bytes (spadAddr c off) 1 = [0]) ∧ ∃ d ∈ u.dikes, d.core = c ∧ d.site = s.siteOf c
    ((s.core c).diked = false → (s.failedArr c).isSome = true → ∃ u, exec (.coreDike c 0x25) s = .next u ∧ gone u) ∧
    (s.dev.unlocked = true → s.hubDike.busy = false → (s.core c).diked = false →
      (∃ u, exec (.hubDikeDike c) s = .next u ∧ gone u ∧ u.hubDike.diked = true) ∧
      ((s.arr c 0).stestBusy = false → (s.arr c 0).stestWait = false → ∃ u, exec (.hubDikeSelfTest c) s = .next u ∧
        u.hubDike = ⟨true, false, false, c, 0⟩ ∧ (u.arr c 0).held = true ∧ u.mem = s.mem)) ∧
    (s.dev.unlocked = false → exec (.hubDikeDike c) s = .next s ∧ exec (.hubDikeSelfTest c) s = .next s)) ∧
  ∀ (site : Nat) (d : DikeRec) (s : State), site < 176 → s.dikes.find? (fun e => e.site == site) = some d →
    ∃ u, exec (.siteJournalAppend site) s = .next u ∧ site ∈ u.siteJournal ∧ (∀ e ∈ u.dikes, e.site ≠ site) ∧
      u.err.pend.getLsbD 1 = true ∧ u.mem = s.mem

/-- LPDDR_SECTOR_ACCESS and PATROL_SCRUB. An access to a sector does not pass an earlier request to the same sector that
its channel holds; a write is taken only while the channel drains, when it is aged, or when no read can go. A clean
load of a clean sector leaves its data in its part and changes no memory. A double error found by patrol scrub
of a trained die is counted and logged with class 3, raises LPD_UE and stops no thread; on a die that is not trained
or has scrubbing off nothing happens. -/
def Obligations.SectorAccess : Prop :=
  (∀ (c t : Nat) (q : Req) (p : Part) (s : State), c < s.lcores → t < 32 →
    s.threads = [(c * 32 + t, s.thread c t)] → (s.thread c t).reqs = [q] → q.parts = [p] → p.node = none →
      p.res = none →
    p.err = none → p.op = .rd → 0 < p.len → p.addr % 32 + p.len ≤ 32 → p.addr + p.len ≤ s.lpdTop →
    (s.die (p.addr / s.lpdZ)).lpd.go = true → s.pathUp (s.dieOf c) p.addr = true → s.fab.lines = [] →
    s.err.perturbGo = false → Tab.get 0 s.mem.secErr (p.addr / 32) = 0 → Tab.get 0 s.mem.grpErr (p.addr / 32 / 15) = 0 →
    ∃ u, exec (.lpddrSectorAccess p.sid .clean) s = .next u ∧ u.mem = s.mem ∧
      (u.thread c t).reqs = [{ q with parts := [{ p with
        res := some (s.bytes p.addr p.len), snap := some (s.bytes (p.addr / 32 * 32) 32, 0) }] }]) ∧
  ((∀ (id : Nat) (e : EccFind) (s : State) (c : Nat) (p : Part),
    s.openParts.find? (fun x => x.2.sid == id) = some (c, p) → s.lineAt p.addr p.len = none →
    let q := s.chanQueue (s.lpdLoc p.addr).die (s.lpdLoc p.addr).chan
    (∀ y ∈ q, y.sid = id → y.sector = p.addr / 32) → (∃ y ∈ q, y.sid < id ∧ y.sector = p.addr / 32) →
    exec (.lpddrSectorAccess id e) s = .next s) ∧
  ∀ (drain : Bool) (aged hit : SecReq → Bool) (q : List SecReq) (x : SecReq), pickSector drain aged hit q = some x →
    x ∈ q ∧ (∀ y ∈ q, y.sid < x.sid → y.sector ≠ x.sector) ∧
    ((∀ y ∈ q, aged y = false) → drain = false → x.write = true →
      ∀ y ∈ (q.filter fun y => !y.write).take 64, ∃ z ∈ q, z.sid < y.sid ∧ z.sector = y.sector)) ∧
  (∀ (sec : Nat) (s : State), sec < s.lpdTop / 32 →
    let d := sec * 32 / s.lpdZ
    let l := (s.die d).lpd
    l.scrubEn = true → l.trained = true → (s.die d).inReset = false → s.err.perturbGo = false →
    Tab.get 0 s.mem.secErr sec = 0 → Tab.get 0 s.mem.grpErr (sec / 15) = 0 →
    ∃ u, exec (.patrolScrub sec .double) s = .next u ∧ u.mem.cells = s.mem.cells ∧ u.threads = s.threads ∧
      Tab.get 0 u.mem.secErr sec = 2 ∧ (u.die d).lpd.uncorr = BitVec.ofNat 16 (min (l.uncorr.toNat + 1) 0xFFFF) ∧
      u.err.pend.getLsbD 3 = true ∧
      (l.err.valid = false → (u.die d).lpd.err.valid = true ∧ (u.die d).lpd.err.cls = 3 ∧
        (u.die d).lpd.err.addr = BitVec.ofNat 43 sec)) ∧
  ∀ (sec : Nat) (e : EccFind) (s : State), sec < s.lpdTop / 32 → (s.die (sec * 32 / s.lpdZ)).lpd.scrubEn = false →
    exec (.patrolScrub sec e) s = .next s

/-- ECC write-backs, row remapping, the row tracker. A corrected scratchpad word whose write-back is due loses its mark; a
corrected LPDDR sector loses its single-bit and write-back marks, and its group the single error of its ECC sector,
unless a write to it waits, which cancels the write-back;
the bytes of memory, and the marks of other words and sectors, stay. A completed copy makes a valid entry in state
COPYING ACTIVE; the journal takes an ACTIVE entry once; the decay lowers every count of a tracker by 1, not below 0,
and keeps the rows; the WCK-to-DQ check changes nothing that a program can read. None of them changes a byte of
memory. -/
def Obligations.MemoryMaintenance : Prop :=
  ((∀ (c word : Nat) (s : State), c < s.lcores → word < spadSize / 8 →
    let k := spadAddr c 0 / 8 + word
    Tab.get 0 s.mem.wordErr k = 2 → ∃ u, exec (.spadEccWriteback c word) s = .next u ∧ u.mem.cells = s.mem.cells ∧
      (∀ j, Tab.get 0 u.mem.wordErr j = if j = k then 0 else Tab.get 0 s.mem.wordErr j) ∧
      u.mem.secErr = s.mem.secErr) ∧
  ∀ (sec : Nat) (s : State), sec < s.lpdTop / 32 → (Tab.get 0 s.mem.secErr sec).testBit 3 = true →
    (s.writeQueued sec = true → exec (.lpddrEccWriteback sec) s = .next { s with mem := { s.mem with
      secErr := Tab.set 0 s.mem.secErr sec (Tab.get 0 s.mem.secErr sec &&& 7) } }) ∧
    (s.writeQueued sec = false → ∃ u, exec (.lpddrEccWriteback sec) s = .next u ∧ u.mem.cells = s.mem.cells ∧
      u.mem.wordErr = s.mem.wordErr ∧
      (∀ j, Tab.get 0 u.mem.secErr j = if j = sec then Tab.get 0 s.mem.secErr sec &&& 6 else Tab.get 0 s.mem.secErr j) ∧
      ∀ g, Tab.get 0 u.mem.grpErr g =
        if g = sec / 15 ∧ Tab.get 0 s.mem.grpErr g = 1 then 0 else Tab.get 0 s.mem.grpErr g)) ∧
  ((∀ (d ch k : Nat) (s : State), d < 4 → ch < 24 → k < 512 →
    let e := (s.die d).lpd.ent ch k
    e.valid = true → e.st = 0 → ∃ u, exec (.rowRemapCopyDone d ch k) s = .next u ∧ u.mem = s.mem ∧
      (u.die d).lpd.ent ch k = { e with st := 1 } ∧
      ∀ j, j ≠ k → (u.die d).lpd.ent ch j = (s.die d).lpd.ent ch j) ∧
  (∀ (d ch k : Nat) (s : State), d < 4 → ch < 24 → k < 512 →
    let e := (s.die d).lpd.ent ch k
    e.valid = true → e.st = 1 →
    (s.remapJournal = [] → exec (.remapJournalAppend d ch k) s =
      .next { s with remapJournal := [⟨d, ch, e, .entered⟩] }) ∧
    (⟨d, ch, e, .entered⟩ ∈ s.remapJournal → exec (.remapJournalAppend d ch k) s = .next s)) ∧
  (∀ (d ch : Nat) (s : State), d < 4 → ch < 24 → ∃ u, exec (.rowTrackerDecay d ch) s = .next u ∧ u.mem = s.mem ∧
    Tab.get [] (u.die d).lpd.tracker ch = (Tab.get [] (s.die d).lpd.tracker ch).map fun t => ⟨t.row, t.count - 1⟩) ∧
  ∀ (d ch : Nat) (s : State), d < 4 → ch < 24 → exec (.wckDqCheck d ch) s = .next s)

/-- LPD_CTL.GO. GO set on a die that is out of reset takes effect when the controllers are trained, scrubbing has an
interval, AGE_MAX is not 0 and the threshold is not 0; each check that fails leaves GO at 0 with its reason code. RATE
and AGE_MAX are kept on a locked block. No byte of memory changes. -/
def Obligations.LpdGo : Prop :=
  ∀ (d : Nat) (w : BitVec 32) (s : State), d < 4 → w.getLsbD 0 = true → (s.die d).inReset = false →
    let l := (s.die d).lpd
    let age := if l.unlocked then w.extractLsb' 16 10 else l.ageMax
    l.go = false → ∃ u, exec (.lpdCtlGoSet d w) s = .next u ∧ u.mem = s.mem ∧
      let l' := (u.die d).lpd
      l'.rate = (if l.unlocked then w.extractLsb' 1 2 else l.rate) ∧ l'.ageMax = age ∧ l'.scrubEn = w.getLsbD 3 ∧
      if l.trained = false then l'.go = false ∧ l'.reason = 0x11
      else if w.getLsbD 3 = true ∧ w.extractLsb' 8 8 = 0 then l'.go = false ∧ l'.reason = 0x12
      else if age = 0 then l'.go = false ∧ l'.reason = 0x13
      else if l.thresh = 0 then l'.go = false ∧ l'.reason = 0x14
      else l'.go = true ∧ l'.reason = l.reason

/-- Packets, NAKs and replay on the interposer. On a bundle that carries packets, with no perturbation: a good sequenced
packet with the expected GSEQ, which the transmitter may send, is accepted, the next GSEQ expected and acknowledged on
the other direction, and one with the expected BSEQ goes to the queue of its VC; a packet that fails its CRC
counts in CRC_ERR and, once, is answered by a NAK for the expected GSEQ, which the repeat sends again; a NAK makes the
group send every held packet from that GSEQ, the timeout every held packet, both counted, after which the group sends
new packets while fewer than 64 are held; more replays in a row than REPLAY_LIMIT take the group to CHECK, which it
leaves when its lanes are tested. -/
def Obligations.BundlePackets : Prop :=
  ∀ (d i g : Nat) (s : State), d < 4 → i < 2 → g < 16 → s.pilUp d = true → s.err.perturbGo = false →
    let b := s.bundle d
    let r := b.dir i
    let x := r.grp g
    let back := (b.dir (1 - i)).via g
    let grp := fun (u : State) => ((u.bundle d).dir i).grp g
    let nak := fun (u : State) => ∃ p : Bytes, u.out = s.out ++ [.pil d (1 - i) back p] ∧ p.length = 64 ∧
      pilFld p 25 4 = 9 ∧
      pilFld p 23 2 = 3 ∧ pilFld p 58 7 = x.rxNext.toNat ∧ pilFld p 65 4 = g
    let open' := fun (st : GState) => st = if 64 ≤ x.held.length then .wait else .run
    let replayed := fun (u : State) (ps : List Bytes) =>
      (grp u).replays = x.replays + 1 ∧ (grp u).held = x.held ∧ (u.bundle d).replays = satInc16 b.replays ∧
      if x.replays + 1 ≤ b.replayLimit.toNat then open' (grp u).state ∧ u.out = s.out ++ ps.map (.pil d i g)
      else (grp u).state = .check
    (∀ p : Bytes, p.length = 64 → x.state ≠ .off → pilGood p = true → pilSeq p = true → gseqOf p = x.rxNext →
      s.pilMaySend d i g p = true → ∃ u, exec (.pilPacketReceive d i g p) s = .next u ∧ (grp u).rxNext = x.rxNext + 1 ∧
        (grp u).nakked = false ∧ u.mem = s.mem ∧
        (∃ k a, Out.pil d (1 - i) k a ∈ u.out ∧ pilFld a 57 1 = 1 ∧ pilFld a 58 7 = (x.rxNext + 1).toNat ∧
          pilFld a 65 4 = g) ∧
        (pilFld p 0 16 = r.rxB.toNat → (∀ e ∈ r.reorder, e.1 ≠ r.rxB.toNat) → ∃ l,
          Tab.get [] ((u.bundle d).dir i).queues (pilFld p 23 2) = Tab.get [] r.queues (pilFld p 23 2) ++ p :: l)) ∧
    (∀ p : Bytes, p.length = 64 → x.state ≠ .off → pilGood p = false →
      ∃ u, exec (.pilPacketReceive d i g p) s = .next u ∧
      (u.bundle d).crcErr = satInc16 b.crcErr ∧ grp u = { x with nakked := true } ∧
      (x.nakked = false → nak u) ∧ (x.nakked = true → u.out = s.out)) ∧
    (x.nakked = true → ∃ u, exec (.pilNakRepeat d i g) s = .next u ∧ nak u ∧ u.bundles = s.bundles) ∧
    (∀ q < 128, x.alive = true → ∃ u, exec (.pilNak d i g q) s = .next u ∧
      replayed u (x.held.dropWhile fun p => gseqOf p != BitVec.ofNat 7 q)) ∧
    (x.state = .wait → ∃ u, exec (.pilReplayWaitTimeout d i g) s = .next u ∧ replayed u x.held) ∧
    (x.state = .check → r.moved = [] → ∃ u st, exec (.pilGroupCheckDone d i g []) s = .next u ∧
      grp u = { x with state := st, replays := 0 } ∧ open' st ∧ u.out = s.out)

/-- Lane health of the interposer, its lasers, and PIL_CTL.GO. A lane that loses lock is failed and waits its turn
for a replacement while 192 good lanes remain, and waits for the end of a laser changeover under way; a lane below
MARGIN_MIN waits to be retired while a spare exists; a replacement maps the logical lane to a spare and counts; with
no spare left a width step removes the lane group of the failed lane, counts and is reported. The laser changeover
makes the other unit the active one; a failure of both stops the module. GO set while REPLAY_LIMIT is 0, or on an
untrained bundle, is refused with its reason, and otherwise sets GO, upon which the hub accepts the requests that
waited. -/
def Obligations.BundleLanes : Prop :=
  (∀ (d i : Nat) (s : State), d < 4 → i < 2 →
    let b := s.bundle d
    let r := b.dir i
    let dir := fun (u : State) => (u.bundle d).dir i
    (∀ p l : Nat, p < 272 → r.laneOn p = some l → b.trained = true →
      (r.isFailed p = false → s.dlu.changing = true → exec (.laneLossOfLock d i p) s =
        .next { s with dlu := { s.dlu with later := s.dlu.later ++ [(d, i, p)] } }) ∧
      (r.isFailed p = false → s.dlu.changing = false →
        192 ≤ { r with failed := Tab.set false r.failed p true : Dir }.good →
        ∃ u, exec (.laneLossOfLock d i p) s = .next u ∧ (dir u).isFailed p = true ∧ u.mem = s.mem ∧
          (dir u).events = (r.events.filter fun e => e.lane != l) ++ [⟨l, true⟩]) ∧
      ∀ m : BitVec 7, ∃ u, exec (.laneMarginSample d i p m) s = .next u ∧ Tab.get 0 (dir u).margin p = m ∧
        u.mem = s.mem ∧
        (dir u).events = if m.toNat < b.marginMin.toNat ∧ r.spares ≠ [] ∧ (∀ e ∈ r.events, e.lane ≠ l)
          then r.events ++ [⟨l, false⟩] else r.events) ∧
    (∀ p < 272, p ∈ r.retrain → ∃ u, exec (.laneOfflineRetrainDone d i p true) s = .next u ∧
      dir u = { r with retrain := r.retrain.filter (· != p) }) ∧
    (∀ (e : LaneEv) (rest : List LaneEv), r.events = e :: rest → e.lane < 256 → s.dlu.changing = false →
      (r.spares ≠ [] → ∃ u q, exec (.laneReplacement d i e.lane) s = .next u ∧ q ∈ r.spares ∧ (dir u).phys e.lane = q ∧
        (dir u).events = rest ∧ (u.bundle d).swaps = satInc b.swaps ∧
        (dir u).retrain = if e.failed then r.retrain else r.retrain ++ [r.phys e.lane]) ∧
      (r.spares = [] → e.failed = true → ∃ u, exec (.widthStep d i) s = .next u ∧
        (dir u).off = r.off ||| (1#16 <<< (e.lane / 16)) ∧ ((dir u).grp (e.lane / 16)).state = .off ∧
        (∀ f ∈ (dir u).events, f.lane / 16 ≠ e.lane / 16) ∧ (u.bundle d).steps = satInc b.steps ∧
        u.err.pend.getLsbD 5 = true)) ∧
    ∀ w : BitVec 32, w.getLsbD 0 = true → b.go = false →
      let n := w.extractLsb' 8 8
      let m := if b.unlocked then w.extractLsb' 16 8 else b.marginMin
      exec (.pilCtlGoSet d w) s = .next (State.kick (s.setBundle d (
        if n = 0 then { b with replayLimit := n, marginMin := m, reason := 0x23 }
        else if b.trained then { b with replayLimit := n, marginMin := m, go := true }
        else { b with replayLimit := n, marginMin := m, reason := 0x24 })))) ∧
  ∀ s : State,
    (s.dlu.changing = false → s.dlu.spareOk = true → (∃ d < 4, (s.bundle d).trained = true) →
      exec .dluChangeover s = .next { s with dlu := { s.dlu with changing := true } }) ∧
    (s.dlu.changing = true → s.dlu.later = [] → ∃ u, exec (.dluChangeoverDone []) s = .next u ∧
      u.dlu.active = (!s.dlu.active) ∧ u.dlu.changing = false ∧ u.mem = s.mem) ∧
    (s.dlu.spareOk = false → ∃ u, exec .dluFailure s = .next u ∧ u.dev.stopped = true ∧
      ∀ d < 4, (u.bundle d).unusable = true ∧ (u.bundle d).reason = 0x21)

/-- No laser changeover is under way or due, and no lane event waits for one. -/
def Sys2Proof.Machine.State.lasersQuiet (s : State) : Prop :=
  (∀ n < 8, (s.port n).events = [] ∧ ∀ k < 16, ((s.port n).wave k).chg = none) ∧ s.spare0.queue = [] ∧
    s.spare1.queue = []

/-- Flits and lane control on an optical link. On a link that receives flits, with no perturbation: a good DATA flit with
the expected FSEQ, its codewords with at most 4 wrong symbols each, is accepted and the next one acknowledged; a DATA or
sideband flit that fails its CRC counts and, once, is answered with a NAK, which the repeat sends again. On a trained
link: a lane control message of the far end changes the receive set, and one of this end the transmit set, at the 32nd
slot; a direction with fewer than MIN_LANES working lanes left breaches the link; lanes that lose signal are quarantined
while MIN_LANES remain and otherwise the link retrains; LANE_QUAR takes lanes out of transmit service and LANE_READY
returns them; a relock ends the quarantine, one that fails takes its lane out of service. -/
def Obligations.LinkFlits : Prop :=
  ∀ (l : Nat) (s : State), l < 48 →
    let k := s.link l
    (s.err.perturbGo = false → k.state.hears = true →
      (∀ f cw : Bytes, f.length = 256 → flitOk f = true → flitFld f 34 2 = 1 →
        flitFld f 0 16 = k.rxNext.toNat → flitFld f 32 1 = 0 → cw.length ≤ 32 → (∀ x ∈ cw, x.toNat % 128 ≤ 4) →
        ∃ u o a, exec (.flitReceive l (f ++ cw)) s = .next u ∧ (u.link l).rxNext = k.rxNext + 1 ∧
          (u.link l).nakked = false ∧ u.mem = s.mem ∧ u.out = o ++ [.flit l a] ∧ flitFld a 32 1 = 1 ∧
          flitFld a 33 1 = 0 ∧ flitFld a 16 16 = (k.rxNext + 1).toNat) ∧
      (∀ f : Bytes, f.length = 256 → flitOk f = false → flitFld f 34 2 = 1 ∨ flitFld f 34 2 = 2 →
        ∃ u, exec (.flitReceive l f) s = .next u ∧
        if k.nakked then u.link l = { k with crcErr := satInc16 k.crcErr } ∧ u.out = s.out
        else u.link l = { k with crcErr := satInc16 k.crcErr, nakked := true, nakDue := false, rpt := k.rpt + 1 } ∧
          ∃ a, u.out = s.out ++ [.flit l a] ∧ flitFld a 33 1 = 1 ∧ flitFld a 16 16 = k.rxNext.toNat) ∧
      (k.nakked = true → ∃ a, exec (.flitNakRepeat l) s =
        .next { s.setLink l { k with nakDue := false, rpt := k.rpt + 1 } with out := s.out ++ [.flit l a] } ∧
        flitFld a 33 1 = 1 ∧ flitFld a 16 16 = k.rxNext.toNat)) ∧
    (k.state.meets = true →
      (∀ (q : BitVec 8) (m : BitVec 16),
        (∃ u, exec (.laneOut l q m) s = .next u ∧ (u.link l).changes = k.changes ++ [⟨false, false, m⟩] ∧
          u.mem = s.mem) ∧
        (∃ u, exec (.laneIn l q m) s = .next u ∧ (u.link l).changes = k.changes ++ [⟨false, true, m⟩] ∧
          u.mem = s.mem)) ∧
      (∀ (m : BitVec 16) (rest : List LaneChange),
        (k.changes = ⟨true, true, m⟩ :: rest → ∃ u, exec (.laneSetChange l true) s = .next u ∧ u.mem = s.mem ∧
          u.link l = { k with changes := rest, txMask := k.txMask ||| m, stream := (u.link l).stream }) ∧
        (k.changes = ⟨true, false, m⟩ :: rest →
          s.minLanes l ≤ State.txWidth (s.setLink l { k with txMask := k.txMask &&& ~~~m }) l →
          ∃ u, exec (.laneSetChange l true) s = .next u ∧ u.mem = s.mem ∧
            u.link l = { k with changes := rest, txMask := k.txMask &&& ~~~m, stream := (u.link l).stream }) ∧
        (k.changes = ⟨false, true, m⟩ :: rest → exec (.laneSetChange l false) s = .next (s.setLink l { k with
          changes := rest, rxMask := k.rxMask ||| m, quar := k.quar &&& ~~~m })) ∧
        (k.changes = ⟨false, false, m⟩ :: rest → s.minLanes l ≤ width (k.rxMask &&& ~~~m &&& ~~~k.quar) →
          exec (.laneSetChange l false) s = .next (s.setLink l { k with
            changes := rest, rxMask := k.rxMask &&& ~~~m })) ∧
        (k.changes = ⟨false, false, m⟩ :: rest → width (k.rxMask &&& ~~~m &&& ~~~k.quar) < s.minLanes l →
          ∃ u, exec (.laneSetChange l false) s = .next u ∧ (u.link l).state = .breached ∧ (u.link l).reason = 0x35)) ∧
      (s.lasersQuiet → ∀ m : BitVec 16,
        let gone := m &&& k.rxMask &&& ~~~k.quar
        (gone ≠ 0 → ∃ u, exec (.laneLossOfSignal l m) s = .next u ∧ u.mem = s.mem ∧
          if s.minLanes l ≤ width (k.rxMask &&& ~~~k.quar &&& ~~~m) then (u.link l).quar = k.quar ||| gone ∧
            (u.link l).state = k.state
          else (u.link l).state = .retrain ∧ (u.link l).quar = k.quar) ∧
        ∀ q : BitVec 8, (m &&& k.txMask ≠ 0 → ∃ u, exec (.laneQuar l q m) s = .next u ∧ u.mem = s.mem ∧
            (u.link l).changes = k.changes ++ [⟨true, false, m &&& k.txMask⟩] ∧
            (u.link l).relock = k.relock ||| (m &&& k.txMask) ∧ (u.link l).await = k.await ||| (m &&& k.txMask)) ∧
          (m ≠ 0 → m &&& k.await = m → k.relock = 0 → ∃ u, exec (.laneReady l q m) s = .next u ∧ u.mem = s.mem ∧
            (u.link l).await = k.await &&& ~~~m ∧ (u.link l).changes = k.changes ++ [⟨true, true, m⟩])) ∧
      (s.lasersQuiet → ∀ i < 16, k.quar.getLsbD i = true →
        let m := 1#16 <<< i
        (∃ u, exec (.ringRelockDone l i true) s = .next u ∧ (u.link l).quar = k.quar &&& ~~~m ∧
          (u.link l).rxMask = k.rxMask ∧ (u.link l).mseq = k.mseq + 1 ∧ u.mem = s.mem) ∧
        (s.minLanes l ≤ width (k.rxMask &&& ~~~m &&& ~~~(k.quar &&& ~~~m)) → ∃ u,
          exec (.ringRelockDone l i false) s = .next u ∧ (u.link l).quar = k.quar &&& ~~~m ∧
          (u.link l).rxMask = k.rxMask &&& ~~~m ∧ (u.link l).state = k.state ∧ u.mem = s.mem)) ∧
      (∀ i < 16, k.rxMask.getLsbD i = false → ∃ u, exec (.laneRetrained l i true) s = .next u ∧
        (u.link l).mseq = k.mseq + 1 ∧ u.mem = s.mem) ∧
      (∃ u, exec (.retrainReq l) s = .next u ∧ u.mem = s.mem ∧ u.link l = { k with
        state := .retrain, prior := k.state, retrains := BitVec.ofNat 4 (min (k.retrains.toNat + 1) 15), replays := 0 } ∧
        ∀ m, m ≠ l → u.link m = s.link m)) ∧
    (∀ (i : Nat) (e : BitVec 8), i < 16 → k.rxMask.getLsbD i = true →
      exec (.embankmentMeasure l i e) s = .next (s.setLink l { k with rxEmb := Tab.set 0xFF k.rxEmb i e })) ∧
    exec .ringDither s = .next s

/-- Link training, retraining and port control. A link that waits in OFF goes to LIGHT, where sequence numbers and
replay entries start afresh; LIGHT, TRAIN and ALIGN follow one another, the last two with at least MIN_LANES lanes
in each direction, and EXCH follows ALIGN with nothing decided; a stage timeout returns it to OFF to retry. A
retrain that succeeds returns to the state it came from, on the lanes that passed; one that times out breaches the
link. A port reset of a module that is not stopped takes all six links to OFF. TKL_CTL.GO set with a wrong
REPLAY_LIMIT, MIN_LANES, EMB order or BIAS_CHG is refused with its reason, in that order; otherwise GO is set and
links in OFF enter LIGHT, unless the module is stopped. -/
def Obligations.LinkStates : Prop :=
  (∀ (l : Nat) (s : State), l < 48 →
    let k := s.link l
    (s.waitsOff l = true → ∀ c ∈ [Instr.linkOffRetry l, .linkLightDetect l], ∃ u, exec c s = .next u ∧
      (u.link l).state = .light ∧ (u.link l).txNext = 0 ∧ (u.link l).rxNext = 0 ∧ (u.link l).held = [] ∧
      (u.link l).spent = [] ∧ ∀ m, m ≠ l → u.link m = s.link m) ∧
    (k.state = .light → exec (.linkLightDone l) s = .next (s.setLink l { k with state := .train })) ∧
    (∀ tx rx : BitVec 16, k.state = .train → s.minLanes l ≤ width (tx &&& s.lit l) → s.minLanes l ≤ width rx →
      exec (.linkTrainDone l tx rx) s = .next (s.setLink l { k with
        state := .align, txMask := tx &&& s.lit l, rxMask := rx })) ∧
    (k.state = .align → ∃ u, exec (.linkAlignDone l) s = .next u ∧ (u.link l).state = .exch ∧ (u.disc l).mine = 0 ∧
      (u.disc l).theirs = 0 ∧ (u.disc l).rxok = false ∧ u.mem = s.mem) ∧
    (∀ tx rx : BitVec 16, k.state = .retrain → s.minLanes l ≤ width (tx &&& k.txMask &&& s.lit l) →
      s.minLanes l ≤ width (rx &&& k.rxMask) → (s.disc l).again = false →
        ∃ u, exec (.linkRetrainDone l tx rx) s = .next u ∧
        (u.link l).state = k.prior ∧ (u.link l).txMask = tx &&& k.txMask &&& s.lit l ∧
        (u.link l).rxMask = rx &&& k.rxMask ∧ u.mem = s.mem) ∧
    (k.state ∈ [.light, .train, .align] → ∃ u, exec (.linkStageTimeout l) s = .next u ∧ (u.link l).state = .off ∧
      (u.link l).retry = true ∧ u.mem = s.mem) ∧
    (k.state = .retrain → ∃ u, exec (.linkRetrainTimeout l) s = .next u ∧ (u.link l).state = .breached ∧
      (u.link l).reason = 0x34 ∧ (u.link l).txMask = 0 ∧ u.err.pend.getLsbD 8 = true)) ∧
  ∀ (n : Nat) (s : State), n < 8 →
    let p := s.port n
    (s.dev.stopped = true → exec (.portReset n) s = .next s) ∧
    (s.dev.stopped = false → ∃ u, exec (.portReset n) s = .next u ∧ (∀ i < 6, (u.link (6 * n + i)).state = .off) ∧
      (u.port n).unlocked = false ∧
      u.laserJournal.take s.laserJournal.length = s.laserJournal) ∧
    ∀ w : BitVec 32, w.getLsbD 0 = true → p.go = false →
      let limit := w.extractLsb' 8 8
      let lanes := if p.unlocked then w.extractLsb' 16 5 else p.minLanes
      let q := { p with replayLimit := limit, minLanes := lanes }
      let refused := fun r => ∃ u, exec (.tklCtlGoSet n w) s = .next u ∧ u.port n = { q with reason := r } ∧
        u.links = s.links
      if limit = 0 then refused 0x30
      else if lanes.toNat < 12 ∨ 16 < lanes.toNat then refused 0x31
      else if p.embHold.toNat ≤ p.embChg.toNat then refused 0x32
      else if p.biasChg.toNat < 50 ∨ 95 < p.biasChg.toNat then refused 0x33
      else ∃ u, exec (.tklCtlGoSet n w) s = .next u ∧ u.port n = { q with go := true } ∧ (s.dev.stopped = false →
        ∀ l, (u.link l).state = if l / 6 = n ∧ (s.link l).state = .off then .light else (s.link l).state)

/-- Wavelengths: bias loop, changeover and retirement. The bias loop raises the bias of a wavelength below EMB_HOLD and
lowers one more than 10 steps above it, within the ceiling and the start bias. A source that goes dark, or FORCE_CHG
on an unlocked port, begins a changeover to a free spare wavelength, and retires a wavelength that already runs on its
spare. The changeover waits for the far ends, settles on the start bias of the spare, restores the lane and is
recorded; a timeout or a spare that does not settle goes back to the primary at its bias and marks the spare
wavelength failed. -/
def Obligations.PortLasers : Prop :=
  (∀ (limit : List (Nat × Nat)) (s : State), ∃ u, exec (.biasLoop limit) s = .next u ∧ u.links = s.links ∧
    u.mem = s.mem ∧
    ∀ n < 8, ∀ k < 16,
      let p := s.port n
      let w := p.wave k
      (u.port n).wave k =
        if p.lit = false ∨ w.retired = true ∨ w.busy = true ∨ w.emb = 0xFF then w
        else if w.emb.toNat < p.embHold.toNat then
          if (n, k) ∈ limit ∨ 480 ≤ w.bias.toNat then w else { w with bias := w.bias + 1 }
        else if p.embHold.toNat + 10 < w.emb.toNat ∧ (s.startBias n k w.spare).toNat < w.bias.toNat then
          { w with bias := w.bias - 1 }
        else w) ∧
  (∀ s : State, s.lasersQuiet → (∀ n < 8, (s.port n).autoChg = false) → ∃ u, exec .laserSample s = .next u ∧
    u.mem = s.mem ∧
    ∀ n < 8, ∀ k < 16, (s.port n).lit = true → ((s.port n).wave k).retired = false →
      (u.port n).wave k = { (s.port n).wave k with
        emb := BitVec.ofNat 8 (s.waveEmb n k)
        again := ((s.port n).wave k).again && !s.activeLinks.any fun l => portOf l == n }) ∧
  ∀ (n k : Nat) (s : State), n < 8 → k < 16 →
    let w := (s.port n).wave k
    let x := s.spareUnit (groupOf n)
    let wave := fun (u : State) => (u.port n).wave k
    let recorded := fun (u : State) => (wave u).chg = none ∧ (wave u).spare = true ∧
      u.laserJournal = s.laserJournal ++ [(n, k, false)] ∧ (u.spareUnit (groupOf n)).used.getLsbD k = true ∧
      (u.spareUnit (groupOf n)).active = none
    (∀ c ∈ [Instr.sourceOutputLost n k, .tklWaveForceChg n k], (s.port n).lit = true → (s.port n).unlocked = true →
      w.retired = false → s.lasersQuiet → (∀ i < 6, (s.link (6 * n + i)).state.meets = false) →
      (w.spare = false → x.denied n k = false → x.active = none → ∃ u, exec c s = .next u ∧
        wave u = { w with chg := some ⟨.settle, false, false, 0, 0, w.bias⟩ } ∧
        (u.spareUnit (groupOf n)).active = some (n, k) ∧ u.links = s.links ∧ u.mem = s.mem) ∧
      (w.spare = true → ∃ u, exec c s = .next u ∧
        wave u = { w with bias := 0, retired := true, chg := none, emb := 0xFF } ∧
        u.laserJournal = s.laserJournal ++ [(n, k, true)] ∧ (u.spareUnit (groupOf n)).failed.getLsbD k = true ∧
        u.err.pend.getLsbD 7 = true)) ∧
    (∀ c : Chg, w.chg = some c → c.retire = false → c.revert = false → c.all = 0 → (∀ m < 8, (s.port m).events = []) →
      s.spare0.queue = [] → s.spare1.queue = [] →
      (∀ e ∈ [Instr.changeoverTimeout n k, .spareLineSettled n k false], c.stage = .settle → ∃ u, exec e s = .next u ∧
        wave u = { w with bias := c.bias, chg := none } ∧ (u.spareUnit (groupOf n)).failed.getLsbD k = true ∧
        (u.spareUnit (groupOf n)).active = none ∧ u.laserJournal = s.laserJournal) ∧
      (c.stage = .settle → ∃ u, exec (.spareLineSettled n k true) s = .next u ∧ recorded u ∧
        (wave u).bias = s.startBias n k true)) ∧
    ∀ (l : Nat) (q : BitVec 8) (c : Chg), l / 6 = n → (s.link l).state.meets = true → w.chg = some c →
      c.retire = false →
      c.revert = false → c.links = 1#6 <<< (l % 6) → (∀ m < 8, (s.port m).events = []) → s.spare0.queue = [] →
      s.spare1.queue = [] →
      (c.stage = .drain → ∃ u, exec (.laneOutAck l q (1#16 <<< k)) s = .next u ∧
        wave u = { w with chg := some { c with stage := .settle, links := 0 } } ∧ u.mem = s.mem) ∧
      (c.stage = .restore → ∃ u, exec (.laneInAck l q (1#16 <<< k)) s = .next u ∧ recorded u ∧ u.mem = s.mem)

/-- The verdict on a record: accept where no check fails, or an overridable one with ACCEPT_OBS (R341). -/
def Sys2Proof.Machine.verdictOf (f : Option (BitVec 8 × Bool)) (acceptObs : Bool) : BitVec 2 :=
  if f = none ∨ ((∃ r, f = some (r, true)) ∧ acceptObs = true) then 1 else 2

/-- The state of a link in EXCH, ACTIVE or ISOLATED after both verdicts (R339, R342). -/
def Sys2Proof.Machine.afterVerdicts (x : LState) (mine theirs : BitVec 2) : LState :=
  if mine = 1 ∧ theirs = 1 then .active else if mine = 2 ∨ theirs = 2 then .isolated else x

/-- FAB_CTL, discovery and the route table. FAB_CTL.GO set with a wrong configuration is refused with its reason, and
otherwise starts the fabric; GO cleared returns every ACTIVE or ISOLATED link to EXCH and clears DISC_DONE. A record
received while GO is 1, and a re-evaluation, give the verdict of the checks; two accepts make the link ACTIVE, a
reject ISOLATED; without a pair of accepts after 20 ms the link is ISOLATED with DISC_TIMEOUT and later tries again. A
route write whose next-hop set changes while GO is 1 sets HOLD, which DRAIN clears. -/
def Obligations.Discovery : Prop :=
  (∀ (w : BitVec 32) (s : State),
    let f := { s.fab with acceptObs := w.getLsbD 1, timeout := w.extractLsb' 8 16, drain := w.extractLsb' 24 8 }
    let refused := fun r => exec (.fabCtlGoSet w) s = .next { s with fab := { f with reason := r } }
    (w.getLsbD 0 = true → s.fab.go = false →
      if f.nodeId = 0xFFFF then refused 0x40
      else if f.timeout.toNat < 10 ∨ 10000 < f.timeout.toNat then refused 0x41
      else if f.drain = 0 then refused 0x42
      else if f.hot = 0 then refused 0x43
      else ∃ u, exec (.fabCtlGoSet w) s = .next u ∧ u.fab.go = true ∧ u.fab.acceptObs = f.acceptObs ∧
        u.fab.timeout = f.timeout ∧ u.fab.drain = f.drain) ∧
    (w.getLsbD 0 = false → s.fab.go = true → ∃ u, exec (.fabCtlGoClear w) s = .next u ∧ u.fab.go = false ∧
      u.fab.discDone = false ∧ u.fab.timeout = s.fab.timeout ∧
      ∀ l < 48, (u.link l).state = if (s.link l).state ∈ [.active, .isolated] then .exch else (s.link l).state)) ∧
  (∀ s : State, exec .fabCtlRediscover s =
    .next (if s.fab.go then (List.range 48).foldl State.rediscover s else s)) ∧
  (∀ (l : Nat) (s : State), l < 48 → s.fab.go = true →
    let x := (s.link l).state
    let d := s.disc l
    x.meets = true →
    (d.rxok = true → ∃ u, exec (.discoveryReevaluate l) s = .next u ∧
      let v := verdictOf (s.discFailure l (s.record l)) s.fab.acceptObs
      (u.disc l).mine = v ∧ (u.link l).state = afterVerdicts x v d.theirs) ∧
    (∀ r : Bytes, r.length = 64 → s.record l ≠ r → (∀ e ∈ (s.link l).inq, fieldNat (leField e.2 0 16) 48 2 ≠ 3) →
      leField r 0x16 2 / 2 % 4 ≠ 0 ∨ x = .exch →
      ∃ u, exec (.disc l r) s = .next u ∧
        let v := verdictOf (s.discFailure l r) s.fab.acceptObs
        let w := BitVec.ofNat 2 (leField r 0x16 2 / 2 % 4)
        (u.disc l).mine = v ∧ (u.disc l).theirs = w ∧ (u.disc l).rxok = true ∧ u.record l = r ∧
        (u.link l).state = afterVerdicts x v w) ∧
    (exec (.discRecordSend l) s = .next (s.sendRecord l false)) ∧
    (x = .exch → ∃ u, exec (.discTimeout l) s = .next u ∧ (u.link l).state = .isolated ∧ (u.disc l).reason = 0x50) ∧
    (x = .isolated → d.reason = 0x50 → exec (.discoveryRetry l) s =
      .next (if d.rxok then (((s.sendRecord l false).discEval l).discSettle l) else s.sendRecord l false))) ∧
  ∀ (n : Nat) (s : State), n < 0xFFFF →
    let r := Tab.get Route.init s.fab.route n
    let route := fun (u : State) => Tab.get Route.init u.fab.route n
    (∀ w : BitVec 64, ∃ u, exec (.fabRouteWrite n w) s = .next u ∧ (route u).w = w &&& routeMask ∧
      ((route u).hold = true ↔ r.hold = true ∨ (s.fab.go = true ∧ Route.set ⟨w &&& routeMask, false⟩ ≠ r.set)) ∧
      ∀ m, m ≠ n → Tab.get Route.init u.fab.route m = Tab.get Route.init s.fab.route m) ∧
    (r.hold = true → ∃ u, exec (.routeDrainEnd n) s = .next u ∧ route u = { r with hold := false })

/-- Fabric packets that arrive. A packet whose turn it is at its input, and which can go on, leaves the input and
returns its credits; one that cannot go on yet stays there. One that fails its checks counts in FAB_ERR.E2E. A request
for this node is performed on the place its address names and answered with its status, in the register range only
TB_TIME for reads and CORE_SEMSIG for writes, and every other register access with ADDR_INVALID; a broadcast is
performed, sent on along its tree and not answered; a response ends the request it answers, or counts as late; a
packet for another node loses one hop and goes to its next hop, or is lost; a timeout ends its request; an idle atomic
line is released. -/
def Obligations.FabricPackets : Prop :=
  (∀ (l : Nat) (b : Bytes) (p : Pkt) (s : State), l < 49 → b.length ≤ 272 → parsePkt b = some p → s.comes l b p = true →
    let t := s.takeOut l b
    let done := fun (c : Instr) (u : State) => exec c s = .next ((u.leave l b).kick)
    let answered := fun (c : Instr) (u : State) (type : Nat) (st : BitVec 8) (d : Bytes) =>
      done c (u.sendRsp ⟨p.src, u.fab.nodeId, p.eng, 1, type, 63, p.tag, st, d⟩)
    let a := leField p.body 0 6
    let d := p.body.drop 8
    let v := t.unitCount a (p.body.length - 8)
    let inReg := fun (x : State) (n off : Nat) => x.placeOf a n = .ok (.reg off)
    (p.dst = s.fab.nodeId → s.canGo p = true →
      (p.type = 1 → rdOk p = true →
        let n := leField p.body 8 2
        (∀ e, t.placeOf a n = .error e → answered (.fabricRd l b) t 6 e []) ∧
        (∀ pl e u, t.placeOf a n = .ok pl → (∀ off, pl ≠ .reg off) → t.readPlace pl n 2 = (.error e, u) →
          answered (.fabricRd l b) u 6 e []) ∧
        (∀ pl x u, t.placeOf a n = .ok pl → (∀ off, pl ≠ .reg off) → t.readPlace pl n 2 = (.ok x, u) →
          answered (.fabricRd l b) u 6 0 x) ∧
        ∀ off, inReg t n off → if 0x180010 ≤ off ∧ off + n ≤ 0x180018 then
          answered (.fabricRd l b) t 6 0 (slice (toLE 8 s.tb.time.toNat) (off - 0x180010) n)
          else answered (.fabricRd l b) t 6 cAddrInvalid []) ∧
      (∀ c, (p.type = 2 ∧ c = Instr.fabricWr l b) ∨ (p.type = 3 ∧ c = .fabricPut l b ∧ p.dst ≠ 0xFFFF) →
        9 ≤ p.body.length →
        (∀ e, v.placeOf a d.length = .error e → answered c v 7 e []) ∧
        (∀ pl e u, v.placeOf a d.length = .ok pl → (∀ off, pl ≠ .reg off) → v.writePlace pl d 2 = (.error e, u) →
          answered c u 7 e []) ∧
        (∀ pl u, v.placeOf a d.length = .ok pl → (∀ off, pl ≠ .reg off) → v.writePlace pl d 2 = (.ok (), u) →
          answered c u 7 0 []) ∧
        ∀ off, inReg v d.length off → match v.semsigAt off with
          | some (k, m, takes) => if d.length = 4 ∨ d.length = 8 then
                answered c (if takes then v.semAdd k m (leField d 0 1) else v) 7 0 []
              else answered c v 7 cAddrInvalid []
          | none => answered c v 7 cAddrInvalid []) ∧
      (atomOk p = true →
        let w := leField p.body 9 1
        (∀ off, inReg t w off → (p.type = 4 → answered (.fabricAtom l b) t 7 cAddrInvalid []) ∧
          (p.type = 5 → answered (.fabricAtomn l b) t 7 cAddrInvalid [])) ∧
        ∀ pl z r u, t.placeOf a w = .ok pl → (∀ off, pl ≠ .reg off) →
          (if (t.lineAt (t.canon a) w).isSome = true then z = t else t.unitOpen a = (.ok (), z)) →
          (z.unitCount a w).atomPlace pl (leField p.body 8 1) w (leField p.body 16 8) (leField p.body 24 8) 2 =
            (Except.ok r, u) →
          (p.type = 4 → answered (.fabricAtom l b) u 6 0 r) ∧ (p.type = 5 → answered (.fabricAtomn l b) u 7 0 [])) ∧
      (∀ c, (p.type = 6 ∧ c = Instr.fabricRdrsp l b) ∨ (p.type = 7 ∧ p.body = [] ∧ c = .fabricAck l b) →
        (∀ q, t.answered p = some q → done c (t.endReq q p.body p.status)) ∧
        (t.answered p = none → done c { t with fab := { t.fab with
          late := satInc16 t.fab.late, dead := t.fab.dead.filter (· != p.tag) } }))) ∧
    (p.dst = 0xFFFF → s.fab.nodeId ≠ 0xFFFF → p.type = 3 → 9 ≤ p.body.length → s.canGo p = true →
      (l = 48 → done (.fabricPut l b) (t.doStore p).2) ∧
      (l ≠ 48 → p.ttl ≠ 0 → done (.fabricPut l b) ((t.doStore p).2.bcastSend l { p with ttl := p.ttl - 1 }))) ∧
    (p.dst ≠ s.fab.nodeId → p.dst ≠ 0xFFFF → p.type ≠ 8 → p.type ≠ 9 → s.err.perturbGo = false →
      let q := { p with ttl := p.ttl - 1 }
      let r := t.routeOf p.dst
      if s.canGo p = false then exec (.fabricForward l b) s = .next (s.keepIn l b)
      else if p.ttl = 0 then done (.fabricForward l b) (t.losePacket p)
      else if r.inForce then done (.fabricForward l b) (t.linkPut (r.pick p.src p.dst p.eng) p.vc q.bytes)
      else done (.fabricForward l b) (t.losePacket q))) ∧
  (∀ (l : Nat) (b : Bytes) (s : State), l < 49 → 16 ≤ b.length → b.length ≤ 272 → parsePkt b = none →
    (s.link l).state = .active →
    ∀ c ∈ [Instr.fabricForward l b, .fabricRd l b, .fabricWr l b, .fabricPut l b, .fabricAtom l b, .fabricAtomn l b,
        .fabricRdrsp l b, .fabricAck l b],
      exec c s = .next ({ s with fab := { s.fab with e2e := satInc16 s.fab.e2e } }.leave l b)) ∧
  (∀ (id : Nat) (q : FabReq) (s : State), (s.fab.reqs.find? fun q => q.id == id && q.sent) = some q →
    exec (.fabricTimeout id) s = .next (({ s with fab := { s.fab with
      timeouts := satInc16 s.fab.timeouts, dead := s.fab.dead ++ [q.tag.toNat] } }.endReq q [] cFabTimeout).kick)) ∧
  ∀ (line : Nat) (s : State), exec (.atomicLineIdleRelease line) s = .next { s with fab := { s.fab with
    lines := s.fab.lines.filter fun l => l.line != line } }

/-- Link time and rack time. A follower takes the announce of an ACTIVE link as its parent; a grandmaster announces on
every ACTIVE link; an exchange keeps T1, T2 and T3 and ends with an offset of half the difference, which is slewed, or
stepped before the first lock; 16 good exchanges in a row lock and 4 bad ones unlock; without a parent the timebase
enters HOLDOVER. In RACK mode the STEP edge with ARM takes TB_STEPVAL and sets LOCKED, and with ARM 0 changes nothing;
loss of RACKCLK enters HOLDOVER with its notification. TB_CTL.GO set is refused with its reasons, in order. -/
def Obligations.Timebase : Prop :=
  (∀ (l : Nat) (s : State), l < 48 → (s.link l).state = .active →
    (∀ (t3 t4 : BitVec 64), ∃ u, exec (.ttDreq l t3 t4) s = .next u ∧ (u.link l).mseq = (s.link l).mseq + 1 ∧
      u.mem = s.mem) ∧
    (s.tb.follows = true →
      (∀ (hops : BitVec 6) (gm : BitVec 16), s.tb.ann = [] → exec (.ttAnnounce l hops true gm) s = .next { s with tb :=
        { s.tb with
          ann := [(l, some ⟨hops, true, gm⟩)], parent := BitVec.ofNat 6 l, hasParent := true,
          hops := BitVec.ofNat 6 (min (hops.toNat + 1) 63), gmNode := gm, holdover := false } }) ∧
      (s.tb.hasParent = true → s.tb.parent.toNat = l →
        (∀ t1 t2 : BitVec 64, ∃ u, exec (.ttSync l t1 t2) s = .next u ∧
          u.tb = { s.tb with t1 := some t1, t2 := t2, t3 := s.tb.time } ∧ (u.link l).mseq = (s.link l).mseq + 1) ∧
        ∀ (t1 t4 : BitVec 64) (a : BitVec 32) (o : Int), s.tb.t1 = some t1 → Tab.get 0 s.tb.asym l = 0 →
          signedNat 64 (s.tb.t2 - t1).toNat - signedNat 64 (t4 - s.tb.t3).toNat = 2 * o →
          ∃ u, exec (.ttDresp l t4 a) s = .next u ∧
            let good := if o.natAbs ≤ 4 then s.tb.good + 1 else 0
            let bad := if 20 < o.natAbs then s.tb.bad + 1 else 0
            u.tb.good = good ∧ u.tb.bad = bad ∧ u.tb.t1 = none ∧
            u.tb.offset = BitVec.ofNat 16 (wrapInt 16 (max (-32767) (min 32767 o))) ∧
            u.tb.locked = (if 16 ≤ good then true else if 4 ≤ bad then false else s.tb.locked) ∧
            if 1000 < o.natAbs ∧ s.tb.everLocked = false then
              u.tb.time = BitVec.ofNat 64 (wrapInt 64 ((s.tb.time.toNat : Int) - o)) ∧ u.tb.slew = 0
            else u.tb.time = s.tb.time ∧ u.tb.slew = -o))) ∧
  ∀ s : State,
    (s.tb.go = true → s.tb.gm = true → ∃ u, exec .ttAnnounceSend s = .next u ∧ u.tb = s.tb ∧
      ∀ l ∈ s.activeLinks, (u.link l).mseq = (s.link l).mseq + 2) ∧
    (s.tb.follows = true → s.tb.hasParent = true →
      exec .ttExchangeStart s = .next { s with tb := { s.tb with t1 := none } } ∧
      ((∀ l, l ≠ s.tb.parent.toNat → Tab.get none s.tb.ann l = none) → ∃ u, exec .timebaseParentLoss s = .next u ∧
        u.tb.holdover = true ∧ u.tb.hasParent = false ∧ (s.tb.holdover = false → u.err.pend.getLsbD 10 = true))) ∧
    (s.tb.rack = true → s.tb.rackclk = true →
      (s.tb.arm = true → ∃ u, exec .stepEdge s = .next u ∧ u = { s with tb := u.tb } ∧ u.tb.arm = false ∧
        u.tb.locked = true ∧ (s.tb.everLocked = false ∨ s.tb.time.toNat ≤ s.tb.stepval.toNat →
          u.tb.time = s.tb.stepval)) ∧
      (s.tb.arm = false → exec .stepEdge s = .next s)) ∧
    (∃ u, exec .rackclkLoss s = .next u ∧ u.tb.rackclk = false ∧ (s.tb.rack = true → u.tb.holdover = true ∧
      (s.tb.holdover = false → u.err.pend.getLsbD 10 = true))) ∧
    (exec .rackclkPresent s = .next { s with tb := { s.tb with
      rackclk := true, holdover := s.tb.holdover && !s.tb.rack } }) ∧
    ∀ w : BitVec 32, w.getLsbD 4 = true → s.tb.go = false →
      let t := { s.tb with source := w.extractLsb' 0 2, gm := w.getLsbD 2, arm := s.tb.arm || w.getLsbD 3 }
      let wrote := fun t => exec (.tbCtlGoSet w) s = .next { s with tb := t }
      if t.source = 3 then wrote { t with reason := 0x58 }
      else if t.gm = true ∧ t.source = 2 then wrote { t with reason := 0x59 }
      else if t.source = 1 ∧ t.rackclk = false then wrote { t with reason := 0x5A }
      else wrote { t with
        go := true, holdover := false, locked := t.locked || t.source == 0, everLocked := t.everLocked || t.source == 0 }

/-- Collective packets. A COLL packet from an ACTIVE link leaves its receive buffer, where it has one, and returns its
credits. A wrong header counts in E2E; a packet of
no open bucket, or of another attempt, is discarded and counted; an OPEN opens a bucket and keeps the neighbour's
parameters and maxima. For an open bucket EXP records its maxima, TV gives the weights, WIN and SPEC join the sums or,
on a module that refused the bucket, go on unchanged with OVF, RES goes down the tree and is delivered, DATA and CNT
wait until they can be used. Window sums do not depend on the order of arrival. -/
def Obligations.CollectivePackets : Prop :=
  (∀ (l : Nat) (d : Bytes) (s t : State), l < 48 → (s.link l).state = .active → 16 ≤ d.length → d.length ≤ 256 →
    s.takeBody l 2 d = some t →
    let kind := hFld d 0 4
    let tag := hFld d 4 12
    let c := hFld d 24 22
    let n := hFld d 64 8
    let off := hFld d 46 12
    let row := fun k => [Instr.open l d, .exp l d, .tv l d, .win l d, .spec l d, .res l d, .data l d, .cnt l d].getD k (.open l d)
    (hdrOk d = false → kind < 8 →
      exec (row kind) s = .next { t with fab := { t.fab with e2e := satInc16 t.fab.e2e } }) ∧
    (hdrOk d = true → kind < 8 → (s.bucket? tag = none ∧ 2 ≤ kind) ∨ (∃ b, s.bucket? tag = some b ∧
      b.attempt.toNat ≠ hFld d 16 8) →
      exec (row kind) s = .next { t with col := { t.col with discards := satInc16 t.col.discards } }) ∧
    (hdrOk d = true → kind = 0 → s.bucket? tag = none → (Tab.get Gone.init s.col.gone tag).valid = false →
      (∀ a ∈ s.col.aborted, a.1 ≠ tag) → (∀ e < 64, trEn (s.tree e) = false) → ∃ u b, exec (.open l d) s = .next u ∧
        u.bucket? tag = some b ∧
        b.par = some (openOf l d).par ∧ b.grp = (openOf l d).grp ∧ b.step = (openOf l d).step ∧ b.opens = [openOf l d] ∧
        ((openOf l d).par.red = true → (b.chunk 0).mx = [(l, maxOf d 64 n)]) ∧ u.mem = s.mem) ∧
    ∀ b, hdrOk d = true → s.bucket? tag = some b → b.attempt.toNat = hFld d 16 8 →
      let refused := (trParent (b.entry t)).toList.foldl (fun s p => s.sendCol p (withOvf d)) t
      (kind = 1 → exec (.exp l d) s = .next ((t.takeMax tag l c (maxOf d 16 n)).colGo tag)) ∧
      (kind = 2 → (b.chunk c).ts = none → c ∈ b.flight → trParent (b.entry t) = some l →
        exec (.tv l d) s = .next ((t.setTs tag c (maxOf d 16 n)).colGo tag)) ∧
      (kind = 3 → exec (.win l d) s = .next (if b.refuses t then refused else
        ((t.addAcc tag c (b.mySlice t) off (off + n) fun a => a.addWin off
          ((List.range n).map fun i => signedNat 128 (leField d (16 + 16 * i) 16)) (hFld d 72 21) (hFld d 93 1 == 1)
          (hFld d 94 1 == 1)).sumCheck tag c).colGo tag)) ∧
      (kind = 4 → exec (.spec l d) s = .next (if b.refuses t then refused else
        let es := (List.range n).map fun i => (leField d (16 + 4 * i) 2 % 4096, leField d (16 + 4 * i) 2 / 4096)
        t.addAcc tag c (b.mySlice t) ((es.map Prod.fst).foldl min 4096) ((es.map Prod.fst).foldl max 0 + 1) fun a =>
          a.addSpec es (hFld d 72 21))) ∧
      (kind = 5 → exec (.res l d) s = .next (
        let sent := if b.p.direct then t
          else (b.downLinks t).foldl (fun s k => s.sendCol k (if b.admitted then d else withOvf d)) t
        let b' := { b with trunc := b.trunc || hFld d 93 1 == 1, ovf := b.ovf || hFld d 94 1 == 1, nan := b.nan + hFld d 96 8 }
        let from? := ((t.members (b.tree.getD 0)).find? fun e => e.2 == l).elim 0 Prod.fst
        let slice' := b.p.slice c from? (trMcount (b.entry t))
        let took := if n = 0 ∧ b.p.direct = true ∧ hFld d 96 8 < 240 then slice'.2 - slice'.1 else n
        (((sent.setBucket b').deliverRes tag (c * b.p.chunk + off) (slice d 16 (n * fmtBytes b.p.ofmt))).addGot tag c
          took).colGo tag)) ∧
      (kind = 6 → exec (.data l d) s = .next ((t.setBucket { b with
        early := b.early ++ [(l, d.take (16 + n * fmtBytes b.p.ifmt))] }).colGo tag)) ∧
      (kind = 7 → ∀ o, (b.opens.find? fun o => o.link == l) = some o → ∃ cs, exec (.cnt l d) s =
        .next ((t.setBucket { b with cnts := b.cnts ++ cs }).colGo tag) ∧
        cs.length = o.ranks.length * b.locals.length)) ∧
  ∀ (a : WAcc) (x y : WStream) (i : Nat),
    let f := (a.addStream x).addStream y
    let g := (a.addStream y).addStream x
    Tab.get 0 f.win i = Tab.get 0 g.win i ∧ Tab.get 0 f.flags i = Tab.get 0 g.flags i ∧
    Tab.get 0 f.neg i = Tab.get 0 g.neg i ∧ f.got = g.got ∧ f.trunc = g.trunc ∧ f.ovf = g.ovf

/-- The collective engine: control, tree entries, groups, the end of buckets, step fences. COL_CTL.GO set with a
timeout below 10 is refused; cleared it ends every open bucket. EN of a tree entry or group is set only when its
checks pass, with a reason otherwise, and cleared stops what uses it. A descriptor that fails a check ends with DESC
and its reason; one that passes joins its bucket, or ends at once with LATE where that bucket was aborted here. A
complete bucket leaves the table and is remembered; a timeout counts, is notified and aborts it; STEP_ABORT of its
attempt aborts it. A fence round counts its children, and at the root releases and raises the counter to the step,
as a release from the parent does. -/
def Obligations.CollectiveControl : Prop :=
  (∀ (w : BitVec 32) (s : State),
    let c := { s.col with admitEn := if s.col.unlocked then w.getLsbD 1 else s.col.admitEn, timeout := w.extractLsb' 16 16 }
    (w.getLsbD 0 = true → s.col.go = false → exec (.colCtlGoSet w) s = .next { s with col :=
      if c.timeout.toNat < 10 then { c with reason := 0x6E } else { c with go := true } }) ∧
    (w.getLsbD 0 = true → s.col.go = true → exec (.colCtlGoSet w) s = .next s) ∧
    (w.getLsbD 0 = false → s.col.go = true → ∃ u, exec (.colCtlGoClear w) s = .next u ∧ u.col.go = false ∧
      u.col.buckets = [])) ∧
  (∀ (e : Nat) (w : BitVec 128) (s : State), e < 64 →
    (w.getLsbD 0 = true → trEn (s.tree e) = false → ∃ u, exec (.colTreeEnSet e w) s = .next u ∧
      trEn (u.tree e) = !s.treeBad e w ∧ (∀ i, 0 < i → (u.tree e).getLsbD i = (w &&& treeMask).getLsbD i) ∧
      u.col.reason = (if s.treeBad e w then 0x6D else s.col.reason) ∧ u.mem = s.mem) ∧
    (w.getLsbD 0 = false → trEn (s.tree e) = true → (∀ b ∈ s.col.buckets, b.tree ≠ some e) →
      exec (.colTreeEnClear e w) s = .next { s with col := { s.col with
        trees := Tab.set 0 s.col.trees e (s.tree e &&& ~~~1#128) } })) ∧
  (∀ (g : Nat) (w : BitVec 64) (s : State), g < 16 →
    let x := s.group g
    (w.getLsbD 0 = true → x.en = false →
      let y : Group := { x with w := w.extractLsb' 0 32 &&& groupMask &&& ~~~1#32 }
      let t := s.tree y.ftree
      let bad := y.dies = 0 ∨ y.fcount = 0 ∨ (y.mfence = true ∧ (trEn t = false ∨ trDirect t = true))
      ∃ u, exec (.colGroupEnSet g w) s = .next u ∧ u.group g = (if bad then y else { y with w := y.w ||| 1#32 }) ∧
        u.col.reason = (if bad then 0x6F else s.col.reason)) ∧
    (w.getLsbD 0 = false → x.en = true → ∃ u, exec (.colGroupEnClear g w) s = .next u ∧ (u.group g).en = false ∧
      (u.group g).step = x.step ∧ ∀ b ∈ u.col.buckets, b.par.isSome = true → b.grp.toNat ≠ g)) ∧
  (∀ (c id : Nat) (rest : List Nat) (o : AsyncOp) (d : Bytes) (s v : State), c < s.lcores → s.awake c = true →
    s.pilUp (s.dieOf c) = true → (s.core c).colQ = id :: rest → s.op? id = some o →
    let k := o.rb.extractLsb' 0 32
    State.readMem (s.setCore c { s.core c with colQ := rest }) (spadAddr c o.ra.toNat) 64 2 = (.ok d, v) →
    (∀ r, v.descCheck (v.dieOf c) (iGrp o.word) k d = some r → exec (.collectiveDescriptorAccept c) s =
      .next (({ v with col := { v.col with reject := r } } : State).opFail o cDesc 0)) ∧
    (v.descCheck (v.dieOf c) (iGrp o.word) k d = none →
      let aborted := (descTag d, descAttempt d, iGrp o.word, k) ∈
        v.col.aborted.map fun a => (a.1, a.2.attempt, a.2.grp.toNat, a.2.step)
      (¬aborted → exec (.collectiveDescriptorAccept c) s = .next (v.joinBucket o d (iGrp o.word) k)) ∧
      (aborted → exec (.collectiveDescriptorAccept c) s = .next (v.lateDesc o d (iGrp o.word) k)))) ∧
  (∀ (tag : Nat) (b : Bucket) (s : State), tag < 4096 → s.bucket? tag = some b →
    (b.complete = true → ∃ u, exec (.bucketComplete tag) s = .next u ∧ u.bucket? tag = none ∧
      Tab.get Gone.init u.col.gone tag = ⟨true, b.attempt, b.grp, b.step, false⟩ ∧
      u.col.digestNext = s.col.digestNext + BitVec.ofNat _ b.locals.length) ∧
    (∃ u, exec (.stepTimeout tag) s = .next u ∧ u.bucket? tag = none ∧ u.col.timeouts = satInc16 s.col.timeouts ∧
      u.err.pend.getLsbD 12 = true) ∧
    ∀ (l : Nat) (g : BitVec 4) (k : BitVec 32), l < 48 → ∃ u,
      exec (.stepAbort l (BitVec.ofNat 12 tag) b.attempt g k) s = .next u ∧ u.bucket? tag = none) ∧
  ∀ (l : Nat) (g : BitVec 4) (k : BitVec 32) (s : State), l < 48 →
    let x := s.group g.toNat
    let w := s.tree x.ftree
    let reached := if stepGe x.step k then x.step else k
    x.en = true → x.mfence = true →
    (s.col.go = true → l ∈ trChildren w →
      let r := x.round k
      let r' := if l ∈ r.heard then r else { r with heard := r.heard ++ [l] }
      (r.count < x.fcount → exec (.fenceArrive l g k) s = .next (s.setGroup g.toNat (x.setRound r'))) ∧
      (x.fcount ≤ r.count → r.sent = false → trEn w = true → trDirect w = false → trParent w = none →
        (∀ m ∈ trChildren w, m ∈ r'.heard) → ∃ u, exec (.fenceArrive l g k) s = .next u ∧
          (u.group g.toNat).step = reached)) ∧
    (trParent w = some l → ∃ u, exec (.fenceRelease l g k) s = .next u ∧ (u.group g.toNat).step = reached)

/-- The PCIe function, DEV, MSI-X, queue registers and doorbells. Configuration requests get retry status until the
controller is ready; D3hot and a function-level reset stop the queues; the BAR2 size changes only while memory
decoding is off; BAR2 reads and writes act on the device address, and errors read all ones and raise HOST_ACCESS.
While the BARs decode, DEV_CTL.GO and SQ_CFG.GO are refused with their reasons in the order of the rules, and an
accepted SQ_CFG.GO starts the queue afresh. A message goes out, or waits in the PBA until it is unmasked. A doorbell
out of range stops its running queue, and a head doorbell in range is taken by a stopped queue too (assumption 120);
the queue whose turn it is fetches the entry at HEAD. -/
def Obligations.HostInterface : Prop :=
  (∀ (off : Nat) (s : State), off % 4 = 0 → off < 4096 →
    (s.pcie.ready = false → ∀ wr, exec (.configurationRequest off wr) s =
      .next { s with pcie := { s.pcie with cfgRetry := true } }) ∧
    (s.pcie.ready = true → ∃ u, exec (.configurationRequest off none) s = .next u ∧ u.pcie.cfgRetry = false ∧
      (off = 0 → u.pcie.cfgData = 0x00481F3A) ∧ u.pcie.command = s.pcie.command ∧ u.mem = s.mem) ∧
    (s.pcie.ready = true → ∀ w, ∃ u, exec (.configurationRequest off (some w)) s = .next u ∧ u.pcie.cfgRetry = false ∧
      (off = 4 → u.pcie.command = w.extractLsb' 0 16 &&& 0x0546) ∧ u.mem = s.mem)) ∧
  (∀ s : State, s.pcie.ready = true →
    (∃ u, exec .d3hotEntry s = .next u ∧ u.decodes = false ∧ u.dev.go = false ∧
      ((∀ r ∈ s.pumps, r.host = true → r.op = none) → u.threads = s.threads) ∧
      ∀ q, (u.queue q).go = false ∧ (u.queue q).fetched = []) ∧
    (∃ u, exec .functionLevelReset s = .next u ∧ u.pcie.queues = [] ∧ u.pcie.command = 0 ∧ u.dev.go = false ∧
      u.err.perturbGo = false ∧ u.pwr.hostCap = 0 ∧ u.dev.ready = s.dev.ready ∧ u.pcie.ready = true) ∧
    ∀ sz ≤ 6, exec (.bar2SizeWrite sz) s = .next (if s.pcie.command.getLsbD 1 then s else { s with pcie := { s.pcie with
      bar2Size := sz, bar2 := BitVec.ofNat 64 (s.pcie.bar2.toNat / 2 ^ (30 + sz) * 2 ^ (30 + sz)) } })) ∧
  (∀ (off : Nat) (d : Bytes) (s : State), s.decodes = true → off + d.length ≤ 2 ^ (30 + s.pcie.bar2Size) → d ≠ [] →
    let ones := List.replicate d.length (0xFF : Byte)
    let a := s.bar2At off
    (s.dev.everReady = false → exec (.bar2Access off d.length (some d)) s = .next (s.hostErr 4 off false) ∧
      exec (.bar2Access off d.length none) s = .next ((s.hostErr 4 off false).readBack ones)) ∧
    (s.dev.everReady = true →
      (∀ e, s.placeOf a d.length = .error e → ∃ u, exec (.bar2Access off d.length none) s = .next u ∧
        u.pcie.readData = ones ∧ u.err.pend.getLsbD 11 = true ∧ u.mem = s.mem) ∧
      ∀ pl, s.placeOf a d.length = .ok pl →
        (∀ x v, s.readPlace pl d.length 2 = (.ok x, v) →
          exec (.bar2Access off d.length none) s = .next (v.readBack x)) ∧
        (∀ e v, s.readPlace pl d.length 2 = (.error e, v) → ∃ u, exec (.bar2Access off d.length none) s = .next u ∧
          u.pcie.readData = ones ∧ u.err.pend.getLsbD 11 = true) ∧
        (∀ v, s.writePlace pl d 2 = (.ok (), v) → exec (.bar2Access off d.length (some d)) s = .next v))) ∧
  (∀ (w : BitVec 32) (s : State), s.decodes = true → w.getLsbD 0 = true → s.dev.go = false →
    let d := { s.dev with qpumps := w.extractLsb' 8 4 }
    let refused := fun r => exec (.devCtlGoSet w) s = .next { s with dev := { d with reason := r } }
    if s.dev.ready = false then refused 0x70
    else if s.pcie.command.getLsbD 2 = false then refused 0x71
    else if d.qpumps = 0 then refused 0x72
    else exec (.devCtlGoSet w) s = .next (State.serveHostPumps { s with dev := { d with go := true } })) ∧
  (∀ (v : BitVec 10) (s : State), s.pcie.command.getLsbD 2 = true → s.pcie.d3 = false →
    let e := Tab.get msixInit s.pcie.msix v.toNat
    (exec (.devIrqsetWrite v) s = .next (if e.getLsbD 96
      then { s with pcie := { s.pcie with pba := s.pcie.pba ||| (1#1024 <<< v.toNat) } }
      else { s with out := s.out ++ [.msix (e.extractLsb' 0 64) (e.extractLsb' 64 32)] })) ∧
    (s.decodes = true → ∃ u, exec (.msixUnmask v) s = .next u ∧
      (Tab.get msixInit u.pcie.msix v.toNat).getLsbD 96 = false ∧
      u.pcie.pba.getLsbD v.toNat = false ∧ (s.pcie.pba.getLsbD v.toNat = true →
        .msix (e.extractLsb' 0 64) (e.extractLsb' 64 32) ∈ u.out))) ∧
  ∀ (q : Nat) (s : State), q < 64 →
    let x := s.queue q
    (s.decodes = true → ∀ w : BitVec 64, w.getLsbD 0 = true → x.go = false →
      let y := { x with
        sqLog2 := w.extractLsb' 8 4, cqLog2 := w.extractLsb' 12 4, vector := w.extractLsb' 16 10, ien := w.getLsbD 26,
        coalCount := w.extractLsb' 32 8, coalTime := w.extractLsb' 40 16 }
      let refused := fun r => exec (.sqCfgGoSet q w) s = .next (s.setQueue q { y with reason := r })
      if s.dev.go = false then refused 0x73
      else if y.sqLog2.toNat < 4 ∨ y.cqLog2.toNat < 4 then refused 0x74
      else if y.sqBase.toNat % 64 ≠ 0 ∨ y.cqBase.toNat % 64 ≠ 0 then refused 0x75
      else exec (.sqCfgGoSet q w) s = .next (s.setQueue q { y with
        go := true, head := 0, cqTail := 0, tail := 0, cqHead := 0, phase := true, error := false, unacked := 0,
        fetched := [] })) ∧
    (s.decodes = true → ∀ w : BitVec 64, w.getLsbD 0 = false → x.go = true → exec (.sqCfgGoClear q w) s =
      .next (s.setQueue q { x with go := false, fetched := [] })) ∧
    (s.decodes = true → ∀ i : BitVec 16, x.go = true → x.error = false →
      (exec (.sqTailDoorbell q i) s = .next (s.setQueue q (if 2 ^ x.sqLog2.toNat ≤ i.toNat
        then { x with error := true, reason := 0x76 } else { x with tail := i }))) ∧
      ∃ u, exec (.cqHeadDoorbell q i) s = .next u ∧
        if 2 ^ x.cqLog2.toNat ≤ i.toNat then (u.queue q).error = true ∧ (u.queue q).reason = 0x76
        else (u.queue q).cqHead = i ∧ (u.queue q).error = false) ∧
    (s.decodes = true → ∀ i : BitVec 16, i.toNat < 2 ^ x.cqLog2.toNat → ∃ u, exec (.cqHeadDoorbell q i) s = .next u ∧
      (u.queue q).cqHead = i ∧ (u.queue q).go = x.go) ∧
    (s.turn = some q → ∃ u c, exec (.sqEntryFetch q) s = .next u ∧ (u.queue q).fetched = x.fetched ++ [c] ∧
      c.data = s.hostBytes (x.sqBase.toNat + 64 * x.head.toNat) 64 ∧
      (u.queue q).head = (if x.head.toNat + 1 = 2 ^ x.sqLog2.toNat then 0 else x.head + 1) ∧ u.mem = s.mem) ∧
    (x.ien = true → x.coalTime ≠ 0 → 0 < x.unacked → exec (.cqCoalesceTimeout q) s =
      .next ((s.setQueue q { x with unacked := 0 }).msixSend x.vector.toNat))

/-- Queue commands. The oldest fetched command of a running queue starts, in order and under CHAIN. NOP ends with OK
and a reserved opcode with its status; SIGNAL adds to the semaphore; FENCE waits to be the oldest; LAUNCH starts
every context it names, or none with CTX_BUSY; LOAD with a bad header, or of a PL1 image that the loader cannot
translate, and COPY with a bad range end at once, and otherwise their transfers wait for a host pump or run. A
command that is ready completes and, with room, its CQ entry is written; a host abort ends the transfer with
CMD_ERROR. -/
def Obligations.HostCommands : Prop :=
  (∀ (q : Nat) (c : Cmd) (rest : List Cmd) (s : State), q < 64 →
    let x := s.queue q
    x.fetched = c :: rest → x.go = true → x.error = false → (c.chain = true → x.started = []) →
      (∀ y ∈ x.started, y.n ≠ c.n) →
    let ended := fun (i : Instr) (st : BitVec 8) => ∃ u c', exec i s = .next u ∧ (u.queue q).fetched = rest ∧
      (u.queue q).started = x.started ++ [c'] ∧ c'.n = c.n ∧ c'.status = st ∧ c'.ready = true ∧ c'.data = c.data ∧
      u.threads = s.threads ∧ u.mem = s.mem
    let moves := fun (i : Instr) => ∃ u, exec i s = .next u ∧ (u.queue q).fetched = rest ∧
      ((q, c.n) ∈ u.pcie.pumpWait ∨ ∃ r ∈ u.pumps, r.cmd = some (q, c.n)) ∧ u.mem.cells = s.mem.cells
    (c.opc = 0 → ended (.commandNop q) (if c.reserved then 0x78 else 0)) ∧
    (6 < c.opc → ended (.commandNop q) 0x77) ∧
    (c.opc = 6 → c.reserved = true → ended (.commandFence q) 0x78) ∧
    (c.opc = 6 → c.reserved = false → exec (.commandFence q) s = .next (s.setQueue q { x with
      fetched := rest, started := x.started ++ [c] })) ∧
    (c.opc = 5 → c.reserved = false → c.fld 8 2 < s.lcores → c.fld 10 1 < 64 → c.fld 11 1 ≠ 0 →
      (s.core (c.fld 8 2)).diked = false → (∀ y ∈ (s.core (c.fld 8 2)).waiters, y.1 ≠ c.fld 10 1) →
      ∃ u, exec (.signal q) s = .next u ∧ (u.queue q).fetched = rest ∧ u.mem = s.mem ∧
        Tab.get 0 (u.core (c.fld 8 2)).sems (c.fld 10 1) =
          BitVec.ofNat 16 (min ((Tab.get 0 (s.core (c.fld 8 2)).sems (c.fld 10 1)).toNat + c.fld 11 1) 0xFFFF)) ∧
    (c.opc = 1 → c.reserved = false → c.fld 16 4 % 8 = 0 → c.fld 16 4 < spadSize →
      s.coreRange (c.fld 8 2) (c.fld 10 2) = none → (∀ y ∈ c.targets, (s.core y.1).retest = false) →
      ((∃ y ∈ c.targets, s.ctxTaken y.1 y.2 = true) → ended (.launch q) 0x01) ∧
      ((∀ y ∈ c.targets, s.ctxTaken y.1 y.2 = false ∧ s.awake y.1 = true) → ∃ u, exec (.launch q) s = .next u ∧
        u.mem = s.mem ∧ (u.queue q).fetched = rest ∧ ∀ y ∈ c.targets, (u.thread y.1 y.2).state = .ready ∧
          (u.thread y.1 y.2).pc = BitVec.ofNat 64 (c.fld 16 4) ∧
          (u.thread y.1 y.2).regs.getS 1 = BitVec.ofNat 64 (c.fld 24 8))) ∧
    (c.opc = 2 → c.reserved = false → c.fld 24 4 + c.fld 28 4 ≤ spadSize →
      s.coreRange (c.fld 20 2) (c.fld 22 2) = none →
      let h := s.hostBytes (c.fld 8 8) 0x40
      let l := imageSegs (leField h 6 2) (s.hostBytes (c.fld 8 8 + 0x40) (16 * leField h 6 2))
      (imageOk h (c.fld 16 4) = false → ended (.load q) 0x7B) ∧
      (imageOk h (c.fld 16 4) = true → segsOk l (c.fld 16 4) (c.fld 28 4) = false → ended (.load q) 0x7C) ∧
      (imageOk h (c.fld 16 4) = true → segsOk l (c.fld 16 4) (c.fld 28 4) = true → leField h 4 1 = 2 →
        if ∃ i < c.fld 22 2, s.coreBusy (c.fld 20 2 + i) = true then ended (.load q) 0x01 else moves (.load q)) ∧
      (imageOk h (c.fld 16 4) = true → segsOk l (c.fld 16 4) (c.fld 28 4) = true → leField h 4 1 = 1 →
        match (Config.pl1Translate (s.hostBytes (c.fld 8 8) (c.fld 16 4))).bind fun b => segsOf b (c.fld 28 4) with
        | none => ended (.load q) 0x05
        | some _ =>
          if ∃ i < c.fld 22 2, s.coreBusy (c.fld 20 2 + i) = true then ended (.load q) 0x01 else moves (.load q))) ∧
    ∀ i, (c.opc = 3 ∧ i = Instr.copyIn q) ∨ (c.opc = 4 ∧ i = .copyOut q) → c.reserved = false → 0 < c.fld 24 8 →
      c.fld 24 8 < 2 ^ 40 →
      (∀ r, s.copyRange (c.fld 16 8) (c.fld 24 8) = some r → ended i r) ∧
      (s.copyRange (c.fld 16 8) (c.fld 24 8) = none → moves i)) ∧
  (∀ (q : Nat) (c : Cmd) (s : State), q < 64 →
    let x := s.queue q
    (x.started.find? fun y => y.n == c.n) = some c → c.ready = true → ∃ u, exec (.commandComplete q c.n) s = .next u ∧
      (∀ y ∈ (u.queue q).started, y.n ≠ c.n) ∧ u.mem.cells = s.mem.cells ∧
      (c.data.length = 64 → x.finished = [] → x.unread < x.cqSize - 1 →
        ∃ e, u.hostBytes (x.cqBase.toNat + 16 * x.cqTail.toNat) 16 = e ∧
        slice e 0 2 = slice c.data 2 2 ∧ slice e 4 2 = [c.status, c.cause] ∧ slice e 7 1 = [if x.phase then 1 else 0] ∧
        (u.queue q).finished = [])) ∧
  ∀ (p q n : Nat) (r : PumpRun) (s : State), p < 16 → s.pcie.pumpWait = [] →
    (s.pumps.find? fun r => r.host && r.pump == p && r.hostWrites.isEmpty) = some r → r.cmd = some (q, n) →
      r.op = none →
    ∃ u, exec (.hostAbort p) s = .next u ∧ (∀ y ∈ u.pumps, y ≠ r) ∧
      ∀ y ∈ (u.queue q).started, y.n = n → y.status = 0x7A ∧ y.ready = true

/-- The start-up steps. Each step acts when the steps before it are complete. Standby power starts the MMC with flash
kept; the MMC image is verified in the selected slot, then the other, else recovery; main power comes up or its
timeout stops with the rail reason; the hub image loads with the straps sampled, or stops with BOOT_IMAGE_INVALID;
bundles train; the feature level is written or the steppings are unknown; dies are released; LPDDR trains; sites are
tested and arrays get GO; PCIe and lasers start; READY is set; a step that exceeds its maximum takes its action. -/
def Obligations.StartUp : Prop :=
  ∀ s : State,
    let ran := fun (c : Instr) (n : Nat) (p : State → Prop) => ∃ u, exec c s = .next u ∧ u.boot.has n = true ∧ p u
    let stopped := fun (c : Instr) (r : BitVec 8) => ∃ u, exec c s = .next u ∧ u.dev.stopped = true ∧
      u.dev.stopReason = r ∧
      u.dev.ready = false ∧ u.dev.go = false
    let slot := s.mmc.cur.slotB
    (s.boot.has 1 = false → ran .standbyPowerOn 1 fun u => u.mmc.flash = s.mmc.flash ∧ u.boot.main = false ∧
      u.mem.cells = [] ∧ u.fuses = s.fuses ∧ u.boot.has 2 = false) ∧
    (s.stepDue 2 = true → s.mmc.cur.valid = true →
      (s.imageStatus slot 1 = 0 → ran .mmcFirmwareVerify 2 fun u => u.boot.slotB = slot ∧
        u.boot.recovery = s.boot.recovery) ∧
      (s.imageStatus slot 1 ≠ 0 → s.imageStatus (!slot) 1 = 0 →
        ran .mmcFirmwareVerify 2 fun u => u.boot.slotB = !slot) ∧
      (s.imageStatus slot 1 ≠ 0 → s.imageStatus (!slot) 1 ≠ 0 → exec .mmcFirmwareVerify s =
        .next { s with boot := { s.boot with recovery := true } })) ∧
    (s.stepDue 3 = true → (ran .mainPowerSequencing 3 fun u => u.boot.main = true ∧ u.mem = s.mem) ∧
      ∃ u, exec .powerSequenceTimeout s = .next u ∧ u.boot.stop = 0x81 ∧ u.boot.main = false ∧ u.dev.stopped = true) ∧
    (s.stepDue 4 = true → if s.imageStatus s.boot.slotB 2 = 0 then
        ran .hubFirmwareLoad 4 fun u => u.compat = s.boot.pinCompat ∧ u.nidp = s.boot.pinNidp ∧ u.boot.pll = true ∧
          u.fab.nodeId = (if s.boot.pinNidp = 15 then 0xFFFF else s.boot.pinNidp.setWidth 16)
      else stopped .hubFirmwareLoad 0x80) ∧
    (s.stepDue 5 = true →
      ((s.dlu.failed0 && s.dlu.failed1) = false → (∀ d < 4, (s.bundle d).replayLimit ≠ 0) →
        ran (.bundleTraining [] true) 5 fun u =>
        u.dlu.active = s.dlu.failed0 ∧ ∀ d < 4, (u.bundle d).trained = true ∧ (u.bundle d).go = true) ∧
      stopped (.bundleTraining [] false) 0x21) ∧
    (s.stepDue 6 = true → if s.steppingsKnown then ran .featureLevelWrite 6 fun u => u.feature = some s.level
      else stopped .featureLevelWrite 0x22) ∧
    (s.stepDue 7 = true → ran .dieRelease 7 fun u => ∀ d < 4, (u.die d).inReset = false) ∧
    (s.stepDue 8 = true → ∀ out : List TrainOutcome, out.length = 4 → s.remapJournal = [] →
      (∀ d r, out[d]? = some (some r) → r.toNat ≤ (s.die d).lpd.rate.toNat) →
      if none ∈ out then stopped (.lpddrTraining out [] []) 0x10
      else ran (.lpddrTraining out [] []) 8 fun u => ∀ d < 4, (u.die d).lpd.trained = true ∧
        some (some (u.die d).lpd.rateNow) = out[d]?) ∧
    (s.stepDue 9 = true → s.siteJournal = [] → (∀ c < s.lcores, (s.core c).diked = false) →
      ran (.scratchpadSelfTest []) 9 fun u => ∀ c < s.lcores, ∀ a < 4, (u.arr c a).go = true) ∧
    (s.boot.main = true → s.boot.pll = true → s.pcie.ready = false → ran .pcieControllerReady 10 fun u =>
      u.pcie.ready = true ∧ u.dev.speed ≠ 0 ∧ u.dev.width ∈ [1, 4, 8, 16] ∧ u.mem = s.mem) ∧
    (s.stepDue 11 = true → s.nidp = 15 → ran (.portLaserStart []) 11 fun u => ∀ n < 8, (u.port n).lit = true) ∧
    (s.stepDue 13 = true → s.tb.locked = false →
      exec .timebaseLockTimeout s = .next (s.stepDone 13) ∧ (s.stepDone 13).boot.has 13 = true) ∧
    (s.readyDue = true → ran .readySet 14 fun u => u.dev.ready = true ∧ u.dev.everReady = true ∧ u.mem = s.mem) ∧
    (s.stepDue 4 = true → stopped (.startUpStepTimeout 4) 0x80) ∧
    (s.stepDue 8 = true → stopped (.startUpStepTimeout 8) 0x10) ∧
    (s.stepDue 9 = true → stopped (.startUpStepTimeout 9) 0x84) ∧
    (s.stepDue 12 = true → ran (.startUpStepTimeout 12) 12 fun u => u.mem = s.mem) ∧
    (s.stepDue 2 = true → exec (.startUpStepTimeout 2) s = .next { s with boot := { s.boot with recovery := true } })

/-- Module, die and core resets, and the loss of power or of REFCLK. A module reset resumes after step 3 with hub, dies,
links, host interface and device memory at their reset values, and keeps flash, fuses, host memory and the journals (the
remap journal, unless it interrupts a row repair); loss of the auxiliary feed also resets the MMC. REFCLK failure takes the PCIe link down and nothing else. HUB_CORERST frees
the contexts and clears the semaphores of the core and keeps memory, and does nothing to a diked core. A die reset
holds the die, keeps its LPDDR contents, and ends with the bundle trained. -/
def Obligations.Resets : Prop :=
  (∀ (pin : ResetPin) (s : State), s.boot.main = true → ∃ u, exec (.moduleReset pin) s = .next u ∧
    (∀ n, 3 < n → u.boot.has n = false) ∧ (∀ n ≤ 3, u.boot.has n = s.boot.has n) ∧ u.boot.rstClass = ResetPin.cls pin ∧
    u.mem = { Mem.init with host := s.mem.host } ∧ u.threads = State.reset.threads ∧ u.cores = State.reset.cores ∧
    u.links = State.reset.links ∧ u.pcie = State.reset.pcie ∧ u.dev = State.reset.dev ∧ u.fab = State.reset.fab ∧
    u.col = State.reset.col ∧ u.mmc.flash = s.mmc.flash ∧ u.fuses = s.fuses ∧ u.siteJournal = s.siteJournal ∧
    u.laserJournal = s.laserJournal ∧ (s.repairing = false → u.remapJournal = s.remapJournal)) ∧
  (∀ s : State, (∃ u, exec .auxiliaryFeedLoss s = .next u ∧ u.boot.done = 0 ∧ u.boot.main = false ∧ u.mem.cells = [] ∧
      u.mmc.flash = s.mmc.flash ∧ u.mmc.ownerKey = s.mmc.ownerKey ∧ u.fuses = s.fuses ∧ u.mmc.events = []) ∧
    (s.pcie.ready = true → ∃ u, exec .refclkFailure s = .next u ∧ u.pcie = { s.pcie with ready := false } ∧
      u.mem = s.mem ∧
      u.threads = s.threads ∧ u.links = s.links)) ∧
  (∀ (w : BitVec 32) (s : State),
    let c := (w.extractLsb' 0 8).toNat
    (s.lcores ≤ c ∨ (s.core c).diked = true → exec (.hubCorerstWrite w) s = .next s) ∧
    (c < s.lcores → (s.core c).diked = false → s.awake c = true → s.col.buckets = [] →
      (∀ a < 4, (s.arr c a).suspect = false ∧ (s.arr c a).stestBusy = false ∧ (s.arr c a).stestWait = false) →
      ∃ u, exec (.hubCorerstWrite w) s = .next u ∧ u.mem = s.mem ∧ (∀ t < 32, (u.thread c t).state = .free) ∧
        (u.core c).sems = [] ∧ (u.core c).waiters = [] ∧ (∀ a < 4, (u.arr c a).go = true ∧ (u.arr c a).queue = []))) ∧
  ∀ (d : Nat) (s : State), d < 4 →
    ((s.die d).inReset = false → s.dev.stopped = false → s.col.buckets = [] → s.pumps = [] →
      ∃ u, exec (.hubDiectlDieReset d) s = .next u ∧ (u.die d).inReset = true ∧ (u.bundle d).trained = false ∧
        (∀ a < s.lpdTop, u.bytes a 1 = s.bytes a 1) ∧
        ∀ i < s.perDie, ∀ t < 32, (u.thread (d * s.perDie + i) t).state =
          if (s.core (d * s.perDie + i)).diked then .fenced else .free) ∧
    ((s.die d).led = true → s.dev.stopped = false → ∀ rate : TrainOutcome,
      (∀ r, rate = some r → r.toNat ≤ (s.die d).lpd.rate.toNat) → ∃ u,
      exec (.hubLedDieResetEnd d [] rate []) s = .next u ∧ (u.die d).inReset = false ∧ (u.die d).led = false ∧
      (u.bundle d).trained = true ∧ (u.die d).lpd.trained = rate.isSome ∧ (∀ r, rate = some r →
        (u.die d).lpd.rateNow = r))

/-- EXPERT and other registers, the debug path, PERTURB, the mailbox and PWR_CAP. While the function decodes its BARs, a
host write of 0x5EA0 to KEY unlocks the block, and of any other value locks it: DEV, TB, COL, FAB and a core block out
of reset that is not diked; no other block and no byte of memory changes. A 4- or 8-byte aligned register write has
the effect of its register (STEPVAL, the window base, WIN_BASE, shown here); a host access of another size or
alignment is discarded and recorded as kind 1. ERR_DBGDATA reads the selected word of a thread that is DONE, STOPPED
or FAULTED, and otherwise reads 0 and sets DENIED. PERTURB is written only while DEV is unlocked, an entry is enabled
only with a listed pair, and its counts start at enabling. SUBMIT hands the mailbox request to the MMC unless one is
not answered yet; ACK takes the response; PWR_CAP takes its fields; without decoded BARs none of these accesses exists. -/
def Obligations.RegistersAndDebug : Prop :=
  (∀ (s : State) (key : BitVec 16), s.decodes = true →
    let on := key == 0x5EA0
    (∃ u, exec (.expertKeyWrite 0xFF8 key) s = .next u ∧ u = { s with dev := { s.dev with unlocked := on } }) ∧
    (∃ u, exec (.expertKeyWrite 0x180FF8 key) s = .next u ∧ u = { s with tb := { s.tb with unlocked := on } }) ∧
    (∃ u, exec (.expertKeyWrite 0x200FF8 key) s = .next u ∧ u = { s with col := { s.col with unlocked := on } }) ∧
    (∃ u, exec (.expertKeyWrite 0x1000FF8 key) s = .next u ∧ u = { s with fab := { s.fab with unlocked := on } }) ∧
    (∀ d < 4, exec (.expertKeyWrite (0x120FF8 + d * 0x1000) key) s =
      .next (s.setBundle d { s.bundle d with unlocked := on })) ∧
    (∀ n < 8, exec (.expertKeyWrite (0x140FF8 + n * 0x1000) key) s = .next (s.modPort n fun p => { p with unlocked := on })) ∧
    (∀ v : BitVec 64, exec (.bar0Write 0x180018 (toLE 8 v.toNat)) s = .next { s with tb := { s.tb with stepval := v } }) ∧
    (∀ v : BitVec 64, exec (.registerWrite 0x180018 8 v) s = .next { s with tb := { s.tb with stepval := v } }) ∧
    (∀ v : BitVec 64, exec (.registerWrite 0x10 8 v) s =
      .next { s with dev := { s.dev with winBase := v.extractLsb' 30 18 } }) ∧
    ∀ (off : Nat) (d : Bytes), 0 < d.length → off + d.length ≤ regSize →
      ¬ ((d.length = 4 ∨ d.length = 8) ∧ off % d.length = 0) →
      exec (.bar0Write off d) s = .next (s.hostErr 1 off false)) ∧
  ((∀ s : State,
    let e := s.err
    let th := s.thread e.dbgCore.toNat e.dbgThread.toNat
    let may := e.dbgCore.toNat < s.lcores ∧ th.state ∈ [.done, .stopped, .faulted]
    (s.decodes = true → may → exec .errDbgdataRead s = .next { s with pcie := { s.pcie with
      readData := toLE 8 (th.regs.word e.dbgFile.toNat e.dbgIndex.toNat).toNat } }) ∧
    (s.decodes = true → ¬ may → exec .errDbgdataRead s = .next { s with
      err := { e with dbgDenied := true }, pcie := { s.pcie with readData := List.replicate 8 0 } }) ∧
    (s.dev.unlocked = true → exec .perturbCtlGoSet s = .next { s with err := { e with perturbGo := true } } ∧
      ∃ u, exec .perturbCtlGoClear s = .next u ∧ u.err.perturbGo = false ∧ u.mem = s.mem) ∧
    (s.dev.unlocked = false → exec .perturbCtlGoSet s = .next s ∧ exec .perturbCtlGoClear s = .next s) ∧
    (s.decodes = true →
      exec .mmcMbxAck s = .next { s with mmc := { s.mmc with mbx := { s.mmc.mbx with resp := false } } }) ∧
    (s.decodes = true → ∀ w : BitVec 32, (exec (.pwrCapWrite w) s = .next { s with pwr := { s.pwr with
        hostCap := w.extractLsb' 0 12, fmin := w.extractLsb' 16 5, dutymin := w.extractLsb' 24 4 } }) ∧
      (w.getLsbD 0 = true → ∃ u, exec (.mmcMbxSubmit w) s = .next u ∧ u = { s with mmc := u.mmc } ∧
        u.mmc.mbx.ien = w.getLsbD 2 ∧ u.mmc.mbx.vector = w.extractLsb' 3 10 ∧ u.mmc.flash = s.mmc.flash ∧
        let n := (w.extractLsb' 16 14).toNat
        if s.mmc.mbx.busy = true ∨ s.mmc.mbx.resp = true ∨ n < 32 ∨ 8192 < n then
          u.mmc.mbx.refused = true ∧ u.mmc.held = s.mmc.held
        else u.mmc.mbx.busy = true ∧ u.mmc.held = s.mmc.held ++ [(.mailbox, Tab.range 0 s.mmc.mbx.req 0 n)])) ∧
    (s.decodes = false → ∀ w : BitVec 32, exec .errDbgdataRead s = .next s ∧ exec .mmcMbxAck s = .next s ∧
      exec (.pwrCapWrite w) s = .next s)) ∧
  ∀ (i : Nat) (w : BitVec 128) (s : State), i < 64 →
    let x := Tab.get PerturbEnt.init s.err.ents i
    let ok := w.getLsbD 0 && perturbPair (w.extractLsb' 4 4).toNat (w.extractLsb' 8 4).toNat
    (s.dev.unlocked = true → ∃ u, exec (.perturbEntWrite i w) s = .next u ∧
      (s.err.perturbGo = false →
        let y := Tab.get PerturbEnt.init u.err.ents i
        y.en = ok ∧ y.tgt = w.extractLsb' 4 4 ∧ y.action = w.extractLsb' 8 4 ∧ y.place = w.extractLsb' 16 16 ∧
        y.hits = if ok = true ∧ x.en = false then 0 else x.hits) ∧ u.mem = s.mem) ∧
    (s.dev.unlocked = false → exec (.perturbEntWrite i w) s = .next s))

/-- Management requests and their answers. A request is executed on arrival where a network port brings it and nothing is
held, and when it is the oldest held one where it came over the SMBus or the mailbox; its answer leaves on the same
transport. A malformed or unlisted frame answers its status; a signed request that does not verify, or an unsigned one
to a Signed command, AUTH_FAIL with no effect, but for OWNER_SET over the SMBus while no owner key is set; one with an
old SEQ STALE_SEQ; a repeated one the stored response. An accepted request is answered with what its command gives:
INFO, TELEMETRY, LOGREAD, REGREAD, IDENTITY and ATTEST what they read; POWERCAP, NETCFG, the owner key and update
sessions change the state as listed, and RESET and POWER act once the response has gone. The SMBus buffers fragments,
holds a submitted request and returns the response; relayed events go to the collectors. -/
def Obligations.ManagementRequests : Prop :=
  (∀ (tr : Transport) (f : Bytes) (s t : State), s.boot.has 2 = true →
    (tr ∈ [.mga, .mgb] ∧ s.mmc.held = [] ∧ t = s) ∨ (tr ∈ [.smbus, .mailbox] ∧ ∃ rest, s.mmc.held = (tr, f) :: rest ∧
      t = { s with mmc := { s.mmc with held := rest } }) →
    let cmd := frCmd f
    let p := frPayload f
    let row := fun (i : Instr) => (frameOk 0 f = true ∧ (cmd, i) ∈ [(0x01, Instr.info tr f), (0x02, .telemetry tr f),
      (0x03, .logread tr f), (0x04, .regread tr f), (0x05, .identity tr f), (0x06, .attest tr f),
      (0x10, .reset tr f), (0x11, .power tr f), (0x12, .powercap tr f), (0x20, .updateBegin tr f),
      (0x21, .updateData tr f), (0x22, .updateVerify tr f), (0x23, .updateCommit tr f), (0x24, .updateAbort tr f),
      (0x30, .ownerSet tr f), (0x31, .ownerClear tr f), (0x32, .netcfg tr f)])
    let answered := fun (i : Instr) (a : Ans) => exec i s =
      .next ((a.s.takeFree.2.deliver tr (respFrame a.s.takeFree.1 f a.status a.payload)).doAfter a.after)
    let open' := mgmtSigned cmd = false ∨ (cmd = 0x30 ∧ tr = .smbus ∧ t.mmc.ownerKey = none)
    (frameOk 0 f = false → answered (.badFrame tr f) (.fail t 1)) ∧
    (frameOk 0 f = true → mgmtListed cmd = false →
      answered (.badFrame tr f) (.fail t (if frAuth f = 1 ∧ t.mmc.verifies f = false then 3 else 2))) ∧
    ∀ i, row i →
      (frAuth f = 1 → t.mmc.verifies f = false → answered i (.fail t 3)) ∧
      (frAuth f = 0 → ¬ open' → answered i (.fail t 3)) ∧
      (frAuth f = 1 → t.mmc.verifies f = true → frSeq f < t.mmc.ownerSeq → answered i (.fail t 4)) ∧
      (∀ r, frAuth f = 1 → t.mmc.verifies f = true → frSeq f = t.mmc.ownerSeq → t.mmc.signed = some (f, r) →
        exec i s = .next (t.deliver tr r)) ∧
      (frAuth f = 0 → open' → answered i (t.mgmtDo tr cmd p)) ∧
      (frAuth f = 1 → t.mmc.verifies f = true → t.mmc.ownerSeq < frSeq f →
        let a := State.mgmtDo { t with mmc := { t.mmc with ownerSeq := frSeq f } } tr cmd p
        let r := respFrame a.s.takeFree.1 f a.status a.payload
        exec i s = .next (((a.s.takeFree.2.modMmc fun m => { m with signed := some (f, r) }).deliver tr r).doAfter
          a.after))) ∧
  (∀ (tr : Transport) (p : Bytes) (s : State),
    let m := s.mmc
    let done := { s with mmc := { m with session := none } }
    (let reads := fun cmd d u => s.mgmtDo tr cmd p = ⟨0, d, u, .none⟩
     (p = [] → reads 0x01 (Config.mgmtBody 1 [s.fuses.ident, s.fuses.serial, s.fuses.code, toLE 1 (b2n s.boot.slotB),
        [BitVec.ofNat 8 (b2n m.cur.confirmed), m.cur.fails],
        m.version false 1, m.version false 2, m.version true 1, m.version true 2,
        toLE 4 s.dev.statusWord, toLE 4 s.boot.causeWord, toLE 4 s.fuseWord, [s.boot.stop], toLE 2 s.boot.stopCh]) s) ∧
     (p.length = 8 → (fromLE p).testBit 1 = false → (fromLE p).testBit 2 = false → reads 0x02
        ((if (fromLE p).testBit 0 then ((List.range 0x38).filter isChan).flatMap s.tempRecord else []) ++
         if (fromLE p).testBit 3 then ((List.range 4).flatMap fun d => teleRecord (0x60 + d) 5 0 ((s.die d).freq * 50 : Nat))
           ++ teleRecord 0x64 6 0 (s.pwr.duty : Nat) else []) s) ∧
     (p.length = 8 → ∃ u d, reads 0x02 d u ∧ u = { s with freeCtr := u.freeCtr }) ∧
     (∀ a n, Config.mgmtArgs 3 p = some [a, n] → n ≤ 64 → tr ≠ .smbus →
        reads 0x03 (((m.events.filter fun e => decide (a ≤ e.1)).take n).flatMap Prod.snd) s) ∧
     (∀ a n, s.hubUp = true → Config.mgmtArgs 4 p = some [a, n] → n ≤ 128 → a % 8 = 0 → a + 8 * n ≤ regSize →
        reads 0x04 (s.readReg a (8 * n)).1 (s.readReg a (8 * n)).2) ∧
     (p = [] → reads 0x05 Config.certificates s) ∧
     (∀ fl, Config.mgmtArgs 6 p = some [fl] → (fl.testBit 0 = true → s.hubUp = true) → 32 ≤ p.length → m.attests < 10 →
        ∃ d u, reads 0x06 (d ++ Config.falconSign d) u ∧ d.take 4 = toLE 4 0x41545354 ∧ slice d 8 32 = p.take 32 ∧
          u = { s with mmc := { m with attests := m.attests + 1 }, freeCtr := u.freeCtr })) ∧
    (p.length = 8 → leField p 4 4 = 0 → leField p 0 2 = 0 ∨ 1000 ≤ leField p 0 2 ∧ leField p 0 2 ≤ 3200 →
      12 ≤ leField p 2 1 → leField p 2 1 ≤ 24 → 2 ≤ leField p 3 1 → leField p 3 1 ≤ 8 →
      s.mgmtDo tr 0x12 p = ⟨0, [], { s with pwr := { s.pwr with
        ownerCap := BitVec.ofNat 12 (leField p 0 2), fmin := BitVec.ofNat 5 (leField p 2 1),
        dutymin := BitVec.ofNat 4 (leField p 3 1) } }, .none⟩) ∧
    (p.length ≠ 8 → s.mgmtDo tr 0x12 p = ⟨7, [], s, .none⟩) ∧
    (p.length = 1793 →
      s.mgmtDo tr 0x30 p = ⟨0, shake256 p 32, { s with mmc := { m with ownerKey := some p } }, .none⟩) ∧
    (s.mgmtDo tr 0x31 [] = ⟨0, [], { s with mmc := { m with ownerKey := none } }, .none⟩) ∧
    (∀ l, Config.mgmtArgs 0x32 p = some l → (Config.netCollectors p).length ≤ 4 → s.mgmtDo tr 0x32 p =
      ⟨0, [], { s with mmc := { m with
        collectors := Config.netCollectors p, relay := Config.netRelay p, net := p } }, .none⟩) ∧
    (s.hubUp = false → s.mgmtDo tr 0x04 p = ⟨6, [], s, .none⟩) ∧
    (m.session.isSome = true → s.mgmtDo tr 0x20 p = ⟨5, [], s, .none⟩) ∧
    (∀ k, m.session = none → Config.mgmtArgs 0x20 p = some [k] → 1 ≤ k → k ≤ 3 → ∃ a, s.mgmtDo tr 0x20 p = a ∧
      a.status = 0 ∧ a.after = .none ∧ a.s.mmc.session = some ⟨m.sessions + 1, tr, BitVec.ofNat 2 k, false⟩ ∧
      (∀ i < bodyMax 2, a.s.mmc.bytes (imageBase (!s.boot.slotB) 2 + i) 1 = [0xFF]) ∧
      ∀ i < slotSize, a.s.mmc.bytes (slotBase s.boot.slotB + i) 1 = m.bytes (slotBase s.boot.slotB + i) 1) ∧
    (∀ n kind off x, Config.mgmtArgs 0x21 p = some [n, kind, off] → m.sessionOf n (some tr) = some x →
      (kind = 1 ∧ x.mask.getLsbD 0 = true ∨ kind = 2 ∧ x.mask.getLsbD 1 = true) → (Config.mgmtData p).length ≤ 4096 →
      off + (Config.mgmtData p).length ≤ 0x1000 + bodyMax kind → ∃ u, s.mgmtDo tr 0x21 p = ⟨0, [], u, .none⟩ ∧
        u = { s with mmc := { m with flash := u.mmc.flash, session := some { x with verified := false } } } ∧
        u.mmc.bytes (imageBase (!s.boot.slotB) kind + off) (Config.mgmtData p).length = Config.mgmtData p) ∧
    (∀ n x, Config.mgmtArgs 0x22 p = some [n] → m.sessionOf n (some tr) = some x → ∃ a, s.mgmtDo tr 0x22 p = a ∧
      a.s = { s with mmc := { m with session := some { x with verified := a.status == 0 } } } ∧
      (a.status = 0 ↔ s.imageStatus (!s.boot.slotB) 1 = 0 ∧
        (x.mask.getLsbD 1 = true → s.imageStatus (!s.boot.slotB) 2 = 0))) ∧
    (∀ n, Config.mgmtArgs 0x24 p = some [n] → s.mgmtDo tr 0x24 p =
      if (m.sessionOf n (some tr)).isSome then ⟨0, [], done, .none⟩ else ⟨0xA, [], s, .none⟩) ∧
    (∀ n g x, Config.mgmtArgs 0x23 p = some [n, g] → m.sessionOf n none = some x → m.cur.seq.toNat + 1 < 2 ^ 32 →
      if x.verified then ∃ a, s.mgmtDo tr 0x23 p = a ∧ a.status = 0 ∧ a.s.mmc.session = none ∧
        a.s.mmc.cur.slotB = !s.boot.slotB ∧ a.s.mmc.cur.confirmed = false ∧
          a.after = (if g.testBit 0 then .powerOn else .none)
      else s.mgmtDo tr 0x23 p = ⟨8, [], s, .none⟩) ∧
    (Config.mgmtArgs 0x10 p = some [0] → s.mgmtDo tr 0x10 p = ⟨0, [], done, .powerOn⟩) ∧
    (Config.mgmtArgs 0x10 p = some [1] → s.mgmtDo tr 0x10 p = ⟨0, [], done, .module⟩) ∧
    (Config.mgmtArgs 0x11 p = some [0] → s.mgmtDo tr 0x11 p = ⟨0, [], done, .off⟩) ∧
    (Config.mgmtArgs 0x11 p = some [1] → s.boot.main = true →
      s.mgmtDo tr 0x11 p = ⟨0, [], { s with boot := { s.boot with off := false } }, .none⟩)) ∧
  ∀ s : State, s.boot.has 2 = true →
    let b := s.mmc.smb
    let smb := fun (i : Instr) x => exec i s = .next { s with mmc := { s.mmc with smb := x } }
    (∀ d : Bytes, d ≠ [] → d.length ≤ 32 → smb (.smbusFragmentWrite d true) { b with req := b.req ++ d } ∧
      smb (.smbusFragmentWrite d false) { b with pecErr := true }) ∧
    (b.busy = false → exec .smbusSubmit s = .next { s with mmc := { s.mmc with
      smb := { b with req := [], busy := true, resp := none, read := 0 },
      held := s.mmc.held ++ [(.smbus, b.req)] } }) ∧
    smb .smbusFragmentRead { b with out := slice (b.resp.getD []) b.read 32, read := b.read + 32 } ∧
    smb .smbusStatusRead { b with out := toLE 1 s.mmc.smbStatus } ∧
    (∀ (n : BitVec 16) (f : Bytes), frameOk 2 f = true → frAuth f = 0 → frLen f ≤ 208 →
      exec (.eventRelay n f) s = .next { s with
        out := s.out ++ s.mmc.collectors.map (fun c => Out.frame c.1 c.2 (f.take 0x14 ++ toLE 2 n.toNat ++ f.drop 0x16)) }) ∧
    (∀ f : Bytes, ∃ r, exec (.networkEchoReply .mga f) s = .next { s with out := s.out ++ [.frame 0 [] r] }) ∧
    exec .updateSessionTimeout s = .next { s with mmc := { s.mmc with session := none } }

/-- Power capping, CCLK, feeds, temperatures and flow. The effective cap is the lowest of those set; the capping loop
steps down above it and up after 50 evaluations below 97 %, and its frequency and duty are those of its last evaluation.
The peak limiter acts above 3,800 W and is released when
calm below 3,500 W. CCLK moves one step toward the lowest frequency asked for. An input or rail out of range removes
main power with its reason; PWR_EN low removes it, and PWR_EN high with nothing held starts it again. A sample sets
its channel and its fault; a throttled site steps down and a released one up; ten low flow estimates set LOWFLOW. -/
def Obligations.PowerAndThermal : Prop :=
  (∀ (mean : Nat) (s : State), s.boot.main = true → mean < 4096 →
    let p := s.pwr
    (∃ u, exec (.cappingEvaluation mean) s = .next u ∧ u = { s with pwr := u.pwr } ∧ u.pwr.pin = BitVec.ofNat 12 mean ∧
      u.pwr.capEff = BitVec.ofNat 12 p.cap ∧
      u.pwr.level = (if p.cap < mean then min (min p.level p.levels + 1) p.levels
        else if 100 * mean < 97 * p.cap ∧ p.below + 1 = 50 then min p.level p.levels - 1 else min p.level p.levels) ∧
      u.pwr.loopFreq = u.pwr.capFreq ∧ u.pwr.loopDuty = u.pwr.capDuty) ∧
    (∀ calm, 3800 < mean → exec (.peakLimit mean calm) s = .next { s with pwr := { p with
      peak := true, peakCnt := if p.peak then p.peakCnt else satInc16 p.peakCnt } }) ∧
    (mean < 3500 → exec (.peakLimit mean true) s = .next { s with pwr := { p with peak := false } }) ∧
    (1000 < mean → 0 < (s.chan 0x1B).value - (s.chan 0x1A).value →
      let low := (1600 * mean : Int) < 36 * 697 * ((s.chan 0x1B).value - (s.chan 0x1A).value)
      ∃ u, exec (.flowEstimate mean) s = .next u ∧ u.pwr.low = (if low then p.low + 1 else 0) ∧
        (low → u.pwr.lowflow = (p.lowflow || decide (10 ≤ p.low + 1))) ∧ u.mem = s.mem)) ∧
  (∀ s : State, s.pwr.cap ≤ 3200 ∧ (s.pwr.ownerCap ≠ 0 → s.pwr.cap ≤ s.pwr.ownerCap.toNat) ∧
    s.pwr.duty = (if s.pwr.peak then min s.pwr.loopDuty 4 else s.pwr.loopDuty)) ∧
  (∀ (d : Nat) (s : State), d < 4 →
    let g := min (min s.pwr.loopFreq (s.thermalFreq d)) 24
    let x := s.die d
    exec (.cclkStep d) s = .next (s.setDie d { x with
      freq := if x.freq < g then x.freq + 1 else if g < x.freq then x.freq - 1 else x.freq })) ∧
  (∀ s : State, s.boot.main = true →
    let off := fun (i : Instr) (r : BitVec 8) (ch : Nat) => ∃ u, exec i s = .next u ∧ u.boot.main = false ∧
      u.boot.stop = r ∧
      u.boot.stopCh = ch ∧ u.dev.stopped = true ∧ u.mem.cells = [] ∧ u.mmc.events.length ≤ 256
    off .inputOutOfRange 0x82 0 ∧ (∀ r < 11, off (.railOutOfRange r) 0x81 r) ∧
    ∃ u, exec .pwrEnLow s = .next u ∧ u.boot.main = false ∧ u.boot.pwrEn = false ∧ u.boot.stop = s.boot.stop) ∧
  (∀ s : State, s.boot.pwrEn = false → s.boot.main = false → s.boot.stop ∉ [0x82, 0x83] →
    exec .pwrEnHigh s = .next { s with
    boot := { s.boot with pwrEn := true, stop := 0, stopCh := 0, off := false },
    dev := { s.dev with stopped := false, stopReason := 0 } }) ∧
  ∀ (ch : Nat) (s : State), isChan ch = true →
    let c := s.chan ch
    (∀ t : Int, -32768 ≤ t → t < 32768 → s.boot.has 1 = true → ∃ u, exec (.thermalSample ch (some t)) s = .next u ∧
      (u.chan ch).value = t ∧ (u.chan ch).fault = decide (t < -320 ∨ 2400 < t)) ∧
    (s.boot.has 1 = true → ∃ u, exec (.thermalSample ch none) s = .next u ∧ (u.chan ch).value = c.value ∧
      (u.chan ch).fault = (c.fault || decide (3 ≤ c.miss + 1))) ∧
    ∀ i, siteOfChan ch = some i →
      let x := s.site i
      (∀ t, (limitsOf i).throttle = some t → x.throt = true → t ≤ s.temp i →
        exec (.throttleStepDown ch) s = .next (s.setSite i { x with freq := max 12 (x.freq - 1) })) ∧
      (x.throt = false → exec (.throttleStepUp ch) s = .next (s.setSite i { x with freq := min 24 (x.freq + 1) }))

/-- The state after reset. State.reset is the module before standby power: every memory is in canonical form and lists
nothing, no thread exists but in FREE, no command waits, main power is off, no start-up step is complete, nothing is
outstanding. The reset values that the manual does not give are the model's choices (log entries 3, 4 and 10). -/
def Obligations.ResetState : Prop :=
  let s := State.reset
  Memory.wf s.mem = true ∧ s.mem.cells = [] ∧ s.pending = [] ∧ s.out = [] ∧ s.ops = [] ∧ s.pumps = [] ∧
  (∀ c t, (s.thread c t).state = .free) ∧ (∀ c, (s.core c).diked = false ∧ (s.core c).sems = []) ∧
  (∀ c a, (s.arr c a).go = false) ∧ (∀ d ch, (s.bar d ch).enable = false) ∧ s.boot.main = false ∧ s.boot.done = 0 ∧
  s.dev.ready = false ∧ s.dev.go = false ∧ s.pcie.ready = false ∧ (∀ q, (s.queue q).go = false) ∧
  (∀ l, (s.link l).state = .off) ∧ (∀ n, (s.port n).go = false) ∧ (∀ d, (s.bundle d).trained = false) ∧
    s.fab.go = false ∧
  s.fab.nodeId = 0xFFFF ∧ s.tb.go = false ∧ s.tb.time = 0 ∧ s.col.go = false ∧ s.col.buckets = [] ∧ s.err.pend = 0 ∧
  s.err.perturbGo = false
end

