-- ==== Sys2Proof/Laws/Tab.lean ====
section
/-! SUPPORT. Laws of the sparse tables: what a read gives after a write, and that the operations keep the canonical
form. -/

namespace Sys2Proof.Machine

variable {α : Type}

@[simp] theorem Tab.get_nil (d : α) (k : Nat) : Tab.get d [] k = d := rfl

theorem Tab.get_erase (d : α) (m : Tab α) (k j : Nat) :
    Tab.get d (Tab.erase m k) j = if j = k then d else Tab.get d m j := by
  induction m with
  | nil => simp [Tab.erase]
  | cons e m ih =>
    obtain ⟨i, v⟩ := e
    by_cases hi : i = k
    · subst hi
      simp only [Tab.erase, Tab.get, ↓reduceIte, ih]
      by_cases hj : j = i
      · simp [hj]
      · simp [hj, Ne.symm hj]
    · simp only [Tab.erase, if_neg hi, Tab.get, ih]
      by_cases hj : i = j
      · subst hj; simp [hi]
      · simp [hj]

theorem Tab.get_insert (d : α) (m : Tab α) (k j : Nat) (v : α) (h : ∀ e ∈ m, e.1 ≠ k) :
    Tab.get d (Tab.insert k v m) j = if j = k then v else Tab.get d m j := by
  induction m with
  | nil => simp [Tab.insert, Tab.get, eq_comm]
  | cons e m ih =>
    obtain ⟨i, u⟩ := e
    have hi : i ≠ k := h _ (List.mem_cons_self ..)
    have ih := ih fun e he => h e (List.mem_cons_of_mem _ he)
    unfold Tab.insert
    split
    · simp [Tab.get, eq_comm]
    · simp only [Tab.get, ih]
      by_cases hj : i = j
      · subst hj; simp [hi]
      · simp [hj]

theorem Tab.not_mem_erase (m : Tab α) (k : Nat) : ∀ e ∈ Tab.erase m k, e.1 ≠ k := by
  induction m with
  | nil => simp [Tab.erase]
  | cons e m ih =>
    obtain ⟨i, v⟩ := e
    unfold Tab.erase
    split
    · exact ih
    · intro e he
      rcases List.mem_cons.1 he with rfl | he
      · assumption
      · exact ih e he

/-- A read after a write: the value written at its key, the old value elsewhere. -/
theorem Tab.get_set [DecidableEq α] (d : α) (m : Tab α) (k j : Nat) (v : α) :
    Tab.get d (Tab.set d m k v) j = if j = k then v else Tab.get d m j := by
  unfold Tab.set
  split
  · rename_i hv; rw [Tab.get_erase, hv]
  · rw [Tab.get_insert _ _ _ _ _ (Tab.not_mem_erase m k), Tab.get_erase]; split <;> simp_all

@[simp] theorem Tab.get_set_self [DecidableEq α] (d : α) (m : Tab α) (k : Nat) (v : α) :
    Tab.get d (Tab.set d m k v) k = v := by simp [Tab.get_set]

/-- Another key keeps its value, whatever the default it is read with. -/
theorem Tab.get_set_ne [DecidableEq α] (d e : α) (m : Tab α) {k j : Nat} (v : α) (h : j ≠ k) :
    Tab.get e (Tab.set d m k v) j = Tab.get e m j := by
  have he : Tab.get e (Tab.erase m k) j = Tab.get e m j := by rw [Tab.get_erase, if_neg h]
  unfold Tab.set
  split
  · exact he
  · rw [Tab.get_insert _ _ _ _ _ (Tab.not_mem_erase m k), if_neg h, he]

/-- A read after a write of consecutive keys. -/
theorem Tab.get_setRange [DecidableEq α] (d : α) (m : Tab α) (k j : Nat) (vs : List α) :
    Tab.get d (Tab.setRange d m k vs) j = if k ≤ j ∧ j < k + vs.length then vs.getD (j - k) d else Tab.get d m j := by
  induction vs generalizing m k with
  | nil => rw [Tab.setRange, if_neg (by simp)]
  | cons v vs ih =>
    rw [Tab.setRange, ih, Tab.get_set]
    by_cases h1 : j = k
    · subst h1; simp
    · by_cases h2 : k + 1 ≤ j ∧ j < k + 1 + vs.length
      · have : j - k = (j - (k + 1)) + 1 := by omega
        rw [if_pos h2, if_pos (by simp only [List.length_cons]; omega), this, List.getD_cons_succ]
      · rw [if_neg h2, if_neg h1, if_neg (by simp only [List.length_cons]; omega)]

/-! ## The canonical form -/

theorem Tab.wfFrom_mono [DecidableEq α] {d : α} {lo lo' : Nat} {m : Tab α} (h : lo' ≤ lo)
    (hm : Tab.wfFrom d lo m = true) : Tab.wfFrom d lo' m = true := by
  cases m with
  | nil => rfl
  | cons e m => obtain ⟨k, v⟩ := e; simp [Tab.wfFrom] at hm ⊢; exact ⟨⟨by omega, hm.1.2⟩, hm.2⟩

theorem Tab.wfFrom_erase [DecidableEq α] {d : α} {lo : Nat} {m : Tab α} (k : Nat) (hm : Tab.wfFrom d lo m = true) :
    Tab.wfFrom d lo (Tab.erase m k) = true := by
  induction m generalizing lo with
  | nil => rfl
  | cons e m ih =>
    obtain ⟨j, v⟩ := e
    simp only [Tab.wfFrom, Bool.and_eq_true, decide_eq_true_eq] at hm
    unfold Tab.erase
    split
    · exact ih (Tab.wfFrom_mono (by omega) hm.2)
    · simp [Tab.wfFrom, hm.1.1, hm.1.2, ih hm.2]

theorem Tab.wfFrom_insert [DecidableEq α] {d : α} {lo : Nat} {m : Tab α} {k : Nat} {v : α} (hk : lo ≤ k) (hv : v ≠ d)
    (hm : Tab.wfFrom d lo m = true) (h : ∀ e ∈ m, e.1 ≠ k) : Tab.wfFrom d lo (Tab.insert k v m) = true := by
  induction m generalizing lo with
  | nil => simp [Tab.insert, Tab.wfFrom, hk, hv]
  | cons e m ih =>
    obtain ⟨j, u⟩ := e
    simp only [Tab.wfFrom, Bool.and_eq_true, decide_eq_true_eq] at hm
    have hj : j ≠ k := h _ (List.mem_cons_self ..)
    have hr : ∀ e ∈ m, e.1 ≠ k := fun e he => h e (List.mem_cons_of_mem _ he)
    unfold Tab.insert
    split
    · simp [Tab.wfFrom, hk, hv, hm.1.2, hm.2]; omega
    · simp [Tab.wfFrom, hm.1.1, hm.1.2, ih (by omega) hm.2 hr]

/-- A write keeps the canonical form. -/
theorem Tab.wf_set [DecidableEq α] {d : α} {m : Tab α} (k : Nat) (v : α) (h : Tab.wf d m = true) :
    Tab.wf d (Tab.set d m k v) = true := by
  unfold Tab.set
  split
  · exact Tab.wfFrom_erase k h
  · rename_i hv; exact Tab.wfFrom_insert (Nat.zero_le _) hv (Tab.wfFrom_erase k h) (Tab.not_mem_erase m k)

theorem Tab.wf_setRange [DecidableEq α] {d : α} {m : Tab α} (k : Nat) (vs : List α) (h : Tab.wf d m = true) :
    Tab.wf d (Tab.setRange d m k vs) = true := by
  induction vs generalizing m k with
  | nil => exact h
  | cons v vs ih => exact ih _ (Tab.wf_set k v h)

theorem Tab.wfFrom_filter [DecidableEq α] {d : α} (p : Nat × α → Bool) {lo : Nat} {m : Tab α}
    (h : Tab.wfFrom d lo m = true) : Tab.wfFrom d lo (m.filter p) = true := by
  induction m generalizing lo with
  | nil => rfl
  | cons e m ih =>
    obtain ⟨j, v⟩ := e
    simp only [Tab.wfFrom, Bool.and_eq_true, decide_eq_true_eq] at h
    rw [List.filter_cons]
    split
    · simp [Tab.wfFrom, h.1.1, h.1.2, ih h.2]
    · exact ih (Tab.wfFrom_mono (by omega) h.2)

theorem Tab.wf_drop [DecidableEq α] {d : α} {m : Tab α} (p : Nat → Bool) (h : Tab.wf d m = true) :
    Tab.wf d (Tab.drop p m) = true := Tab.wfFrom_filter _ h

end Sys2Proof.Machine
end

