-- ==== Sys2Proof/Laws/State.lean ====
section
/-! SUPPORT. What each named update of State leaves alone, field by field, and what each named part reads after it. -/

namespace Sys2Proof.Machine

variable (s : State)

/-! ## A part changed by a function is a part replaced -/

theorem State.modThread_eq (c t f) : s.modThread c t f = s.setThread c t (f (s.thread c t)) := rfl
theorem State.modCore_eq (c f) : s.modCore c f = s.setCore c (f (s.core c)) := rfl
theorem State.modArr_eq (c a f) : s.modArr c a f = s.setArr c a (f (s.arr c a)) := rfl
theorem State.modDie_eq (d f) : s.modDie d f = s.setDie d (f (s.die d)) := rfl
theorem State.modLink_eq (l f) : s.modLink l f = s.setLink l (f (s.link l)) := rfl
theorem State.modBundle_eq (d f) : s.modBundle d f = s.setBundle d (f (s.bundle d)) := rfl
theorem State.modQueue_eq (q f) : s.modQueue q f = s.setQueue q (f (s.queue q)) := rfl

/-! ## Reading what was written -/

@[simp] theorem State.thread_setThread (c t x) : (s.setThread c t x).thread c t = x := Tab.get_set_self ..
theorem State.thread_setThread_ne (c t x) {c' t' : Nat} (h : c' * 32 + t' ≠ c * 32 + t) :
    (s.setThread c t x).thread c' t' = s.thread c' t' := Tab.get_set_ne _ _ _ _ h
@[simp] theorem State.core_setCore (c x) : (s.setCore c x).core c = x := Tab.get_set_self ..
theorem State.core_setCore_ne (c x) {c' : Nat} (h : c' ≠ c) : (s.setCore c x).core c' = s.core c' :=
  Tab.get_set_ne _ _ _ _ h
@[simp] theorem State.arr_setArr (c a x) : (s.setArr c a x).arr c a = x := Tab.get_set_self ..
theorem State.arr_setArr_ne (c a x) {c' a' : Nat} (h : c' * 4 + a' ≠ c * 4 + a) :
    (s.setArr c a x).arr c' a' = s.arr c' a' := Tab.get_set_ne _ _ _ _ h
@[simp] theorem State.bank_setBank (c a b x) : (s.setBank c a b x).bank c a b = x := Tab.get_set_self ..
@[simp] theorem State.die_setDie (d x) : (s.setDie d x).die d = x := Tab.get_set_self ..
theorem State.die_setDie_ne (d x) {d' : Nat} (h : d' ≠ d) : (s.setDie d x).die d' = s.die d' := Tab.get_set_ne _ _ _ _ h
@[simp] theorem State.link_setLink (l x) : (s.setLink l x).link l = x := Tab.get_set_self ..
theorem State.link_setLink_ne (l x) {k : Nat} (h : k ≠ l) : (s.setLink l x).link k = s.link k := Tab.get_set_ne _ _ _ _ h
@[simp] theorem State.bundle_setBundle (d x) : (s.setBundle d x).bundle d = x := Tab.get_set_self ..
theorem State.bundle_setBundle_ne (d x) {k : Nat} (h : k ≠ d) : (s.setBundle d x).bundle k = s.bundle k :=
  Tab.get_set_ne _ _ _ _ h
@[simp] theorem State.port_modPort (n f) : (s.modPort n f).port n = f (s.port n) := Tab.get_set_self ..
theorem State.port_modPort_ne (n f) {k : Nat} (h : k ≠ n) : (s.modPort n f).port k = s.port k := Tab.get_set_ne _ _ _ _ h
@[simp] theorem State.queue_setQueue (q x) : (s.setQueue q x).queue q = x := Tab.get_set_self ..
theorem State.queue_setQueue_ne (q x) {k : Nat} (h : k ≠ q) : (s.setQueue q x).queue k = s.queue k :=
  Tab.get_set_ne _ _ _ _ h
@[simp] theorem State.disc_modDisc (l f) : (s.modDisc l f).disc l = f (s.disc l) := Tab.get_set_self ..

/-! ## setThread -/

@[simp] theorem State.setThread_core (c t x) (c') : (s.setThread c t x).core c' = s.core c' := rfl
@[simp] theorem State.setThread_arr (c t x) (c' a') : (s.setThread c t x).arr c' a' = s.arr c' a' := rfl
@[simp] theorem State.setThread_bank (c t x) (c' a' b') : (s.setThread c t x).bank c' a' b' = s.bank c' a' b' := rfl
@[simp] theorem State.setThread_die (c t x) (d') : (s.setThread c t x).die d' = s.die d' := rfl
@[simp] theorem State.setThread_lcores (c t x) : (s.setThread c t x).lcores = s.lcores := rfl
@[simp] theorem State.setThread_link (c t x) (l') : (s.setThread c t x).link l' = s.link l' := rfl
@[simp] theorem State.setThread_bundle (c t x) (d') : (s.setThread c t x).bundle d' = s.bundle d' := rfl
@[simp] theorem State.setThread_port (c t x) (n') : (s.setThread c t x).port n' = s.port n' := rfl
@[simp] theorem State.setThread_queue (c t x) (q') : (s.setThread c t x).queue q' = s.queue q' := rfl
@[simp] theorem State.setThread_f_fuses (c t x) : (s.setThread c t x).fuses = s.fuses := rfl
@[simp] theorem State.setThread_f_compat (c t x) : (s.setThread c t x).compat = s.compat := rfl
@[simp] theorem State.setThread_f_nidp (c t x) : (s.setThread c t x).nidp = s.nidp := rfl
@[simp] theorem State.setThread_f_hubFw (c t x) : (s.setThread c t x).hubFw = s.hubFw := rfl
@[simp] theorem State.setThread_f_cores (c t x) : (s.setThread c t x).cores = s.cores := rfl
@[simp] theorem State.setThread_f_arrs (c t x) : (s.setThread c t x).arrs = s.arrs := rfl
@[simp] theorem State.setThread_f_banks (c t x) : (s.setThread c t x).banks = s.banks := rfl
@[simp] theorem State.setThread_f_dies (c t x) : (s.setThread c t x).dies = s.dies := rfl
@[simp] theorem State.setThread_f_ops (c t x) : (s.setThread c t x).ops = s.ops := rfl
@[simp] theorem State.setThread_f_pumps (c t x) : (s.setThread c t x).pumps = s.pumps := rfl
@[simp] theorem State.setThread_f_pumpHeads (c t x) : (s.setThread c t x).pumpHeads = s.pumpHeads := rfl
@[simp] theorem State.setThread_f_mem (c t x) : (s.setThread c t x).mem = s.mem := rfl
@[simp] theorem State.setThread_f_replaced (c t x) : (s.setThread c t x).replaced = s.replaced := rfl
@[simp] theorem State.setThread_f_siteJournal (c t x) : (s.setThread c t x).siteJournal = s.siteJournal := rfl
@[simp] theorem State.setThread_f_dikes (c t x) : (s.setThread c t x).dikes = s.dikes := rfl
@[simp] theorem State.setThread_f_hubDike (c t x) : (s.setThread c t x).hubDike = s.hubDike := rfl
@[simp] theorem State.setThread_f_regions (c t x) : (s.setThread c t x).regions = s.regions := rfl
@[simp] theorem State.setThread_f_err (c t x) : (s.setThread c t x).err = s.err := rfl
@[simp] theorem State.setThread_f_dev (c t x) : (s.setThread c t x).dev = s.dev := rfl
@[simp] theorem State.setThread_f_pcie (c t x) : (s.setThread c t x).pcie = s.pcie := rfl
@[simp] theorem State.setThread_f_tb (c t x) : (s.setThread c t x).tb = s.tb := rfl
@[simp] theorem State.setThread_f_mmc (c t x) : (s.setThread c t x).mmc = s.mmc := rfl
@[simp] theorem State.setThread_f_boot (c t x) : (s.setThread c t x).boot = s.boot := rfl
@[simp] theorem State.setThread_f_pwr (c t x) : (s.setThread c t x).pwr = s.pwr := rfl
@[simp] theorem State.setThread_f_feature (c t x) : (s.setThread c t x).feature = s.feature := rfl
@[simp] theorem State.setThread_f_bundles (c t x) : (s.setThread c t x).bundles = s.bundles := rfl
@[simp] theorem State.setThread_f_dlu (c t x) : (s.setThread c t x).dlu = s.dlu := rfl
@[simp] theorem State.setThread_f_links (c t x) : (s.setThread c t x).links = s.links := rfl
@[simp] theorem State.setThread_f_ports (c t x) : (s.setThread c t x).ports = s.ports := rfl
@[simp] theorem State.setThread_f_spare0 (c t x) : (s.setThread c t x).spare0 = s.spare0 := rfl
@[simp] theorem State.setThread_f_spare1 (c t x) : (s.setThread c t x).spare1 = s.spare1 := rfl
@[simp] theorem State.setThread_f_laserJournal (c t x) : (s.setThread c t x).laserJournal = s.laserJournal := rfl
@[simp] theorem State.setThread_f_fab (c t x) : (s.setThread c t x).fab = s.fab := rfl
@[simp] theorem State.setThread_f_col (c t x) : (s.setThread c t x).col = s.col := rfl
@[simp] theorem State.setThread_f_remapJournal (c t x) : (s.setThread c t x).remapJournal = s.remapJournal := rfl
@[simp] theorem State.setThread_f_out (c t x) : (s.setThread c t x).out = s.out := rfl
@[simp] theorem State.setThread_f_ticks (c t x) : (s.setThread c t x).ticks = s.ticks := rfl
@[simp] theorem State.setThread_f_nextId (c t x) : (s.setThread c t x).nextId = s.nextId := rfl
@[simp] theorem State.setThread_f_freeCtr (c t x) : (s.setThread c t x).freeCtr = s.freeCtr := rfl
@[simp] theorem State.setThread_f_pending (c t x) : (s.setThread c t x).pending = s.pending := rfl

/-! ## setCore -/

@[simp] theorem State.setCore_thread (c x) (c' t') : (s.setCore c x).thread c' t' = s.thread c' t' := rfl
@[simp] theorem State.setCore_arr (c x) (c' a') : (s.setCore c x).arr c' a' = s.arr c' a' := rfl
@[simp] theorem State.setCore_bank (c x) (c' a' b') : (s.setCore c x).bank c' a' b' = s.bank c' a' b' := rfl
@[simp] theorem State.setCore_die (c x) (d') : (s.setCore c x).die d' = s.die d' := rfl
@[simp] theorem State.setCore_lcores (c x) : (s.setCore c x).lcores = s.lcores := rfl
@[simp] theorem State.setCore_link (c x) (l') : (s.setCore c x).link l' = s.link l' := rfl
@[simp] theorem State.setCore_bundle (c x) (d') : (s.setCore c x).bundle d' = s.bundle d' := rfl
@[simp] theorem State.setCore_port (c x) (n') : (s.setCore c x).port n' = s.port n' := rfl
@[simp] theorem State.setCore_queue (c x) (q') : (s.setCore c x).queue q' = s.queue q' := rfl
@[simp] theorem State.setCore_f_fuses (c x) : (s.setCore c x).fuses = s.fuses := rfl
@[simp] theorem State.setCore_f_compat (c x) : (s.setCore c x).compat = s.compat := rfl
@[simp] theorem State.setCore_f_nidp (c x) : (s.setCore c x).nidp = s.nidp := rfl
@[simp] theorem State.setCore_f_hubFw (c x) : (s.setCore c x).hubFw = s.hubFw := rfl
@[simp] theorem State.setCore_f_threads (c x) : (s.setCore c x).threads = s.threads := rfl
@[simp] theorem State.setCore_f_arrs (c x) : (s.setCore c x).arrs = s.arrs := rfl
@[simp] theorem State.setCore_f_banks (c x) : (s.setCore c x).banks = s.banks := rfl
@[simp] theorem State.setCore_f_dies (c x) : (s.setCore c x).dies = s.dies := rfl
@[simp] theorem State.setCore_f_ops (c x) : (s.setCore c x).ops = s.ops := rfl
@[simp] theorem State.setCore_f_pumps (c x) : (s.setCore c x).pumps = s.pumps := rfl
@[simp] theorem State.setCore_f_pumpHeads (c x) : (s.setCore c x).pumpHeads = s.pumpHeads := rfl
@[simp] theorem State.setCore_f_mem (c x) : (s.setCore c x).mem = s.mem := rfl
@[simp] theorem State.setCore_f_replaced (c x) : (s.setCore c x).replaced = s.replaced := rfl
@[simp] theorem State.setCore_f_siteJournal (c x) : (s.setCore c x).siteJournal = s.siteJournal := rfl
@[simp] theorem State.setCore_f_dikes (c x) : (s.setCore c x).dikes = s.dikes := rfl
@[simp] theorem State.setCore_f_hubDike (c x) : (s.setCore c x).hubDike = s.hubDike := rfl
@[simp] theorem State.setCore_f_regions (c x) : (s.setCore c x).regions = s.regions := rfl
@[simp] theorem State.setCore_f_err (c x) : (s.setCore c x).err = s.err := rfl
@[simp] theorem State.setCore_f_dev (c x) : (s.setCore c x).dev = s.dev := rfl
@[simp] theorem State.setCore_f_pcie (c x) : (s.setCore c x).pcie = s.pcie := rfl
@[simp] theorem State.setCore_f_tb (c x) : (s.setCore c x).tb = s.tb := rfl
@[simp] theorem State.setCore_f_mmc (c x) : (s.setCore c x).mmc = s.mmc := rfl
@[simp] theorem State.setCore_f_boot (c x) : (s.setCore c x).boot = s.boot := rfl
@[simp] theorem State.setCore_f_pwr (c x) : (s.setCore c x).pwr = s.pwr := rfl
@[simp] theorem State.setCore_f_feature (c x) : (s.setCore c x).feature = s.feature := rfl
@[simp] theorem State.setCore_f_bundles (c x) : (s.setCore c x).bundles = s.bundles := rfl
@[simp] theorem State.setCore_f_dlu (c x) : (s.setCore c x).dlu = s.dlu := rfl
@[simp] theorem State.setCore_f_links (c x) : (s.setCore c x).links = s.links := rfl
@[simp] theorem State.setCore_f_ports (c x) : (s.setCore c x).ports = s.ports := rfl
@[simp] theorem State.setCore_f_spare0 (c x) : (s.setCore c x).spare0 = s.spare0 := rfl
@[simp] theorem State.setCore_f_spare1 (c x) : (s.setCore c x).spare1 = s.spare1 := rfl
@[simp] theorem State.setCore_f_laserJournal (c x) : (s.setCore c x).laserJournal = s.laserJournal := rfl
@[simp] theorem State.setCore_f_fab (c x) : (s.setCore c x).fab = s.fab := rfl
@[simp] theorem State.setCore_f_col (c x) : (s.setCore c x).col = s.col := rfl
@[simp] theorem State.setCore_f_remapJournal (c x) : (s.setCore c x).remapJournal = s.remapJournal := rfl
@[simp] theorem State.setCore_f_out (c x) : (s.setCore c x).out = s.out := rfl
@[simp] theorem State.setCore_f_ticks (c x) : (s.setCore c x).ticks = s.ticks := rfl
@[simp] theorem State.setCore_f_nextId (c x) : (s.setCore c x).nextId = s.nextId := rfl
@[simp] theorem State.setCore_f_freeCtr (c x) : (s.setCore c x).freeCtr = s.freeCtr := rfl
@[simp] theorem State.setCore_f_pending (c x) : (s.setCore c x).pending = s.pending := rfl

/-! ## setArr -/

@[simp] theorem State.setArr_thread (c a x) (c' t') : (s.setArr c a x).thread c' t' = s.thread c' t' := rfl
@[simp] theorem State.setArr_core (c a x) (c') : (s.setArr c a x).core c' = s.core c' := rfl
@[simp] theorem State.setArr_bank (c a x) (c' a' b') : (s.setArr c a x).bank c' a' b' = s.bank c' a' b' := rfl
@[simp] theorem State.setArr_die (c a x) (d') : (s.setArr c a x).die d' = s.die d' := rfl
@[simp] theorem State.setArr_lcores (c a x) : (s.setArr c a x).lcores = s.lcores := rfl
@[simp] theorem State.setArr_link (c a x) (l') : (s.setArr c a x).link l' = s.link l' := rfl
@[simp] theorem State.setArr_bundle (c a x) (d') : (s.setArr c a x).bundle d' = s.bundle d' := rfl
@[simp] theorem State.setArr_port (c a x) (n') : (s.setArr c a x).port n' = s.port n' := rfl
@[simp] theorem State.setArr_queue (c a x) (q') : (s.setArr c a x).queue q' = s.queue q' := rfl
@[simp] theorem State.setArr_f_fuses (c a x) : (s.setArr c a x).fuses = s.fuses := rfl
@[simp] theorem State.setArr_f_compat (c a x) : (s.setArr c a x).compat = s.compat := rfl
@[simp] theorem State.setArr_f_nidp (c a x) : (s.setArr c a x).nidp = s.nidp := rfl
@[simp] theorem State.setArr_f_hubFw (c a x) : (s.setArr c a x).hubFw = s.hubFw := rfl
@[simp] theorem State.setArr_f_threads (c a x) : (s.setArr c a x).threads = s.threads := rfl
@[simp] theorem State.setArr_f_cores (c a x) : (s.setArr c a x).cores = s.cores := rfl
@[simp] theorem State.setArr_f_banks (c a x) : (s.setArr c a x).banks = s.banks := rfl
@[simp] theorem State.setArr_f_dies (c a x) : (s.setArr c a x).dies = s.dies := rfl
@[simp] theorem State.setArr_f_ops (c a x) : (s.setArr c a x).ops = s.ops := rfl
@[simp] theorem State.setArr_f_pumps (c a x) : (s.setArr c a x).pumps = s.pumps := rfl
@[simp] theorem State.setArr_f_pumpHeads (c a x) : (s.setArr c a x).pumpHeads = s.pumpHeads := rfl
@[simp] theorem State.setArr_f_mem (c a x) : (s.setArr c a x).mem = s.mem := rfl
@[simp] theorem State.setArr_f_replaced (c a x) : (s.setArr c a x).replaced = s.replaced := rfl
@[simp] theorem State.setArr_f_siteJournal (c a x) : (s.setArr c a x).siteJournal = s.siteJournal := rfl
@[simp] theorem State.setArr_f_dikes (c a x) : (s.setArr c a x).dikes = s.dikes := rfl
@[simp] theorem State.setArr_f_hubDike (c a x) : (s.setArr c a x).hubDike = s.hubDike := rfl
@[simp] theorem State.setArr_f_regions (c a x) : (s.setArr c a x).regions = s.regions := rfl
@[simp] theorem State.setArr_f_err (c a x) : (s.setArr c a x).err = s.err := rfl
@[simp] theorem State.setArr_f_dev (c a x) : (s.setArr c a x).dev = s.dev := rfl
@[simp] theorem State.setArr_f_pcie (c a x) : (s.setArr c a x).pcie = s.pcie := rfl
@[simp] theorem State.setArr_f_tb (c a x) : (s.setArr c a x).tb = s.tb := rfl
@[simp] theorem State.setArr_f_mmc (c a x) : (s.setArr c a x).mmc = s.mmc := rfl
@[simp] theorem State.setArr_f_boot (c a x) : (s.setArr c a x).boot = s.boot := rfl
@[simp] theorem State.setArr_f_pwr (c a x) : (s.setArr c a x).pwr = s.pwr := rfl
@[simp] theorem State.setArr_f_feature (c a x) : (s.setArr c a x).feature = s.feature := rfl
@[simp] theorem State.setArr_f_bundles (c a x) : (s.setArr c a x).bundles = s.bundles := rfl
@[simp] theorem State.setArr_f_dlu (c a x) : (s.setArr c a x).dlu = s.dlu := rfl
@[simp] theorem State.setArr_f_links (c a x) : (s.setArr c a x).links = s.links := rfl
@[simp] theorem State.setArr_f_ports (c a x) : (s.setArr c a x).ports = s.ports := rfl
@[simp] theorem State.setArr_f_spare0 (c a x) : (s.setArr c a x).spare0 = s.spare0 := rfl
@[simp] theorem State.setArr_f_spare1 (c a x) : (s.setArr c a x).spare1 = s.spare1 := rfl
@[simp] theorem State.setArr_f_laserJournal (c a x) : (s.setArr c a x).laserJournal = s.laserJournal := rfl
@[simp] theorem State.setArr_f_fab (c a x) : (s.setArr c a x).fab = s.fab := rfl
@[simp] theorem State.setArr_f_col (c a x) : (s.setArr c a x).col = s.col := rfl
@[simp] theorem State.setArr_f_remapJournal (c a x) : (s.setArr c a x).remapJournal = s.remapJournal := rfl
@[simp] theorem State.setArr_f_out (c a x) : (s.setArr c a x).out = s.out := rfl
@[simp] theorem State.setArr_f_ticks (c a x) : (s.setArr c a x).ticks = s.ticks := rfl
@[simp] theorem State.setArr_f_nextId (c a x) : (s.setArr c a x).nextId = s.nextId := rfl
@[simp] theorem State.setArr_f_freeCtr (c a x) : (s.setArr c a x).freeCtr = s.freeCtr := rfl
@[simp] theorem State.setArr_f_pending (c a x) : (s.setArr c a x).pending = s.pending := rfl

/-! ## setBank -/

@[simp] theorem State.setBank_thread (c a b x) (c' t') : (s.setBank c a b x).thread c' t' = s.thread c' t' := rfl
@[simp] theorem State.setBank_core (c a b x) (c') : (s.setBank c a b x).core c' = s.core c' := rfl
@[simp] theorem State.setBank_arr (c a b x) (c' a') : (s.setBank c a b x).arr c' a' = s.arr c' a' := rfl
@[simp] theorem State.setBank_die (c a b x) (d') : (s.setBank c a b x).die d' = s.die d' := rfl
@[simp] theorem State.setBank_lcores (c a b x) : (s.setBank c a b x).lcores = s.lcores := rfl
@[simp] theorem State.setBank_link (c a b x) (l') : (s.setBank c a b x).link l' = s.link l' := rfl
@[simp] theorem State.setBank_bundle (c a b x) (d') : (s.setBank c a b x).bundle d' = s.bundle d' := rfl
@[simp] theorem State.setBank_port (c a b x) (n') : (s.setBank c a b x).port n' = s.port n' := rfl
@[simp] theorem State.setBank_queue (c a b x) (q') : (s.setBank c a b x).queue q' = s.queue q' := rfl
@[simp] theorem State.setBank_f_fuses (c a b x) : (s.setBank c a b x).fuses = s.fuses := rfl
@[simp] theorem State.setBank_f_compat (c a b x) : (s.setBank c a b x).compat = s.compat := rfl
@[simp] theorem State.setBank_f_nidp (c a b x) : (s.setBank c a b x).nidp = s.nidp := rfl
@[simp] theorem State.setBank_f_hubFw (c a b x) : (s.setBank c a b x).hubFw = s.hubFw := rfl
@[simp] theorem State.setBank_f_threads (c a b x) : (s.setBank c a b x).threads = s.threads := rfl
@[simp] theorem State.setBank_f_cores (c a b x) : (s.setBank c a b x).cores = s.cores := rfl
@[simp] theorem State.setBank_f_arrs (c a b x) : (s.setBank c a b x).arrs = s.arrs := rfl
@[simp] theorem State.setBank_f_dies (c a b x) : (s.setBank c a b x).dies = s.dies := rfl
@[simp] theorem State.setBank_f_ops (c a b x) : (s.setBank c a b x).ops = s.ops := rfl
@[simp] theorem State.setBank_f_pumps (c a b x) : (s.setBank c a b x).pumps = s.pumps := rfl
@[simp] theorem State.setBank_f_pumpHeads (c a b x) : (s.setBank c a b x).pumpHeads = s.pumpHeads := rfl
@[simp] theorem State.setBank_f_mem (c a b x) : (s.setBank c a b x).mem = s.mem := rfl
@[simp] theorem State.setBank_f_replaced (c a b x) : (s.setBank c a b x).replaced = s.replaced := rfl
@[simp] theorem State.setBank_f_siteJournal (c a b x) : (s.setBank c a b x).siteJournal = s.siteJournal := rfl
@[simp] theorem State.setBank_f_dikes (c a b x) : (s.setBank c a b x).dikes = s.dikes := rfl
@[simp] theorem State.setBank_f_hubDike (c a b x) : (s.setBank c a b x).hubDike = s.hubDike := rfl
@[simp] theorem State.setBank_f_regions (c a b x) : (s.setBank c a b x).regions = s.regions := rfl
@[simp] theorem State.setBank_f_err (c a b x) : (s.setBank c a b x).err = s.err := rfl
@[simp] theorem State.setBank_f_dev (c a b x) : (s.setBank c a b x).dev = s.dev := rfl
@[simp] theorem State.setBank_f_pcie (c a b x) : (s.setBank c a b x).pcie = s.pcie := rfl
@[simp] theorem State.setBank_f_tb (c a b x) : (s.setBank c a b x).tb = s.tb := rfl
@[simp] theorem State.setBank_f_mmc (c a b x) : (s.setBank c a b x).mmc = s.mmc := rfl
@[simp] theorem State.setBank_f_boot (c a b x) : (s.setBank c a b x).boot = s.boot := rfl
@[simp] theorem State.setBank_f_pwr (c a b x) : (s.setBank c a b x).pwr = s.pwr := rfl
@[simp] theorem State.setBank_f_feature (c a b x) : (s.setBank c a b x).feature = s.feature := rfl
@[simp] theorem State.setBank_f_bundles (c a b x) : (s.setBank c a b x).bundles = s.bundles := rfl
@[simp] theorem State.setBank_f_dlu (c a b x) : (s.setBank c a b x).dlu = s.dlu := rfl
@[simp] theorem State.setBank_f_links (c a b x) : (s.setBank c a b x).links = s.links := rfl
@[simp] theorem State.setBank_f_ports (c a b x) : (s.setBank c a b x).ports = s.ports := rfl
@[simp] theorem State.setBank_f_spare0 (c a b x) : (s.setBank c a b x).spare0 = s.spare0 := rfl
@[simp] theorem State.setBank_f_spare1 (c a b x) : (s.setBank c a b x).spare1 = s.spare1 := rfl
@[simp] theorem State.setBank_f_laserJournal (c a b x) : (s.setBank c a b x).laserJournal = s.laserJournal := rfl
@[simp] theorem State.setBank_f_fab (c a b x) : (s.setBank c a b x).fab = s.fab := rfl
@[simp] theorem State.setBank_f_col (c a b x) : (s.setBank c a b x).col = s.col := rfl
@[simp] theorem State.setBank_f_remapJournal (c a b x) : (s.setBank c a b x).remapJournal = s.remapJournal := rfl
@[simp] theorem State.setBank_f_out (c a b x) : (s.setBank c a b x).out = s.out := rfl
@[simp] theorem State.setBank_f_ticks (c a b x) : (s.setBank c a b x).ticks = s.ticks := rfl
@[simp] theorem State.setBank_f_nextId (c a b x) : (s.setBank c a b x).nextId = s.nextId := rfl
@[simp] theorem State.setBank_f_freeCtr (c a b x) : (s.setBank c a b x).freeCtr = s.freeCtr := rfl
@[simp] theorem State.setBank_f_pending (c a b x) : (s.setBank c a b x).pending = s.pending := rfl

/-! ## setDie -/

@[simp] theorem State.setDie_thread (d x) (c' t') : (s.setDie d x).thread c' t' = s.thread c' t' := rfl
@[simp] theorem State.setDie_core (d x) (c') : (s.setDie d x).core c' = s.core c' := rfl
@[simp] theorem State.setDie_arr (d x) (c' a') : (s.setDie d x).arr c' a' = s.arr c' a' := rfl
@[simp] theorem State.setDie_bank (d x) (c' a' b') : (s.setDie d x).bank c' a' b' = s.bank c' a' b' := rfl
@[simp] theorem State.setDie_lcores (d x) : (s.setDie d x).lcores = s.lcores := rfl
@[simp] theorem State.setDie_link (d x) (l') : (s.setDie d x).link l' = s.link l' := rfl
@[simp] theorem State.setDie_bundle (d x) (d') : (s.setDie d x).bundle d' = s.bundle d' := rfl
@[simp] theorem State.setDie_port (d x) (n') : (s.setDie d x).port n' = s.port n' := rfl
@[simp] theorem State.setDie_queue (d x) (q') : (s.setDie d x).queue q' = s.queue q' := rfl
@[simp] theorem State.setDie_f_fuses (d x) : (s.setDie d x).fuses = s.fuses := rfl
@[simp] theorem State.setDie_f_compat (d x) : (s.setDie d x).compat = s.compat := rfl
@[simp] theorem State.setDie_f_nidp (d x) : (s.setDie d x).nidp = s.nidp := rfl
@[simp] theorem State.setDie_f_hubFw (d x) : (s.setDie d x).hubFw = s.hubFw := rfl
@[simp] theorem State.setDie_f_threads (d x) : (s.setDie d x).threads = s.threads := rfl
@[simp] theorem State.setDie_f_cores (d x) : (s.setDie d x).cores = s.cores := rfl
@[simp] theorem State.setDie_f_arrs (d x) : (s.setDie d x).arrs = s.arrs := rfl
@[simp] theorem State.setDie_f_banks (d x) : (s.setDie d x).banks = s.banks := rfl
@[simp] theorem State.setDie_f_ops (d x) : (s.setDie d x).ops = s.ops := rfl
@[simp] theorem State.setDie_f_pumps (d x) : (s.setDie d x).pumps = s.pumps := rfl
@[simp] theorem State.setDie_f_pumpHeads (d x) : (s.setDie d x).pumpHeads = s.pumpHeads := rfl
@[simp] theorem State.setDie_f_mem (d x) : (s.setDie d x).mem = s.mem := rfl
@[simp] theorem State.setDie_f_replaced (d x) : (s.setDie d x).replaced = s.replaced := rfl
@[simp] theorem State.setDie_f_siteJournal (d x) : (s.setDie d x).siteJournal = s.siteJournal := rfl
@[simp] theorem State.setDie_f_dikes (d x) : (s.setDie d x).dikes = s.dikes := rfl
@[simp] theorem State.setDie_f_hubDike (d x) : (s.setDie d x).hubDike = s.hubDike := rfl
@[simp] theorem State.setDie_f_regions (d x) : (s.setDie d x).regions = s.regions := rfl
@[simp] theorem State.setDie_f_err (d x) : (s.setDie d x).err = s.err := rfl
@[simp] theorem State.setDie_f_dev (d x) : (s.setDie d x).dev = s.dev := rfl
@[simp] theorem State.setDie_f_pcie (d x) : (s.setDie d x).pcie = s.pcie := rfl
@[simp] theorem State.setDie_f_tb (d x) : (s.setDie d x).tb = s.tb := rfl
@[simp] theorem State.setDie_f_mmc (d x) : (s.setDie d x).mmc = s.mmc := rfl
@[simp] theorem State.setDie_f_boot (d x) : (s.setDie d x).boot = s.boot := rfl
@[simp] theorem State.setDie_f_pwr (d x) : (s.setDie d x).pwr = s.pwr := rfl
@[simp] theorem State.setDie_f_feature (d x) : (s.setDie d x).feature = s.feature := rfl
@[simp] theorem State.setDie_f_bundles (d x) : (s.setDie d x).bundles = s.bundles := rfl
@[simp] theorem State.setDie_f_dlu (d x) : (s.setDie d x).dlu = s.dlu := rfl
@[simp] theorem State.setDie_f_links (d x) : (s.setDie d x).links = s.links := rfl
@[simp] theorem State.setDie_f_ports (d x) : (s.setDie d x).ports = s.ports := rfl
@[simp] theorem State.setDie_f_spare0 (d x) : (s.setDie d x).spare0 = s.spare0 := rfl
@[simp] theorem State.setDie_f_spare1 (d x) : (s.setDie d x).spare1 = s.spare1 := rfl
@[simp] theorem State.setDie_f_laserJournal (d x) : (s.setDie d x).laserJournal = s.laserJournal := rfl
@[simp] theorem State.setDie_f_fab (d x) : (s.setDie d x).fab = s.fab := rfl
@[simp] theorem State.setDie_f_col (d x) : (s.setDie d x).col = s.col := rfl
@[simp] theorem State.setDie_f_remapJournal (d x) : (s.setDie d x).remapJournal = s.remapJournal := rfl
@[simp] theorem State.setDie_f_out (d x) : (s.setDie d x).out = s.out := rfl
@[simp] theorem State.setDie_f_ticks (d x) : (s.setDie d x).ticks = s.ticks := rfl
@[simp] theorem State.setDie_f_nextId (d x) : (s.setDie d x).nextId = s.nextId := rfl
@[simp] theorem State.setDie_f_freeCtr (d x) : (s.setDie d x).freeCtr = s.freeCtr := rfl
@[simp] theorem State.setDie_f_pending (d x) : (s.setDie d x).pending = s.pending := rfl

/-! ## modLpd -/

@[simp] theorem State.modLpd_thread (d f) (c' t') : (s.modLpd d f).thread c' t' = s.thread c' t' := rfl
@[simp] theorem State.modLpd_core (d f) (c') : (s.modLpd d f).core c' = s.core c' := rfl
@[simp] theorem State.modLpd_arr (d f) (c' a') : (s.modLpd d f).arr c' a' = s.arr c' a' := rfl
@[simp] theorem State.modLpd_bank (d f) (c' a' b') : (s.modLpd d f).bank c' a' b' = s.bank c' a' b' := rfl
@[simp] theorem State.modLpd_lcores (d f) : (s.modLpd d f).lcores = s.lcores := rfl
@[simp] theorem State.modLpd_link (d f) (l') : (s.modLpd d f).link l' = s.link l' := rfl
@[simp] theorem State.modLpd_bundle (d f) (d') : (s.modLpd d f).bundle d' = s.bundle d' := rfl
@[simp] theorem State.modLpd_port (d f) (n') : (s.modLpd d f).port n' = s.port n' := rfl
@[simp] theorem State.modLpd_queue (d f) (q') : (s.modLpd d f).queue q' = s.queue q' := rfl
@[simp] theorem State.modLpd_f_fuses (d f) : (s.modLpd d f).fuses = s.fuses := rfl
@[simp] theorem State.modLpd_f_compat (d f) : (s.modLpd d f).compat = s.compat := rfl
@[simp] theorem State.modLpd_f_nidp (d f) : (s.modLpd d f).nidp = s.nidp := rfl
@[simp] theorem State.modLpd_f_hubFw (d f) : (s.modLpd d f).hubFw = s.hubFw := rfl
@[simp] theorem State.modLpd_f_threads (d f) : (s.modLpd d f).threads = s.threads := rfl
@[simp] theorem State.modLpd_f_cores (d f) : (s.modLpd d f).cores = s.cores := rfl
@[simp] theorem State.modLpd_f_arrs (d f) : (s.modLpd d f).arrs = s.arrs := rfl
@[simp] theorem State.modLpd_f_banks (d f) : (s.modLpd d f).banks = s.banks := rfl
@[simp] theorem State.modLpd_f_ops (d f) : (s.modLpd d f).ops = s.ops := rfl
@[simp] theorem State.modLpd_f_pumps (d f) : (s.modLpd d f).pumps = s.pumps := rfl
@[simp] theorem State.modLpd_f_pumpHeads (d f) : (s.modLpd d f).pumpHeads = s.pumpHeads := rfl
@[simp] theorem State.modLpd_f_mem (d f) : (s.modLpd d f).mem = s.mem := rfl
@[simp] theorem State.modLpd_f_replaced (d f) : (s.modLpd d f).replaced = s.replaced := rfl
@[simp] theorem State.modLpd_f_siteJournal (d f) : (s.modLpd d f).siteJournal = s.siteJournal := rfl
@[simp] theorem State.modLpd_f_dikes (d f) : (s.modLpd d f).dikes = s.dikes := rfl
@[simp] theorem State.modLpd_f_hubDike (d f) : (s.modLpd d f).hubDike = s.hubDike := rfl
@[simp] theorem State.modLpd_f_regions (d f) : (s.modLpd d f).regions = s.regions := rfl
@[simp] theorem State.modLpd_f_err (d f) : (s.modLpd d f).err = s.err := rfl
@[simp] theorem State.modLpd_f_dev (d f) : (s.modLpd d f).dev = s.dev := rfl
@[simp] theorem State.modLpd_f_pcie (d f) : (s.modLpd d f).pcie = s.pcie := rfl
@[simp] theorem State.modLpd_f_tb (d f) : (s.modLpd d f).tb = s.tb := rfl
@[simp] theorem State.modLpd_f_mmc (d f) : (s.modLpd d f).mmc = s.mmc := rfl
@[simp] theorem State.modLpd_f_boot (d f) : (s.modLpd d f).boot = s.boot := rfl
@[simp] theorem State.modLpd_f_pwr (d f) : (s.modLpd d f).pwr = s.pwr := rfl
@[simp] theorem State.modLpd_f_feature (d f) : (s.modLpd d f).feature = s.feature := rfl
@[simp] theorem State.modLpd_f_bundles (d f) : (s.modLpd d f).bundles = s.bundles := rfl
@[simp] theorem State.modLpd_f_dlu (d f) : (s.modLpd d f).dlu = s.dlu := rfl
@[simp] theorem State.modLpd_f_links (d f) : (s.modLpd d f).links = s.links := rfl
@[simp] theorem State.modLpd_f_ports (d f) : (s.modLpd d f).ports = s.ports := rfl
@[simp] theorem State.modLpd_f_spare0 (d f) : (s.modLpd d f).spare0 = s.spare0 := rfl
@[simp] theorem State.modLpd_f_spare1 (d f) : (s.modLpd d f).spare1 = s.spare1 := rfl
@[simp] theorem State.modLpd_f_laserJournal (d f) : (s.modLpd d f).laserJournal = s.laserJournal := rfl
@[simp] theorem State.modLpd_f_fab (d f) : (s.modLpd d f).fab = s.fab := rfl
@[simp] theorem State.modLpd_f_col (d f) : (s.modLpd d f).col = s.col := rfl
@[simp] theorem State.modLpd_f_remapJournal (d f) : (s.modLpd d f).remapJournal = s.remapJournal := rfl
@[simp] theorem State.modLpd_f_out (d f) : (s.modLpd d f).out = s.out := rfl
@[simp] theorem State.modLpd_f_ticks (d f) : (s.modLpd d f).ticks = s.ticks := rfl
@[simp] theorem State.modLpd_f_nextId (d f) : (s.modLpd d f).nextId = s.nextId := rfl
@[simp] theorem State.modLpd_f_freeCtr (d f) : (s.modLpd d f).freeCtr = s.freeCtr := rfl
@[simp] theorem State.modLpd_f_pending (d f) : (s.modLpd d f).pending = s.pending := rfl

/-! ## emit -/

@[simp] theorem State.emit_thread (o) (c' t') : (s.emit o).thread c' t' = s.thread c' t' := rfl
@[simp] theorem State.emit_core (o) (c') : (s.emit o).core c' = s.core c' := rfl
@[simp] theorem State.emit_arr (o) (c' a') : (s.emit o).arr c' a' = s.arr c' a' := rfl
@[simp] theorem State.emit_bank (o) (c' a' b') : (s.emit o).bank c' a' b' = s.bank c' a' b' := rfl
@[simp] theorem State.emit_die (o) (d') : (s.emit o).die d' = s.die d' := rfl
@[simp] theorem State.emit_lcores (o) : (s.emit o).lcores = s.lcores := rfl
@[simp] theorem State.emit_link (o) (l') : (s.emit o).link l' = s.link l' := rfl
@[simp] theorem State.emit_bundle (o) (d') : (s.emit o).bundle d' = s.bundle d' := rfl
@[simp] theorem State.emit_port (o) (n') : (s.emit o).port n' = s.port n' := rfl
@[simp] theorem State.emit_queue (o) (q') : (s.emit o).queue q' = s.queue q' := rfl
@[simp] theorem State.emit_f_fuses (o) : (s.emit o).fuses = s.fuses := rfl
@[simp] theorem State.emit_f_compat (o) : (s.emit o).compat = s.compat := rfl
@[simp] theorem State.emit_f_nidp (o) : (s.emit o).nidp = s.nidp := rfl
@[simp] theorem State.emit_f_hubFw (o) : (s.emit o).hubFw = s.hubFw := rfl
@[simp] theorem State.emit_f_threads (o) : (s.emit o).threads = s.threads := rfl
@[simp] theorem State.emit_f_cores (o) : (s.emit o).cores = s.cores := rfl
@[simp] theorem State.emit_f_arrs (o) : (s.emit o).arrs = s.arrs := rfl
@[simp] theorem State.emit_f_banks (o) : (s.emit o).banks = s.banks := rfl
@[simp] theorem State.emit_f_dies (o) : (s.emit o).dies = s.dies := rfl
@[simp] theorem State.emit_f_ops (o) : (s.emit o).ops = s.ops := rfl
@[simp] theorem State.emit_f_pumps (o) : (s.emit o).pumps = s.pumps := rfl
@[simp] theorem State.emit_f_pumpHeads (o) : (s.emit o).pumpHeads = s.pumpHeads := rfl
@[simp] theorem State.emit_f_mem (o) : (s.emit o).mem = s.mem := rfl
@[simp] theorem State.emit_f_replaced (o) : (s.emit o).replaced = s.replaced := rfl
@[simp] theorem State.emit_f_siteJournal (o) : (s.emit o).siteJournal = s.siteJournal := rfl
@[simp] theorem State.emit_f_dikes (o) : (s.emit o).dikes = s.dikes := rfl
@[simp] theorem State.emit_f_hubDike (o) : (s.emit o).hubDike = s.hubDike := rfl
@[simp] theorem State.emit_f_regions (o) : (s.emit o).regions = s.regions := rfl
@[simp] theorem State.emit_f_err (o) : (s.emit o).err = s.err := rfl
@[simp] theorem State.emit_f_dev (o) : (s.emit o).dev = s.dev := rfl
@[simp] theorem State.emit_f_pcie (o) : (s.emit o).pcie = s.pcie := rfl
@[simp] theorem State.emit_f_tb (o) : (s.emit o).tb = s.tb := rfl
@[simp] theorem State.emit_f_mmc (o) : (s.emit o).mmc = s.mmc := rfl
@[simp] theorem State.emit_f_boot (o) : (s.emit o).boot = s.boot := rfl
@[simp] theorem State.emit_f_pwr (o) : (s.emit o).pwr = s.pwr := rfl
@[simp] theorem State.emit_f_feature (o) : (s.emit o).feature = s.feature := rfl
@[simp] theorem State.emit_f_bundles (o) : (s.emit o).bundles = s.bundles := rfl
@[simp] theorem State.emit_f_dlu (o) : (s.emit o).dlu = s.dlu := rfl
@[simp] theorem State.emit_f_links (o) : (s.emit o).links = s.links := rfl
@[simp] theorem State.emit_f_ports (o) : (s.emit o).ports = s.ports := rfl
@[simp] theorem State.emit_f_spare0 (o) : (s.emit o).spare0 = s.spare0 := rfl
@[simp] theorem State.emit_f_spare1 (o) : (s.emit o).spare1 = s.spare1 := rfl
@[simp] theorem State.emit_f_laserJournal (o) : (s.emit o).laserJournal = s.laserJournal := rfl
@[simp] theorem State.emit_f_fab (o) : (s.emit o).fab = s.fab := rfl
@[simp] theorem State.emit_f_col (o) : (s.emit o).col = s.col := rfl
@[simp] theorem State.emit_f_remapJournal (o) : (s.emit o).remapJournal = s.remapJournal := rfl
@[simp] theorem State.emit_f_ticks (o) : (s.emit o).ticks = s.ticks := rfl
@[simp] theorem State.emit_f_nextId (o) : (s.emit o).nextId = s.nextId := rfl
@[simp] theorem State.emit_f_freeCtr (o) : (s.emit o).freeCtr = s.freeCtr := rfl
@[simp] theorem State.emit_f_pending (o) : (s.emit o).pending = s.pending := rfl

/-! ## setBytes -/

@[simp] theorem State.setBytes_thread (k b) (c' t') : (s.setBytes k b).thread c' t' = s.thread c' t' := rfl
@[simp] theorem State.setBytes_core (k b) (c') : (s.setBytes k b).core c' = s.core c' := rfl
@[simp] theorem State.setBytes_arr (k b) (c' a') : (s.setBytes k b).arr c' a' = s.arr c' a' := rfl
@[simp] theorem State.setBytes_bank (k b) (c' a' b') : (s.setBytes k b).bank c' a' b' = s.bank c' a' b' := rfl
@[simp] theorem State.setBytes_die (k b) (d') : (s.setBytes k b).die d' = s.die d' := rfl
@[simp] theorem State.setBytes_lcores (k b) : (s.setBytes k b).lcores = s.lcores := rfl
@[simp] theorem State.setBytes_link (k b) (l') : (s.setBytes k b).link l' = s.link l' := rfl
@[simp] theorem State.setBytes_bundle (k b) (d') : (s.setBytes k b).bundle d' = s.bundle d' := rfl
@[simp] theorem State.setBytes_port (k b) (n') : (s.setBytes k b).port n' = s.port n' := rfl
@[simp] theorem State.setBytes_queue (k b) (q') : (s.setBytes k b).queue q' = s.queue q' := rfl
@[simp] theorem State.setBytes_f_fuses (k b) : (s.setBytes k b).fuses = s.fuses := rfl
@[simp] theorem State.setBytes_f_compat (k b) : (s.setBytes k b).compat = s.compat := rfl
@[simp] theorem State.setBytes_f_nidp (k b) : (s.setBytes k b).nidp = s.nidp := rfl
@[simp] theorem State.setBytes_f_hubFw (k b) : (s.setBytes k b).hubFw = s.hubFw := rfl
@[simp] theorem State.setBytes_f_threads (k b) : (s.setBytes k b).threads = s.threads := rfl
@[simp] theorem State.setBytes_f_cores (k b) : (s.setBytes k b).cores = s.cores := rfl
@[simp] theorem State.setBytes_f_arrs (k b) : (s.setBytes k b).arrs = s.arrs := rfl
@[simp] theorem State.setBytes_f_banks (k b) : (s.setBytes k b).banks = s.banks := rfl
@[simp] theorem State.setBytes_f_dies (k b) : (s.setBytes k b).dies = s.dies := rfl
@[simp] theorem State.setBytes_f_ops (k b) : (s.setBytes k b).ops = s.ops := rfl
@[simp] theorem State.setBytes_f_pumps (k b) : (s.setBytes k b).pumps = s.pumps := rfl
@[simp] theorem State.setBytes_f_pumpHeads (k b) : (s.setBytes k b).pumpHeads = s.pumpHeads := rfl
@[simp] theorem State.setBytes_f_replaced (k b) : (s.setBytes k b).replaced = s.replaced := rfl
@[simp] theorem State.setBytes_f_siteJournal (k b) : (s.setBytes k b).siteJournal = s.siteJournal := rfl
@[simp] theorem State.setBytes_f_dikes (k b) : (s.setBytes k b).dikes = s.dikes := rfl
@[simp] theorem State.setBytes_f_hubDike (k b) : (s.setBytes k b).hubDike = s.hubDike := rfl
@[simp] theorem State.setBytes_f_regions (k b) : (s.setBytes k b).regions = s.regions := rfl
@[simp] theorem State.setBytes_f_err (k b) : (s.setBytes k b).err = s.err := rfl
@[simp] theorem State.setBytes_f_dev (k b) : (s.setBytes k b).dev = s.dev := rfl
@[simp] theorem State.setBytes_f_pcie (k b) : (s.setBytes k b).pcie = s.pcie := rfl
@[simp] theorem State.setBytes_f_tb (k b) : (s.setBytes k b).tb = s.tb := rfl
@[simp] theorem State.setBytes_f_mmc (k b) : (s.setBytes k b).mmc = s.mmc := rfl
@[simp] theorem State.setBytes_f_boot (k b) : (s.setBytes k b).boot = s.boot := rfl
@[simp] theorem State.setBytes_f_pwr (k b) : (s.setBytes k b).pwr = s.pwr := rfl
@[simp] theorem State.setBytes_f_feature (k b) : (s.setBytes k b).feature = s.feature := rfl
@[simp] theorem State.setBytes_f_bundles (k b) : (s.setBytes k b).bundles = s.bundles := rfl
@[simp] theorem State.setBytes_f_dlu (k b) : (s.setBytes k b).dlu = s.dlu := rfl
@[simp] theorem State.setBytes_f_links (k b) : (s.setBytes k b).links = s.links := rfl
@[simp] theorem State.setBytes_f_ports (k b) : (s.setBytes k b).ports = s.ports := rfl
@[simp] theorem State.setBytes_f_spare0 (k b) : (s.setBytes k b).spare0 = s.spare0 := rfl
@[simp] theorem State.setBytes_f_spare1 (k b) : (s.setBytes k b).spare1 = s.spare1 := rfl
@[simp] theorem State.setBytes_f_laserJournal (k b) : (s.setBytes k b).laserJournal = s.laserJournal := rfl
@[simp] theorem State.setBytes_f_fab (k b) : (s.setBytes k b).fab = s.fab := rfl
@[simp] theorem State.setBytes_f_col (k b) : (s.setBytes k b).col = s.col := rfl
@[simp] theorem State.setBytes_f_remapJournal (k b) : (s.setBytes k b).remapJournal = s.remapJournal := rfl
@[simp] theorem State.setBytes_f_out (k b) : (s.setBytes k b).out = s.out := rfl
@[simp] theorem State.setBytes_f_ticks (k b) : (s.setBytes k b).ticks = s.ticks := rfl
@[simp] theorem State.setBytes_f_nextId (k b) : (s.setBytes k b).nextId = s.nextId := rfl
@[simp] theorem State.setBytes_f_freeCtr (k b) : (s.setBytes k b).freeCtr = s.freeCtr := rfl
@[simp] theorem State.setBytes_f_pending (k b) : (s.setBytes k b).pending = s.pending := rfl

/-! ## setHostBytes -/

@[simp] theorem State.setHostBytes_thread (k b) (c' t') : (s.setHostBytes k b).thread c' t' = s.thread c' t' := rfl
@[simp] theorem State.setHostBytes_core (k b) (c') : (s.setHostBytes k b).core c' = s.core c' := rfl
@[simp] theorem State.setHostBytes_arr (k b) (c' a') : (s.setHostBytes k b).arr c' a' = s.arr c' a' := rfl
@[simp] theorem State.setHostBytes_bank (k b) (c' a' b') : (s.setHostBytes k b).bank c' a' b' = s.bank c' a' b' := rfl
@[simp] theorem State.setHostBytes_die (k b) (d') : (s.setHostBytes k b).die d' = s.die d' := rfl
@[simp] theorem State.setHostBytes_lcores (k b) : (s.setHostBytes k b).lcores = s.lcores := rfl
@[simp] theorem State.setHostBytes_link (k b) (l') : (s.setHostBytes k b).link l' = s.link l' := rfl
@[simp] theorem State.setHostBytes_bundle (k b) (d') : (s.setHostBytes k b).bundle d' = s.bundle d' := rfl
@[simp] theorem State.setHostBytes_port (k b) (n') : (s.setHostBytes k b).port n' = s.port n' := rfl
@[simp] theorem State.setHostBytes_queue (k b) (q') : (s.setHostBytes k b).queue q' = s.queue q' := rfl
@[simp] theorem State.setHostBytes_f_fuses (k b) : (s.setHostBytes k b).fuses = s.fuses := rfl
@[simp] theorem State.setHostBytes_f_compat (k b) : (s.setHostBytes k b).compat = s.compat := rfl
@[simp] theorem State.setHostBytes_f_nidp (k b) : (s.setHostBytes k b).nidp = s.nidp := rfl
@[simp] theorem State.setHostBytes_f_hubFw (k b) : (s.setHostBytes k b).hubFw = s.hubFw := rfl
@[simp] theorem State.setHostBytes_f_threads (k b) : (s.setHostBytes k b).threads = s.threads := rfl
@[simp] theorem State.setHostBytes_f_cores (k b) : (s.setHostBytes k b).cores = s.cores := rfl
@[simp] theorem State.setHostBytes_f_arrs (k b) : (s.setHostBytes k b).arrs = s.arrs := rfl
@[simp] theorem State.setHostBytes_f_banks (k b) : (s.setHostBytes k b).banks = s.banks := rfl
@[simp] theorem State.setHostBytes_f_dies (k b) : (s.setHostBytes k b).dies = s.dies := rfl
@[simp] theorem State.setHostBytes_f_ops (k b) : (s.setHostBytes k b).ops = s.ops := rfl
@[simp] theorem State.setHostBytes_f_pumps (k b) : (s.setHostBytes k b).pumps = s.pumps := rfl
@[simp] theorem State.setHostBytes_f_pumpHeads (k b) : (s.setHostBytes k b).pumpHeads = s.pumpHeads := rfl
@[simp] theorem State.setHostBytes_f_replaced (k b) : (s.setHostBytes k b).replaced = s.replaced := rfl
@[simp] theorem State.setHostBytes_f_siteJournal (k b) : (s.setHostBytes k b).siteJournal = s.siteJournal := rfl
@[simp] theorem State.setHostBytes_f_dikes (k b) : (s.setHostBytes k b).dikes = s.dikes := rfl
@[simp] theorem State.setHostBytes_f_hubDike (k b) : (s.setHostBytes k b).hubDike = s.hubDike := rfl
@[simp] theorem State.setHostBytes_f_regions (k b) : (s.setHostBytes k b).regions = s.regions := rfl
@[simp] theorem State.setHostBytes_f_err (k b) : (s.setHostBytes k b).err = s.err := rfl
@[simp] theorem State.setHostBytes_f_dev (k b) : (s.setHostBytes k b).dev = s.dev := rfl
@[simp] theorem State.setHostBytes_f_pcie (k b) : (s.setHostBytes k b).pcie = s.pcie := rfl
@[simp] theorem State.setHostBytes_f_tb (k b) : (s.setHostBytes k b).tb = s.tb := rfl
@[simp] theorem State.setHostBytes_f_mmc (k b) : (s.setHostBytes k b).mmc = s.mmc := rfl
@[simp] theorem State.setHostBytes_f_boot (k b) : (s.setHostBytes k b).boot = s.boot := rfl
@[simp] theorem State.setHostBytes_f_pwr (k b) : (s.setHostBytes k b).pwr = s.pwr := rfl
@[simp] theorem State.setHostBytes_f_feature (k b) : (s.setHostBytes k b).feature = s.feature := rfl
@[simp] theorem State.setHostBytes_f_bundles (k b) : (s.setHostBytes k b).bundles = s.bundles := rfl
@[simp] theorem State.setHostBytes_f_dlu (k b) : (s.setHostBytes k b).dlu = s.dlu := rfl
@[simp] theorem State.setHostBytes_f_links (k b) : (s.setHostBytes k b).links = s.links := rfl
@[simp] theorem State.setHostBytes_f_ports (k b) : (s.setHostBytes k b).ports = s.ports := rfl
@[simp] theorem State.setHostBytes_f_spare0 (k b) : (s.setHostBytes k b).spare0 = s.spare0 := rfl
@[simp] theorem State.setHostBytes_f_spare1 (k b) : (s.setHostBytes k b).spare1 = s.spare1 := rfl
@[simp] theorem State.setHostBytes_f_laserJournal (k b) : (s.setHostBytes k b).laserJournal = s.laserJournal := rfl
@[simp] theorem State.setHostBytes_f_fab (k b) : (s.setHostBytes k b).fab = s.fab := rfl
@[simp] theorem State.setHostBytes_f_col (k b) : (s.setHostBytes k b).col = s.col := rfl
@[simp] theorem State.setHostBytes_f_remapJournal (k b) : (s.setHostBytes k b).remapJournal = s.remapJournal := rfl
@[simp] theorem State.setHostBytes_f_out (k b) : (s.setHostBytes k b).out = s.out := rfl
@[simp] theorem State.setHostBytes_f_ticks (k b) : (s.setHostBytes k b).ticks = s.ticks := rfl
@[simp] theorem State.setHostBytes_f_nextId (k b) : (s.setHostBytes k b).nextId = s.nextId := rfl
@[simp] theorem State.setHostBytes_f_freeCtr (k b) : (s.setHostBytes k b).freeCtr = s.freeCtr := rfl
@[simp] theorem State.setHostBytes_f_pending (k b) : (s.setHostBytes k b).pending = s.pending := rfl

/-! ## setWordMark -/

@[simp] theorem State.setWordMark_thread (k v) (c' t') : (s.setWordMark k v).thread c' t' = s.thread c' t' := rfl
@[simp] theorem State.setWordMark_core (k v) (c') : (s.setWordMark k v).core c' = s.core c' := rfl
@[simp] theorem State.setWordMark_arr (k v) (c' a') : (s.setWordMark k v).arr c' a' = s.arr c' a' := rfl
@[simp] theorem State.setWordMark_bank (k v) (c' a' b') : (s.setWordMark k v).bank c' a' b' = s.bank c' a' b' := rfl
@[simp] theorem State.setWordMark_die (k v) (d') : (s.setWordMark k v).die d' = s.die d' := rfl
@[simp] theorem State.setWordMark_lcores (k v) : (s.setWordMark k v).lcores = s.lcores := rfl
@[simp] theorem State.setWordMark_link (k v) (l') : (s.setWordMark k v).link l' = s.link l' := rfl
@[simp] theorem State.setWordMark_bundle (k v) (d') : (s.setWordMark k v).bundle d' = s.bundle d' := rfl
@[simp] theorem State.setWordMark_port (k v) (n') : (s.setWordMark k v).port n' = s.port n' := rfl
@[simp] theorem State.setWordMark_queue (k v) (q') : (s.setWordMark k v).queue q' = s.queue q' := rfl
@[simp] theorem State.setWordMark_f_fuses (k v) : (s.setWordMark k v).fuses = s.fuses := rfl
@[simp] theorem State.setWordMark_f_compat (k v) : (s.setWordMark k v).compat = s.compat := rfl
@[simp] theorem State.setWordMark_f_nidp (k v) : (s.setWordMark k v).nidp = s.nidp := rfl
@[simp] theorem State.setWordMark_f_hubFw (k v) : (s.setWordMark k v).hubFw = s.hubFw := rfl
@[simp] theorem State.setWordMark_f_threads (k v) : (s.setWordMark k v).threads = s.threads := rfl
@[simp] theorem State.setWordMark_f_cores (k v) : (s.setWordMark k v).cores = s.cores := rfl
@[simp] theorem State.setWordMark_f_arrs (k v) : (s.setWordMark k v).arrs = s.arrs := rfl
@[simp] theorem State.setWordMark_f_banks (k v) : (s.setWordMark k v).banks = s.banks := rfl
@[simp] theorem State.setWordMark_f_dies (k v) : (s.setWordMark k v).dies = s.dies := rfl
@[simp] theorem State.setWordMark_f_ops (k v) : (s.setWordMark k v).ops = s.ops := rfl
@[simp] theorem State.setWordMark_f_pumps (k v) : (s.setWordMark k v).pumps = s.pumps := rfl
@[simp] theorem State.setWordMark_f_pumpHeads (k v) : (s.setWordMark k v).pumpHeads = s.pumpHeads := rfl
@[simp] theorem State.setWordMark_f_replaced (k v) : (s.setWordMark k v).replaced = s.replaced := rfl
@[simp] theorem State.setWordMark_f_siteJournal (k v) : (s.setWordMark k v).siteJournal = s.siteJournal := rfl
@[simp] theorem State.setWordMark_f_dikes (k v) : (s.setWordMark k v).dikes = s.dikes := rfl
@[simp] theorem State.setWordMark_f_hubDike (k v) : (s.setWordMark k v).hubDike = s.hubDike := rfl
@[simp] theorem State.setWordMark_f_regions (k v) : (s.setWordMark k v).regions = s.regions := rfl
@[simp] theorem State.setWordMark_f_err (k v) : (s.setWordMark k v).err = s.err := rfl
@[simp] theorem State.setWordMark_f_dev (k v) : (s.setWordMark k v).dev = s.dev := rfl
@[simp] theorem State.setWordMark_f_pcie (k v) : (s.setWordMark k v).pcie = s.pcie := rfl
@[simp] theorem State.setWordMark_f_tb (k v) : (s.setWordMark k v).tb = s.tb := rfl
@[simp] theorem State.setWordMark_f_mmc (k v) : (s.setWordMark k v).mmc = s.mmc := rfl
@[simp] theorem State.setWordMark_f_boot (k v) : (s.setWordMark k v).boot = s.boot := rfl
@[simp] theorem State.setWordMark_f_pwr (k v) : (s.setWordMark k v).pwr = s.pwr := rfl
@[simp] theorem State.setWordMark_f_feature (k v) : (s.setWordMark k v).feature = s.feature := rfl
@[simp] theorem State.setWordMark_f_bundles (k v) : (s.setWordMark k v).bundles = s.bundles := rfl
@[simp] theorem State.setWordMark_f_dlu (k v) : (s.setWordMark k v).dlu = s.dlu := rfl
@[simp] theorem State.setWordMark_f_links (k v) : (s.setWordMark k v).links = s.links := rfl
@[simp] theorem State.setWordMark_f_ports (k v) : (s.setWordMark k v).ports = s.ports := rfl
@[simp] theorem State.setWordMark_f_spare0 (k v) : (s.setWordMark k v).spare0 = s.spare0 := rfl
@[simp] theorem State.setWordMark_f_spare1 (k v) : (s.setWordMark k v).spare1 = s.spare1 := rfl
@[simp] theorem State.setWordMark_f_laserJournal (k v) : (s.setWordMark k v).laserJournal = s.laserJournal := rfl
@[simp] theorem State.setWordMark_f_fab (k v) : (s.setWordMark k v).fab = s.fab := rfl
@[simp] theorem State.setWordMark_f_col (k v) : (s.setWordMark k v).col = s.col := rfl
@[simp] theorem State.setWordMark_f_remapJournal (k v) : (s.setWordMark k v).remapJournal = s.remapJournal := rfl
@[simp] theorem State.setWordMark_f_out (k v) : (s.setWordMark k v).out = s.out := rfl
@[simp] theorem State.setWordMark_f_ticks (k v) : (s.setWordMark k v).ticks = s.ticks := rfl
@[simp] theorem State.setWordMark_f_nextId (k v) : (s.setWordMark k v).nextId = s.nextId := rfl
@[simp] theorem State.setWordMark_f_freeCtr (k v) : (s.setWordMark k v).freeCtr = s.freeCtr := rfl
@[simp] theorem State.setWordMark_f_pending (k v) : (s.setWordMark k v).pending = s.pending := rfl

/-! ## setLink -/

@[simp] theorem State.setLink_thread (l x) (c' t') : (s.setLink l x).thread c' t' = s.thread c' t' := rfl
@[simp] theorem State.setLink_core (l x) (c') : (s.setLink l x).core c' = s.core c' := rfl
@[simp] theorem State.setLink_arr (l x) (c' a') : (s.setLink l x).arr c' a' = s.arr c' a' := rfl
@[simp] theorem State.setLink_bank (l x) (c' a' b') : (s.setLink l x).bank c' a' b' = s.bank c' a' b' := rfl
@[simp] theorem State.setLink_die (l x) (d') : (s.setLink l x).die d' = s.die d' := rfl
@[simp] theorem State.setLink_lcores (l x) : (s.setLink l x).lcores = s.lcores := rfl
@[simp] theorem State.setLink_bundle (l x) (d') : (s.setLink l x).bundle d' = s.bundle d' := rfl
@[simp] theorem State.setLink_port (l x) (n') : (s.setLink l x).port n' = s.port n' := rfl
@[simp] theorem State.setLink_queue (l x) (q') : (s.setLink l x).queue q' = s.queue q' := rfl
@[simp] theorem State.setLink_f_fuses (l x) : (s.setLink l x).fuses = s.fuses := rfl
@[simp] theorem State.setLink_f_compat (l x) : (s.setLink l x).compat = s.compat := rfl
@[simp] theorem State.setLink_f_nidp (l x) : (s.setLink l x).nidp = s.nidp := rfl
@[simp] theorem State.setLink_f_hubFw (l x) : (s.setLink l x).hubFw = s.hubFw := rfl
@[simp] theorem State.setLink_f_threads (l x) : (s.setLink l x).threads = s.threads := rfl
@[simp] theorem State.setLink_f_cores (l x) : (s.setLink l x).cores = s.cores := rfl
@[simp] theorem State.setLink_f_arrs (l x) : (s.setLink l x).arrs = s.arrs := rfl
@[simp] theorem State.setLink_f_banks (l x) : (s.setLink l x).banks = s.banks := rfl
@[simp] theorem State.setLink_f_dies (l x) : (s.setLink l x).dies = s.dies := rfl
@[simp] theorem State.setLink_f_ops (l x) : (s.setLink l x).ops = s.ops := rfl
@[simp] theorem State.setLink_f_pumps (l x) : (s.setLink l x).pumps = s.pumps := rfl
@[simp] theorem State.setLink_f_pumpHeads (l x) : (s.setLink l x).pumpHeads = s.pumpHeads := rfl
@[simp] theorem State.setLink_f_mem (l x) : (s.setLink l x).mem = s.mem := rfl
@[simp] theorem State.setLink_f_replaced (l x) : (s.setLink l x).replaced = s.replaced := rfl
@[simp] theorem State.setLink_f_siteJournal (l x) : (s.setLink l x).siteJournal = s.siteJournal := rfl
@[simp] theorem State.setLink_f_dikes (l x) : (s.setLink l x).dikes = s.dikes := rfl
@[simp] theorem State.setLink_f_hubDike (l x) : (s.setLink l x).hubDike = s.hubDike := rfl
@[simp] theorem State.setLink_f_regions (l x) : (s.setLink l x).regions = s.regions := rfl
@[simp] theorem State.setLink_f_err (l x) : (s.setLink l x).err = s.err := rfl
@[simp] theorem State.setLink_f_dev (l x) : (s.setLink l x).dev = s.dev := rfl
@[simp] theorem State.setLink_f_pcie (l x) : (s.setLink l x).pcie = s.pcie := rfl
@[simp] theorem State.setLink_f_tb (l x) : (s.setLink l x).tb = s.tb := rfl
@[simp] theorem State.setLink_f_mmc (l x) : (s.setLink l x).mmc = s.mmc := rfl
@[simp] theorem State.setLink_f_boot (l x) : (s.setLink l x).boot = s.boot := rfl
@[simp] theorem State.setLink_f_pwr (l x) : (s.setLink l x).pwr = s.pwr := rfl
@[simp] theorem State.setLink_f_feature (l x) : (s.setLink l x).feature = s.feature := rfl
@[simp] theorem State.setLink_f_bundles (l x) : (s.setLink l x).bundles = s.bundles := rfl
@[simp] theorem State.setLink_f_dlu (l x) : (s.setLink l x).dlu = s.dlu := rfl
@[simp] theorem State.setLink_f_ports (l x) : (s.setLink l x).ports = s.ports := rfl
@[simp] theorem State.setLink_f_spare0 (l x) : (s.setLink l x).spare0 = s.spare0 := rfl
@[simp] theorem State.setLink_f_spare1 (l x) : (s.setLink l x).spare1 = s.spare1 := rfl
@[simp] theorem State.setLink_f_laserJournal (l x) : (s.setLink l x).laserJournal = s.laserJournal := rfl
@[simp] theorem State.setLink_f_fab (l x) : (s.setLink l x).fab = s.fab := rfl
@[simp] theorem State.setLink_f_col (l x) : (s.setLink l x).col = s.col := rfl
@[simp] theorem State.setLink_f_remapJournal (l x) : (s.setLink l x).remapJournal = s.remapJournal := rfl
@[simp] theorem State.setLink_f_out (l x) : (s.setLink l x).out = s.out := rfl
@[simp] theorem State.setLink_f_ticks (l x) : (s.setLink l x).ticks = s.ticks := rfl
@[simp] theorem State.setLink_f_nextId (l x) : (s.setLink l x).nextId = s.nextId := rfl
@[simp] theorem State.setLink_f_freeCtr (l x) : (s.setLink l x).freeCtr = s.freeCtr := rfl
@[simp] theorem State.setLink_f_pending (l x) : (s.setLink l x).pending = s.pending := rfl

/-! ## modPort -/

@[simp] theorem State.modPort_thread (n f) (c' t') : (s.modPort n f).thread c' t' = s.thread c' t' := rfl
@[simp] theorem State.modPort_core (n f) (c') : (s.modPort n f).core c' = s.core c' := rfl
@[simp] theorem State.modPort_arr (n f) (c' a') : (s.modPort n f).arr c' a' = s.arr c' a' := rfl
@[simp] theorem State.modPort_bank (n f) (c' a' b') : (s.modPort n f).bank c' a' b' = s.bank c' a' b' := rfl
@[simp] theorem State.modPort_die (n f) (d') : (s.modPort n f).die d' = s.die d' := rfl
@[simp] theorem State.modPort_lcores (n f) : (s.modPort n f).lcores = s.lcores := rfl
@[simp] theorem State.modPort_link (n f) (l') : (s.modPort n f).link l' = s.link l' := rfl
@[simp] theorem State.modPort_bundle (n f) (d') : (s.modPort n f).bundle d' = s.bundle d' := rfl
@[simp] theorem State.modPort_queue (n f) (q') : (s.modPort n f).queue q' = s.queue q' := rfl
@[simp] theorem State.modPort_f_fuses (n f) : (s.modPort n f).fuses = s.fuses := rfl
@[simp] theorem State.modPort_f_compat (n f) : (s.modPort n f).compat = s.compat := rfl
@[simp] theorem State.modPort_f_nidp (n f) : (s.modPort n f).nidp = s.nidp := rfl
@[simp] theorem State.modPort_f_hubFw (n f) : (s.modPort n f).hubFw = s.hubFw := rfl
@[simp] theorem State.modPort_f_threads (n f) : (s.modPort n f).threads = s.threads := rfl
@[simp] theorem State.modPort_f_cores (n f) : (s.modPort n f).cores = s.cores := rfl
@[simp] theorem State.modPort_f_arrs (n f) : (s.modPort n f).arrs = s.arrs := rfl
@[simp] theorem State.modPort_f_banks (n f) : (s.modPort n f).banks = s.banks := rfl
@[simp] theorem State.modPort_f_dies (n f) : (s.modPort n f).dies = s.dies := rfl
@[simp] theorem State.modPort_f_ops (n f) : (s.modPort n f).ops = s.ops := rfl
@[simp] theorem State.modPort_f_pumps (n f) : (s.modPort n f).pumps = s.pumps := rfl
@[simp] theorem State.modPort_f_pumpHeads (n f) : (s.modPort n f).pumpHeads = s.pumpHeads := rfl
@[simp] theorem State.modPort_f_mem (n f) : (s.modPort n f).mem = s.mem := rfl
@[simp] theorem State.modPort_f_replaced (n f) : (s.modPort n f).replaced = s.replaced := rfl
@[simp] theorem State.modPort_f_siteJournal (n f) : (s.modPort n f).siteJournal = s.siteJournal := rfl
@[simp] theorem State.modPort_f_dikes (n f) : (s.modPort n f).dikes = s.dikes := rfl
@[simp] theorem State.modPort_f_hubDike (n f) : (s.modPort n f).hubDike = s.hubDike := rfl
@[simp] theorem State.modPort_f_regions (n f) : (s.modPort n f).regions = s.regions := rfl
@[simp] theorem State.modPort_f_err (n f) : (s.modPort n f).err = s.err := rfl
@[simp] theorem State.modPort_f_dev (n f) : (s.modPort n f).dev = s.dev := rfl
@[simp] theorem State.modPort_f_pcie (n f) : (s.modPort n f).pcie = s.pcie := rfl
@[simp] theorem State.modPort_f_tb (n f) : (s.modPort n f).tb = s.tb := rfl
@[simp] theorem State.modPort_f_mmc (n f) : (s.modPort n f).mmc = s.mmc := rfl
@[simp] theorem State.modPort_f_boot (n f) : (s.modPort n f).boot = s.boot := rfl
@[simp] theorem State.modPort_f_pwr (n f) : (s.modPort n f).pwr = s.pwr := rfl
@[simp] theorem State.modPort_f_feature (n f) : (s.modPort n f).feature = s.feature := rfl
@[simp] theorem State.modPort_f_bundles (n f) : (s.modPort n f).bundles = s.bundles := rfl
@[simp] theorem State.modPort_f_dlu (n f) : (s.modPort n f).dlu = s.dlu := rfl
@[simp] theorem State.modPort_f_links (n f) : (s.modPort n f).links = s.links := rfl
@[simp] theorem State.modPort_f_spare0 (n f) : (s.modPort n f).spare0 = s.spare0 := rfl
@[simp] theorem State.modPort_f_spare1 (n f) : (s.modPort n f).spare1 = s.spare1 := rfl
@[simp] theorem State.modPort_f_laserJournal (n f) : (s.modPort n f).laserJournal = s.laserJournal := rfl
@[simp] theorem State.modPort_f_fab (n f) : (s.modPort n f).fab = s.fab := rfl
@[simp] theorem State.modPort_f_col (n f) : (s.modPort n f).col = s.col := rfl
@[simp] theorem State.modPort_f_remapJournal (n f) : (s.modPort n f).remapJournal = s.remapJournal := rfl
@[simp] theorem State.modPort_f_out (n f) : (s.modPort n f).out = s.out := rfl
@[simp] theorem State.modPort_f_ticks (n f) : (s.modPort n f).ticks = s.ticks := rfl
@[simp] theorem State.modPort_f_nextId (n f) : (s.modPort n f).nextId = s.nextId := rfl
@[simp] theorem State.modPort_f_freeCtr (n f) : (s.modPort n f).freeCtr = s.freeCtr := rfl
@[simp] theorem State.modPort_f_pending (n f) : (s.modPort n f).pending = s.pending := rfl

/-! ## modWave -/

@[simp] theorem State.modWave_thread (n k f) (c' t') : (s.modWave n k f).thread c' t' = s.thread c' t' := rfl
@[simp] theorem State.modWave_core (n k f) (c') : (s.modWave n k f).core c' = s.core c' := rfl
@[simp] theorem State.modWave_arr (n k f) (c' a') : (s.modWave n k f).arr c' a' = s.arr c' a' := rfl
@[simp] theorem State.modWave_bank (n k f) (c' a' b') : (s.modWave n k f).bank c' a' b' = s.bank c' a' b' := rfl
@[simp] theorem State.modWave_die (n k f) (d') : (s.modWave n k f).die d' = s.die d' := rfl
@[simp] theorem State.modWave_lcores (n k f) : (s.modWave n k f).lcores = s.lcores := rfl
@[simp] theorem State.modWave_link (n k f) (l') : (s.modWave n k f).link l' = s.link l' := rfl
@[simp] theorem State.modWave_bundle (n k f) (d') : (s.modWave n k f).bundle d' = s.bundle d' := rfl
@[simp] theorem State.modWave_queue (n k f) (q') : (s.modWave n k f).queue q' = s.queue q' := rfl
@[simp] theorem State.modWave_f_fuses (n k f) : (s.modWave n k f).fuses = s.fuses := rfl
@[simp] theorem State.modWave_f_compat (n k f) : (s.modWave n k f).compat = s.compat := rfl
@[simp] theorem State.modWave_f_nidp (n k f) : (s.modWave n k f).nidp = s.nidp := rfl
@[simp] theorem State.modWave_f_hubFw (n k f) : (s.modWave n k f).hubFw = s.hubFw := rfl
@[simp] theorem State.modWave_f_threads (n k f) : (s.modWave n k f).threads = s.threads := rfl
@[simp] theorem State.modWave_f_cores (n k f) : (s.modWave n k f).cores = s.cores := rfl
@[simp] theorem State.modWave_f_arrs (n k f) : (s.modWave n k f).arrs = s.arrs := rfl
@[simp] theorem State.modWave_f_banks (n k f) : (s.modWave n k f).banks = s.banks := rfl
@[simp] theorem State.modWave_f_dies (n k f) : (s.modWave n k f).dies = s.dies := rfl
@[simp] theorem State.modWave_f_ops (n k f) : (s.modWave n k f).ops = s.ops := rfl
@[simp] theorem State.modWave_f_pumps (n k f) : (s.modWave n k f).pumps = s.pumps := rfl
@[simp] theorem State.modWave_f_pumpHeads (n k f) : (s.modWave n k f).pumpHeads = s.pumpHeads := rfl
@[simp] theorem State.modWave_f_mem (n k f) : (s.modWave n k f).mem = s.mem := rfl
@[simp] theorem State.modWave_f_replaced (n k f) : (s.modWave n k f).replaced = s.replaced := rfl
@[simp] theorem State.modWave_f_siteJournal (n k f) : (s.modWave n k f).siteJournal = s.siteJournal := rfl
@[simp] theorem State.modWave_f_dikes (n k f) : (s.modWave n k f).dikes = s.dikes := rfl
@[simp] theorem State.modWave_f_hubDike (n k f) : (s.modWave n k f).hubDike = s.hubDike := rfl
@[simp] theorem State.modWave_f_regions (n k f) : (s.modWave n k f).regions = s.regions := rfl
@[simp] theorem State.modWave_f_err (n k f) : (s.modWave n k f).err = s.err := rfl
@[simp] theorem State.modWave_f_dev (n k f) : (s.modWave n k f).dev = s.dev := rfl
@[simp] theorem State.modWave_f_pcie (n k f) : (s.modWave n k f).pcie = s.pcie := rfl
@[simp] theorem State.modWave_f_tb (n k f) : (s.modWave n k f).tb = s.tb := rfl
@[simp] theorem State.modWave_f_mmc (n k f) : (s.modWave n k f).mmc = s.mmc := rfl
@[simp] theorem State.modWave_f_boot (n k f) : (s.modWave n k f).boot = s.boot := rfl
@[simp] theorem State.modWave_f_pwr (n k f) : (s.modWave n k f).pwr = s.pwr := rfl
@[simp] theorem State.modWave_f_feature (n k f) : (s.modWave n k f).feature = s.feature := rfl
@[simp] theorem State.modWave_f_bundles (n k f) : (s.modWave n k f).bundles = s.bundles := rfl
@[simp] theorem State.modWave_f_dlu (n k f) : (s.modWave n k f).dlu = s.dlu := rfl
@[simp] theorem State.modWave_f_links (n k f) : (s.modWave n k f).links = s.links := rfl
@[simp] theorem State.modWave_f_spare0 (n k f) : (s.modWave n k f).spare0 = s.spare0 := rfl
@[simp] theorem State.modWave_f_spare1 (n k f) : (s.modWave n k f).spare1 = s.spare1 := rfl
@[simp] theorem State.modWave_f_laserJournal (n k f) : (s.modWave n k f).laserJournal = s.laserJournal := rfl
@[simp] theorem State.modWave_f_fab (n k f) : (s.modWave n k f).fab = s.fab := rfl
@[simp] theorem State.modWave_f_col (n k f) : (s.modWave n k f).col = s.col := rfl
@[simp] theorem State.modWave_f_remapJournal (n k f) : (s.modWave n k f).remapJournal = s.remapJournal := rfl
@[simp] theorem State.modWave_f_out (n k f) : (s.modWave n k f).out = s.out := rfl
@[simp] theorem State.modWave_f_ticks (n k f) : (s.modWave n k f).ticks = s.ticks := rfl
@[simp] theorem State.modWave_f_nextId (n k f) : (s.modWave n k f).nextId = s.nextId := rfl
@[simp] theorem State.modWave_f_freeCtr (n k f) : (s.modWave n k f).freeCtr = s.freeCtr := rfl
@[simp] theorem State.modWave_f_pending (n k f) : (s.modWave n k f).pending = s.pending := rfl

/-! ## setBundle -/

@[simp] theorem State.setBundle_thread (d b) (c' t') : (s.setBundle d b).thread c' t' = s.thread c' t' := rfl
@[simp] theorem State.setBundle_core (d b) (c') : (s.setBundle d b).core c' = s.core c' := rfl
@[simp] theorem State.setBundle_arr (d b) (c' a') : (s.setBundle d b).arr c' a' = s.arr c' a' := rfl
@[simp] theorem State.setBundle_bank (d b) (c' a' b') : (s.setBundle d b).bank c' a' b' = s.bank c' a' b' := rfl
@[simp] theorem State.setBundle_die (d b) (d') : (s.setBundle d b).die d' = s.die d' := rfl
@[simp] theorem State.setBundle_lcores (d b) : (s.setBundle d b).lcores = s.lcores := rfl
@[simp] theorem State.setBundle_link (d b) (l') : (s.setBundle d b).link l' = s.link l' := rfl
@[simp] theorem State.setBundle_port (d b) (n') : (s.setBundle d b).port n' = s.port n' := rfl
@[simp] theorem State.setBundle_queue (d b) (q') : (s.setBundle d b).queue q' = s.queue q' := rfl
@[simp] theorem State.setBundle_f_fuses (d b) : (s.setBundle d b).fuses = s.fuses := rfl
@[simp] theorem State.setBundle_f_compat (d b) : (s.setBundle d b).compat = s.compat := rfl
@[simp] theorem State.setBundle_f_nidp (d b) : (s.setBundle d b).nidp = s.nidp := rfl
@[simp] theorem State.setBundle_f_hubFw (d b) : (s.setBundle d b).hubFw = s.hubFw := rfl
@[simp] theorem State.setBundle_f_threads (d b) : (s.setBundle d b).threads = s.threads := rfl
@[simp] theorem State.setBundle_f_cores (d b) : (s.setBundle d b).cores = s.cores := rfl
@[simp] theorem State.setBundle_f_arrs (d b) : (s.setBundle d b).arrs = s.arrs := rfl
@[simp] theorem State.setBundle_f_banks (d b) : (s.setBundle d b).banks = s.banks := rfl
@[simp] theorem State.setBundle_f_dies (d b) : (s.setBundle d b).dies = s.dies := rfl
@[simp] theorem State.setBundle_f_ops (d b) : (s.setBundle d b).ops = s.ops := rfl
@[simp] theorem State.setBundle_f_pumps (d b) : (s.setBundle d b).pumps = s.pumps := rfl
@[simp] theorem State.setBundle_f_pumpHeads (d b) : (s.setBundle d b).pumpHeads = s.pumpHeads := rfl
@[simp] theorem State.setBundle_f_mem (d b) : (s.setBundle d b).mem = s.mem := rfl
@[simp] theorem State.setBundle_f_replaced (d b) : (s.setBundle d b).replaced = s.replaced := rfl
@[simp] theorem State.setBundle_f_siteJournal (d b) : (s.setBundle d b).siteJournal = s.siteJournal := rfl
@[simp] theorem State.setBundle_f_dikes (d b) : (s.setBundle d b).dikes = s.dikes := rfl
@[simp] theorem State.setBundle_f_hubDike (d b) : (s.setBundle d b).hubDike = s.hubDike := rfl
@[simp] theorem State.setBundle_f_regions (d b) : (s.setBundle d b).regions = s.regions := rfl
@[simp] theorem State.setBundle_f_err (d b) : (s.setBundle d b).err = s.err := rfl
@[simp] theorem State.setBundle_f_dev (d b) : (s.setBundle d b).dev = s.dev := rfl
@[simp] theorem State.setBundle_f_pcie (d b) : (s.setBundle d b).pcie = s.pcie := rfl
@[simp] theorem State.setBundle_f_tb (d b) : (s.setBundle d b).tb = s.tb := rfl
@[simp] theorem State.setBundle_f_mmc (d b) : (s.setBundle d b).mmc = s.mmc := rfl
@[simp] theorem State.setBundle_f_boot (d b) : (s.setBundle d b).boot = s.boot := rfl
@[simp] theorem State.setBundle_f_pwr (d b) : (s.setBundle d b).pwr = s.pwr := rfl
@[simp] theorem State.setBundle_f_feature (d b) : (s.setBundle d b).feature = s.feature := rfl
@[simp] theorem State.setBundle_f_dlu (d b) : (s.setBundle d b).dlu = s.dlu := rfl
@[simp] theorem State.setBundle_f_links (d b) : (s.setBundle d b).links = s.links := rfl
@[simp] theorem State.setBundle_f_ports (d b) : (s.setBundle d b).ports = s.ports := rfl
@[simp] theorem State.setBundle_f_spare0 (d b) : (s.setBundle d b).spare0 = s.spare0 := rfl
@[simp] theorem State.setBundle_f_spare1 (d b) : (s.setBundle d b).spare1 = s.spare1 := rfl
@[simp] theorem State.setBundle_f_laserJournal (d b) : (s.setBundle d b).laserJournal = s.laserJournal := rfl
@[simp] theorem State.setBundle_f_fab (d b) : (s.setBundle d b).fab = s.fab := rfl
@[simp] theorem State.setBundle_f_col (d b) : (s.setBundle d b).col = s.col := rfl
@[simp] theorem State.setBundle_f_remapJournal (d b) : (s.setBundle d b).remapJournal = s.remapJournal := rfl
@[simp] theorem State.setBundle_f_out (d b) : (s.setBundle d b).out = s.out := rfl
@[simp] theorem State.setBundle_f_ticks (d b) : (s.setBundle d b).ticks = s.ticks := rfl
@[simp] theorem State.setBundle_f_nextId (d b) : (s.setBundle d b).nextId = s.nextId := rfl
@[simp] theorem State.setBundle_f_freeCtr (d b) : (s.setBundle d b).freeCtr = s.freeCtr := rfl
@[simp] theorem State.setBundle_f_pending (d b) : (s.setBundle d b).pending = s.pending := rfl

/-! ## modFab -/

@[simp] theorem State.modFab_thread (f) (c' t') : (s.modFab f).thread c' t' = s.thread c' t' := rfl
@[simp] theorem State.modFab_core (f) (c') : (s.modFab f).core c' = s.core c' := rfl
@[simp] theorem State.modFab_arr (f) (c' a') : (s.modFab f).arr c' a' = s.arr c' a' := rfl
@[simp] theorem State.modFab_bank (f) (c' a' b') : (s.modFab f).bank c' a' b' = s.bank c' a' b' := rfl
@[simp] theorem State.modFab_die (f) (d') : (s.modFab f).die d' = s.die d' := rfl
@[simp] theorem State.modFab_lcores (f) : (s.modFab f).lcores = s.lcores := rfl
@[simp] theorem State.modFab_link (f) (l') : (s.modFab f).link l' = s.link l' := rfl
@[simp] theorem State.modFab_bundle (f) (d') : (s.modFab f).bundle d' = s.bundle d' := rfl
@[simp] theorem State.modFab_port (f) (n') : (s.modFab f).port n' = s.port n' := rfl
@[simp] theorem State.modFab_queue (f) (q') : (s.modFab f).queue q' = s.queue q' := rfl
@[simp] theorem State.modFab_f_fuses (f) : (s.modFab f).fuses = s.fuses := rfl
@[simp] theorem State.modFab_f_compat (f) : (s.modFab f).compat = s.compat := rfl
@[simp] theorem State.modFab_f_nidp (f) : (s.modFab f).nidp = s.nidp := rfl
@[simp] theorem State.modFab_f_hubFw (f) : (s.modFab f).hubFw = s.hubFw := rfl
@[simp] theorem State.modFab_f_threads (f) : (s.modFab f).threads = s.threads := rfl
@[simp] theorem State.modFab_f_cores (f) : (s.modFab f).cores = s.cores := rfl
@[simp] theorem State.modFab_f_arrs (f) : (s.modFab f).arrs = s.arrs := rfl
@[simp] theorem State.modFab_f_banks (f) : (s.modFab f).banks = s.banks := rfl
@[simp] theorem State.modFab_f_dies (f) : (s.modFab f).dies = s.dies := rfl
@[simp] theorem State.modFab_f_ops (f) : (s.modFab f).ops = s.ops := rfl
@[simp] theorem State.modFab_f_pumps (f) : (s.modFab f).pumps = s.pumps := rfl
@[simp] theorem State.modFab_f_pumpHeads (f) : (s.modFab f).pumpHeads = s.pumpHeads := rfl
@[simp] theorem State.modFab_f_mem (f) : (s.modFab f).mem = s.mem := rfl
@[simp] theorem State.modFab_f_replaced (f) : (s.modFab f).replaced = s.replaced := rfl
@[simp] theorem State.modFab_f_siteJournal (f) : (s.modFab f).siteJournal = s.siteJournal := rfl
@[simp] theorem State.modFab_f_dikes (f) : (s.modFab f).dikes = s.dikes := rfl
@[simp] theorem State.modFab_f_hubDike (f) : (s.modFab f).hubDike = s.hubDike := rfl
@[simp] theorem State.modFab_f_regions (f) : (s.modFab f).regions = s.regions := rfl
@[simp] theorem State.modFab_f_err (f) : (s.modFab f).err = s.err := rfl
@[simp] theorem State.modFab_f_dev (f) : (s.modFab f).dev = s.dev := rfl
@[simp] theorem State.modFab_f_pcie (f) : (s.modFab f).pcie = s.pcie := rfl
@[simp] theorem State.modFab_f_tb (f) : (s.modFab f).tb = s.tb := rfl
@[simp] theorem State.modFab_f_mmc (f) : (s.modFab f).mmc = s.mmc := rfl
@[simp] theorem State.modFab_f_boot (f) : (s.modFab f).boot = s.boot := rfl
@[simp] theorem State.modFab_f_pwr (f) : (s.modFab f).pwr = s.pwr := rfl
@[simp] theorem State.modFab_f_feature (f) : (s.modFab f).feature = s.feature := rfl
@[simp] theorem State.modFab_f_bundles (f) : (s.modFab f).bundles = s.bundles := rfl
@[simp] theorem State.modFab_f_dlu (f) : (s.modFab f).dlu = s.dlu := rfl
@[simp] theorem State.modFab_f_links (f) : (s.modFab f).links = s.links := rfl
@[simp] theorem State.modFab_f_ports (f) : (s.modFab f).ports = s.ports := rfl
@[simp] theorem State.modFab_f_spare0 (f) : (s.modFab f).spare0 = s.spare0 := rfl
@[simp] theorem State.modFab_f_spare1 (f) : (s.modFab f).spare1 = s.spare1 := rfl
@[simp] theorem State.modFab_f_laserJournal (f) : (s.modFab f).laserJournal = s.laserJournal := rfl
@[simp] theorem State.modFab_f_col (f) : (s.modFab f).col = s.col := rfl
@[simp] theorem State.modFab_f_remapJournal (f) : (s.modFab f).remapJournal = s.remapJournal := rfl
@[simp] theorem State.modFab_f_out (f) : (s.modFab f).out = s.out := rfl
@[simp] theorem State.modFab_f_ticks (f) : (s.modFab f).ticks = s.ticks := rfl
@[simp] theorem State.modFab_f_nextId (f) : (s.modFab f).nextId = s.nextId := rfl
@[simp] theorem State.modFab_f_freeCtr (f) : (s.modFab f).freeCtr = s.freeCtr := rfl
@[simp] theorem State.modFab_f_pending (f) : (s.modFab f).pending = s.pending := rfl

/-! ## modDisc -/

@[simp] theorem State.modDisc_thread (l f) (c' t') : (s.modDisc l f).thread c' t' = s.thread c' t' := rfl
@[simp] theorem State.modDisc_core (l f) (c') : (s.modDisc l f).core c' = s.core c' := rfl
@[simp] theorem State.modDisc_arr (l f) (c' a') : (s.modDisc l f).arr c' a' = s.arr c' a' := rfl
@[simp] theorem State.modDisc_bank (l f) (c' a' b') : (s.modDisc l f).bank c' a' b' = s.bank c' a' b' := rfl
@[simp] theorem State.modDisc_die (l f) (d') : (s.modDisc l f).die d' = s.die d' := rfl
@[simp] theorem State.modDisc_lcores (l f) : (s.modDisc l f).lcores = s.lcores := rfl
@[simp] theorem State.modDisc_link (l f) (l') : (s.modDisc l f).link l' = s.link l' := rfl
@[simp] theorem State.modDisc_bundle (l f) (d') : (s.modDisc l f).bundle d' = s.bundle d' := rfl
@[simp] theorem State.modDisc_port (l f) (n') : (s.modDisc l f).port n' = s.port n' := rfl
@[simp] theorem State.modDisc_queue (l f) (q') : (s.modDisc l f).queue q' = s.queue q' := rfl
@[simp] theorem State.modDisc_f_fuses (l f) : (s.modDisc l f).fuses = s.fuses := rfl
@[simp] theorem State.modDisc_f_compat (l f) : (s.modDisc l f).compat = s.compat := rfl
@[simp] theorem State.modDisc_f_nidp (l f) : (s.modDisc l f).nidp = s.nidp := rfl
@[simp] theorem State.modDisc_f_hubFw (l f) : (s.modDisc l f).hubFw = s.hubFw := rfl
@[simp] theorem State.modDisc_f_threads (l f) : (s.modDisc l f).threads = s.threads := rfl
@[simp] theorem State.modDisc_f_cores (l f) : (s.modDisc l f).cores = s.cores := rfl
@[simp] theorem State.modDisc_f_arrs (l f) : (s.modDisc l f).arrs = s.arrs := rfl
@[simp] theorem State.modDisc_f_banks (l f) : (s.modDisc l f).banks = s.banks := rfl
@[simp] theorem State.modDisc_f_dies (l f) : (s.modDisc l f).dies = s.dies := rfl
@[simp] theorem State.modDisc_f_ops (l f) : (s.modDisc l f).ops = s.ops := rfl
@[simp] theorem State.modDisc_f_pumps (l f) : (s.modDisc l f).pumps = s.pumps := rfl
@[simp] theorem State.modDisc_f_pumpHeads (l f) : (s.modDisc l f).pumpHeads = s.pumpHeads := rfl
@[simp] theorem State.modDisc_f_mem (l f) : (s.modDisc l f).mem = s.mem := rfl
@[simp] theorem State.modDisc_f_replaced (l f) : (s.modDisc l f).replaced = s.replaced := rfl
@[simp] theorem State.modDisc_f_siteJournal (l f) : (s.modDisc l f).siteJournal = s.siteJournal := rfl
@[simp] theorem State.modDisc_f_dikes (l f) : (s.modDisc l f).dikes = s.dikes := rfl
@[simp] theorem State.modDisc_f_hubDike (l f) : (s.modDisc l f).hubDike = s.hubDike := rfl
@[simp] theorem State.modDisc_f_regions (l f) : (s.modDisc l f).regions = s.regions := rfl
@[simp] theorem State.modDisc_f_err (l f) : (s.modDisc l f).err = s.err := rfl
@[simp] theorem State.modDisc_f_dev (l f) : (s.modDisc l f).dev = s.dev := rfl
@[simp] theorem State.modDisc_f_pcie (l f) : (s.modDisc l f).pcie = s.pcie := rfl
@[simp] theorem State.modDisc_f_tb (l f) : (s.modDisc l f).tb = s.tb := rfl
@[simp] theorem State.modDisc_f_mmc (l f) : (s.modDisc l f).mmc = s.mmc := rfl
@[simp] theorem State.modDisc_f_boot (l f) : (s.modDisc l f).boot = s.boot := rfl
@[simp] theorem State.modDisc_f_pwr (l f) : (s.modDisc l f).pwr = s.pwr := rfl
@[simp] theorem State.modDisc_f_feature (l f) : (s.modDisc l f).feature = s.feature := rfl
@[simp] theorem State.modDisc_f_bundles (l f) : (s.modDisc l f).bundles = s.bundles := rfl
@[simp] theorem State.modDisc_f_dlu (l f) : (s.modDisc l f).dlu = s.dlu := rfl
@[simp] theorem State.modDisc_f_links (l f) : (s.modDisc l f).links = s.links := rfl
@[simp] theorem State.modDisc_f_ports (l f) : (s.modDisc l f).ports = s.ports := rfl
@[simp] theorem State.modDisc_f_spare0 (l f) : (s.modDisc l f).spare0 = s.spare0 := rfl
@[simp] theorem State.modDisc_f_spare1 (l f) : (s.modDisc l f).spare1 = s.spare1 := rfl
@[simp] theorem State.modDisc_f_laserJournal (l f) : (s.modDisc l f).laserJournal = s.laserJournal := rfl
@[simp] theorem State.modDisc_f_col (l f) : (s.modDisc l f).col = s.col := rfl
@[simp] theorem State.modDisc_f_remapJournal (l f) : (s.modDisc l f).remapJournal = s.remapJournal := rfl
@[simp] theorem State.modDisc_f_out (l f) : (s.modDisc l f).out = s.out := rfl
@[simp] theorem State.modDisc_f_ticks (l f) : (s.modDisc l f).ticks = s.ticks := rfl
@[simp] theorem State.modDisc_f_nextId (l f) : (s.modDisc l f).nextId = s.nextId := rfl
@[simp] theorem State.modDisc_f_freeCtr (l f) : (s.modDisc l f).freeCtr = s.freeCtr := rfl
@[simp] theorem State.modDisc_f_pending (l f) : (s.modDisc l f).pending = s.pending := rfl

/-! ## modTb -/

@[simp] theorem State.modTb_thread (f) (c' t') : (s.modTb f).thread c' t' = s.thread c' t' := rfl
@[simp] theorem State.modTb_core (f) (c') : (s.modTb f).core c' = s.core c' := rfl
@[simp] theorem State.modTb_arr (f) (c' a') : (s.modTb f).arr c' a' = s.arr c' a' := rfl
@[simp] theorem State.modTb_bank (f) (c' a' b') : (s.modTb f).bank c' a' b' = s.bank c' a' b' := rfl
@[simp] theorem State.modTb_die (f) (d') : (s.modTb f).die d' = s.die d' := rfl
@[simp] theorem State.modTb_lcores (f) : (s.modTb f).lcores = s.lcores := rfl
@[simp] theorem State.modTb_link (f) (l') : (s.modTb f).link l' = s.link l' := rfl
@[simp] theorem State.modTb_bundle (f) (d') : (s.modTb f).bundle d' = s.bundle d' := rfl
@[simp] theorem State.modTb_port (f) (n') : (s.modTb f).port n' = s.port n' := rfl
@[simp] theorem State.modTb_queue (f) (q') : (s.modTb f).queue q' = s.queue q' := rfl
@[simp] theorem State.modTb_f_fuses (f) : (s.modTb f).fuses = s.fuses := rfl
@[simp] theorem State.modTb_f_compat (f) : (s.modTb f).compat = s.compat := rfl
@[simp] theorem State.modTb_f_nidp (f) : (s.modTb f).nidp = s.nidp := rfl
@[simp] theorem State.modTb_f_hubFw (f) : (s.modTb f).hubFw = s.hubFw := rfl
@[simp] theorem State.modTb_f_threads (f) : (s.modTb f).threads = s.threads := rfl
@[simp] theorem State.modTb_f_cores (f) : (s.modTb f).cores = s.cores := rfl
@[simp] theorem State.modTb_f_arrs (f) : (s.modTb f).arrs = s.arrs := rfl
@[simp] theorem State.modTb_f_banks (f) : (s.modTb f).banks = s.banks := rfl
@[simp] theorem State.modTb_f_dies (f) : (s.modTb f).dies = s.dies := rfl
@[simp] theorem State.modTb_f_ops (f) : (s.modTb f).ops = s.ops := rfl
@[simp] theorem State.modTb_f_pumps (f) : (s.modTb f).pumps = s.pumps := rfl
@[simp] theorem State.modTb_f_pumpHeads (f) : (s.modTb f).pumpHeads = s.pumpHeads := rfl
@[simp] theorem State.modTb_f_mem (f) : (s.modTb f).mem = s.mem := rfl
@[simp] theorem State.modTb_f_replaced (f) : (s.modTb f).replaced = s.replaced := rfl
@[simp] theorem State.modTb_f_siteJournal (f) : (s.modTb f).siteJournal = s.siteJournal := rfl
@[simp] theorem State.modTb_f_dikes (f) : (s.modTb f).dikes = s.dikes := rfl
@[simp] theorem State.modTb_f_hubDike (f) : (s.modTb f).hubDike = s.hubDike := rfl
@[simp] theorem State.modTb_f_regions (f) : (s.modTb f).regions = s.regions := rfl
@[simp] theorem State.modTb_f_err (f) : (s.modTb f).err = s.err := rfl
@[simp] theorem State.modTb_f_dev (f) : (s.modTb f).dev = s.dev := rfl
@[simp] theorem State.modTb_f_pcie (f) : (s.modTb f).pcie = s.pcie := rfl
@[simp] theorem State.modTb_f_mmc (f) : (s.modTb f).mmc = s.mmc := rfl
@[simp] theorem State.modTb_f_boot (f) : (s.modTb f).boot = s.boot := rfl
@[simp] theorem State.modTb_f_pwr (f) : (s.modTb f).pwr = s.pwr := rfl
@[simp] theorem State.modTb_f_feature (f) : (s.modTb f).feature = s.feature := rfl
@[simp] theorem State.modTb_f_bundles (f) : (s.modTb f).bundles = s.bundles := rfl
@[simp] theorem State.modTb_f_dlu (f) : (s.modTb f).dlu = s.dlu := rfl
@[simp] theorem State.modTb_f_links (f) : (s.modTb f).links = s.links := rfl
@[simp] theorem State.modTb_f_ports (f) : (s.modTb f).ports = s.ports := rfl
@[simp] theorem State.modTb_f_spare0 (f) : (s.modTb f).spare0 = s.spare0 := rfl
@[simp] theorem State.modTb_f_spare1 (f) : (s.modTb f).spare1 = s.spare1 := rfl
@[simp] theorem State.modTb_f_laserJournal (f) : (s.modTb f).laserJournal = s.laserJournal := rfl
@[simp] theorem State.modTb_f_fab (f) : (s.modTb f).fab = s.fab := rfl
@[simp] theorem State.modTb_f_col (f) : (s.modTb f).col = s.col := rfl
@[simp] theorem State.modTb_f_remapJournal (f) : (s.modTb f).remapJournal = s.remapJournal := rfl
@[simp] theorem State.modTb_f_out (f) : (s.modTb f).out = s.out := rfl
@[simp] theorem State.modTb_f_ticks (f) : (s.modTb f).ticks = s.ticks := rfl
@[simp] theorem State.modTb_f_nextId (f) : (s.modTb f).nextId = s.nextId := rfl
@[simp] theorem State.modTb_f_freeCtr (f) : (s.modTb f).freeCtr = s.freeCtr := rfl
@[simp] theorem State.modTb_f_pending (f) : (s.modTb f).pending = s.pending := rfl

/-! ## modCol -/

@[simp] theorem State.modCol_thread (f) (c' t') : (s.modCol f).thread c' t' = s.thread c' t' := rfl
@[simp] theorem State.modCol_core (f) (c') : (s.modCol f).core c' = s.core c' := rfl
@[simp] theorem State.modCol_arr (f) (c' a') : (s.modCol f).arr c' a' = s.arr c' a' := rfl
@[simp] theorem State.modCol_bank (f) (c' a' b') : (s.modCol f).bank c' a' b' = s.bank c' a' b' := rfl
@[simp] theorem State.modCol_die (f) (d') : (s.modCol f).die d' = s.die d' := rfl
@[simp] theorem State.modCol_lcores (f) : (s.modCol f).lcores = s.lcores := rfl
@[simp] theorem State.modCol_link (f) (l') : (s.modCol f).link l' = s.link l' := rfl
@[simp] theorem State.modCol_bundle (f) (d') : (s.modCol f).bundle d' = s.bundle d' := rfl
@[simp] theorem State.modCol_port (f) (n') : (s.modCol f).port n' = s.port n' := rfl
@[simp] theorem State.modCol_queue (f) (q') : (s.modCol f).queue q' = s.queue q' := rfl
@[simp] theorem State.modCol_f_fuses (f) : (s.modCol f).fuses = s.fuses := rfl
@[simp] theorem State.modCol_f_compat (f) : (s.modCol f).compat = s.compat := rfl
@[simp] theorem State.modCol_f_nidp (f) : (s.modCol f).nidp = s.nidp := rfl
@[simp] theorem State.modCol_f_hubFw (f) : (s.modCol f).hubFw = s.hubFw := rfl
@[simp] theorem State.modCol_f_threads (f) : (s.modCol f).threads = s.threads := rfl
@[simp] theorem State.modCol_f_cores (f) : (s.modCol f).cores = s.cores := rfl
@[simp] theorem State.modCol_f_arrs (f) : (s.modCol f).arrs = s.arrs := rfl
@[simp] theorem State.modCol_f_banks (f) : (s.modCol f).banks = s.banks := rfl
@[simp] theorem State.modCol_f_dies (f) : (s.modCol f).dies = s.dies := rfl
@[simp] theorem State.modCol_f_ops (f) : (s.modCol f).ops = s.ops := rfl
@[simp] theorem State.modCol_f_pumps (f) : (s.modCol f).pumps = s.pumps := rfl
@[simp] theorem State.modCol_f_pumpHeads (f) : (s.modCol f).pumpHeads = s.pumpHeads := rfl
@[simp] theorem State.modCol_f_mem (f) : (s.modCol f).mem = s.mem := rfl
@[simp] theorem State.modCol_f_replaced (f) : (s.modCol f).replaced = s.replaced := rfl
@[simp] theorem State.modCol_f_siteJournal (f) : (s.modCol f).siteJournal = s.siteJournal := rfl
@[simp] theorem State.modCol_f_dikes (f) : (s.modCol f).dikes = s.dikes := rfl
@[simp] theorem State.modCol_f_hubDike (f) : (s.modCol f).hubDike = s.hubDike := rfl
@[simp] theorem State.modCol_f_regions (f) : (s.modCol f).regions = s.regions := rfl
@[simp] theorem State.modCol_f_err (f) : (s.modCol f).err = s.err := rfl
@[simp] theorem State.modCol_f_dev (f) : (s.modCol f).dev = s.dev := rfl
@[simp] theorem State.modCol_f_pcie (f) : (s.modCol f).pcie = s.pcie := rfl
@[simp] theorem State.modCol_f_tb (f) : (s.modCol f).tb = s.tb := rfl
@[simp] theorem State.modCol_f_mmc (f) : (s.modCol f).mmc = s.mmc := rfl
@[simp] theorem State.modCol_f_boot (f) : (s.modCol f).boot = s.boot := rfl
@[simp] theorem State.modCol_f_pwr (f) : (s.modCol f).pwr = s.pwr := rfl
@[simp] theorem State.modCol_f_feature (f) : (s.modCol f).feature = s.feature := rfl
@[simp] theorem State.modCol_f_bundles (f) : (s.modCol f).bundles = s.bundles := rfl
@[simp] theorem State.modCol_f_dlu (f) : (s.modCol f).dlu = s.dlu := rfl
@[simp] theorem State.modCol_f_links (f) : (s.modCol f).links = s.links := rfl
@[simp] theorem State.modCol_f_ports (f) : (s.modCol f).ports = s.ports := rfl
@[simp] theorem State.modCol_f_spare0 (f) : (s.modCol f).spare0 = s.spare0 := rfl
@[simp] theorem State.modCol_f_spare1 (f) : (s.modCol f).spare1 = s.spare1 := rfl
@[simp] theorem State.modCol_f_laserJournal (f) : (s.modCol f).laserJournal = s.laserJournal := rfl
@[simp] theorem State.modCol_f_fab (f) : (s.modCol f).fab = s.fab := rfl
@[simp] theorem State.modCol_f_remapJournal (f) : (s.modCol f).remapJournal = s.remapJournal := rfl
@[simp] theorem State.modCol_f_out (f) : (s.modCol f).out = s.out := rfl
@[simp] theorem State.modCol_f_ticks (f) : (s.modCol f).ticks = s.ticks := rfl
@[simp] theorem State.modCol_f_nextId (f) : (s.modCol f).nextId = s.nextId := rfl
@[simp] theorem State.modCol_f_freeCtr (f) : (s.modCol f).freeCtr = s.freeCtr := rfl
@[simp] theorem State.modCol_f_pending (f) : (s.modCol f).pending = s.pending := rfl

/-! ## modPcie -/

@[simp] theorem State.modPcie_thread (f) (c' t') : (s.modPcie f).thread c' t' = s.thread c' t' := rfl
@[simp] theorem State.modPcie_core (f) (c') : (s.modPcie f).core c' = s.core c' := rfl
@[simp] theorem State.modPcie_arr (f) (c' a') : (s.modPcie f).arr c' a' = s.arr c' a' := rfl
@[simp] theorem State.modPcie_bank (f) (c' a' b') : (s.modPcie f).bank c' a' b' = s.bank c' a' b' := rfl
@[simp] theorem State.modPcie_die (f) (d') : (s.modPcie f).die d' = s.die d' := rfl
@[simp] theorem State.modPcie_lcores (f) : (s.modPcie f).lcores = s.lcores := rfl
@[simp] theorem State.modPcie_link (f) (l') : (s.modPcie f).link l' = s.link l' := rfl
@[simp] theorem State.modPcie_bundle (f) (d') : (s.modPcie f).bundle d' = s.bundle d' := rfl
@[simp] theorem State.modPcie_port (f) (n') : (s.modPcie f).port n' = s.port n' := rfl
@[simp] theorem State.modPcie_f_fuses (f) : (s.modPcie f).fuses = s.fuses := rfl
@[simp] theorem State.modPcie_f_compat (f) : (s.modPcie f).compat = s.compat := rfl
@[simp] theorem State.modPcie_f_nidp (f) : (s.modPcie f).nidp = s.nidp := rfl
@[simp] theorem State.modPcie_f_hubFw (f) : (s.modPcie f).hubFw = s.hubFw := rfl
@[simp] theorem State.modPcie_f_threads (f) : (s.modPcie f).threads = s.threads := rfl
@[simp] theorem State.modPcie_f_cores (f) : (s.modPcie f).cores = s.cores := rfl
@[simp] theorem State.modPcie_f_arrs (f) : (s.modPcie f).arrs = s.arrs := rfl
@[simp] theorem State.modPcie_f_banks (f) : (s.modPcie f).banks = s.banks := rfl
@[simp] theorem State.modPcie_f_dies (f) : (s.modPcie f).dies = s.dies := rfl
@[simp] theorem State.modPcie_f_ops (f) : (s.modPcie f).ops = s.ops := rfl
@[simp] theorem State.modPcie_f_pumps (f) : (s.modPcie f).pumps = s.pumps := rfl
@[simp] theorem State.modPcie_f_pumpHeads (f) : (s.modPcie f).pumpHeads = s.pumpHeads := rfl
@[simp] theorem State.modPcie_f_mem (f) : (s.modPcie f).mem = s.mem := rfl
@[simp] theorem State.modPcie_f_replaced (f) : (s.modPcie f).replaced = s.replaced := rfl
@[simp] theorem State.modPcie_f_siteJournal (f) : (s.modPcie f).siteJournal = s.siteJournal := rfl
@[simp] theorem State.modPcie_f_dikes (f) : (s.modPcie f).dikes = s.dikes := rfl
@[simp] theorem State.modPcie_f_hubDike (f) : (s.modPcie f).hubDike = s.hubDike := rfl
@[simp] theorem State.modPcie_f_regions (f) : (s.modPcie f).regions = s.regions := rfl
@[simp] theorem State.modPcie_f_err (f) : (s.modPcie f).err = s.err := rfl
@[simp] theorem State.modPcie_f_dev (f) : (s.modPcie f).dev = s.dev := rfl
@[simp] theorem State.modPcie_f_tb (f) : (s.modPcie f).tb = s.tb := rfl
@[simp] theorem State.modPcie_f_mmc (f) : (s.modPcie f).mmc = s.mmc := rfl
@[simp] theorem State.modPcie_f_boot (f) : (s.modPcie f).boot = s.boot := rfl
@[simp] theorem State.modPcie_f_pwr (f) : (s.modPcie f).pwr = s.pwr := rfl
@[simp] theorem State.modPcie_f_feature (f) : (s.modPcie f).feature = s.feature := rfl
@[simp] theorem State.modPcie_f_bundles (f) : (s.modPcie f).bundles = s.bundles := rfl
@[simp] theorem State.modPcie_f_dlu (f) : (s.modPcie f).dlu = s.dlu := rfl
@[simp] theorem State.modPcie_f_links (f) : (s.modPcie f).links = s.links := rfl
@[simp] theorem State.modPcie_f_ports (f) : (s.modPcie f).ports = s.ports := rfl
@[simp] theorem State.modPcie_f_spare0 (f) : (s.modPcie f).spare0 = s.spare0 := rfl
@[simp] theorem State.modPcie_f_spare1 (f) : (s.modPcie f).spare1 = s.spare1 := rfl
@[simp] theorem State.modPcie_f_laserJournal (f) : (s.modPcie f).laserJournal = s.laserJournal := rfl
@[simp] theorem State.modPcie_f_fab (f) : (s.modPcie f).fab = s.fab := rfl
@[simp] theorem State.modPcie_f_col (f) : (s.modPcie f).col = s.col := rfl
@[simp] theorem State.modPcie_f_remapJournal (f) : (s.modPcie f).remapJournal = s.remapJournal := rfl
@[simp] theorem State.modPcie_f_out (f) : (s.modPcie f).out = s.out := rfl
@[simp] theorem State.modPcie_f_ticks (f) : (s.modPcie f).ticks = s.ticks := rfl
@[simp] theorem State.modPcie_f_nextId (f) : (s.modPcie f).nextId = s.nextId := rfl
@[simp] theorem State.modPcie_f_freeCtr (f) : (s.modPcie f).freeCtr = s.freeCtr := rfl
@[simp] theorem State.modPcie_f_pending (f) : (s.modPcie f).pending = s.pending := rfl

/-! ## setQueue -/

@[simp] theorem State.setQueue_thread (q x) (c' t') : (s.setQueue q x).thread c' t' = s.thread c' t' := rfl
@[simp] theorem State.setQueue_core (q x) (c') : (s.setQueue q x).core c' = s.core c' := rfl
@[simp] theorem State.setQueue_arr (q x) (c' a') : (s.setQueue q x).arr c' a' = s.arr c' a' := rfl
@[simp] theorem State.setQueue_bank (q x) (c' a' b') : (s.setQueue q x).bank c' a' b' = s.bank c' a' b' := rfl
@[simp] theorem State.setQueue_die (q x) (d') : (s.setQueue q x).die d' = s.die d' := rfl
@[simp] theorem State.setQueue_lcores (q x) : (s.setQueue q x).lcores = s.lcores := rfl
@[simp] theorem State.setQueue_link (q x) (l') : (s.setQueue q x).link l' = s.link l' := rfl
@[simp] theorem State.setQueue_bundle (q x) (d') : (s.setQueue q x).bundle d' = s.bundle d' := rfl
@[simp] theorem State.setQueue_port (q x) (n') : (s.setQueue q x).port n' = s.port n' := rfl
@[simp] theorem State.setQueue_f_fuses (q x) : (s.setQueue q x).fuses = s.fuses := rfl
@[simp] theorem State.setQueue_f_compat (q x) : (s.setQueue q x).compat = s.compat := rfl
@[simp] theorem State.setQueue_f_nidp (q x) : (s.setQueue q x).nidp = s.nidp := rfl
@[simp] theorem State.setQueue_f_hubFw (q x) : (s.setQueue q x).hubFw = s.hubFw := rfl
@[simp] theorem State.setQueue_f_threads (q x) : (s.setQueue q x).threads = s.threads := rfl
@[simp] theorem State.setQueue_f_cores (q x) : (s.setQueue q x).cores = s.cores := rfl
@[simp] theorem State.setQueue_f_arrs (q x) : (s.setQueue q x).arrs = s.arrs := rfl
@[simp] theorem State.setQueue_f_banks (q x) : (s.setQueue q x).banks = s.banks := rfl
@[simp] theorem State.setQueue_f_dies (q x) : (s.setQueue q x).dies = s.dies := rfl
@[simp] theorem State.setQueue_f_ops (q x) : (s.setQueue q x).ops = s.ops := rfl
@[simp] theorem State.setQueue_f_pumps (q x) : (s.setQueue q x).pumps = s.pumps := rfl
@[simp] theorem State.setQueue_f_pumpHeads (q x) : (s.setQueue q x).pumpHeads = s.pumpHeads := rfl
@[simp] theorem State.setQueue_f_mem (q x) : (s.setQueue q x).mem = s.mem := rfl
@[simp] theorem State.setQueue_f_replaced (q x) : (s.setQueue q x).replaced = s.replaced := rfl
@[simp] theorem State.setQueue_f_siteJournal (q x) : (s.setQueue q x).siteJournal = s.siteJournal := rfl
@[simp] theorem State.setQueue_f_dikes (q x) : (s.setQueue q x).dikes = s.dikes := rfl
@[simp] theorem State.setQueue_f_hubDike (q x) : (s.setQueue q x).hubDike = s.hubDike := rfl
@[simp] theorem State.setQueue_f_regions (q x) : (s.setQueue q x).regions = s.regions := rfl
@[simp] theorem State.setQueue_f_err (q x) : (s.setQueue q x).err = s.err := rfl
@[simp] theorem State.setQueue_f_dev (q x) : (s.setQueue q x).dev = s.dev := rfl
@[simp] theorem State.setQueue_f_tb (q x) : (s.setQueue q x).tb = s.tb := rfl
@[simp] theorem State.setQueue_f_mmc (q x) : (s.setQueue q x).mmc = s.mmc := rfl
@[simp] theorem State.setQueue_f_boot (q x) : (s.setQueue q x).boot = s.boot := rfl
@[simp] theorem State.setQueue_f_pwr (q x) : (s.setQueue q x).pwr = s.pwr := rfl
@[simp] theorem State.setQueue_f_feature (q x) : (s.setQueue q x).feature = s.feature := rfl
@[simp] theorem State.setQueue_f_bundles (q x) : (s.setQueue q x).bundles = s.bundles := rfl
@[simp] theorem State.setQueue_f_dlu (q x) : (s.setQueue q x).dlu = s.dlu := rfl
@[simp] theorem State.setQueue_f_links (q x) : (s.setQueue q x).links = s.links := rfl
@[simp] theorem State.setQueue_f_ports (q x) : (s.setQueue q x).ports = s.ports := rfl
@[simp] theorem State.setQueue_f_spare0 (q x) : (s.setQueue q x).spare0 = s.spare0 := rfl
@[simp] theorem State.setQueue_f_spare1 (q x) : (s.setQueue q x).spare1 = s.spare1 := rfl
@[simp] theorem State.setQueue_f_laserJournal (q x) : (s.setQueue q x).laserJournal = s.laserJournal := rfl
@[simp] theorem State.setQueue_f_fab (q x) : (s.setQueue q x).fab = s.fab := rfl
@[simp] theorem State.setQueue_f_col (q x) : (s.setQueue q x).col = s.col := rfl
@[simp] theorem State.setQueue_f_remapJournal (q x) : (s.setQueue q x).remapJournal = s.remapJournal := rfl
@[simp] theorem State.setQueue_f_out (q x) : (s.setQueue q x).out = s.out := rfl
@[simp] theorem State.setQueue_f_ticks (q x) : (s.setQueue q x).ticks = s.ticks := rfl
@[simp] theorem State.setQueue_f_nextId (q x) : (s.setQueue q x).nextId = s.nextId := rfl
@[simp] theorem State.setQueue_f_freeCtr (q x) : (s.setQueue q x).freeCtr = s.freeCtr := rfl
@[simp] theorem State.setQueue_f_pending (q x) : (s.setQueue q x).pending = s.pending := rfl

/-! ## modDev -/

@[simp] theorem State.modDev_thread (f) (c' t') : (s.modDev f).thread c' t' = s.thread c' t' := rfl
@[simp] theorem State.modDev_core (f) (c') : (s.modDev f).core c' = s.core c' := rfl
@[simp] theorem State.modDev_arr (f) (c' a') : (s.modDev f).arr c' a' = s.arr c' a' := rfl
@[simp] theorem State.modDev_bank (f) (c' a' b') : (s.modDev f).bank c' a' b' = s.bank c' a' b' := rfl
@[simp] theorem State.modDev_die (f) (d') : (s.modDev f).die d' = s.die d' := rfl
@[simp] theorem State.modDev_lcores (f) : (s.modDev f).lcores = s.lcores := rfl
@[simp] theorem State.modDev_link (f) (l') : (s.modDev f).link l' = s.link l' := rfl
@[simp] theorem State.modDev_bundle (f) (d') : (s.modDev f).bundle d' = s.bundle d' := rfl
@[simp] theorem State.modDev_port (f) (n') : (s.modDev f).port n' = s.port n' := rfl
@[simp] theorem State.modDev_queue (f) (q') : (s.modDev f).queue q' = s.queue q' := rfl
@[simp] theorem State.modDev_f_fuses (f) : (s.modDev f).fuses = s.fuses := rfl
@[simp] theorem State.modDev_f_compat (f) : (s.modDev f).compat = s.compat := rfl
@[simp] theorem State.modDev_f_nidp (f) : (s.modDev f).nidp = s.nidp := rfl
@[simp] theorem State.modDev_f_hubFw (f) : (s.modDev f).hubFw = s.hubFw := rfl
@[simp] theorem State.modDev_f_threads (f) : (s.modDev f).threads = s.threads := rfl
@[simp] theorem State.modDev_f_cores (f) : (s.modDev f).cores = s.cores := rfl
@[simp] theorem State.modDev_f_arrs (f) : (s.modDev f).arrs = s.arrs := rfl
@[simp] theorem State.modDev_f_banks (f) : (s.modDev f).banks = s.banks := rfl
@[simp] theorem State.modDev_f_dies (f) : (s.modDev f).dies = s.dies := rfl
@[simp] theorem State.modDev_f_ops (f) : (s.modDev f).ops = s.ops := rfl
@[simp] theorem State.modDev_f_pumps (f) : (s.modDev f).pumps = s.pumps := rfl
@[simp] theorem State.modDev_f_pumpHeads (f) : (s.modDev f).pumpHeads = s.pumpHeads := rfl
@[simp] theorem State.modDev_f_mem (f) : (s.modDev f).mem = s.mem := rfl
@[simp] theorem State.modDev_f_replaced (f) : (s.modDev f).replaced = s.replaced := rfl
@[simp] theorem State.modDev_f_siteJournal (f) : (s.modDev f).siteJournal = s.siteJournal := rfl
@[simp] theorem State.modDev_f_dikes (f) : (s.modDev f).dikes = s.dikes := rfl
@[simp] theorem State.modDev_f_hubDike (f) : (s.modDev f).hubDike = s.hubDike := rfl
@[simp] theorem State.modDev_f_regions (f) : (s.modDev f).regions = s.regions := rfl
@[simp] theorem State.modDev_f_err (f) : (s.modDev f).err = s.err := rfl
@[simp] theorem State.modDev_f_pcie (f) : (s.modDev f).pcie = s.pcie := rfl
@[simp] theorem State.modDev_f_tb (f) : (s.modDev f).tb = s.tb := rfl
@[simp] theorem State.modDev_f_mmc (f) : (s.modDev f).mmc = s.mmc := rfl
@[simp] theorem State.modDev_f_boot (f) : (s.modDev f).boot = s.boot := rfl
@[simp] theorem State.modDev_f_pwr (f) : (s.modDev f).pwr = s.pwr := rfl
@[simp] theorem State.modDev_f_feature (f) : (s.modDev f).feature = s.feature := rfl
@[simp] theorem State.modDev_f_bundles (f) : (s.modDev f).bundles = s.bundles := rfl
@[simp] theorem State.modDev_f_dlu (f) : (s.modDev f).dlu = s.dlu := rfl
@[simp] theorem State.modDev_f_links (f) : (s.modDev f).links = s.links := rfl
@[simp] theorem State.modDev_f_ports (f) : (s.modDev f).ports = s.ports := rfl
@[simp] theorem State.modDev_f_spare0 (f) : (s.modDev f).spare0 = s.spare0 := rfl
@[simp] theorem State.modDev_f_spare1 (f) : (s.modDev f).spare1 = s.spare1 := rfl
@[simp] theorem State.modDev_f_laserJournal (f) : (s.modDev f).laserJournal = s.laserJournal := rfl
@[simp] theorem State.modDev_f_fab (f) : (s.modDev f).fab = s.fab := rfl
@[simp] theorem State.modDev_f_col (f) : (s.modDev f).col = s.col := rfl
@[simp] theorem State.modDev_f_remapJournal (f) : (s.modDev f).remapJournal = s.remapJournal := rfl
@[simp] theorem State.modDev_f_out (f) : (s.modDev f).out = s.out := rfl
@[simp] theorem State.modDev_f_ticks (f) : (s.modDev f).ticks = s.ticks := rfl
@[simp] theorem State.modDev_f_nextId (f) : (s.modDev f).nextId = s.nextId := rfl
@[simp] theorem State.modDev_f_freeCtr (f) : (s.modDev f).freeCtr = s.freeCtr := rfl
@[simp] theorem State.modDev_f_pending (f) : (s.modDev f).pending = s.pending := rfl

/-! ## modMmc -/

@[simp] theorem State.modMmc_thread (f) (c' t') : (s.modMmc f).thread c' t' = s.thread c' t' := rfl
@[simp] theorem State.modMmc_core (f) (c') : (s.modMmc f).core c' = s.core c' := rfl
@[simp] theorem State.modMmc_arr (f) (c' a') : (s.modMmc f).arr c' a' = s.arr c' a' := rfl
@[simp] theorem State.modMmc_bank (f) (c' a' b') : (s.modMmc f).bank c' a' b' = s.bank c' a' b' := rfl
@[simp] theorem State.modMmc_die (f) (d') : (s.modMmc f).die d' = s.die d' := rfl
@[simp] theorem State.modMmc_lcores (f) : (s.modMmc f).lcores = s.lcores := rfl
@[simp] theorem State.modMmc_link (f) (l') : (s.modMmc f).link l' = s.link l' := rfl
@[simp] theorem State.modMmc_bundle (f) (d') : (s.modMmc f).bundle d' = s.bundle d' := rfl
@[simp] theorem State.modMmc_port (f) (n') : (s.modMmc f).port n' = s.port n' := rfl
@[simp] theorem State.modMmc_queue (f) (q') : (s.modMmc f).queue q' = s.queue q' := rfl
@[simp] theorem State.modMmc_f_fuses (f) : (s.modMmc f).fuses = s.fuses := rfl
@[simp] theorem State.modMmc_f_compat (f) : (s.modMmc f).compat = s.compat := rfl
@[simp] theorem State.modMmc_f_nidp (f) : (s.modMmc f).nidp = s.nidp := rfl
@[simp] theorem State.modMmc_f_hubFw (f) : (s.modMmc f).hubFw = s.hubFw := rfl
@[simp] theorem State.modMmc_f_threads (f) : (s.modMmc f).threads = s.threads := rfl
@[simp] theorem State.modMmc_f_cores (f) : (s.modMmc f).cores = s.cores := rfl
@[simp] theorem State.modMmc_f_arrs (f) : (s.modMmc f).arrs = s.arrs := rfl
@[simp] theorem State.modMmc_f_banks (f) : (s.modMmc f).banks = s.banks := rfl
@[simp] theorem State.modMmc_f_dies (f) : (s.modMmc f).dies = s.dies := rfl
@[simp] theorem State.modMmc_f_ops (f) : (s.modMmc f).ops = s.ops := rfl
@[simp] theorem State.modMmc_f_pumps (f) : (s.modMmc f).pumps = s.pumps := rfl
@[simp] theorem State.modMmc_f_pumpHeads (f) : (s.modMmc f).pumpHeads = s.pumpHeads := rfl
@[simp] theorem State.modMmc_f_mem (f) : (s.modMmc f).mem = s.mem := rfl
@[simp] theorem State.modMmc_f_replaced (f) : (s.modMmc f).replaced = s.replaced := rfl
@[simp] theorem State.modMmc_f_siteJournal (f) : (s.modMmc f).siteJournal = s.siteJournal := rfl
@[simp] theorem State.modMmc_f_dikes (f) : (s.modMmc f).dikes = s.dikes := rfl
@[simp] theorem State.modMmc_f_hubDike (f) : (s.modMmc f).hubDike = s.hubDike := rfl
@[simp] theorem State.modMmc_f_regions (f) : (s.modMmc f).regions = s.regions := rfl
@[simp] theorem State.modMmc_f_err (f) : (s.modMmc f).err = s.err := rfl
@[simp] theorem State.modMmc_f_dev (f) : (s.modMmc f).dev = s.dev := rfl
@[simp] theorem State.modMmc_f_pcie (f) : (s.modMmc f).pcie = s.pcie := rfl
@[simp] theorem State.modMmc_f_tb (f) : (s.modMmc f).tb = s.tb := rfl
@[simp] theorem State.modMmc_f_boot (f) : (s.modMmc f).boot = s.boot := rfl
@[simp] theorem State.modMmc_f_pwr (f) : (s.modMmc f).pwr = s.pwr := rfl
@[simp] theorem State.modMmc_f_feature (f) : (s.modMmc f).feature = s.feature := rfl
@[simp] theorem State.modMmc_f_bundles (f) : (s.modMmc f).bundles = s.bundles := rfl
@[simp] theorem State.modMmc_f_dlu (f) : (s.modMmc f).dlu = s.dlu := rfl
@[simp] theorem State.modMmc_f_links (f) : (s.modMmc f).links = s.links := rfl
@[simp] theorem State.modMmc_f_ports (f) : (s.modMmc f).ports = s.ports := rfl
@[simp] theorem State.modMmc_f_spare0 (f) : (s.modMmc f).spare0 = s.spare0 := rfl
@[simp] theorem State.modMmc_f_spare1 (f) : (s.modMmc f).spare1 = s.spare1 := rfl
@[simp] theorem State.modMmc_f_laserJournal (f) : (s.modMmc f).laserJournal = s.laserJournal := rfl
@[simp] theorem State.modMmc_f_fab (f) : (s.modMmc f).fab = s.fab := rfl
@[simp] theorem State.modMmc_f_col (f) : (s.modMmc f).col = s.col := rfl
@[simp] theorem State.modMmc_f_remapJournal (f) : (s.modMmc f).remapJournal = s.remapJournal := rfl
@[simp] theorem State.modMmc_f_out (f) : (s.modMmc f).out = s.out := rfl
@[simp] theorem State.modMmc_f_ticks (f) : (s.modMmc f).ticks = s.ticks := rfl
@[simp] theorem State.modMmc_f_nextId (f) : (s.modMmc f).nextId = s.nextId := rfl
@[simp] theorem State.modMmc_f_freeCtr (f) : (s.modMmc f).freeCtr = s.freeCtr := rfl
@[simp] theorem State.modMmc_f_pending (f) : (s.modMmc f).pending = s.pending := rfl

/-! ## modBoot -/

@[simp] theorem State.modBoot_thread (f) (c' t') : (s.modBoot f).thread c' t' = s.thread c' t' := rfl
@[simp] theorem State.modBoot_core (f) (c') : (s.modBoot f).core c' = s.core c' := rfl
@[simp] theorem State.modBoot_arr (f) (c' a') : (s.modBoot f).arr c' a' = s.arr c' a' := rfl
@[simp] theorem State.modBoot_bank (f) (c' a' b') : (s.modBoot f).bank c' a' b' = s.bank c' a' b' := rfl
@[simp] theorem State.modBoot_die (f) (d') : (s.modBoot f).die d' = s.die d' := rfl
@[simp] theorem State.modBoot_lcores (f) : (s.modBoot f).lcores = s.lcores := rfl
@[simp] theorem State.modBoot_link (f) (l') : (s.modBoot f).link l' = s.link l' := rfl
@[simp] theorem State.modBoot_bundle (f) (d') : (s.modBoot f).bundle d' = s.bundle d' := rfl
@[simp] theorem State.modBoot_port (f) (n') : (s.modBoot f).port n' = s.port n' := rfl
@[simp] theorem State.modBoot_queue (f) (q') : (s.modBoot f).queue q' = s.queue q' := rfl
@[simp] theorem State.modBoot_f_fuses (f) : (s.modBoot f).fuses = s.fuses := rfl
@[simp] theorem State.modBoot_f_compat (f) : (s.modBoot f).compat = s.compat := rfl
@[simp] theorem State.modBoot_f_nidp (f) : (s.modBoot f).nidp = s.nidp := rfl
@[simp] theorem State.modBoot_f_hubFw (f) : (s.modBoot f).hubFw = s.hubFw := rfl
@[simp] theorem State.modBoot_f_threads (f) : (s.modBoot f).threads = s.threads := rfl
@[simp] theorem State.modBoot_f_cores (f) : (s.modBoot f).cores = s.cores := rfl
@[simp] theorem State.modBoot_f_arrs (f) : (s.modBoot f).arrs = s.arrs := rfl
@[simp] theorem State.modBoot_f_banks (f) : (s.modBoot f).banks = s.banks := rfl
@[simp] theorem State.modBoot_f_dies (f) : (s.modBoot f).dies = s.dies := rfl
@[simp] theorem State.modBoot_f_ops (f) : (s.modBoot f).ops = s.ops := rfl
@[simp] theorem State.modBoot_f_pumps (f) : (s.modBoot f).pumps = s.pumps := rfl
@[simp] theorem State.modBoot_f_pumpHeads (f) : (s.modBoot f).pumpHeads = s.pumpHeads := rfl
@[simp] theorem State.modBoot_f_mem (f) : (s.modBoot f).mem = s.mem := rfl
@[simp] theorem State.modBoot_f_replaced (f) : (s.modBoot f).replaced = s.replaced := rfl
@[simp] theorem State.modBoot_f_siteJournal (f) : (s.modBoot f).siteJournal = s.siteJournal := rfl
@[simp] theorem State.modBoot_f_dikes (f) : (s.modBoot f).dikes = s.dikes := rfl
@[simp] theorem State.modBoot_f_hubDike (f) : (s.modBoot f).hubDike = s.hubDike := rfl
@[simp] theorem State.modBoot_f_regions (f) : (s.modBoot f).regions = s.regions := rfl
@[simp] theorem State.modBoot_f_err (f) : (s.modBoot f).err = s.err := rfl
@[simp] theorem State.modBoot_f_dev (f) : (s.modBoot f).dev = s.dev := rfl
@[simp] theorem State.modBoot_f_pcie (f) : (s.modBoot f).pcie = s.pcie := rfl
@[simp] theorem State.modBoot_f_tb (f) : (s.modBoot f).tb = s.tb := rfl
@[simp] theorem State.modBoot_f_mmc (f) : (s.modBoot f).mmc = s.mmc := rfl
@[simp] theorem State.modBoot_f_pwr (f) : (s.modBoot f).pwr = s.pwr := rfl
@[simp] theorem State.modBoot_f_feature (f) : (s.modBoot f).feature = s.feature := rfl
@[simp] theorem State.modBoot_f_bundles (f) : (s.modBoot f).bundles = s.bundles := rfl
@[simp] theorem State.modBoot_f_dlu (f) : (s.modBoot f).dlu = s.dlu := rfl
@[simp] theorem State.modBoot_f_links (f) : (s.modBoot f).links = s.links := rfl
@[simp] theorem State.modBoot_f_ports (f) : (s.modBoot f).ports = s.ports := rfl
@[simp] theorem State.modBoot_f_spare0 (f) : (s.modBoot f).spare0 = s.spare0 := rfl
@[simp] theorem State.modBoot_f_spare1 (f) : (s.modBoot f).spare1 = s.spare1 := rfl
@[simp] theorem State.modBoot_f_laserJournal (f) : (s.modBoot f).laserJournal = s.laserJournal := rfl
@[simp] theorem State.modBoot_f_fab (f) : (s.modBoot f).fab = s.fab := rfl
@[simp] theorem State.modBoot_f_col (f) : (s.modBoot f).col = s.col := rfl
@[simp] theorem State.modBoot_f_remapJournal (f) : (s.modBoot f).remapJournal = s.remapJournal := rfl
@[simp] theorem State.modBoot_f_out (f) : (s.modBoot f).out = s.out := rfl
@[simp] theorem State.modBoot_f_ticks (f) : (s.modBoot f).ticks = s.ticks := rfl
@[simp] theorem State.modBoot_f_nextId (f) : (s.modBoot f).nextId = s.nextId := rfl
@[simp] theorem State.modBoot_f_freeCtr (f) : (s.modBoot f).freeCtr = s.freeCtr := rfl
@[simp] theorem State.modBoot_f_pending (f) : (s.modBoot f).pending = s.pending := rfl

/-! ## modPwr -/

@[simp] theorem State.modPwr_thread (f) (c' t') : (s.modPwr f).thread c' t' = s.thread c' t' := rfl
@[simp] theorem State.modPwr_core (f) (c') : (s.modPwr f).core c' = s.core c' := rfl
@[simp] theorem State.modPwr_arr (f) (c' a') : (s.modPwr f).arr c' a' = s.arr c' a' := rfl
@[simp] theorem State.modPwr_bank (f) (c' a' b') : (s.modPwr f).bank c' a' b' = s.bank c' a' b' := rfl
@[simp] theorem State.modPwr_die (f) (d') : (s.modPwr f).die d' = s.die d' := rfl
@[simp] theorem State.modPwr_lcores (f) : (s.modPwr f).lcores = s.lcores := rfl
@[simp] theorem State.modPwr_link (f) (l') : (s.modPwr f).link l' = s.link l' := rfl
@[simp] theorem State.modPwr_bundle (f) (d') : (s.modPwr f).bundle d' = s.bundle d' := rfl
@[simp] theorem State.modPwr_port (f) (n') : (s.modPwr f).port n' = s.port n' := rfl
@[simp] theorem State.modPwr_queue (f) (q') : (s.modPwr f).queue q' = s.queue q' := rfl
@[simp] theorem State.modPwr_f_fuses (f) : (s.modPwr f).fuses = s.fuses := rfl
@[simp] theorem State.modPwr_f_compat (f) : (s.modPwr f).compat = s.compat := rfl
@[simp] theorem State.modPwr_f_nidp (f) : (s.modPwr f).nidp = s.nidp := rfl
@[simp] theorem State.modPwr_f_hubFw (f) : (s.modPwr f).hubFw = s.hubFw := rfl
@[simp] theorem State.modPwr_f_threads (f) : (s.modPwr f).threads = s.threads := rfl
@[simp] theorem State.modPwr_f_cores (f) : (s.modPwr f).cores = s.cores := rfl
@[simp] theorem State.modPwr_f_arrs (f) : (s.modPwr f).arrs = s.arrs := rfl
@[simp] theorem State.modPwr_f_banks (f) : (s.modPwr f).banks = s.banks := rfl
@[simp] theorem State.modPwr_f_dies (f) : (s.modPwr f).dies = s.dies := rfl
@[simp] theorem State.modPwr_f_ops (f) : (s.modPwr f).ops = s.ops := rfl
@[simp] theorem State.modPwr_f_pumps (f) : (s.modPwr f).pumps = s.pumps := rfl
@[simp] theorem State.modPwr_f_pumpHeads (f) : (s.modPwr f).pumpHeads = s.pumpHeads := rfl
@[simp] theorem State.modPwr_f_mem (f) : (s.modPwr f).mem = s.mem := rfl
@[simp] theorem State.modPwr_f_replaced (f) : (s.modPwr f).replaced = s.replaced := rfl
@[simp] theorem State.modPwr_f_siteJournal (f) : (s.modPwr f).siteJournal = s.siteJournal := rfl
@[simp] theorem State.modPwr_f_dikes (f) : (s.modPwr f).dikes = s.dikes := rfl
@[simp] theorem State.modPwr_f_hubDike (f) : (s.modPwr f).hubDike = s.hubDike := rfl
@[simp] theorem State.modPwr_f_regions (f) : (s.modPwr f).regions = s.regions := rfl
@[simp] theorem State.modPwr_f_err (f) : (s.modPwr f).err = s.err := rfl
@[simp] theorem State.modPwr_f_dev (f) : (s.modPwr f).dev = s.dev := rfl
@[simp] theorem State.modPwr_f_pcie (f) : (s.modPwr f).pcie = s.pcie := rfl
@[simp] theorem State.modPwr_f_tb (f) : (s.modPwr f).tb = s.tb := rfl
@[simp] theorem State.modPwr_f_mmc (f) : (s.modPwr f).mmc = s.mmc := rfl
@[simp] theorem State.modPwr_f_boot (f) : (s.modPwr f).boot = s.boot := rfl
@[simp] theorem State.modPwr_f_feature (f) : (s.modPwr f).feature = s.feature := rfl
@[simp] theorem State.modPwr_f_bundles (f) : (s.modPwr f).bundles = s.bundles := rfl
@[simp] theorem State.modPwr_f_dlu (f) : (s.modPwr f).dlu = s.dlu := rfl
@[simp] theorem State.modPwr_f_links (f) : (s.modPwr f).links = s.links := rfl
@[simp] theorem State.modPwr_f_ports (f) : (s.modPwr f).ports = s.ports := rfl
@[simp] theorem State.modPwr_f_spare0 (f) : (s.modPwr f).spare0 = s.spare0 := rfl
@[simp] theorem State.modPwr_f_spare1 (f) : (s.modPwr f).spare1 = s.spare1 := rfl
@[simp] theorem State.modPwr_f_laserJournal (f) : (s.modPwr f).laserJournal = s.laserJournal := rfl
@[simp] theorem State.modPwr_f_fab (f) : (s.modPwr f).fab = s.fab := rfl
@[simp] theorem State.modPwr_f_col (f) : (s.modPwr f).col = s.col := rfl
@[simp] theorem State.modPwr_f_remapJournal (f) : (s.modPwr f).remapJournal = s.remapJournal := rfl
@[simp] theorem State.modPwr_f_out (f) : (s.modPwr f).out = s.out := rfl
@[simp] theorem State.modPwr_f_ticks (f) : (s.modPwr f).ticks = s.ticks := rfl
@[simp] theorem State.modPwr_f_nextId (f) : (s.modPwr f).nextId = s.nextId := rfl
@[simp] theorem State.modPwr_f_freeCtr (f) : (s.modPwr f).freeCtr = s.freeCtr := rfl
@[simp] theorem State.modPwr_f_pending (f) : (s.modPwr f).pending = s.pending := rfl

end Sys2Proof.Machine
end

