-- ==== Sys2Proof/Laws/Frame.lean ====
section
/-! SUPPORT. What each shared operation can change, said once: the parts of State it writes are named, every other
part is as before. -/

namespace Sys2Proof.Machine

variable (s : State)

/-! ## Messages and notifications -/

/-- A message of a vector changes PCI Express state and what has left the module. -/
theorem State.msixSend_cases (v : Nat) : ∃ p o, s.msixSend v = { s with pcie := p, out := o } := by
  unfold State.msixSend
  dsimp only
  split
  · exact ⟨_, _, rfl⟩
  · exact ⟨_, _, rfl⟩

/-- An event of the MMC changes the MMC and what has left the module. -/
theorem State.mmcEvent_cases (d : Bytes) : ∃ m o, s.mmcEvent d = { s with mmc := m, out := o } := ⟨_, _, rfl⟩

/-- A notification changes the error block, PCI Express state, the MMC and what has left the module. -/
theorem State.notify_cases (kind inj place code detail) :
    ∃ e p m o, s.notify kind inj place code detail = { s with err := e, pcie := p, mmc := m, out := o } := by
  unfold State.notify
  dsimp only
  split
  · obtain ⟨p, o, h⟩ := State.msixSend_cases { s with err := _ } s.dev.notifyVec.toNat
    rw [h]; exact ⟨_, _, _, _, rfl⟩
  · exact ⟨_, _, _, _, rfl⟩

/-- A perturbable event changes the entries of PERTURB_ENT. -/
theorem State.perturbBy_cases (tgt action : Nat) (place : Nat → Bool) :
    ∃ e, (s.perturbBy tgt action place).2 = { s with err := { s.err with ents := e } } := by
  unfold State.perturbBy
  split
  · exact ⟨_, rfl⟩
  · exact ⟨s.err.ents, rfl⟩

theorem State.perturb_cases (tgt action place : Nat) :
    ∃ e, (s.perturb tgt action place).2 = { s with err := { s.err with ents := e } } := s.perturbBy_cases ..

/-- With PERTURB_CTL.GO 0 nothing is perturbed (R477). -/
theorem State.perturb_off (h : s.err.perturbGo = false) (tgt action place : Nat) :
    s.perturb tgt action place = (none, s) := by simp [State.perturb, State.perturbBy, h]

/-! ## Threads, semaphores, operations -/

/-- Waking threads changes threads. -/
theorem State.wakeAll_cases (c : Nat) (ts : List Nat) : ∃ t, s.wakeAll c ts = { s with threads := t } := by
  unfold State.wakeAll
  induction ts generalizing s with
  | nil => exact ⟨s.threads, rfl⟩
  | cons a ts ih => rw [List.foldl_cons]; obtain ⟨t, h⟩ := ih (s.modThread c a Thread.wake); exact ⟨t, h.trans rfl⟩

theorem State.semPut_cases (c sem v : Nat) : ∃ t k, s.semPut c sem v = { s with threads := t, cores := k } := by
  unfold State.semPut
  obtain ⟨t, h⟩ := State.wakeAll_cases (s.setCore c { s.core c with
    sems := Tab.set 0 (s.core c).sems sem (BitVec.ofNat 16 (serveWaiters sem (s.core c).waiters v).2.1)
    waiters := (serveWaiters sem (s.core c).waiters v).1 }) c (serveWaiters sem (s.core c).waiters v).2.2
  exact ⟨t, _, h.trans rfl⟩

/-- A semaphore addition changes the core and the threads it releases. -/
theorem State.semAdd_cases (c sem n : Nat) : ∃ t k, s.semAdd c sem n = { s with threads := t, cores := k } := by
  unfold State.semAdd
  dsimp only
  split
  · exact ⟨s.threads, s.cores, rfl⟩
  · split
    · obtain ⟨t, k, h⟩ := State.semPut_cases
        (s.setCore c { s.core c with semOvf := (s.core c).semOvf ||| (1#64 <<< sem) }) c sem
        (min ((Tab.get 0 (s.core c).sems sem).toNat + n) 0xFFFF)
      exact ⟨t, k, h.trans rfl⟩
    · exact State.semPut_cases ..

/-- A wait given up serves the waiters behind it: threads and the core's semaphores. -/
theorem State.leaveWait_cases (c t : Nat) : ∃ ts k, s.leaveWait c t = { s with threads := ts, cores := k } := by
  unfold State.leaveWait
  dsimp only
  split
  · obtain ⟨ts, k, h⟩ := State.semPut_cases (s.setCore c ((s.core c).dropWaiter t)) c _ _
    exact ⟨ts, k, h.trans rfl⟩
  · exact ⟨s.threads, _, rfl⟩

/-- An error status changes the thread, and the waiters of its core with those that they blocked. -/
theorem State.threadError_cases (c t : Nat) (cause unit dest pc) :
    ∃ ts k, s.threadError c t cause unit dest pc = { s with threads := ts, cores := k } := by
  unfold State.threadError
  dsimp only
  split
  · exact ⟨_, s.cores, rfl⟩
  · split
    · obtain ⟨ts, k, h⟩ := State.leaveWait_cases (s.setThread c t
        ((s.thread c t).errorStatus cause unit dest pc)) c t
      exact ⟨ts, k, h.trans rfl⟩
    · exact ⟨_, _, rfl⟩

/-- A completed operation leaves the list of operations and may release waiters. -/
theorem State.opComplete_cases (o : AsyncOp) :
    ∃ ts k, s.opComplete o = { s.dropOp o.id with threads := ts, cores := k } := by
  unfold State.opComplete
  dsimp only
  split
  · exact ⟨s.threads, s.cores, rfl⟩
  · split
    · exact State.semAdd_cases ..
    · exact ⟨s.threads, s.cores, rfl⟩

theorem State.opFail_cases (o : AsyncOp) (cause dest) :
    ∃ ts k, s.opFail o cause dest = { s.dropOp o.id with threads := ts, cores := k } := by
  unfold State.opFail
  dsimp only
  split
  · exact ⟨s.threads, s.cores, rfl⟩
  · exact State.threadError_cases ..

theorem State.opFlags_cases (o : AsyncOp) (f) : ∃ ts, s.opFlags o f = { s with threads := ts } := by
  unfold State.opFlags
  split
  · exact ⟨s.threads, rfl⟩
  · exact ⟨_, rfl⟩

/-- CTX_FAULT.DEST of an address takes at most a free value. -/
theorem State.destVal_cases (c a : Nat) : ∃ f, (s.destVal c a).2 = { s with freeCtr := f } := by
  unfold State.destVal
  split
  · exact ⟨s.freeCtr, rfl⟩
  · exact ⟨_, rfl⟩

end Sys2Proof.Machine
end

