-- ==== Sys2Proof/Laws/Issue.lean ====
section
/-! SUPPORT. What the issue of a thread instruction can do, said once. -/

namespace Sys2Proof.Machine

theorem Tab.erase_erase {α : Type} (m : Tab α) (k : Nat) : Tab.erase (Tab.erase m k) k = Tab.erase m k := by
  induction m with
  | nil => rfl
  | cons e m ih =>
    obtain ⟨i, v⟩ := e
    by_cases h : i = k
    · simp [Tab.erase, h, ih]
    · simp [Tab.erase, h, ih]

theorem Tab.erase_insert {α : Type} (m : Tab α) (k : Nat) (v : α) :
    Tab.erase (Tab.insert k v m) k = Tab.erase m k := by
  induction m with
  | nil => simp [Tab.insert, Tab.erase]
  | cons e m ih =>
    obtain ⟨i, u⟩ := e
    unfold Tab.insert
    split
    · simp [Tab.erase]
    · by_cases h : i = k
      · simp [Tab.erase, h, ih]
      · simp [Tab.erase, h, ih]

/-- The second of two writes to a key is the one that counts. -/
@[simp] theorem Tab.set_set {α : Type} [DecidableEq α] (d : α) (m : Tab α) (k : Nat) (u v : α) :
    Tab.set d (Tab.set d m k u) k v = Tab.set d m k v := by
  have h : Tab.erase (Tab.set d m k u) k = Tab.erase m k := by
    unfold Tab.set
    split
    · exact Tab.erase_erase m k
    · rw [Tab.erase_insert, Tab.erase_erase]
  unfold Tab.set at h ⊢
  split <;> split <;> simp_all

@[simp] theorem State.setThread_setThread (s : State) (c t : Nat) (x y : Thread) :
    (s.setThread c t x).setThread c t y = s.setThread c t y := by simp [State.setThread]

@[simp] theorem State.setCore_setCore (s : State) (c : Nat) (x y : Core) :
    (s.setCore c x).setCore c y = s.setCore c y := by simp [State.setCore]

theorem State.advance_eq (s : State) (c t : Nat) :
    s.advance c t = s.setThread c t (s.thread c t).stepped := rfl

@[simp] theorem State.thread_advance (s : State) (c t : Nat) :
    (s.advance c t).thread c t = (s.thread c t).stepped := by rw [State.advance_eq]; simp

/-- An instruction that issues with its guard 1 has its body's effect. -/
theorem issue_acts {op sub c t : Nat} {w : BitVec 64} {s : State} (body : Thread → State → Eff)
    (h : Acts op sub c t w s) :
    issue op sub c t w s body = .next (s.effect c t (unitOf op) (body (s.thread c t) (s.advance c t))) := by
  have hf : rowFits op sub w = true := by simp [rowFits, h.opcode, h.row]
  have hg : (!laneGuarded op && !(s.thread c t).guard w) = false := by
    rcases h.guard with h | h <;> simp [h]
  simp [issue, issueState, h.core, h.thread, hf, h.canIssue, h.awake, Nat.not_le.2 h.pc, h.fetched, h.listed, h.legal,
    h.sources, h.opcode, hg]

/-- … and with its guard 0 it only advances. -/
theorem issue_unguarded {op sub c t : Nat} {w : BitVec 64} {s : State} (body : Thread → State → Eff)
    (h : Runs op sub c t w s) (hl : laneGuarded op = false) (hg : (s.thread c t).guard w = false) :
    issue op sub c t w s body = .next (s.advance c t) := by
  have hf : rowFits op sub w = true := by simp [rowFits, h.opcode, h.row]
  simp [issue, issueState, h.core, h.thread, hf, h.canIssue, h.awake, Nat.not_le.2 h.pc, h.fetched, h.listed, h.legal,
    h.sources, h.opcode, hl, hg]

/-- A body that changes only the thread leaves a state that differs in that thread alone. -/
theorem issue_thread {op sub c t : Nat} {w : BitVec 64} {s : State} (f : Thread → Thread → Thread)
    (h : Acts op sub c t w s) :
    issue op sub c t w s (fun th s => effThread c t s (f th)) =
      .next (s.setThread c t (f (s.thread c t) (s.thread c t).stepped)) := by
  rw [issue_acts _ h]
  simp [effThread, State.effect, State.modThread_eq, State.advance_eq]

/-- The outcomes of an issue: the next state of `issueState`, or the refusal of operands that name no such command. -/
theorem issue_cases (op sub c t : Nat) (w : BitVec 64) (s : State) (body : Thread → State → Eff) :
    issue op sub c t w s body = .next (issueState c t w s body) ∨ issue op sub c t w s body = .refused .illFormed := by
  unfold issue; split <;> simp

end Sys2Proof.Machine
end

