-- ==== Sys2Proof/Laws/Memory.lean ====
section
/-! SUPPORT. Every operation over memory keeps its canonical form, and what else it can change: ECC counts and logs,
and the notifications they raise. Every other part of State is as before. -/

namespace Sys2Proof.Machine

/-! ## The tables of Mem -/

theorem Memory.wf_iff (m : Mem) : Memory.wf m = true ↔ Tab.wf 0 m.cells = true ∧ Tab.wf 0 m.wordErr = true ∧
    Tab.wf 0 m.secErr = true ∧ Tab.wf 0 m.grpErr = true ∧ Tab.wf 0 m.host = true := by
  simp [Memory.wf, Bool.and_eq_true, and_assoc]

variable {m : Mem}

theorem Memory.wf_cells {t : Tab Byte} (h : Memory.wf m = true) (ht : Tab.wf 0 t = true) :
    Memory.wf { m with cells := t } = true := by rw [Memory.wf_iff] at *; exact ⟨ht, h.2⟩

theorem Memory.wf_wordErr {t : Tab Nat} (h : Memory.wf m = true) (ht : Tab.wf 0 t = true) :
    Memory.wf { m with wordErr := t } = true := by rw [Memory.wf_iff] at *; exact ⟨h.1, ht, h.2.2⟩

theorem Memory.wf_secErr {t : Tab Nat} (h : Memory.wf m = true) (ht : Tab.wf 0 t = true) :
    Memory.wf { m with secErr := t } = true := by rw [Memory.wf_iff] at *; exact ⟨h.1, h.2.1, ht, h.2.2.2⟩

theorem Memory.wf_grpErr {t : Tab Nat} (h : Memory.wf m = true) (ht : Tab.wf 0 t = true) :
    Memory.wf { m with grpErr := t } = true := by rw [Memory.wf_iff] at *; exact ⟨h.1, h.2.1, h.2.2.1, ht, h.2.2.2.2⟩

theorem Memory.wf_host {t : Tab Byte} (h : Memory.wf m = true) (ht : Tab.wf 0 t = true) :
    Memory.wf { m with host := t } = true := by rw [Memory.wf_iff] at *; exact ⟨h.1, h.2.1, h.2.2.1, h.2.2.2.1, ht⟩

/-- A group mark and a sector mark changed at once. -/
theorem Memory.wf_marks {t u : Tab Nat} (h : Memory.wf m = true) (ht : Tab.wf 0 t = true) (hu : Tab.wf 0 u = true) :
    Memory.wf { m with secErr := t, grpErr := u } = true := Memory.wf_grpErr (Memory.wf_secErr h ht) hu

/-- After a module reset only host memory is listed. -/
theorem Memory.wf_hubReset (h : Memory.wf m = true) : Memory.wf { Mem.init with host := m.host } = true :=
  Memory.wf_host (by rfl) ((Memory.wf_iff m).1 h).2.2.2.2

/-! ## Reads of bytes -/

/-- Host memory and device memory are apart. -/
@[simp] theorem State.bytes_setHostBytes (s : State) (k n j : Nat) (d : Bytes) :
    (s.setHostBytes j d).bytes k n = s.bytes k n := rfl

@[simp] theorem State.hostBytes_setBytes (s : State) (k n j : Nat) (d : Bytes) :
    (s.setBytes j d).hostBytes k n = s.hostBytes k n := rfl

/-- A byte read after a write: the byte written within the range, the old byte elsewhere. -/
theorem State.byte_setBytes (s : State) (k j : Nat) (d : Bytes) :
    Tab.get 0 (s.setBytes k d).mem.cells j =
      if k ≤ j ∧ j < k + d.length then d.getD (j - k) 0 else Tab.get 0 s.mem.cells j := Tab.get_setRange ..

/-- A mark of a word does not touch its bytes. -/
@[simp] theorem State.bytes_setWordMark (s : State) (w v k n : Nat) : (s.setWordMark w v).bytes k n = s.bytes k n := rfl

/-! ## What a memory operation can change -/

/-- `u` follows `s` by memory operations: memory, ECC counts and logs of cores and dies, and what notifications
change; memory in canonical form stays so. -/
def State.MemStep (s u : State) : Prop :=
  ∃ m c d e p mm o, u = { s with mem := m, cores := c, dies := d, err := e, pcie := p, mmc := mm, out := o } ∧
    (Memory.wf s.mem = true → Memory.wf m = true)

theorem State.MemStep.refl (s : State) : s.MemStep s := ⟨s.mem, s.cores, s.dies, s.err, s.pcie, s.mmc, s.out, rfl, id⟩

theorem State.MemStep.trans {s u v : State} (h : s.MemStep u) (h' : u.MemStep v) : s.MemStep v := by
  obtain ⟨m, c, d, e, p, mm, o, rfl, hw⟩ := h
  obtain ⟨m', c', d', e', p', mm', o', rfl, hw'⟩ := h'
  exact ⟨m', c', d', e', p', mm', o', rfl, fun h => hw' (hw h)⟩

theorem State.MemStep.wf {s u : State} (h : s.MemStep u) (hw : Memory.wf s.mem = true) : Memory.wf u.mem = true := by
  obtain ⟨m, c, d, e, p, mm, o, rfl, h⟩ := h
  exact h hw

theorem State.MemStep.ite {s u v : State} {p : Prop} [Decidable p] (h : s.MemStep u) (h' : s.MemStep v) :
    s.MemStep (if p then u else v) := by split <;> assumption

theorem State.MemStep.foldl {α : Type} (f : State → α → State) (hf : ∀ s a, State.MemStep s (f s a)) (l : List α)
    (s : State) : s.MemStep (l.foldl f s) := by
  induction l generalizing s with
  | nil => exact .refl s
  | cons a l ih => exact (hf s a).trans (ih _)

variable (s : State)

theorem State.memStep_notify (kind inj place code detail) : s.MemStep (s.notify kind inj place code detail) := by
  obtain ⟨e, p, m, o, h⟩ := s.notify_cases kind inj place code detail
  rw [h]; exact ⟨s.mem, s.cores, s.dies, e, p, m, o, rfl, id⟩

theorem State.memStep_perturb (tgt action place) : s.MemStep (s.perturb tgt action place).2 := by
  obtain ⟨e, h⟩ := s.perturb_cases tgt action place
  rw [h]; exact ⟨s.mem, s.cores, s.dies, _, s.pcie, s.mmc, s.out, rfl, id⟩

theorem State.memStep_modCore (c f) : s.MemStep (s.modCore c f) :=
  ⟨s.mem, _, s.dies, s.err, s.pcie, s.mmc, s.out, rfl, id⟩

theorem State.memStep_modLpd (d f) : s.MemStep (s.modLpd d f) :=
  ⟨s.mem, s.cores, _, s.err, s.pcie, s.mmc, s.out, rfl, id⟩

/-- A change of memory that keeps its form. -/
theorem State.memStep_mem (m : Mem) (h : Memory.wf s.mem = true → Memory.wf m = true) : s.MemStep { s with mem := m } :=
  ⟨m, s.cores, s.dies, s.err, s.pcie, s.mmc, s.out, rfl, h⟩

theorem State.memStep_setBytes (k d) : s.MemStep (s.setBytes k d) :=
  s.memStep_mem _ fun h => Memory.wf_cells h (Tab.wf_setRange _ _ ((Memory.wf_iff _).1 h).1)

theorem State.memStep_setHostBytes (k d) : s.MemStep (s.setHostBytes k d) :=
  s.memStep_mem _ fun h => Memory.wf_host h (Tab.wf_setRange _ _ ((Memory.wf_iff _).1 h).2.2.2.2)

theorem State.memStep_setWordMark (w v) : s.MemStep (s.setWordMark w v) :=
  s.memStep_mem _ fun h => Memory.wf_wordErr h (Tab.wf_set _ _ ((Memory.wf_iff _).1 h).2.1)

theorem State.memStep_secErr (k v) : s.MemStep { s with mem := { s.mem with secErr := Tab.set 0 s.mem.secErr k v } } :=
  s.memStep_mem _ fun h => Memory.wf_secErr h (Tab.wf_set _ _ ((Memory.wf_iff _).1 h).2.2.1)

theorem State.memStep_grpErr (k v) : s.MemStep { s with mem := { s.mem with grpErr := Tab.set 0 s.mem.grpErr k v } } :=
  s.memStep_mem _ fun h => Memory.wf_grpErr h (Tab.wf_set _ _ ((Memory.wf_iff _).1 h).2.2.2.1)

theorem State.memStep_clearSector (sec) : s.MemStep (s.clearSector sec) := s.memStep_secErr ..

/-! ## Scratchpads -/

theorem State.memStep_countCorr (c n) : s.MemStep (s.countCorr c n) := by
  unfold State.countCorr
  split
  · exact .refl s
  · exact s.memStep_modCore ..

theorem State.memStep_countUe (c w inj) : s.MemStep (s.countUe c w inj) :=
  (s.memStep_modCore ..).trans (State.memStep_notify ..)

theorem State.memStep_readSpad (c off n) : s.MemStep (s.readSpad c off n).2 := by
  unfold State.readSpad
  dsimp only
  rw [apply_ite Prod.snd, ite_self]
  have h2 := (s.memStep_perturb 1 1 c).trans (State.memStep_perturb _ 1 6 c)
  generalize ((s.perturb 1 1 c).2.perturb 1 6 c).2 = s2 at h2 ⊢
  have h3 := fun l l' k => ((h2.trans (.foldl _ (fun s w => s.memStep_setWordMark w 2) l s2)).trans
    (State.memStep_countCorr _ c k)).trans (.foldl _ (fun s w => s.memStep_countUe c (w - spadAddr c 0 / 8) false) l' _)
  exact .ite ((h3 ..).trans (State.memStep_countUe ..)) (h3 ..)

theorem State.memStep_sectorRead (c off hit) : s.MemStep (s.sectorRead c off hit).2 := by
  unfold State.sectorRead
  dsimp only
  have h2 := (s.memStep_perturb 1 1 c).trans (State.memStep_perturb _ 1 6 c)
  generalize ((s.perturb 1 1 c).2.perturb 1 6 c).2 = s2 at h2 ⊢
  have h3 := fun l l' k => ((h2.trans (.foldl _ (fun s w => s.memStep_setWordMark w 2) l s2)).trans
    (State.memStep_countCorr _ c k)).trans (.foldl _ (fun s w => s.memStep_countUe c (w - spadAddr c 0 / 8) false) l' _)
  exact .ite ((h3 ..).trans (State.memStep_countUe ..)) (h3 ..)

theorem State.memStep_writeSpad (c off d) : s.MemStep (s.writeSpad c off d).2 := by
  unfold State.writeSpad
  dsimp only
  split
  · exact ((s.memStep_countCorr ..).trans (.foldl _ (fun s w => s.memStep_setWordMark w 0) _ _)).trans
      (State.memStep_setBytes ..)
  · exact (s.memStep_countCorr ..).trans (.foldl _ (fun s w => s.memStep_countUe c _ false) _ _)

/-! ## LPDDR -/

theorem State.memStep_remapFull (d ch) : s.MemStep (s.remapFull d ch) := by
  unfold State.remapFull
  exact .ite ((s.memStep_modLpd ..).trans (State.memStep_notify ..)) (.refl s)

theorem State.memStep_remapRow (d ch row count) : s.MemStep (s.remapRow d ch row count) := by
  unfold State.remapRow
  dsimp only
  split
  · exact .refl s
  · split
    · exact s.memStep_remapFull ..
    · exact (s.memStep_modLpd ..).trans (State.memStep_remapFull ..)

theorem State.memStep_remapDue (d ch) : s.MemStep (s.remapDue d ch) := by
  unfold State.remapDue
  exact .ite (.foldl _ (fun s t => s.memStep_remapRow ..) _ s) (.refl s)

theorem State.memStep_trackRow (d ch row) : s.MemStep (s.trackRow d ch row) :=
  (s.memStep_modLpd ..).trans (State.memStep_remapDue ..)

theorem State.memStep_lpdUe (sec a b cls inj) : s.MemStep (s.lpdUe sec a b cls inj) :=
  (s.memStep_modLpd ..).trans (State.memStep_notify ..)

theorem State.memStep_lpdCe (sec wb) : s.MemStep (s.lpdCe sec wb) := by
  unfold State.lpdCe
  dsimp only
  exact (State.MemStep.ite ((s.memStep_modLpd ..).trans (State.memStep_secErr _ _ _)) (s.memStep_modLpd ..)).trans
    (State.memStep_trackRow ..)

theorem State.memStep_checkSector (sec cls) : s.MemStep (s.checkSector sec cls).2 := by
  unfold State.checkSector
  dsimp only
  have h2 := (s.memStep_perturb 2 3 (lpdPlace (s.lpdLoc (sec * 32)).die (s.lpdLoc (sec * 32)).chan)).trans
    (State.memStep_perturb _ 2 6 (lpdPlace (s.lpdLoc (sec * 32)).die (s.lpdLoc (sec * 32)).chan))
  simp only [apply_ite Prod.snd]
  exact .ite (h2.trans (State.memStep_lpdUe ..)) (.ite (h2.trans (State.memStep_lpdUe ..))
    (.ite (h2.trans (State.memStep_lpdUe ..)) (.ite (h2.trans (State.memStep_lpdUe ..))
      (.ite (h2.trans (State.memStep_lpdCe ..)) h2))))

theorem State.memStep_checkSectors (n : Nat) (sec cls) : s.MemStep (State.checkSectors n s sec cls).2 := by
  induction n generalizing s sec with
  | zero => exact .refl s
  | succ n ih =>
    unfold State.checkSectors
    dsimp only
    split
    · exact (s.memStep_checkSector ..).trans (ih ..)
    · exact s.memStep_checkSector ..

theorem State.memStep_readLpd (u n cls) : s.MemStep (s.readLpd u n cls).2 := by
  unfold State.readLpd
  dsimp only
  split <;> exact s.memStep_checkSectors ..

theorem State.memStep_writeSector (u d cls) : s.MemStep (s.writeSector u d cls).2 := by
  unfold State.writeSector
  dsimp only
  split
  · split
    · exact s.memStep_lpdUe ..
    · exact ((s.memStep_grpErr _ _).trans (State.memStep_clearSector ..)).trans (State.memStep_setBytes ..)
  · split
    · exact (((s.memStep_checkSector ..).trans (State.memStep_grpErr _ _ _)).trans (State.memStep_clearSector ..)).trans
        (State.memStep_setBytes ..)
    · exact s.memStep_checkSector ..

theorem State.memStep_writeLpd (fuel : Nat) (u d cls) : s.MemStep (State.writeLpd fuel s u d cls).2 := by
  induction fuel generalizing s u d with
  | zero => exact .refl s
  | succ n ih =>
    unfold State.writeLpd
    dsimp only
    split
    · exact .refl s
    · split
      · refine ((s.memStep_mem _ fun h => ?_).trans (State.memStep_setBytes ..)).trans (ih ..)
        have h' := (Memory.wf_iff _).1 h
        exact Memory.wf_marks h (Tab.wf_drop (fun k => k / 15 == u / 480) h'.2.2.1) (Tab.wf_set (u / 480) 0 h'.2.2.2.1)
      · split
        · exact (s.memStep_writeSector ..).trans (ih ..)
        · exact s.memStep_writeSector ..

/-! ## Any place -/

theorem State.memStep_readPlace (p n cls) : s.MemStep (s.readPlace p n cls).2 := by
  cases p with
  | spad c off => exact s.memStep_readSpad ..
  | lpd u => exact s.memStep_readLpd ..
  | cis a => unfold State.readPlace; dsimp only; split <;> exact .refl s
  | reg off => exact .refl s

theorem State.memStep_writePlace (p d cls) : s.MemStep (s.writePlace p d cls).2 := by
  cases p with
  | spad c off => exact s.memStep_writeSpad ..
  | lpd u => exact s.memStep_writeLpd ..
  | cis a =>
    exact State.MemStep.trans (.foldl _ (fun s w => s.memStep_setWordMark w 0) _ s) (State.memStep_setBytes ..)
  | reg off => exact .refl s

theorem State.memStep_readMem (a n cls) : s.MemStep (s.readMem a n cls).2 := by
  unfold State.readMem
  split
  · exact .refl s
  · split
    · exact .refl s
    · exact s.memStep_readPlace ..

theorem State.memStep_writeMem (a d cls) : s.MemStep (s.writeMem a d cls).2 := by
  unfold State.writeMem
  split
  · exact .refl s
  · split
    · exact .refl s
    · exact s.memStep_writePlace ..

theorem State.memStep_writeOuts (ws : List OutW) (cls : Nat) : s.MemStep (State.writeOuts s ws cls).2 := by
  induction ws generalizing s with
  | nil => exact .refl s
  | cons w ws ih =>
    have h := s.memStep_writeMem w.addr w.data cls
    unfold State.writeOuts
    split <;> rename_i h' <;> rw [h'] at h
    · exact h.trans (ih _)
    · exact h

theorem State.memStep_readSector (p hit cls) : s.MemStep (s.readSector p hit cls).2 := by
  cases p with
  | spad c off => exact s.memStep_sectorRead ..
  | lpd u => unfold State.readSector; dsimp only; split <;> exact s.memStep_checkSector ..
  | cis a => exact .refl s
  | reg off => exact .refl s

/-- The second half of a read-modify-write. -/
theorem State.memStep_putPlace (p d) : s.MemStep (s.putPlace p d) := by
  cases p with
  | spad c off => exact State.MemStep.trans (.foldl _ (fun s w => s.memStep_setWordMark w 0) _ s) (State.memStep_setBytes ..)
  | lpd u => exact ((s.memStep_grpErr _ _).trans (State.memStep_clearSector ..)).trans (State.memStep_setBytes ..)
  | cis a => exact State.MemStep.trans (.foldl _ (fun s w => s.memStep_setWordMark w 0) _ s) (State.memStep_setBytes ..)
  | reg off => exact .refl s

theorem State.memStep_atomPlace (p aop width v cmp cls) : s.MemStep (s.atomPlace p aop width v cmp cls).2 := by
  have h := s.memStep_readPlace p width cls
  unfold State.atomPlace
  split <;> rename_i h' <;> rw [h'] at h
  · exact h
  · exact h.trans (State.memStep_putPlace ..)

/-! ## Kept by every such operation -/

theorem State.MemStep.fuses {s u : State} (h : s.MemStep u) : u.fuses = s.fuses := by
  obtain ⟨m, c, d, e, p, mm, o, rfl, -⟩ := h; rfl

theorem State.MemStep.pending {s u : State} (h : s.MemStep u) : u.pending = s.pending := by
  obtain ⟨m, c, d, e, p, mm, o, rfl, -⟩ := h; rfl

theorem State.MemStep.threads {s u : State} (h : s.MemStep u) : u.threads = s.threads := by
  obtain ⟨m, c, d, e, p, mm, o, rfl, -⟩ := h; rfl

theorem State.MemStep.ops {s u : State} (h : s.MemStep u) : u.ops = s.ops := by
  obtain ⟨m, c, d, e, p, mm, o, rfl, -⟩ := h; rfl

end Sys2Proof.Machine
end

