-- ==== Sys2Proof/Tests/Slice0.lean ====
section
/-! SUPPORT. Tests of the model on small states, with results from the manual or worked by hand, and for every
statement concrete states and operands that meet its hypotheses. A name `test_…` is a test of one step; `met_…` shows
hypotheses met, clause by clause, at the ends of their ranges. -/

namespace Sys2Proof.Tests

open Sys2Proof.Machine

set_option Elab.async false

/-! ## Helpers -/

/-- The next state, if any. -/
def nextOf (i : Instr) (s : State) : Option State :=
  match exec i s with
  | .next u => some u
  | _ => none

/-- What `f` reads of the next state. -/
def sees {α : Type} (i : Instr) (s : State) (f : State → α) : Option α := (nextOf i s).map f

/-- The command is refused as ill formed. -/
def refuses (i : Instr) (s : State) : Bool :=
  match exec i s with
  | .refused .illFormed => true
  | _ => false

/-- A word with opcode `op` and the fields (low bit, value). -/
def wd (op : Nat) (fs : List (Nat × Nat)) : BitVec 64 :=
  BitVec.ofNat 64 (fs.foldl (fun a f => a + f.2 * 2 ^ f.1) (op * 2 ^ 56))

/-- A descriptor of KIND `kind`, EXT as given, one plane. -/
def tile (base fmt kind ext dim0 dim1 stride1 : Nat) : BitVec 256 :=
  BitVec.ofNat 256 (base + fmt * 2 ^ 48 + kind * 2 ^ 56 + ext * 2 ^ 59 + dim0 * 2 ^ 64 + dim1 * 2 ^ 84 + stride1 * 2 ^ 128)

/-- The window of core 0. -/
def own : Nat := 0x014000000000

/-- A die in operation. -/
def upDie : Die := { Die.init with inReset := false, lpd := { Lpd.init with go := true, trained := true } }

/-- A module whose dies are in operation. -/
def up : State := { State.reset with dies := [(0, upDie), (1, upDie), (2, upDie), (3, upDie)] }

/-- A READY thread with operands in its registers. -/
def busy : Thread := { Thread.init false 0 with
  state := .ready
  pc := 64
  regs := { s := [(1, 5), (2, 9), (4, 64), (6, BitVec.ofNat 64 own), (7, 0x0005000000001000), (8, 0xFFFF000000001000)]
            d := [(1, tile 0x1000 7 0 0 8 4 32), (2, tile 0x2000 6 0 0 32 4 32), (3, tile 0x3000 6 0 0 32 8 32),
                  (4, tile 0x4000 6 1 1 32 4 32), (6, tile 0x6000 0 0 0 32 4 128), (7, tile 0x7000 0 0 0 32 4 128),
                  (8, tile 0x8000 9 0 0 128 1 128), (9, tile 0x9000 1 2 0 0 0 0), (10, tile 0xA000 0 0 0 128 1 512),
                  (11, tile 0xB000 0 0 0 128 1 512), (12, tile 0xC000 9 3 0 1 0 0), (13, tile 0xD000 7 0 0 1 1 32),
                  (14, tile 0xE000 9 4 0 1 0 0), (15, tile 0xF000 9 0 0 32 4 32)]
            v := [(2, 0x0000000700000003), (3, 0x0000000200000001)]
            p := [(1, 1)] } }

/-- `busy` as thread 0 of core 0, and its opposite number, thread 31 of core 159. -/
def unit : State := { up with threads := [(0, busy), (159 * 32 + 31, busy)] }

/-- Thread 0 of core 0 changed. -/
def unitWith (f : Thread → Thread) : State := { up with threads := [(0, f busy)] }

/-- The conditions of `Runs`, computed. -/
def runsB (op sub c t : Nat) (w : BitVec 64) (s : State) : Bool :=
  decide (c < s.lcores) && decide (t < 32) && iOp w == op && (rowSub w).1 == sub && !unlisted w && legal w
    && (s.thread c t).canIssue && s.awake c && decide ((s.thread c t).pc.toNat < spadSize) && !(s.thread c t).fetchBad
    && !(sources w).any (s.thread c t).srcPending

theorem runs_of {op sub c t : Nat} {w : BitVec 64} {s : State} (h : runsB op sub c t w s = true) :
    Runs op sub c t w s := by
  simp only [runsB, Bool.and_eq_true, decide_eq_true_eq, beq_iff_eq, Bool.not_eq_true'] at h
  obtain ⟨⟨⟨⟨⟨⟨⟨⟨⟨⟨h1, h2⟩, h3⟩, h4⟩, h5⟩, h6⟩, h7⟩, h8⟩, h9⟩, h10⟩, h11⟩ := h
  exact ⟨h1, h2, h3, h4, h5, h6, h7, h8, h9, h10, h11⟩

/-- The conditions of `Acts`, computed. -/
def actsB (op sub c t : Nat) (w : BitVec 64) (s : State) : Bool :=
  runsB op sub c t w s && (laneGuarded op || (s.thread c t).guard w)

theorem acts_of {op sub c t : Nat} {w : BitVec 64} {s : State} (h : actsB op sub c t w s = true) :
    Acts op sub c t w s := by
  simp only [actsB, Bool.and_eq_true, Bool.or_eq_true] at h
  exact ⟨runs_of h.1, h.2⟩

/-- One legal word of every thread instruction that a scalar, vector or memory unit executes. -/
def words : List (Nat × Nat × BitVec 64) :=
  [(0x00, 0, wd 0x00 []), (0x01, 0, wd 0x01 []), (0x02, 0, wd 0x02 [(47, 3), (42, 1), (37, 2)]),
   (0x03, 0, wd 0x03 [(47, 3), (42, 1), (0, 7)]), (0x04, 0, wd 0x04 [(47, 3), (0, 0x1FFFFFFFFFFE)]),
   (0x05, 0, wd 0x05 [(47, 1), (45, 3), (0, 0xABCD)]), (0x06, 0, wd 0x06 [(47, 3), (0, 1)]), (0x07, 0, wd 0x07 [(0, 0x101)]),
   (0x08, 0, wd 0x08 [(47, 3), (36, 1)]), (0x09, 0, wd 0x09 [(42, 1), (36, 3)]),
   (0x10, 0, wd 0x10 [(42, 1), (37, 2), (34, 1), (0, 0xFFFFFFFE)]), (0x11, 0, wd 0x11 [(0, 3)]),
   (0x12, 0, wd 0x12 [(47, 3), (0, 3)]), (0x13, 0, wd 0x13 [(47, 3), (42, 4)]),
   (0x20, 0, wd 0x20 [(48, 1), (39, 4)]), (0x21, 0, wd 0x21 [(44, 1), (39, 4)]), (0x22, 0, wd 0x22 [(48, 1), (39, 1)]),
   (0x23, 0, wd 0x23 [(44, 1), (39, 3)]), (0x24, 0, wd 0x24 [(48, 1), (44, 2), (39, 1), (0, 0x3FFFFFFF)]),
   (0x25, 0, wd 0x25 [(48, 1), (44, 2)]),
   (0x30, 0, wd 0x30 [(47, 1), (42, 2), (37, 3), (20, 3)]), (0x31, 0, wd 0x31 [(47, 1), (42, 2)]),
   (0x32, 0, wd 0x32 [(47, 1), (42, 2), (37, 3), (20, 3)]), (0x33, 0, wd 0x33 [(47, 1), (42, 2), (37, 3), (32, 1)]),
   (0x34, 0, wd 0x34 [(47, 1), (42, 1)]), (0x34, 1, wd 0x34 [(47, 3), (42, 2), (37, 1), (26, 1)]),
   (0x34, 2, wd 0x34 [(47, 1), (26, 2)]), (0x35, 0, wd 0x35 [(47, 3), (42, 2)]),
   (0x36, 0, wd 0x36 [(47, 1), (42, 2), (37, 3)]), (0x37, 0, wd 0x37 [(47, 2), (42, 1), (37, 1)]),
   (0x50, 0, wd 0x50 [(47, 3), (42, 6), (34, 2)]), (0x51, 0, wd 0x51 [(47, 1), (42, 6), (34, 2)]),
   (0x52, 0, wd 0x52 [(47, 1), (42, 6), (34, 2)]), (0x53, 0, wd 0x53 [(47, 2), (42, 6), (34, 2)]),
   (0x54, 0, wd 0x54 [(47, 1), (42, 6), (37, 3), (34, 2)]), (0x55, 0, wd 0x55 [(47, 2), (42, 6), (37, 3), (34, 2)]),
   (0x56, 0, wd 0x56 [(47, 1), (42, 6), (34, 3)]),
   (0x58, 0, wd 0x58 [(47, 3), (42, 7), (34, 2)]), (0x59, 0, wd 0x59 [(47, 1), (42, 7), (34, 2)]),
   (0x5A, 0, wd 0x5A [(47, 1), (42, 7), (34, 2)]), (0x5B, 0, wd 0x5B [(47, 2), (42, 7), (34, 2)]),
   (0x5C, 0, wd 0x5C [(47, 1), (42, 7), (34, 3)]), (0x5D, 0, wd 0x5D [(47, 1), (42, 7), (34, 3)]),
   (0x5E, 0, wd 0x5E [(47, 1), (42, 7), (34, 3)]),
   (0x68, 0, wd 0x68 [(36, 63), (24, 255)]), (0x68, 1, wd 0x68 [(36, 63), (32, 1), (24, 1)]),
   (0x68, 2, wd 0x68 [(47, 3), (36, 63), (32, 2), (24, 1)]),
   (0x69, 0, wd 0x69 [(36, 63)]), (0x69, 1, wd 0x69 [(36, 63), (32, 1)]), (0x69, 2, wd 0x69 [(36, 63), (32, 2)]),
   (0x6A, 0, wd 0x6A []), (0x6A, 1, wd 0x6A [(32, 1)]), (0x6A, 2, wd 0x6A [(32, 2)]),
   (0x6B, 0, wd 0x6B [(47, 3), (42, 1), (36, 15)]), (0x6B, 1, wd 0x6B [(47, 3), (42, 1), (36, 15), (32, 1)])]

/-- One legal word of every instruction that enters a queue. -/
def queueWords : List (Nat × Nat × BitVec 64) :=
  [(0x60, 0, wd 0x60 [(48, 6), (44, 7)]), (0x60, 1, wd 0x60 [(44, 7), (39, 1), (29, 1)]),
   (0x60, 2, wd 0x60 [(48, 6), (39, 1), (29, 2)]), (0x60, 3, wd 0x60 [(48, 6), (44, 7), (39, 7), (29, 3)]),
   (0x60, 4, wd 0x60 [(48, 6), (44, 7), (39, 7), (29, 4)]),
   (0x70, 0, wd 0x70 [(48, 1), (44, 2), (40, 3), (0, 3)]), (0x71, 0, wd 0x71 [(44, 4), (40, 3), (0, 1)]),
   (0x72, 0, wd 0x72 [(48, 10), (44, 11), (40, 9), (36, 8)]), (0x73, 0, wd 0x73 [(48, 15), (44, 6)]),
   (0x73, 1, wd 0x73 [(48, 6), (44, 7), (8, 1)]), (0x74, 0, wd 0x74 [(48, 6), (44, 7)]),
   (0x75, 0, wd 0x75 [(48, 8), (44, 12), (40, 13)]), (0x76, 0, wd 0x76 [(44, 9), (40, 8)]),
   (0x77, 0, wd 0x77 [(48, 13), (44, 10), (36, 8)]), (0x77, 1, wd 0x77 [(48, 13), (44, 10), (36, 8), (8, 1)]),
   (0x77, 2, wd 0x77 [(48, 13), (44, 10), (36, 8), (8, 2)]), (0x78, 0, wd 0x78 [(48, 14), (44, 10), (36, 8)]),
   (0x79, 0, wd 0x79 []), (0x79, 1, wd 0x79 [(48, 6), (8, 1)]), (0x79, 2, wd 0x79 [(48, 6), (8, 2)]),
   (0x90, 0, wd 0x90 [(47, 4), (42, 1)])]

/-- The word of a row in the two lists. -/
def wordOf (op sub : Nat) : BitVec 64 :=
  (((words ++ queueWords).find? fun r => r.1 == op && r.2.1 == sub).map fun r => r.2.2).getD 0

/-- Every instruction acts somewhere: its word in `unit`, at the first and at the last thread. -/
theorem met_acts_low : (words.all fun r => actsB r.1 r.2.1 0 0 r.2.2 unit) = true := by decide +kernel
theorem met_acts_high : (words.all fun r => actsB r.1 r.2.1 159 31 r.2.2 unit) = true := by decide +kernel
theorem met_acts_queues : (queueWords.all fun r => actsB r.1 r.2.1 0 0 r.2.2 unit) = true := by decide +kernel

/-- GuardSkips: the same words with PN 1, so that P0 gives the guard 0. -/
theorem met_guard_zero : ((words ++ queueWords).all fun r => laneGuarded r.1 ||
    (runsB r.1 r.2.1 0 0 (r.2.2 ||| wd 0 [(52, 1)]) unit
      && ((unit.thread 0 0).regs.getP (iPg r.2.2)).getLsbD 0 == iPn (r.2.2 ||| wd 0 [(52, 1)]))) = true := by
  decide +kernel

/-! ## Scalar, branch, system -/

/-- The thread after a command. -/
def thr (u : State) : Thread := u.thread 0 0

/-- S register `n` after the word of a row, by `f`. -/
def sAfter (i : Instr) (s : State) (n : Nat) : Option (BitVec 64) := sees i s fun u => (thr u).regs.getS n

theorem test_halt : sees (.halt 0 0 (wordOf 0x01 0)) unit (fun u => ((thr u).state, (thr u).pc)) = some (.done, 72) := by
  decide +kernel
theorem test_alu : sAfter (.alu 0 0 (wordOf 0x02 0)) unit 3 = some 14 := by decide +kernel
theorem test_alui : sAfter (.alui 0 0 (wordOf 0x03 0)) unit 3 = some 12 := by decide +kernel
theorem test_movi_negative : sAfter (.movi 0 0 (wordOf 0x04 0)) unit 3 = some (-2) := by decide +kernel
theorem test_movk_top : sAfter (.movk 0 0 (wordOf 0x05 0)) unit 1 = some 0xABCD000000000005 := by decide +kernel
theorem test_div_zero : aluVal 0x14 7 0 = -1 ∧ aluVal 0x16 7 0 = 7 ∧ aluVal 0x17 7 0 = 7 := by decide +kernel
theorem test_caprd_unlisted : sAfter (.caprd 0 0 (wd 0x06 [(47, 3), (0, 255)])) unit 3 = some 0 := by decide +kernel
theorem test_modeset : sees (.modeset 0 0 (wordOf 0x07 0)) unit (fun u => (thr u).mode) =
    some ⟨true, false, 0, 0⟩ := by decide +kernel
theorem test_sysrd_core : sees (.sysrd 159 31 (wordOf 0x08 0)) unit (fun u => (u.thread 159 31).regs.getS 3) = some 159 := by
  decide +kernel
theorem test_br_taken : sees (.br 0 0 (wordOf 0x10 0)) unit (fun u => (thr u).pc) = some 48 := by decide +kernel
theorem test_jal_link : sees (.jal 0 0 (wordOf 0x12 0)) unit (fun u => ((thr u).pc, (thr u).regs.getS 3)) =
    some (88, 72) := by decide +kernel

/-- AluTable: both divisor cases. -/
theorem met_alu : (1 : BitVec 64) ≠ 0 ∧ (0 : BitVec 64) = 0 := by decide

/-- RegisterWrites: a request outstanding to S31. -/
theorem met_registerWrites : ∃ q ∈ ({ busy with reqs := [⟨1, 64, .s 31 8 false, false, []⟩] } : Thread).reqs,
    q.dst = .s 31 8 false := ⟨_, List.mem_singleton.2 rfl, rfl⟩

/-- SystemAccess: SYSRD of the physical site and MODESET of a foreign array, on a locked and on an unlocked core. -/
def unlockedUnit : State := { unit with cores := [(0, { Core.init with unlocked := true })] }
theorem met_system_site : actsB 0x08 0 0 0 (wd 0x08 [(47, 3), (36, 5)]) unit = true ∧
    iSubI (wd 0x08 [(47, 3), (36, 5)]) = 5 ∧ (unit.core 0).unlocked = false ∧ (unlockedUnit.core 0).unlocked = true ∧
    actsB 0x08 0 0 0 (wd 0x08 [(47, 3), (36, 5)]) unlockedUnit = true := by decide +kernel
theorem met_modeset_array : actsB 0x07 0 0 0 (wd 0x07 [(0, 0x206)]) unit = true := by decide +kernel
theorem test_sysrd_site_locked : sees (.sysrd 0 0 (wd 0x08 [(47, 3), (36, 5)])) unit
    (fun u => ((thr u).state, (thr u).fault.cause, (thr u).pc)) = some (.faulted, 0x02, 64) := by decide +kernel
theorem test_modeset_array_locked : sees (.modeset 0 0 (wd 0x07 [(0, 0x206)])) unit
    (fun u => ((thr u).state, (thr u).fault.cause)) = some (.faulted, 0x02) := by decide +kernel

/-- BranchResults: an aligned and a misaligned JR, and the fetch beyond 48 MiB. -/
theorem met_jr : ((unit.thread 0 0).regs.getS 4).toNat % 8 = 0 ∧
    actsB 0x13 0 0 0 (wd 0x13 [(47, 3), (42, 1)]) unit = true ∧ ((unit.thread 0 0).regs.getS 1).toNat % 8 ≠ 0 := by
  decide +kernel
theorem test_jr_misaligned : sees (.jr 0 0 (wd 0x13 [(47, 3), (42, 1)])) unit
    (fun u => ((thr u).fault.cause, (thr u).regs.getS 3)) = some (0x06, 0) := by decide +kernel
def farUnit : State := unitWith fun th => { th with pc := 0x3000000 }
theorem met_pcRange : (farUnit.thread 0 0).canIssue = true ∧ farUnit.awake 0 = true ∧
    spadSize ≤ (farUnit.thread 0 0).pc.toNat ∧ (Instr.nop 0 0 (wordOf 0x00 0)).wf farUnit = true ∧
    (Instr.matmul 0 0 (wordOf 0x70 0)).wf farUnit = true := by decide +kernel
theorem test_pcRange : sees (.nop 0 0 (wordOf 0x00 0)) farUnit (fun u => ((thr u).state, (thr u).fault.cause)) =
    some (.faulted, 0x09) := by decide +kernel

/-- The frames: each of these instructions answers a next state. -/
theorem met_frames : ([Instr.nop, .halt, .alu, .alui, .movi, .movk, .caprd, .modeset, .sysrd, .syswr, .br, .jmp, .jal, .jr,
    .valu, .vcvt, .vcmp, .vsel, .vmovBroadcast, .vmovExtract, .vmovIndex, .vred, .vperm, .plog, .dset, .dget, .dadv,
    .dmov].zip [(0x00, 0), (0x01, 0), (0x02, 0), (0x03, 0), (0x04, 0), (0x05, 0), (0x06, 0), (0x07, 0), (0x08, 0), (0x09, 0),
    (0x10, 0), (0x11, 0), (0x12, 0), (0x13, 0), (0x30, 0), (0x31, 0), (0x32, 0), (0x33, 0), (0x34, 0), (0x34, 1), (0x34, 2),
    (0x35, 0), (0x36, 0), (0x37, 0), (0x22, 0), (0x23, 0), (0x24, 0), (0x25, 0)]).all
    (fun e => (nextOf (e.1 0 0 (wordOf e.2.1 e.2.2)) unit).isSome) = true := by decide +kernel

/-! ## Descriptors -/

theorem test_dget_base : sAfter (.dget 0 0 (wordOf 0x23 0)) unit 3 = some 0x1000 := by decide +kernel
theorem test_dadv : sees (.dadv 0 0 (wordOf 0x24 0)) unit (fun u => ((thr u).regs.getD 1).extractLsb' 0 48) =
    some 0x2004#48 := by decide +kernel
theorem test_dst_dld : sees (.dst 0 0 (wordOf 0x21 0)) unit (fun u =>
    (u.bytes (own + 64) 8, sees (.dld 0 0 (wd 0x20 [(48, 2), (39, 4)])) u fun v => (thr v).regs.getD 2)) =
    some ([0, 0x10, 0, 0, 0, 0, 7, 0], some (tile 0x1000 7 0 0 8 4 32)) := by decide +kernel

/-- DescriptorResults: offsets 48 MiB − 32 (in range), 48 MiB − 31 (ADDR_FORM) and 16 (ALIGN), with no marks. -/
theorem met_dld : ([0x3000000 - 32, 0x3000000 - 31, 16].all fun off =>
    actsB 0x20 0 0 0 (wd 0x20 [(48, 1), (0, off)]) unit && actsB 0x21 0 0 0 (wd 0x21 [(44, 1), (0, off)]) unit) = true ∧
    unit.err.perturbGo = false ∧ unit.mem.wordErr = [] := by decide +kernel
theorem test_dld_form : sees (.dld 0 0 (wd 0x20 [(48, 1), (0, 0x3000000 - 31)])) unit (fun u => (thr u).fault.cause) =
    some 0x07 := by decide +kernel
theorem test_dld_align : sees (.dld 0 0 (wd 0x20 [(48, 1), (0, 16)])) unit (fun u => (thr u).fault.cause) = some 0x06 := by
  decide +kernel

/-! ## Vector -/

/-- Lane `i` of V`n` after a command. -/
def vAfter (i : Instr) (n l : Nat) : Option (BitVec 32) := sees i unit fun u => lane ((thr u).regs.getV n) l

theorem test_valu_add : vAfter (.valu 0 0 (wordOf 0x30 0)) 1 0 = some 4 ∧
    vAfter (.valu 0 0 (wordOf 0x30 0)) 1 1 = some 9 := by decide +kernel
theorem test_valu_fp32 : valuLane 0 0 .rne 0 0x3F800000 0x40000000 0 = (0x40400000, 0) := by decide +kernel
theorem test_vsel : vAfter (.vsel 0 0 (wordOf 0x33 0)) 1 0 = some 3 ∧ vAfter (.vsel 0 0 (wordOf 0x33 0)) 1 1 = some 2 := by
  decide +kernel
theorem test_vmov_index : vAfter (.vmovIndex 0 0 (wordOf 0x34 2)) 1 63 = some 63 := by decide +kernel
theorem test_vmov_broadcast : vAfter (.vmovBroadcast 0 0 (wordOf 0x34 0)) 1 63 = some 5 := by decide +kernel
theorem test_vmov_extract : sAfter (.vmovExtract 0 0 (wordOf 0x34 1)) unit 3 = some 0 := by decide +kernel
theorem test_vperm : vAfter (.vperm 0 0 (wordOf 0x36 0)) 1 0 = some 7 := by decide +kernel
theorem test_vcmp : sees (.vcmp 0 0 (wordOf 0x32 0)) unit (fun u => (thr u).regs.getP 1) = some 0xFFFFFFFFFFFFFFFC := by
  decide +kernel
theorem test_plog : sees (.plog 0 0 (wordOf 0x37 0)) unit (fun u => (thr u).regs.getP 2) = some 1 := by decide +kernel

/-! ## Loads, stores, atomics -/

/-- The first word of the own window is clean. -/
theorem ownClean_unit : OwnClean unit 0 own 8 :=
  ⟨⟨0, by decide +kernel, by decide +kernel⟩, by decide +kernel, rfl, rfl, rfl⟩
/-- The last word of the last core's window is clean. -/
theorem ownClean_top : OwnClean unit 159 (own + 159 * 0x4000000 + 0x2FFFFFC) 4 :=
  ⟨⟨0x2FFFFFC, by decide +kernel, by decide +kernel⟩, by decide +kernel, rfl, rfl, rfl⟩

theorem test_sts_lds : sees (.sts 0 0 (wd 0x51 [(47, 2), (42, 6), (34, 1)])) unit (fun u =>
    (u.bytes own 3, sAfter (.lds 0 0 (wordOf 0x50 0)) u 3)) = some ([9, 0, 0], some 9) := by decide +kernel
theorem test_atom_add : sees (.atom 0 0 (wordOf 0x56 0)) unit (fun u => (u.bytes own 2, (thr u).regs.getS 1)) =
    some ([5, 0], 0) := by decide +kernel

/-- AddressExceptions: a site address on a locked core, bits above 47, a misaligned address. -/
def awayUnit (a : Nat) : State := unitWith fun th => { th with regs := { th.regs with s := [(6, BitVec.ofNat 64 a)] } }
theorem met_addressExceptions : ([0x010000000000, 0x010000000000 + 176 * 0x4000000 - 1, 2 ^ 48, own + 1].all fun a =>
    [(0x50, 0), (0x51, 0), (0x56, 0)].all fun r => actsB r.1 0 0 0 (wordOf r.1 r.2) (awayUnit a)) = true ∧
    ((awayUnit 0).core 0).unlocked = false := by decide +kernel
theorem test_lds_faults : ([0x010000000000, 2 ^ 48, own + 1].map fun a =>
    sees (.lds 0 0 (wordOf 0x50 0)) (awayUnit a) fun u => (thr u).fault.cause) = [some 0x02, some 0x07, some 0x06] := by
  decide +kernel

/-- AtomicTable: operands of 4 and 8 bytes. -/
theorem met_atomicTable : (0xFFFFFFFF : Nat) < 2 ^ (8 * 4) ∧ (0xFFFFFFFFFFFFFFFF : Nat) < 2 ^ (8 * 8) := by decide
theorem test_atom_min : atomVal 6 4 0x7FFFFFFF 0x80000000 0 = 0x80000000 ∧ atomVal 8 4 0x7FFFFFFF 0x80000000 0 = 0x7FFFFFFF := by
  decide +kernel

/-- A part of a load of 4 bytes at address `a`, with what has come back for it. -/
def partOf (sid a : Nat) (res : Option Bytes) (err : Option (BitVec 8 × BitVec 4)) : Part :=
  ⟨sid, a, 4, .rd, none, 0, [], 0, false, none, res, err⟩

/-- ExternalAccess: another core's window, with no request, with 7 and with 8. -/
def external (n : Nat) : State := unitWith fun th => { th with
  regs := { th.regs with s := [(1, 5), (6, BitVec.ofNat 64 (own + 0x4000000))] }
  reqs := List.replicate n ⟨1, 0, .none, false, [partOf 2 0 none none]⟩ }
theorem met_external : ([0, 7, 8].all fun n => [(0x50, 0), (0x51, 0), (0x56, 0)].all fun r =>
      actsB r.1 0 0 0 (wordOf r.1 r.2) (external n)) = true ∧ (external 7).slotsUsed 0 < 256 ∧
    (external 7).own 0 (own + 0x4000000) = false ∧ physAddr (own + 0x4000000) = false ∧
    ((external 7).thread 0 0).slots < 8 ∧ ((external 8).thread 0 0).slots = 8 := by decide +kernel
theorem test_lds_external : sees (.lds 0 0 (wordOf 0x50 0)) (external 7) (fun u =>
    ((thr u).reqs.length, (thr u).pc, (thr u).reqs.getLast?.map Req.dst)) = some (8, 72, some (.s 3 4 false)) := by
  decide +kernel
theorem test_sts_full : sees (.sts 0 0 (wordOf 0x51 0)) (external 8) (fun u => ((thr u).state, (thr u).pc)) =
    some (.waitMem, 64) := by decide +kernel

/-- VectorMemory: lane 0 alone (guard P1) and no lane (P1 with bit 0 clear). -/
def lane0 (op : Nat) : BitVec 64 := wordOf op 0 ||| wd 0 [(53, 1)]
theorem met_vectorMemory : ([0x52, 0x53, 0x54, 0x55].all fun op => actsB op 0 0 0 (lane0 op) unit
      && (unit.thread 0 0).laneGuard (lane0 op) 0
      && (List.range 64).all fun i => i == 0 || !(unit.thread 0 0).laneGuard (lane0 op) i) = true := by decide +kernel
def noLane : State := unitWith fun th => { th with regs := { th.regs with p := [] } }
theorem met_noLane : ([0x52, 0x53, 0x54, 0x55].all fun op => actsB op 0 0 0 (lane0 op) noLane
      && (List.range 64).all fun i => !(noLane.thread 0 0).laneGuard (lane0 op) i) = true := by decide +kernel
theorem test_stv_lane0 : sees (.stv 0 0 (lane0 0x53)) unit (fun u => u.bytes own 8) = some [3, 0, 0, 0, 0, 0, 0, 0] := by
  decide +kernel
theorem test_scatter : sees (.scatter 0 0 (lane0 0x55)) unit (fun u => u.bytes own 8) = some [0, 0, 0, 0, 3, 0, 0, 0] := by
  decide +kernel
theorem test_gather : sees (.stv 0 0 (wordOf 0x53 0)) unit (fun u =>
    sees (.gather 0 0 (wordOf 0x54 0)) u fun v => (lane ((thr v).regs.getV 1) 0, lane ((thr v).regs.getV 1) 1)) =
    some (some (7, 0)) := by decide +kernel

/-! ## Remote -/

/-- Node 1 with a route to node 5 over link 0; nothing outstanding; an unlocked core. -/
def meshed : State := { unlockedUnit with
  threads := [(0, busy)]
  bundles := [(0, { Bundle.init with go := true, trained := true })]
  links := [(0, { Link.init with state := .active, txMask := 0xFFFF, rxMask := 0xFFFF })]
  fab := { Fab.init with go := true, discDone := true, nodeId := 1, route := [(5, ⟨0x0000000100000003, false⟩)] } }
def remoteRows : List (Nat × Nat) := [(0x58, 0), (0x59, 0), (0x5A, 0), (0x5B, 0), (0x5C, 0), (0x5D, 0), (0x5E, 0)]
theorem met_remote : (remoteRows.all fun r => actsB r.1 r.2 0 0 (wordOf r.1 r.2) meshed) = true ∧
    ((meshed.thread 0 0).regs.getS 7).extractLsb' 48 16 = 5 ∧ meshed.reachable 5 true = true ∧
    meshed.reachable 5 false = true ∧ meshed.fab.reqs = [] ∧ meshed.pilUp 0 = true ∧ unlockedUnit.pilUp 0 = false ∧
    unlockedUnit.reachable 5 true = false ∧ (meshed.core 0).unlocked = true ∧ meshed.slotsUsed 0 + 16 ≤ 256 ∧
    (meshed.thread 0 0).slots < 8 ∧ (meshed.thread 0 0).msgs = [] ∧
    (meshed.thread 0 0).laneGuard (wordOf 0x5A 0) 0 = true := by decide +kernel
theorem met_fabricSent : meshed.fabricSent := fun _ h => nomatch h
def remoteFull : State := { meshed with threads := [(0, { busy with
  reqs := List.replicate 8 ⟨1, 0, .none, false, []⟩ })] }
theorem met_remote_full : (remoteRows.all fun r => actsB r.1 r.2 0 0 (wordOf r.1 r.2) remoteFull) = true ∧
    (remoteFull.thread 0 0).slots = 8 := by decide +kernel
/-- MessageIssue: the broadcast node, the bundle up and down. -/
def meshedDown : State := { meshed with bundles := [] }
theorem met_broadcast : actsB 0x5D 0 0 0 (wd 0x5D [(47, 1), (42, 8), (34, 3)]) meshed = true ∧
    actsB 0x5E 0 0 0 (wd 0x5E [(47, 1), (42, 8), (34, 3)]) meshed = true ∧ meshed.fab.node ≠ 0xFFFF ∧
    actsB 0x5E 0 0 0 (wd 0x5E [(47, 1), (42, 8), (34, 3)]) meshedDown = true ∧ meshedDown.pilUp 0 = false ∧
    ((meshed.thread 0 0).regs.getS 8).extractLsb' 48 16 = 0xFFFF := by decide +kernel
theorem test_rld : sees (.rld 0 0 (wordOf 0x58 0)) meshed (fun u => ((thr u).reqs.length, u.fab.reqs.length, (thr u).pc)) =
    some (1, 1, 72) := by decide +kernel
theorem test_rld_no_node : sees (.rld 0 0 (wordOf 0x58 0)) unlockedUnit (fun u =>
    (thr u).reqs.map fun q => q.parts.map Part.err) = some [[some (0x23, 4)]] := by decide +kernel
theorem test_puts : sees (.puts 0 0 (wordOf 0x5E 0)) meshed (fun u => ((thr u).msgs.length, u.fab.reqs.map FabReq.type)) =
    some (1, [3]) := by decide +kernel
theorem test_puts_broadcast_waits : sees (.puts 0 0 (wd 0x5E [(47, 1), (42, 8), (34, 3)])) meshedDown (fun u => (thr u).pc) =
    some 64 := by decide +kernel
theorem test_ratomn_broadcast : sees (.ratomn 0 0 (wd 0x5D [(47, 1), (42, 8), (34, 3)])) meshed
    (fun u => (thr u).fault.cause) = some 0x07 := by decide +kernel

/-! ## Semaphores, fences, barriers -/

/-- Semaphore 63 of core 0 at `v`, with waiters. -/
def semUnit (v : BitVec 16) (ws : List (Nat × Nat × Nat)) : State :=
  { unit with cores := [(0, { Core.init with sems := [(63, v)], waiters := ws })] }
theorem met_semaphores : ([0, 1, 0xFFFF].all fun v => [(0x68, 0), (0x68, 1), (0x68, 2)].all fun r =>
      actsB r.1 r.2 0 0 (wordOf r.1 r.2) (semUnit v [])) = true ∧ iN (wordOf 0x68 1) = 1 ∧ iId (wordOf 0x68 1) = 63 ∧
    actsB 0x68 2 0 0 (wordOf 0x68 2) (semUnit 5 [(63, 7, 9)]) = true ∧ ((semUnit 5 []).core 0).diked = false := by
  decide +kernel
theorem test_semSig_saturates : sees (.semSig 0 0 (wordOf 0x68 0)) (semUnit 0xFFFE []) (fun u =>
    (Tab.get 0 (u.core 0).sems 63, (u.core 0).semOvf)) = some (0xFFFF#16, 1#64 <<< 63) := by decide +kernel
theorem test_semWait : sees (.semWait 0 0 (wordOf 0x68 1)) (semUnit 1 []) (fun u =>
    (Tab.get 0 (u.core 0).sems 63, (thr u).state)) = some (0, .ready) := by decide +kernel
theorem test_semWait_waits : sees (.semWait 0 0 (wordOf 0x68 1)) (semUnit 0 []) (fun u =>
    ((u.core 0).waiters, (thr u).state, (thr u).wait)) = some ([(63, 0, 1)], .waitSync, some (.sem 63 1)) := by decide +kernel
theorem test_semTry_behind : sAfter (.semTry 0 0 (wordOf 0x68 2)) (semUnit 5 [(63, 7, 9)]) 3 = some 0 := by decide +kernel
theorem test_serve : serveWaiters 1 [(1, 4, 2), (2, 5, 1), (1, 6, 9), (1, 7, 1)] 5 =
    ([(2, 5, 1), (1, 6, 9), (1, 7, 1)], 3, [4]) := by decide +kernel

/-- FenceResults: with nothing outstanding, with a local request, and group 15 enabled on both sides of step 5. -/
def fenceUnit (k : BitVec 32) : State := { unitWith id with
  col := { Col.init with go := true, groups := [(15, ⟨0x00020021, k, [], []⟩)] } }
theorem met_fences : ([0, 1, 2].all fun b => actsB 0x6A b 0 0 (wordOf 0x6A b) unit && actsB 0x6A b 0 0 (wordOf 0x6A b) (external 7)) = true ∧
    ([4, 5].all fun k => actsB 0x6B 0 0 0 (wordOf 0x6B 0) (fenceUnit k) && actsB 0x6B 1 0 0 (wordOf 0x6B 1) (fenceUnit k)) = true ∧
    ((fenceUnit 4).group 15).en = true ∧ 1 < ((fenceUnit 4).group 15).fcount ∧
    ((fenceUnit 5).group 15).step - 5 = 0 ∧ ¬ (((fenceUnit 4).group 15).step - 5).toNat < 2 ^ 31 := by decide +kernel
theorem test_fenceM : sees (.fenceM 0 0 (wordOf 0x6A 1)) (external 1) (fun u => (thr u).pc) = some 64 ∧
    sees (.fenceM 0 0 (wordOf 0x6A 1)) unit (fun u => (thr u).pc) = some 72 := by decide +kernel
theorem test_stepfence : sees (.stepfence 0 0 (wordOf 0x6B 0)) (fenceUnit 5) (fun u => (thr u).regs.getS 3) = some 0 ∧
    sees (.stepfence 0 0 (wordOf 0x6B 0)) (fenceUnit 4) (fun u => (thr u).wait) = some (some (.step 15 5 3)) := by
  decide +kernel
theorem test_stepfenceM : sees (.stepfenceM 0 0 (wordOf 0x6B 1)) (fenceUnit 4) (fun u => (u.group 15).rounds) =
    some [⟨5, 1, [], false⟩] := by decide +kernel

/-- BarrierResults: channel 63 of die 0 disabled, and enabled for two arrivals, none or one of them recorded. -/
def barUnit (en : Bool) (n : Nat) : State :=
  { up with
    dies := [(0, { upDie with bars := [(63, ⟨2, false, en, 7, n⟩)] })]
    threads := [(0, { busy with arrived := [(63, 8)] }), (1, { busy with state := .waitSync, wait := some (.bar 63 7) })] }
theorem met_barriers : ([barUnit false 0, barUnit true 0, barUnit true 1].all fun s => [0, 1, 2].all fun b =>
      actsB 0x69 b 0 0 (wordOf 0x69 b) s) = true ∧ iId (wordOf 0x69 0) = 63 ∧ ((barUnit true 1).bar 0 63).enable = true ∧
    ((barUnit true 1).bar 0 63).scope = false ∧ ((barUnit true 1).thread 0 1).wait = some (.bar 63 7) := by decide +kernel
theorem test_bar_last : sees (.bar 0 0 (wordOf 0x69 2)) (barUnit true 1) (fun u =>
    (u.bar 0 63, (thr u).state, (u.thread 0 1).state)) = some (⟨2, false, true, 8, 0⟩, .ready, .ready) := by decide +kernel
theorem test_barArrive : sees (.barArrive 0 0 (wordOf 0x69 0)) (barUnit true 0) (fun u => ((u.bar 0 63).arrivals, (thr u).pc)) =
    some (1, 72) := by decide +kernel
theorem test_barWait : sees (.barWait 0 0 (wordOf 0x69 1)) (barUnit true 0) (fun u => (thr u).wait) =
    some (some (.bar 63 7)) := by decide +kernel
theorem test_bar_disabled : sees (.bar 0 0 (wordOf 0x69 2)) (barUnit false 0) (fun u => (thr u).fault.cause) = some 0x08 := by
  decide +kernel
/-- BAR_CFG.ENABLE with COUNT 0, 1, the live contexts of a die (1,280) and one more. -/
theorem met_barCfg : ([0x1000, 0x1001, 0x1500, 0x1501].all fun w : BitVec 32 => w.getLsbD 12) = true ∧
    unit.liveContexts 3 = 1280 ∧ (unit.bar 3 63).enable = false ∧ ((barUnit true 0).bar 0 63).enable = true := by
  decide +kernel
theorem test_barCfg : ([0x1000, 0x1001, 0x1500, 0x1501].map fun w => sees (.barCfgEnable 3 63 w) unit fun u =>
    ((u.bar 3 63).enable, (u.die 3).barReason)) = [some (false, 4), some (true, 0), some (true, 0), some (false, 4)] := by
  decide +kernel

/-! ## Queues of the units -/

def fullQ : List Nat := [0, 0, 0, 0, 0, 0, 0, 0]
/-- Every queue full. -/
def fullUnit : State := { unit with
  cores := [(0, { Core.init with sfuQ := fullQ, pumpQ := [0, 0, 0, 0], hostQ := [0, 0], colQ := [0, 0, 0, 0] })]
  arrs := [(0, { Arr.init with queue := fullQ })] }
/-- Descriptor registers that fail every check. -/
def badUnit : State := unitWith fun th => { th with regs := { th.regs with d := [] } }
def arrayRows : List (Nat × Nat × (Bool → Tab (BitVec 256) → BitVec 64 → Option (BitVec 8))) :=
  [(0x70, 0, checkMatmul), (0x71, 0, checkConv), (0x72, 0, checkAttend), (0x79, 0, checkAccop), (0x79, 1, checkAccop),
   (0x79, 2, checkAccop)]
def sfuRows : List (Nat × Nat × (Bool → Tab (BitVec 256) → BitVec 64 → Option (BitVec 8))) :=
  [(0x73, 0, checkRowstat), (0x73, 1, checkRowstat), (0x74, 0, checkSfu), (0x75, 0, fun l d w => checkVerify l 32 d w),
   (0x76, 0, checkCommit), (0x77, 0, checkSample), (0x77, 1, checkSample), (0x77, 2, checkSample), (0x78, 0, checkRoute)]
/-- The checks pass on the registers of `busy`; on empty ones they fail, but for ACCOP CLR, which names none. -/
theorem met_queue_checks : ((arrayRows ++ sfuRows).all fun r => (r.2.2 true busy.regs.d (wordOf r.1 r.2.1)).isNone
      && ((r.2.2 true [] (wordOf r.1 r.2.1)).isSome || (r.1 == 0x79 && r.2.1 == 0))) = true ∧ unit.maxTree = 32 := by
  decide +kernel
theorem met_queue_full : (queueWords.all fun r => actsB r.1 r.2.1 0 0 r.2.2 fullUnit && actsB r.1 r.2.1 0 0 r.2.2 badUnit) = true ∧
    8 ≤ (fullUnit.arr 0 0).queue.length ∧ 8 ≤ (fullUnit.core 0).sfuQ.length ∧ 4 ≤ (fullUnit.core 0).pumpQ.length ∧
    2 ≤ (fullUnit.core 0).hostQ.length ∧ 4 ≤ (fullUnit.core 0).colQ.length := by decide +kernel
/-- PUMP checks, and CSUB descriptors at 48 MiB − 64, one beyond it, and misaligned. -/
theorem met_pumps : ([0, 1, 2, 3, 4].all fun b => (checkPump true busy.regs.d (wordOf 0x60 b)).isNone
      && (checkPump true [] (wordOf 0x60 b)).isSome) = true ∧ (busy.regs.getS 4).toNat % 64 = 0 ∧
    ([0x3000000 - 64, 0x3000000, 32].all fun a => actsB 0x90 0 0 0 (wd 0x90 [(47, 6)]) (awayUnit a)) = true := by
  decide +kernel
theorem test_matmul_queued : sees (.matmul 0 0 (wordOf 0x70 0)) unit (fun u =>
    ((u.arr 0 0).queue, u.ops.map AsyncOp.id, (thr u).pc)) = some ([0], [0], 72) := by decide +kernel
theorem test_conv_bad : sees (.conv 0 0 (wordOf 0x71 0)) badUnit (fun u => ((thr u).fault.cause, (thr u).fault.unit)) =
    some (0x03, 4) := by decide +kernel
theorem test_sfu_full : sees (.sfu 0 0 (wordOf 0x74 0)) fullUnit (fun u => ((thr u).pc, (u.core 0).sfuQ.length)) =
    some (64, 8) := by decide +kernel
theorem test_csub_form : sees (.csub 0 0 (wd 0x90 [(47, 6)])) (awayUnit 0x3000000) (fun u => (thr u).fault.cause) =
    some 0x07 := by decide +kernel
theorem test_csub_queued : sees (.csub 0 0 (wordOf 0x90 0)) unit (fun u => (u.core 0).colQ) = some [0] := by decide +kernel

/-- An idle array 0 of core 0 with GO 1 (ArrayIssue), which leaves the SFU free as well (SfuIssue). -/
def idleUnit : State := { unit with arrs := [(0, { Arr.init with go := true })] }
/-- The places that an operation accesses depend on its word and its descriptor registers only. -/
theorem spans_eq {o p : AsyncOp} (hw : o.word = p.word) (hd : o.d = p.d) : o.spans = p.spans := by
  simp only [AsyncOp.spans, AsyncOp.tiles, hw, hd]
/-- An operation with word `w` and the descriptor registers of `busy`. -/
def withWord (w : BitVec 64) : AsyncOp := ⟨7, 0, 0, 64, w, busy.regs.d, 0, 0, false, 0, false⟩
theorem met_reaches : ∀ r ∈ arrayRows.map (fun r => (r.1, r.2.1)) ++ sfuRows.map (fun r => (r.1, r.2.1)), ∀ o : AsyncOp,
    o.word = wordOf r.1 r.2 → o.d = busy.regs.d → idleUnit.reaches (some 0) o.spans := by
  have h : ((arrayRows.map (fun r => (r.1, r.2.1)) ++ sfuRows.map (fun r => (r.1, r.2.1))).all fun r =>
      idleUnit.segsUp (some 0) (withWord (wordOf r.1 r.2)).spans
        && (idleUnit.segsLine (withWord (wordOf r.1 r.2)).spans).isNone) = true := by decide +kernel
  intro r hr o hw hd
  have g := List.all_eq_true.1 h r hr
  rw [spans_eq (p := withWord (wordOf r.1 r.2)) hw hd]
  exact ⟨(Bool.and_eq_true_iff.1 g).1, Option.isNone_iff_eq_none.1 (Bool.and_eq_true_iff.1 g).2⟩
theorem met_idle : (arrayRows.all fun r => actsB r.1 r.2.1 0 0 (wordOf r.1 r.2.1) idleUnit) = true ∧
    (sfuRows.all fun r => actsB r.1 r.2.1 0 0 (wordOf r.1 r.2.1) idleUnit) = true ∧ (idleUnit.arr 0 0).go = true ∧
    (idleUnit.arr 0 0).queue = [] ∧ (idleUnit.arr 0 0).run = [] ∧ (idleUnit.arr 0 0).held = false ∧
    (idleUnit.arr 0 0).stestBusy = false ∧ (idleUnit.arr 0 0).stestWait = false ∧ (idleUnit.core 0).sfuRun = none ∧
    (idleUnit.core 0).sfuQ = [] ∧ idleUnit.slotsUsed 0 < 256 ∧ idleUnit.ops = [] ∧
    (∀ a < 4, (idleUnit.arr 0 a).run = []) := by decide +kernel

/-- The state after a list of commands. -/
def after (is : List Instr) (s : State) : Option State := is.foldl (fun s i => s.bind (nextOf i)) (some s)
/-- ACCOP CLR, then ACCOP RD into a tile of the own window, from issue to the end of each. -/
def accUnit : State := { idleUnit with threads := [(0, { busy with regs := { busy.regs with
  d := [(6, tile (own + 0x6000) 0 0 0 4 1 32)] } })] }
theorem test_array_chain : (after [.accopClr 0 0 (wordOf 0x79 0), .arrayInstructionStart 0 0, .arrayInstructionEnd 0 0 none 0]
      accUnit).map (fun u => ((u.arr 0 0).queue, (u.arr 0 0).run.length, u.ops.length, (u.bank 0 0 0).kind)) =
    some ([], 0, 0, .clear) := by decide +kernel
theorem test_accopRd_chain : (after [.accopClr 0 0 (wordOf 0x79 0), .arrayInstructionStart 0 0, .arrayInstructionEnd 0 0 none 0,
      .accopRd 0 0 (wordOf 0x79 1), .arrayInstructionStart 0 0, .arrayInstructionEnd 0 0 none 0] { accUnit with
      mem := { accUnit.mem with cells := [(own + 0x6000, 1)] } }).map (fun u => (u.ops.length, (thr u).fault.cause, u.mem.cells)) =
    some (0, 0, []) := by decide +kernel

/-- Tiles of 4 rows of 32 bytes in the own window of core 0, and the hub's bundle to die 0 up. -/
def ownTile (off : Nat) : BitVec 256 := tile (own + off) 0 0 0 8 4 32
def pumping : State := { meshed with
  dev := { Dev.init with go := true }
  threads := [(0, { busy with regs := { busy.regs with
    s := [(1, 64), (4, 64), (7, 5)]
    d := [(6, ownTile 0x6000), (7, ownTile 0x7000)] } })] }
theorem pumping_queues : ∀ c, (pumping.core c).pumpQ = [] ∧ (pumping.core c).hostQ = [] := by
  intro c
  by_cases h : c = 0
  · subst h; decide +kernel
  · have g : pumping.core c = Core.init := by
      show Tab.get Core.init [(0, _)] c = _
      simp [Tab.get, Ne.symm h]
    rw [g]; exact ⟨rfl, rfl⟩
theorem ownClean_pumping {off n : Nat} (g : off + n ≤ 0x3000000) : OwnClean pumping 0 (own + off) n :=
  ⟨⟨off, rfl, g⟩, by decide +kernel, rfl, rfl, rfl⟩
theorem met_pumping : ([0, 1, 2, 3, 4].all fun b => actsB 0x60 b 0 0 (wordOf 0x60 b) pumping
      && (checkPump false (pumping.thread 0 0).regs.d (wordOf 0x60 b)).isNone) = true ∧ pumping.ops = [] ∧
    pumping.pumps = [] ∧ pumping.pumpFree false 0 7 = true ∧ iPsel (wordOf 0x60 0) = 0 ∧ pumping.dev.go = true ∧
    pumping.threadHostPump = some 8 ∧ pumping.pilUp (pumping.dieOf 0) = true ∧ pumping.err.perturbGo = false ∧
    pumping.reachable 5 true = true ∧ pumping.reachable 5 false = true ∧
    (descAt (pumping.thread 0 0).regs.d 7).segs = [(own + 0x7000, 32), (own + 0x7020, 32), (own + 0x7040, 32), (own + 0x7060, 32)] := by
  decide +kernel
theorem test_copy_chain : (after [.pumpCopy 0 0 (wordOf 0x60 0), .pumpTransferStart 0 false 7, .pumpTransferComplete false 7]
      { pumping with mem := { pumping.mem with cells := [(own + 0x7065, 9)] } }).map (fun u => (u.mem.cells, u.ops.length)) =
    some ([(own + 0x6065, 9), (own + 0x7065, 9)], 0) := by decide +kernel

/-! ## Responses, fetch, context control -/

/-- A load that has returned, to a register or superseded, with data or an error, of a running or stopping thread. -/
def respUnit (sup : Bool) (r : Option Bytes) (e : Option (BitVec 8 × BitVec 4)) (st : Option TState) : State :=
  unitWith fun th => { th with
    stopping := st
    reqs := [⟨9, 64, .s 3 4 true, sup, [partOf 2 own r e]⟩] }
theorem met_response : ([respUnit false (some [0xFE, 0xFF, 0xFF, 0xFF]) none none, respUnit true (some [1, 0, 0, 0]) none none,
      respUnit false none (some (0x21, 2)) none, respUnit false (some [1, 0, 0, 0]) none (some .done)].all fun s =>
      ((s.thread 0 0).reqs.find? fun x => x.id == 9).isSome && (s.thread 0 0).msgs.isEmpty
        && (s.thread 0 0).reqs.all fun q => q.parts.all fun p => (p.res.isSome || p.err.isSome) && s.partPath 0 p) = true := by
  decide +kernel
/-- Two loads to S3, of which the later returns first. -/
def respTwo : State := unitWith fun th => { th with
  reqs := [⟨8, 56, .s 3 4 false, false, [partOf 1 own none none]⟩, ⟨9, 64, .s 3 4 false, false, [partOf 2 own (some [1, 0, 0, 0]) none]⟩] }
theorem met_response_two : (respTwo.thread 0 0).reqs.map Req.id = [8, 9] := by decide +kernel
theorem test_response_overtakes : sees (.externalResponse 0 0 9) respTwo (fun u => ((thr u).regs.getS 3,
    (thr u).reqs.map fun q => (q.id, q.superseded))) = some (1, [(8, true)]) := by decide +kernel
theorem test_response_signed : sAfter (.externalResponse 0 0 9) (respUnit false (some [0xFE, 0xFF, 0xFF, 0xFF]) none none) 3 =
    some (-2) := by decide +kernel
theorem test_response_superseded : sAfter (.externalResponse 0 0 9) (respUnit true (some [1, 0, 0, 0]) none none) 3 = some 0 := by
  decide +kernel
theorem test_response_error : sees (.externalResponse 0 0 9) (respUnit false none (some (0x21, 2)) none) (fun u =>
    ((thr u).state, (thr u).fault)) = some (.faulted, ⟨0x21, 3, 2, true, 8⟩) := by decide +kernel
theorem test_response_stop : sees (.externalResponse 0 0 9) (respUnit false (some [1, 0, 0, 0]) none (some .done)) (fun u =>
    (thr u).state) = some .done := by decide +kernel

/-- OPERATION_ERROR_STATUS of an operation that the SFU executes. -/
def sfuOp : AsyncOp := ⟨7, 0, 0, 64, wordOf 0x74 0, busy.regs.d, 0, 0, false, 0, false⟩
def sfuBusy : State := { unit with ops := [sfuOp], cores := [(0, { Core.init with sfuRun := some ⟨7, [], 0⟩ })] }
theorem met_operationError : sfuBusy.op? 7 = some sfuOp ∧ sfuBusy.arrRunOf sfuOp = none ∧ sfuOp.mute = false ∧
    (sfuBusy.core 0).sfuRun = some ⟨7, [], 0⟩ ∧ (0x20 : BitVec 8) ∈ [0x20, 0x21, 0x22, 0x23, 0x24, 0x26] := by decide +kernel
/-- The same operation in an array, in a pump that has nothing to write, and as a contribution. -/
def errUnits : List State :=
  [{ unit with ops := [sfuOp], arrs := [(0, { Arr.init with run := [⟨7, 3, true, none, false, [], 0, [], 0, 0⟩] })] },
   { unit with ops := [sfuOp], pumps := [⟨false, 0, 0, some 7, none, [], [], [], none, 0⟩] },
   { unit with ops := [sfuOp], col := { Col.init with
      go := true, buckets := [{ Bucket.new 4095 255 2 1 none with locals := [⟨7, 0, 0, 0, 0, 0, 0, 0, [], [], [], false⟩] }] } }]
theorem met_operationErrors : (errUnits.map fun s => ((s.arrRunOf sfuOp).isSome,
      ((s.core 0).sfuRun.filter fun r => r.op == 7).isNone, (s.pumps.find? fun r => r.op == some 7).isSome,
      (s.col.buckets.find? fun b => b.locals.any fun x => x.op == 7).isSome)) =
    [(true, true, false, false), (false, true, true, false), (false, true, false, true)] := by decide +kernel
theorem test_operationErrors : ((errUnits.drop 2).map fun s => sees (.operationErrorStatus 7 0x21 4) s fun u =>
      (u.ops.isEmpty && (u.arr 0 0).run.isEmpty && u.pumps.isEmpty && u.col.buckets.isEmpty, (thr u).fault.cause)) =
    [some (true, 0x21)] := by decide +kernel
/-- FetchResults: clean, with the word at CTX_PC uncorrectable, with another one, and a thread that waits. -/
def fetchUnit (w : Nat) : State := { unit with mem := { Mem.init with
  cells := [(own + 64, 1)], wordErr := [((own + 64) / 8 + w, 3)] } }
theorem met_fetch : (unit.thread 0 0).canIssue = true ∧ unit.awake 0 = true ∧ Memory.wf (fetchUnit 0).mem = true ∧
    (unit.thread 0 1).canIssue = false ∧ spadSize ≤ (farUnit.thread 0 0).pc.toNat := by decide +kernel
theorem test_fetch_bad : sees (.instructionFetch 0 0) (fetchUnit 0) (fun u => ((thr u).fault.cause, (thr u).fault.unit)) =
    some (0x20, 0) := by decide +kernel
theorem test_fetch_other : sees (.instructionFetch 0 0) (fetchUnit 3) (fun u => ((thr u).state, (thr u).fetch)) =
    some (.ready, some ⟨2, 1, 8⟩) := by decide +kernel

/-- ContextControl: free, running, stopped, with an unfinished operation, and a core that is unlocked. -/
def stoppedUnit (st : TState) : State := unitWith fun th => { th with state := st, args := [(0, 77)] }
theorem met_context : (stoppedUnit .free).ctxTaken 0 0 = false ∧ unit.ctxTaken 0 0 = true ∧
    { stoppedUnit .done with ops := [sfuOp] }.unfinished 0 0 = true ∧ { unit with ops := [sfuOp] }.unfinished 0 0 = true ∧
    unit.unfinished 0 0 = false ∧ (unit.thread 0 0).state ∉ [TState.done, .stopped, .faulted] ∧ (stoppedUnit .faulted).unfinished 0 0 = false ∧
    (unit.core 0).retest = false ∧ (unit.core 0).unlocked = false ∧ (unlockedUnit.core 0).unlocked = true ∧
    (unitWith fun th => { th with mode := ⟨true, true, 0, 0⟩ }).threads ≠ [] := by decide +kernel
theorem test_start : sees (.ctxCtlStart 0 0) (stoppedUnit .free) (fun u => ((thr u).state, (thr u).regs.getS 1,
    (thr u).regs.getS 2, (thr u).pc)) = some (.ready, 77, 0, 64) := by decide +kernel
theorem test_start_busy : sees (.ctxCtlStart 0 0) unit (fun u => ((u.core 0).reason, thr u == busy)) = some (1, true) := by
  decide +kernel
theorem test_stop : sees (.ctxCtlStop 0 0) unit (fun u => (thr u).state) = some .stopped := by decide +kernel
theorem test_stop_waits : sees (.ctxCtlStop 0 0) (external 1) (fun u => ((thr u).state, (thr u).stopping)) =
    some (.ready, some .stopped) := by decide +kernel
/-- Thread 0 waits for 5 before thread 1, which waits for 1; the semaphore holds 2. -/
def blocked : State := { semUnit 2 [(63, 0, 5), (63, 1, 1)] with
  threads := [(0, { busy with state := .waitSync }), (1, { busy with state := .waitSync })] }
theorem met_stop_wait : (blocked.thread 0 0).state = .waitSync ∧ (blocked.thread 0 0).stopping = none ∧
    (blocked.core 0).waiters.find? (fun w => w.2.1 == 0) = some (63, 0, 5) := by decide +kernel
theorem test_stop_serves : sees (.ctxCtlStop 0 0) blocked (fun u => ((u.thread 0 1).state,
    (u.core 0).waiters.length, Tab.get 0 (u.core 0).sems 63)) = some (.ready, 0, 1) := by decide +kernel
theorem test_clear : sees (.ctxCtlClear 0 0) (stoppedUnit .done) (fun u => ((thr u).state, (thr u).regs.getS 1)) =
    some (.free, 0) := by decide +kernel
theorem test_clear_busy : sees (.ctxCtlClear 0 0) { stoppedUnit .done with ops := [sfuOp] } (fun u => ((thr u).state,
    (u.core 0).reason)) = some (.done, 1) ∧ sees (.ctxCtlClear 0 0) { unit with ops := [sfuOp] } (fun u => ((thr u).state,
    (u.core 0).reason)) = some (.ready, 1) := by decide +kernel
theorem test_ctxMode_locked : sees (.ctxModeWrite 0 0 0xF1) unit (fun u => (thr u).mode) = some ⟨true, false, 0, 0⟩ := by
  decide +kernel
theorem test_modeset_pl1 : sees (.modeset 0 0 (wd 0x07 [(0, 0x100)])) (unitWith fun th => { th with mode := ⟨true, true, 0, 0⟩ })
    (fun u => (thr u).mode) = some ⟨true, true, 0, 0⟩ := by decide +kernel

/-- HostSemaphores: semaphore 63 of the last core. -/
theorem met_hostSemaphores : (159 : Nat) < unit.lcores ∧ (unit.core 159).diked = false := by decide +kernel
theorem test_semset_serves : sees (.coreSemsetWrite 0 63 5) { semUnit 0 [(63, 0, 2)] with
    threads := [(0, { busy with state := .waitSync })] } (fun u => (Tab.get 0 (u.core 0).sems 63, (thr u).state)) =
    some (3, .ready) := by decide +kernel
theorem test_semsig : sees (.coreSemsigWrite 159 63 255) unit (fun u => Tab.get 0 (u.core 159).sems 63) = some 255 := by
  decide +kernel

/-! ## Arrays, SFU, pumps -/

/-- Array 3 of core 159 as given. -/
def arrUnit (x : Arr) : State := { unit with arrs := [(159 * 4 + 3, x)] }
/-- An operation of a thread of core 0 with the word `w`. -/
def opOf (w : BitVec 64) : AsyncOp := { sfuOp with word := w }
theorem met_arrayControl : ((0x0000FFFF : BitVec 32).extractLsb' 16 16 = 0 ∧ (0x00010001 : BitVec 32).extractLsb' 16 16 ≠ 0 ∧
    (0x00010001 : BitVec 32).getLsbD 0 = true) ∧ Arr.init.go = false ∧ Arr.init.chkWindow ≠ 0 ∧
    ({ unit with cores := [(159, { Core.init with diked := true })] }.core 159).diked = true ∧
    { unit with arrs := [(0, { Arr.init with queue := [7] })], ops := [sfuOp] }.op? 7 = some sfuOp := by decide +kernel
theorem test_maCtl_zero : sees (.maCtlGoSet 159 3 0x0000FFFF) unit (fun u => ((u.arr 159 3).go, (u.arr 159 3).reason)) =
    some (false, 3) := by decide +kernel
theorem test_maCtl_go : sees (.maCtlGoSet 159 3 0x00010001) unit (fun u => ((u.arr 159 3).go, (u.arr 159 3).chkWindow)) =
    some (true, 1) := by decide +kernel
theorem test_maCtl_clear : sees (.maCtlGoClear 159 3 0) (arrUnit { Arr.init with go := true, queue := [7] }) (fun u =>
    ((u.arr 159 3).go, (u.arr 159 3).queue)) = some (false, [7]) := by decide +kernel

/-- Core 0 with a MATMUL that has only its output left, an SFU instruction and a transfer likewise. -/
def mmOp : AsyncOp := { opOf (wordOf 0x70 0) with id := 8 }
def cpOp : AsyncOp := { opOf (wordOf 0x60 0) with id := 9 }
def runA (checks : List Check) : ArrRun := ⟨8, 3, true, some 0, false, [⟨own + 8, [1, 2, 3, 4]⟩], 1, checks, 0, 0⟩
/-- Checks whose sides agree, differ, and are formed from nothing. -/
def okCheck : Check := ⟨2, true, false⟩
def badCheck : Check := ⟨2, false, true⟩
def deadCheck : Check := ⟨2, false, false⟩
def unitsBusy (checks : List Check) (armed : Bool) : State := { unit with
  ops := [sfuOp, mmOp, cpOp]
  arrs := [(0, { Arr.init with go := true, run := [runA checks], armed := armed })]
  cores := [(0, { Core.init with sfuRun := some ⟨7, [⟨own, [5, 6]⟩], 2⟩ })]
  pumps := [⟨false, 0, 0, some 9, none, [⟨own + 16, [7]⟩], [], [], none, 1⟩] }
theorem met_unitCompletions : (unitsBusy [] false).op? 8 = some mmOp ∧ (unitsBusy [] false).op? 7 = some sfuOp ∧
    (unitsBusy [] false).op? 9 = some cpOp ∧ mmOp.mute = false ∧ (unitsBusy [] false).awake 0 = true ∧
    OwnClean (unitsBusy [] false) 0 (own + 8) 4 ∧ OwnClean (unitsBusy [] false) 0 own 2 ∧
    OwnClean (unitsBusy [] false) 0 (own + 16) 1 ∧ opSem mmOp.word = some 0 :=
  ⟨by decide +kernel, by decide +kernel, by decide +kernel, rfl, by decide +kernel,
   ⟨⟨8, by decide +kernel, by decide +kernel⟩, by decide +kernel, rfl, rfl, rfl⟩,
   ⟨⟨0, by decide +kernel, by decide +kernel⟩, by decide +kernel, rfl, rfl, rfl⟩,
   ⟨⟨16, by decide +kernel, by decide +kernel⟩, by decide +kernel, rfl, rfl, rfl⟩, by decide +kernel⟩
/-- The checks of a completed run: one that agrees and that nothing makes fail, and a failing cell under a dead one. -/
theorem met_checks : okCheck.differs = false ∧ (none : Option Nat) ≠ some 0 ∧ deadCheck.differs = false ∧
    deadCheck.live = false := by decide
/-- A transfer to the host, whose data has been read. -/
def toHostBusy : State := { unit with
  ops := [{ cpOp with word := wordOf 0x60 1 }]
  bundles := [(0, { Bundle.init with go := true, trained := true })]
  pumps := [⟨true, 0, 8, some 9, none, [], [⟨64, [7]⟩], [], none, 1⟩] }
theorem met_toHost : toHostBusy.pilUp 0 = true ∧ (toHostBusy.op? 9).isSome = true ∧
    (toHostBusy.pumps.find? fun r => r.host == true && (if true then r.pump == 8 else r.die * 8 + r.pump == 8)) =
      some ⟨true, 0, 8, some 9, none, [], [⟨64, [7]⟩], [], none, 1⟩ := by decide +kernel
theorem test_toHost : sees (.pumpTransferComplete true 8) toHostBusy (fun u => (u.hostBytes 64 1, u.pumps)) =
    some ([7], []) := by decide +kernel
theorem test_deadCheck : sees (.arrayInstructionEnd 0 0 (some 0) 0) (unitsBusy [deadCheck] false) (fun u =>
    ((u.arr 0 0).chkFail, u.bytes (own + 8) 1)) = some (false, [1]) := by decide +kernel
theorem test_arrayEnd : sees (.arrayInstructionEnd 0 0 none 0) (unitsBusy [] false) (fun u => (u.bytes (own + 8) 5,
    (u.arr 0 0).ops, (thr u).fpstat, Tab.get 0#16 (u.core 0).sems 0)) = some ([1, 2, 3, 4, 0], 1, 1, 1) := by decide +kernel
theorem test_sfuComplete : sees (.sfuInstructionComplete 0) (unitsBusy [] false) (fun u => (u.bytes own 3, (thr u).fpstat,
    (u.core 0).sfuRun)) = some ([5, 6, 0], 2, none) := by decide +kernel
theorem test_pumpComplete : sees (.pumpTransferComplete false 0) (unitsBusy [] false) (fun u => (u.bytes (own + 16) 1,
    u.pumps)) = some ([7], []) := by decide +kernel

/-- Mismatch: one check, with the window clear and armed. -/
theorem met_mismatch : ([true, false].all fun a => [okCheck, badCheck].all fun k =>
      ((unitsBusy [k] a).arr 0 0).run == [runA [k]] && (unitsBusy [k] a).segsUp (some 0) (outSegs (runA [k]).writes)
        && ((unitsBusy [k] a).segsLine (outSegs (runA [k]).writes)).isNone) = true ∧
    okCheck.live = true ∧ badCheck.differs = true ∧ (thr (unitsBusy [okCheck] true)).fault.valid = false ∧
    (thr (unitsBusy [okCheck] true)).state ∉ [TState.free, .fenced, .faulted] := by decide +kernel
theorem test_mismatch_arms : sees (.arrayInstructionEnd 0 0 (some 0) 0) (unitsBusy [okCheck] false) (fun u => ((u.arr 0 0).armed,
    (u.arr 0 0).held, (u.arr 0 0).chkFail, (thr u).fault.cause)) = some (true, false, true, 0x25) := by decide +kernel
theorem test_mismatch_suspect : sees (.arrayInstructionEnd 0 0 none 0) (unitsBusy [badCheck] true) (fun u =>
    ((u.arr 0 0).suspect, (u.arr 0 0).held, u.err.pend)) = some (true, true, 1) := by decide +kernel

/-- UnitStarts: ACCOP CLR, an SFU instruction, a COPY and a TO_HOST at the heads of their queues. -/
def startsUnit (go : Bool) : State := { unit with
  ops := [sfuOp, { opOf (wordOf 0x79 0) with id := 8 }, cpOp, { opOf (wordOf 0x60 1) with id := 10 }]
  arrs := [(0, { Arr.init with go := true, queue := [8] })]
  cores := [(0, { Core.init with sfuQ := [7], pumpQ := [9], hostQ := [10] })]
  dev := { Dev.init with go := go } }
theorem met_unitStarts : (startsUnit true).pumpFree false 0 7 = true ∧ (startsUnit true).threadHostPump = some 8 ∧
    iSubP (wordOf 0x60 0) = 0 ∧ iPsel (wordOf 0x60 0) = 0 ∧ ((startsUnit true).arr 0 0).held = false ∧
    ((startsUnit true).core 0).sfuRun = none ∧ (startsUnit false).dev.go = false ∧ (startsUnit true).awake 0 = true ∧
    (startsUnit true).slotsUsed 0 < 256 ∧ (startsUnit true).attending 0 = false ∧ ((startsUnit true).ops.all fun o =>
      (startsUnit true).segsUp (some 0) o.spans && ((startsUnit true).segsLine o.spans).isNone) = true := by
  decide +kernel
theorem test_arrayStart : sees (.arrayInstructionStart 0 0) (startsUnit true) (fun u => ((u.arr 0 0).queue,
    (u.arr 0 0).run.map ArrRun.op)) = some ([], [8]) := by decide +kernel
theorem test_pumpStart : sees (.pumpTransferStart 0 false 7) (startsUnit true) (fun u => ((u.core 0).pumpQ,
    u.pumps.map PumpRun.op)) = some ([], [some 9]) := by decide +kernel
/-- UnitStarts of pumps with the tiles of `pumping`: each kind at the head of its queue. -/
def headUnit (op : Nat) : State := { pumping with
  ops := [{ opOf (wordOf 0x60 op) with id := 9, d := (pumping.thread 0 0).regs.d, ra := (if op = 3 ∨ op = 4 then 5 else 64) }]
  cores := [(0, { Core.init with unlocked := true, pumpQ := [9], hostQ := [9] })] }
theorem met_pumpHeads : ([0, 1, 2, 3, 4].all fun b => (headUnit b).syncHeads.earlierHead 0 9 == false
      && !(headUnit b).earlierHost 9 && (headUnit b).threadHostPump == some 8 && (headUnit b).pumpFree false 0 7
      && ((headUnit b).op? 9).all fun o => iPsel o.word == 0 && (headUnit b).segsUp (some 0) o.reads
        && (headUnit b).segsUp none o.reads && ((headUnit b).segsLine o.reads).isNone && iSubP o.word == b
        && (b == 1 || b == 2 || (headUnit b).reachable (o.ra.extractLsb' 0 16) (b == 3) || b == 0)) = true := by
  decide +kernel
theorem test_putStart : sees (.pumpTransferStart 0 false 7) (headUnit 3) (fun u => (u.fab.reqs.map FabReq.type,
    (u.core 0).pumpQ)) = some ([3, 3, 3, 3], []) := by decide +kernel
theorem test_getStart : sees (.pumpTransferStart 0 false 7) (headUnit 4) (fun u => (u.fab.reqs.map FabReq.len,
    u.pumps.map fun r => r.waiting.length)) = some ([32, 32, 32, 32], [4]) := by decide +kernel
theorem test_hostPump_off : sees (.pumpTransferStart 0 true 8) (startsUnit false) (fun u => ((u.core 0).hostQ,
    (thr u).fault.cause)) = some ([], 0x26) := by decide +kernel

/-- SelfTests: an idle array, one that tests, a suspect one, one whose test passed. -/
theorem met_selfTests : Arr.init.stestBusy = false ∧ Arr.init.stestWait = false ∧ unit.hubDike.busy = false ∧
    ((arrUnit { Arr.init with stestBusy := true, suspect := true, held := true }).arr 159 3).suspect = true ∧
    sees (.maCtlGoClear 159 3 0) (arrUnit { Arr.init with go := true, held := true, stestDone := true, stestPass := true })
      (fun u => sees (.maCtlGoSet 159 3 0x00010001) u fun v => ((v.arr 159 3).go, (v.arr 159 3).held)) =
      some (some (true, false)) := by decide +kernel
/-- The last test of a core reset's retest. -/
def retestUnit : State := { arrUnit { Arr.init with stestBusy := true, held := true } with
  cores := [(159, { Core.init with retest := true })] }
theorem met_retest : (retestUnit.core 159).retest = true ∧ (retestUnit.arr 159 3).suspect = false ∧
    (∀ b < 4, b ≠ 3 → (retestUnit.arr 159 b).stestBusy = false ∧ (retestUnit.arr 159 b).stestWait = false) := by
  decide +kernel
theorem test_retest : sees (.arraySelfTestDone 159 3 0) retestUnit (fun u => ((u.core 159).retest, (u.arr 159 3).held,
    (u.arr 159 0).go)) = some (false, false, true) := by decide +kernel
theorem test_stest_start : sees (.maStestStart 159 3) unit (fun u => ((u.arr 159 3).held, (u.arr 159 3).stestBusy)) =
    some (true, true) := by decide +kernel
theorem test_stest_pass : sees (.arraySelfTestDone 159 3 0)
    (arrUnit { Arr.init with stestBusy := true, suspect := true, held := true, armed := true }) (fun u => ((u.arr 159 3).suspect, (u.arr 159 3).held, (u.arr 159 3).armed)) =
    some (false, false, false) := by decide +kernel
theorem test_stest_fail : sees (.arraySelfTestDone 159 3 6) (arrUnit { Arr.init with stestBusy := true, held := true })
    (fun u => ((u.arr 159 3).failcode, (u.arr 159 3).held, (u.arr 159 3).stestPass)) = some (6, true, false) := by
  decide +kernel

/-- Diking: a failed self-test, an unlocked hub, a site that waits for its journal entry. -/
def failedUnit : State := arrUnit { Arr.init with stestDone := true, failcode := 1 }
def openUnit : State := { unit with dev := { Dev.init with unlocked := true } }
def dikedSite : State := { unit with dikes := [⟨175, 0, 0x25, 0⟩] }
theorem met_diking : (failedUnit.failedArr 159).isSome = true ∧ (failedUnit.core 159).diked = false ∧
    openUnit.dev.unlocked = true ∧ openUnit.hubDike.busy = false ∧ unit.dev.unlocked = false ∧
    (dikedSite.dikes.find? fun e => e.site == 175).isSome = true := by decide +kernel
theorem test_coreDike : sees (.coreDike 159 0x25) failedUnit (fun u => ((u.core 159).diked, (u.thread 159 31).state,
    u.dikes.map DikeRec.site)) = some (true, .fenced, [171]) := by decide +kernel
theorem test_hubDike : sees (.hubDikeSelfTest 159) openUnit (fun u => (u.hubDike, (u.arr 159 0).held)) =
    some (⟨true, false, false, 159, 0⟩, true) := by decide +kernel
theorem test_hubDike_locked : sees (.hubDikeDike 0) unit (fun u => (u.core 0).diked) = some false := by decide +kernel
theorem test_siteJournal : sees (.siteJournalAppend 175) dikedSite (fun u => (u.siteJournal, u.dikes, u.err.pend)) =
    some ([175], [], 2) := by decide +kernel

/-! ## LPDDR -/

/-- A load of the last 4 bytes of a sector of die 0, outstanding as sector request 2; another one before it. -/
def lpdPart (sid : Nat) : Part := partOf sid 60 none none
def lpdUnit (ps : List Part) : State := unitWith fun th => { th with
  reqs := ps.map fun p => ⟨9, 64, .s 3 4 false, false, [p]⟩ }
theorem met_sectorAccess : ((lpdUnit [lpdPart 2]).thread 0 0).reqs = [⟨9, 64, .s 3 4 false, false, [lpdPart 2]⟩] ∧
    (60 : Nat) % 32 + 4 ≤ 32 ∧ ((lpdUnit [lpdPart 2]).die 0).lpd.go = true ∧ unit.fab.lines = [] ∧
    (lpdUnit [lpdPart 2]).pathUp 0 60 = true ∧ (lpdUnit [lpdPart 1, lpdPart 2]).lineAt 60 4 = none ∧
    ((lpdUnit [lpdPart 1, lpdPart 2]).chanQueue ((lpdUnit []).lpdLoc 60).die ((lpdUnit []).lpdLoc 60).chan).map
      (fun y => (y.sid, y.sector)) = [(1, 1), (2, 1)] ∧
    ((lpdUnit [lpdPart 1, lpdPart 2]).openParts.find? fun x => x.2.sid == 2) = some (0, lpdPart 2) ∧
    (0, lpdPart 1) ∈ (lpdUnit [lpdPart 1, lpdPart 2]).openParts := by decide +kernel
theorem test_sectorAccess : sees (.lpddrSectorAccess 2 .clean) { lpdUnit [lpdPart 2] with
    mem := { Mem.init with cells := [(62, 5)] } } (fun u => (thr u).reqs.map fun q => q.parts.map Part.res) =
    some [[some [0, 0, 5, 0]]] := by decide +kernel
/-- A channel that does not drain takes its reads before its writes, unless a write is aged or no read can go. -/
theorem met_pickSector : pickSector false (fun _ => false) (fun _ => false) [⟨1, 5, true, 0⟩, ⟨2, 6, false, 0⟩] =
      some ⟨2, 6, false, 0⟩ ∧
    pickSector false (fun _ => false) (fun _ => false) [⟨1, 5, true, 0⟩, ⟨2, 5, false, 0⟩] = some ⟨1, 5, true, 0⟩ ∧
    pickSector false (fun y => y.sid == 1) (fun _ => false) [⟨1, 5, true, 0⟩, ⟨2, 6, false, 0⟩] = some ⟨1, 5, true, 0⟩ := by
  decide +kernel
theorem test_sectorOrder : sees (.lpddrSectorAccess 2 .clean) (lpdUnit [lpdPart 1, lpdPart 2]) (fun u =>
    (thr u).reqs.map fun q => q.parts.map Part.res) = some [[none], [none]] := by decide +kernel
def noScrubUnit : State := { unit with dies := [(0, { upDie with lpd := { upDie.lpd with scrubEn := false } })] }
theorem met_patrolScrub : (noScrubUnit.die 0).lpd.scrubEn = false ∧ (unit.die 0).lpd.scrubEn = true ∧ (unit.die 0).lpd.trained = true ∧ (unit.die 0).inReset = false ∧
    unit.lpdTop / 32 - 1 < unit.lpdTop / 32 := by
  decide +kernel
theorem test_patrolScrub : sees (.patrolScrub 1 .double) unit (fun u => (Tab.get 0 u.mem.secErr 1, (u.die 0).lpd.uncorr,
    (u.die 0).lpd.err.cls, u.err.pend)) = some (2, 1, 3, 8) := by decide +kernel

/-- MemoryMaintenance: marks due for write-back, a copied and an active remap entry, a tracked row. -/
def maintUnit : State := { unit with
  mem := { Mem.init with wordErr := [(own / 8, 2)], secErr := [(1, 9)], grpErr := [(0, 1)] }
  dies := [(3, { upDie with lpd := { upDie.lpd with
    remap := [(23 * 512 + 510, ⟨true, 1, 0, 0, 0, 5, 0⟩), (23 * 512 + 511, ⟨true, 0, 0, 0, 0, 6, 0⟩)]
    tracker := [(23, [⟨5, 3⟩, ⟨6, 0⟩])] } })] }
theorem met_maintenance : Tab.get 0 maintUnit.mem.wordErr (own / 8) = 2 ∧ (Tab.get 0 maintUnit.mem.secErr 1).testBit 3 = true ∧
    ((maintUnit.die 3).lpd.ent 23 511).st = 0 ∧ ((maintUnit.die 3).lpd.ent 23 510).st = 1 ∧ maintUnit.remapJournal = [] ∧
    ⟨3, 23, (maintUnit.die 3).lpd.ent 23 510, .entered⟩ ∈ { maintUnit with
      remapJournal := [⟨3, 23, (maintUnit.die 3).lpd.ent 23 510, .entered⟩] }.remapJournal := by decide +kernel
theorem test_spadWriteback : sees (.spadEccWriteback 0 0) maintUnit (fun u => u.mem.wordErr) = some [] := by decide +kernel
/-- The same with a store to sector 1 outstanding. -/
def maintWrite : State := { maintUnit with threads := [(0, { busy with
  reqs := [⟨9, 64, .none, false, [{ partOf 2 32 none none with op := .wr [1, 2, 3, 4] }]⟩] })] }
theorem met_writeQueued : maintUnit.writeQueued 1 = false ∧ maintWrite.writeQueued 1 = true := by decide +kernel
theorem test_writebackCancelled : sees (.lpddrEccWriteback 1) maintWrite (fun u => (u.mem.secErr, u.mem.grpErr)) =
    some ([(1, 1)], [(0, 1)]) := by decide +kernel
theorem test_lpddrWriteback : sees (.lpddrEccWriteback 1) maintUnit (fun u => (u.mem.secErr, u.mem.grpErr)) =
    some ([], []) := by decide +kernel
theorem test_remapCopy : sees (.rowRemapCopyDone 3 23 511) maintUnit (fun u => ((u.die 3).lpd.ent 23 511).st) = some 1 := by
  decide +kernel
theorem test_remapJournal : sees (.remapJournalAppend 3 23 510) maintUnit (fun u => u.remapJournal.length) = some 1 := by
  decide +kernel
theorem test_trackerDecay : sees (.rowTrackerDecay 3 23) maintUnit (fun u => Tab.get [] (u.die 3).lpd.tracker 23) =
    some [⟨5, 2⟩, ⟨6, 0⟩] := by decide +kernel

/-- LpdGo: each check failing in turn, and none. -/
def lpdGoUnit (f : Lpd → Lpd) : State := { unit with dies := [(3, { upDie with lpd := f { upDie.lpd with go := false } })] }
theorem met_lpdGo : ((lpdGoUnit id).die 3).inReset = false ∧ ((lpdGoUnit id).die 3).lpd.go = false ∧
    (0x00010001 : BitVec 32).getLsbD 0 = true := by decide +kernel
theorem test_lpdGo : ([(lpdGoUnit fun l => { l with trained := false }, 0x1), (lpdGoUnit id, 0x9),
      (lpdGoUnit fun l => { l with unlocked := true }, 0x1), (lpdGoUnit fun l => { l with thresh := 0 }, 0x1),
      (lpdGoUnit id, 0x109)].map fun e => sees (.lpdCtlGoSet 3 e.2) e.1 fun u =>
      ((u.die 3).lpd.go, (u.die 3).lpd.reason)) =
    [some (false, 0x11), some (false, 0x12), some (false, 0x13), some (false, 0x14), some (true, 0)] := by decide +kernel

/-! ## Interposer -/

/-- Bundle 3 in operation, its group 15 of direction 1 as given. -/
def pilUnit (x : Grp) : State := { unit with bundles := [(3, { Bundle.init with
  go := true, trained := true, h2d := { Dir.init with groups := [(15, x)] } })] }
/-- A write packet with GSEQ 0 on VC 0, and one with a flipped payload bit. -/
def pilPkt : Bytes := pilPacket (2 ^ 25) [1]
def pilBad : Bytes := pilPkt.take 12 ++ [0] ++ pilPkt.drop 13
theorem met_bundlePackets : (pilUnit Grp.init).pilUp 3 = true ∧ pilPkt.length = 64 ∧ pilBad.length = 64 ∧
    pilGood pilPkt = true ∧ pilGood pilBad = false ∧ pilSeq pilPkt = true ∧ gseqOf pilPkt = Grp.init.rxNext ∧
    (pilUnit Grp.init).pilMaySend 3 1 15 pilPkt = true ∧ Grp.init.alive = true ∧ Grp.init.state ≠ .off ∧
    (pilUnit Grp.init).err.perturbGo = false ∧ pilFld pilPkt 0 16 = Dir.init.rxB.toNat ∧ Dir.init.reorder = [] ∧
    Dir.init.moved = [] := by decide +kernel
theorem test_pilQueue : sees (.pilPacketReceive 3 1 15 pilPkt) (pilUnit Grp.init) (fun u =>
    ((Tab.get [] ((u.bundle 3).dir 1).queues (pilFld pilPkt 23 2)).length, u.out.length)) = some (1, 1) := by decide +kernel
theorem test_pilReceive : sees (.pilPacketReceive 3 1 15 pilPkt) (pilUnit Grp.init) (fun u =>
    (((u.bundle 3).dir 1).grp 15).rxNext) = some 1 := by decide +kernel
theorem test_pilCrc : sees (.pilPacketReceive 3 1 15 pilBad) (pilUnit Grp.init) (fun u => ((u.bundle 3).crcErr,
    (((u.bundle 3).dir 1).grp 15).nakked, u.out.length)) = some (1, true, 1) := by decide +kernel
theorem test_pilNakRepeat : sees (.pilNakRepeat 3 1 15) (pilUnit { Grp.init with nakked := true }) (fun u => u.out.length) =
    some 1 := by decide +kernel
/-- A NAK replays what is held; beyond REPLAY_LIMIT 8 the group goes to CHECK. -/
theorem test_pilNak : sees (.pilNak 3 1 15 0) (pilUnit { Grp.init with held := [pilPkt], txNext := 1, replays := 7 }) (fun u =>
    ((((u.bundle 3).dir 1).grp 15).state, u.out)) = some (.run, [.pil 3 1 15 pilPkt]) ∧
    sees (.pilNak 3 1 15 127) (pilUnit { Grp.init with held := [pilPkt], txNext := 1, replays := 8 }) (fun u =>
    (((u.bundle 3).dir 1).grp 15).state) = some .check := by decide +kernel
theorem test_pilTimeout : sees (.pilReplayWaitTimeout 3 1 15) (pilUnit { Grp.init with state := .wait, held := [pilPkt] })
    (fun u => u.out.length) = some 1 := by decide +kernel
theorem test_pilCheckDone : sees (.pilGroupCheckDone 3 1 15 []) (pilUnit { Grp.init with state := .check, replays := 9 })
    (fun u => ((u.bundle 3).dir 1).grp 15) = some Grp.init := by decide +kernel

/-- BundleLanes: lane 255 on physical lane 255, an event for it, no spare left, a lane under retraining. -/
def laneUnit (f : Dir → Dir) : State := { unit with bundles := [(3, { Bundle.init with
  go := true, trained := true, h2d := f Dir.init })] }
def noSpares : Tab Bool := (List.range 16).map fun i => (256 + i, true)
theorem met_bundleLanes : ((laneUnit id).bundle 3).h2d.laneOn 255 = some 255 ∧ Dir.init.isFailed 255 = false ∧
    192 ≤ { Dir.init with failed := Tab.set false Dir.init.failed 255 true : Dir }.good ∧ Dir.init.spares ≠ [] ∧
    { Dir.init with failed := noSpares : Dir }.spares = [] ∧ (unit.dlu.changing = false ∧ unit.dlu.spareOk = true) ∧
    (Dlu.spareOk ⟨false, false, true, false, []⟩) = false ∧ ((laneUnit id).bundle 3).trained = true ∧ Dlu.init.later = [] := by
  decide +kernel
theorem test_lockLostInChangeover : sees (.laneLossOfLock 3 1 255) { laneUnit id with dlu := ⟨false, false, false, true, []⟩ }
    (fun u => (u.dlu.later, ((u.bundle 3).dir 1).isFailed 255)) = some ([(3, 1, 255)], false) := by decide +kernel
theorem test_lossOfLock : sees (.laneLossOfLock 3 1 255) (laneUnit id) (fun u => (((u.bundle 3).dir 1).isFailed 255,
    ((u.bundle 3).dir 1).events)) = some (true, [⟨255, true⟩]) := by decide +kernel
theorem test_marginSample : sees (.laneMarginSample 3 1 255 19) (laneUnit id) (fun u => ((u.bundle 3).dir 1).events) =
    some [⟨255, false⟩] ∧ sees (.laneMarginSample 3 1 255 20) (laneUnit id) (fun u => ((u.bundle 3).dir 1).events) =
    some [] := by decide +kernel
theorem test_widthStep : sees (.widthStep 3 1) (laneUnit fun r => { r with failed := noSpares, events := [⟨255, true⟩] })
    (fun u => (((u.bundle 3).dir 1).off, (u.bundle 3).steps, u.err.pend)) = some (0x8000, 1, 0x20) := by decide +kernel
theorem test_offlineRetrain : sees (.laneOfflineRetrainDone 3 1 271 true) (laneUnit fun r => { r with retrain := [271] })
    (fun u => ((u.bundle 3).dir 1).retrain) = some [] := by decide +kernel
theorem test_pilCtl : ([0x00140001, 0x00140101].map fun w => sees (.pilCtlGoSet 3 w) unit fun u => ((u.bundle 3).go,
    (u.bundle 3).reason)) = [some (false, 0x23), some (false, 0x24)] := by decide +kernel
theorem test_dlu : sees .dluChangeover { laneUnit id with bundles := [(0, { Bundle.init with trained := true })] }
    (fun u => u.dlu.changing) = some true ∧
    sees (.dluChangeoverDone []) { unit with dlu := ⟨false, false, false, true, []⟩ } (fun u => (u.dlu.active, u.dlu.changing)) =
    some (true, false) ∧ sees .dluFailure { unit with dlu := ⟨false, false, true, false, []⟩ } (fun u => u.dev.stopped) =
    some true := by decide +kernel

/-! ## Links -/

/-- Link 47, the last of port 7, as given. -/
def actLink : Link := { Link.init with state := .active, txMask := 0xFFFF, rxMask := 0xFFFF }
def litPort : Port := { Port.init with go := true, lit := true, unlocked := true }
def linkUnit (k : Link) : State := { unit with
  links := [(47, k)], ports := [(7, litPort)], fab := { Fab.init with go := true, nodeId := 5 } }
/-- A DATA flit with FSEQ 0 and 236 zero bytes, its CRC worked by hand; and one with a reserved bit set. -/
def flitHead : Bytes := toLE 16 (2 ^ 34)
def zeros59 : Bytes := List.replicate 59 0
def flitBody : Bytes := flitHead ++ zeros59 ++ zeros59 ++ zeros59 ++ zeros59
def flitGood : Bytes := flitBody ++ [0xB7, 0x1C, 0xF1, 0xB5]
def flitBad : Bytes := toLE 16 (2 ^ 34 + 2 ^ 127) ++ List.replicate 240 0
theorem crc_head : flitHead.foldl (crcByteL 0xEDB88320) 0xFFFFFFFF = 0x10428FD5 := by decide +kernel
theorem crc_zeros0 : zeros59.foldl (crcByteL 0xEDB88320) 0x10428FD5 = 0xC3D87FF1 := by decide +kernel
theorem crc_zeros1 : zeros59.foldl (crcByteL 0xEDB88320) 0xC3D87FF1 = 0x11442189 := by decide +kernel
theorem crc_zeros2 : zeros59.foldl (crcByteL 0xEDB88320) 0x11442189 = 0x186013DE := by decide +kernel
theorem crc_zeros3 : zeros59.foldl (crcByteL 0xEDB88320) 0x186013DE = 0x4A0EE348 := by decide +kernel
theorem foldl_five {f : Nat → Byte → Nat} {a b c d e : Bytes} {r0 r1 r2 r3 r4 r5 : Nat} (h1 : a.foldl f r0 = r1)
    (h2 : b.foldl f r1 = r2) (h3 : c.foldl f r2 = r3) (h4 : d.foldl f r3 = r4) (h5 : e.foldl f r4 = r5) :
    (a ++ b ++ c ++ d ++ e).foldl f r0 = r5 := by simp only [List.foldl_append, h1, h2, h3, h4, h5]
theorem crc32_of {bs : Bytes} {r : Nat} (h : bs.foldl (crcByteL 0xEDB88320) 0xFFFFFFFF = r) :
    crc32 bs = r ^^^ 0xFFFFFFFF := by rw [crc32, h]
theorem flitGood_crc : crc32 flitBody = 0x4A0EE348 ^^^ 0xFFFFFFFF :=
  crc32_of (foldl_five crc_head crc_zeros0 crc_zeros1 crc_zeros2 crc_zeros3)
theorem flitBody_length : flitBody.length = 252 := by
  have h : zeros59.length = 59 := by decide +kernel
  have g : flitHead.length = 16 := by decide +kernel
  simp only [flitBody, List.length_append, h, g]
theorem flitGood_take : flitGood.take 252 = flitBody := List.take_left' flitBody_length
theorem flitGood_ok : flitOk flitGood = true := by
  rw [flitOk, flitGood_take, flitGood_crc]; decide +kernel
theorem flitBad_ok : flitOk flitBad = false := by
  rw [flitOk, Bool.and_eq_false_iff]; exact .inr (by decide +kernel)
/-- The link after a command. -/
def linkAfter {α : Type} (i : Instr) (k : Link) (f : Link → α) : Option α := sees i (linkUnit k) fun u => f (u.link 47)

theorem met_quiet : (∀ n < 8, ((linkUnit actLink).port n).events = [] ∧ ∀ k < 16, (((linkUnit actLink).port n).wave k).chg = none) ∧
    (linkUnit actLink).spare0.queue = [] ∧ (linkUnit actLink).spare1.queue = [] := by decide +kernel
theorem met_linkFlits : actLink.state.hears = true ∧ actLink.state.meets = true ∧ flitGood.length = 256 ∧
    flitBad.length = 256 ∧ flitFld flitGood 34 2 = 1 ∧ flitFld flitGood 0 16 = actLink.rxNext.toNat ∧
    flitFld flitGood 32 1 = 0 ∧ flitFld flitBad 34 2 ≠ 0 ∧
    (linkUnit actLink).minLanes 47 ≤ width (actLink.rxMask &&& ~~~0x000F#16 &&& ~~~actLink.quar) ∧
    width (actLink.rxMask &&& ~~~0x001F#16 &&& ~~~actLink.quar) < (linkUnit actLink).minLanes 47 ∧
    (linkUnit actLink).minLanes 47 ≤ ((linkUnit actLink).setLink 47 { actLink with txMask := 0x0FFF }).txWidth 47 ∧
    (0x8000#16 &&& actLink.txMask ≠ 0) ∧ (0x8000#16 &&& 0xC000#16 = 0x8000#16) ∧ actLink.relock = 0 ∧
    (0x8000#16).getLsbD 15 = true ∧ (linkUnit actLink).err.perturbGo = false ∧
    ([(0, false), (4, true)].all fun x : Nat × Bool => x.1 ≤ 4) = true := by decide +kernel
theorem met_lasersQuiet : (linkUnit actLink).lasersQuiet := met_quiet
theorem test_relockFails : sees (.ringRelockDone 47 15 false) (linkUnit { actLink with quar := 0x8000 }) (fun u =>
    ((u.link 47).quar, (u.link 47).rxMask, (u.link 47).state)) = some (0, 0x7FFF, .active) := by decide +kernel
theorem test_flitReceive : (((linkUnit actLink).takeFlit 47 flitGood []).link 47).rxNext = 1 := by
  rw [State.takeFlit, flitGood_ok]; decide +kernel
theorem test_flitCrc : (((linkUnit actLink).takeFlit 47 flitBad []).link 47).crcErr = 1 := by
  rw [State.takeFlit, flitBad_ok]; decide +kernel
theorem test_flitNakRepeat : sees (.flitNakRepeat 47) (linkUnit { actLink with nakked := true }) (fun u => u.out.length) =
    some 1 := by decide +kernel
theorem test_laneOut : linkAfter (.laneOut 47 0 0x8000) actLink Link.changes = some [⟨false, false, 0x8000⟩] := by
  decide +kernel
theorem test_laneSetChange : linkAfter (.laneSetChange 47 false) { actLink with changes := [⟨false, false, 0x000F⟩] } (fun k =>
    (k.rxMask, k.state)) = some (0xFFF0, .active) ∧
    linkAfter (.laneSetChange 47 false) { actLink with changes := [⟨false, false, 0x001F⟩] } (fun k => (k.state, k.reason)) =
    some (.breached, 0x35) := by decide +kernel
theorem test_lossOfSignal : linkAfter (.laneLossOfSignal 47 0x000F) actLink (fun k => (k.quar, k.state)) =
    some (0x000F, .active) ∧ linkAfter (.laneLossOfSignal 47 0x001F) actLink (fun k => (k.quar, k.state)) =
    some (0, .retrain) := by decide +kernel
theorem test_laneQuar : linkAfter (.laneQuar 47 0 0x8001) { actLink with txMask := 0x7FFF } (fun k => (k.await, k.changes)) =
    some (1, [⟨true, false, 1⟩]) := by decide +kernel
theorem test_laneReady : linkAfter (.laneReady 47 0 0x8000) { actLink with await := 0x8000 } (fun k => (k.await, k.changes)) =
    some (0, [⟨true, true, 0x8000⟩]) := by decide +kernel
theorem test_ringRelock : linkAfter (.ringRelockDone 47 15 true) { actLink with quar := 0x8000 } Link.quar = some 0 := by
  decide +kernel
theorem test_laneRetrained : linkAfter (.laneRetrained 47 15 true) { actLink with rxMask := 0x7FFF } Link.mseq = some 1 := by
  decide +kernel
theorem test_retrainReq : linkAfter (.retrainReq 47) actLink (fun k => (k.state, k.retrains)) = some (.retrain, 1) := by
  decide +kernel

/-- LinkStates: a link in each state of training. -/
def inState (x : LState) : Link := { actLink with state := x }
theorem met_linkStates : (linkUnit { Link.init with retry := true }).waitsOff 47 = true ∧
    (linkUnit actLink).minLanes 47 ≤ width (0xFFF0#16 &&& (linkUnit actLink).lit 47) ∧
    (linkUnit actLink).minLanes 47 ≤ width (0xFFF0#16 &&& actLink.txMask) ∧ (unit.port 7).go = false ∧
    ((linkUnit actLink).disc 47).again = false ∧ unit.dev.stopped = false ∧
    ((linkUnit actLink).minLanes 47 ≤ width (0xFFF0#16 &&& actLink.txMask &&& (linkUnit actLink).lit 47)) ∧
    (0x00100801 : BitVec 32).getLsbD 0 = true := by decide +kernel
theorem test_offRetry : linkAfter (.linkOffRetry 47) { Link.init with retry := true, rxNext := 9 } (fun k =>
    (k.state, k.rxNext)) = some (.light, 0) := by decide +kernel
theorem test_lightDone : linkAfter (.linkLightDone 47) (inState .light) Link.state = some .train := by decide +kernel
theorem test_trainDone : linkAfter (.linkTrainDone 47 0xFFF0 0x0FFF) (inState .train) (fun k => (k.state, k.txMask, k.rxMask)) =
    some (.align, 0xFFF0, 0x0FFF) ∧ linkAfter (.linkTrainDone 47 0xFFE0 0x0FFF) (inState .train) Link.state = some .train := by
  decide +kernel
theorem test_alignDone : sees (.linkAlignDone 47) { linkUnit (inState .align) with fab := Fab.init } (fun u =>
    (u.link 47).state) = some .exch := by decide +kernel
theorem test_retrainDone : linkAfter (.linkRetrainDone 47 0xFFF0 0xFFF0) { inState .retrain with prior := .isolated } Link.state =
    some .isolated := by decide +kernel
theorem test_stageTimeout : linkAfter (.linkStageTimeout 47) (inState .train) (fun k => (k.state, k.retry)) =
    some (.off, true) := by decide +kernel
theorem test_retrainTimeout : linkAfter (.linkRetrainTimeout 47) (inState .retrain) (fun k => (k.state, k.reason)) =
    some (.breached, 0x34) := by decide +kernel
theorem test_portReset : sees (.portReset 7) (linkUnit actLink) (fun u => ((u.link 47).state, (u.port 7).unlocked)) =
    some (.off, false) := by decide +kernel
theorem test_stoppedPort : sees (.portReset 7) { linkUnit actLink with dev := { Dev.init with stopped := true } } (fun u =>
    (u.link 47).state) = some .active := by decide +kernel
theorem test_tklCtl : ([(Port.init, 0x00100001), ({ Port.init with unlocked := true }, 0x000B0801),
      ({ Port.init with unlocked := true }, 0x00110801), ({ Port.init with embHold := 10 }, 0x00100801),
      ({ Port.init with biasChg := 49 }, 0x00100801), (Port.init, 0x00100801)].map fun e =>
      sees (.tklCtlGoSet 7 e.2) { linkUnit Link.init with ports := [(7, e.1)] } fun u =>
        ((u.port 7).reason, (u.port 7).go, (u.link 47).state)) =
    [some (0x30, false, .off), some (0x31, false, .off), some (0x31, false, .off), some (0x32, false, .off),
     some (0x33, false, .off), some (0, true, .light)] := by decide +kernel

/-! ## Lasers -/

/-- Wavelength 15 of port 7 as given, with no link that carries traffic; a settling changeover of it. -/
def waveUnit (w : Wave) (active : Bool) : State := { unit with
  links := [(47, actLink)]
  ports := [(7, { litPort with waves := [(15, w)], autoChg := false })]
  spare1 := { Spare.init with active := if active then some (7, 15) else none } }
def quietUnit (w : Wave) : State := { waveUnit w false with links := [] }
def lowWave : Wave := { Wave.init with bias := 100, emb := 29 }
def chgOf (x : ChgStage) (ls : BitVec 6) : Chg := ⟨x, false, false, ls, 0, 50⟩
theorem met_lasers : ((quietUnit lowWave).port 7).lit = true ∧ ((quietUnit lowWave).port 7).unlocked = true ∧
    lowWave.retired = false ∧ lowWave.chg = none ∧ (∀ i < 6, ((quietUnit lowWave).link (42 + i)).state ∉ [.active, .retrain]) ∧
    ((quietUnit lowWave).spareUnit (groupOf 7)).denied 7 15 = false ∧
    ((quietUnit lowWave).spareUnit (groupOf 7)).active = none ∧ (∀ n < 8, ((quietUnit lowWave).port n).events = []) ∧
    (chgOf .settle 0).all = 0 ∧ (∀ i < 6, ((quietUnit lowWave).link (42 + i)).state.meets = false) ∧
    (∀ n < 8, ∀ k < 16, (((quietUnit lowWave).port n).wave k).chg = none) ∧ (quietUnit lowWave).spare0.queue = [] ∧
    (quietUnit lowWave).spare1.queue = [] ∧
    (chgOf .drain 0x20).links = 1#6 <<< (47 % 6) ∧ ((waveUnit lowWave true).link 47).state.meets = true := by decide +kernel
theorem test_biasLoop : sees (.biasLoop []) (quietUnit lowWave) (fun u => ((u.port 7).wave 15).bias) = some 101 ∧
    sees (.biasLoop [(7, 15)]) (quietUnit lowWave) (fun u => ((u.port 7).wave 15).bias) = some 100 := by decide +kernel
theorem test_sourceLost : sees (.sourceOutputLost 7 15) (quietUnit lowWave) (fun u => (((u.port 7).wave 15).chg.map Chg.stage,
    u.spare1.active)) = some (some .settle, some (7, 15)) := by decide +kernel
theorem test_forceRetire : sees (.tklWaveForceChg 7 15) (quietUnit { lowWave with spare := true }) (fun u =>
    (((u.port 7).wave 15).retired, u.laserJournal, u.err.pend)) = some (true, [(7, 15, true)], 0x80) := by decide +kernel
theorem test_changeoverTimeout : sees (.changeoverTimeout 7 15) (waveUnit { lowWave with chg := some (chgOf .settle 0) } true)
    (fun u => (((u.port 7).wave 15).bias, u.spare1.failed, u.spare1.active)) = some (50, 0x8000, none) := by decide +kernel
theorem test_spareSettled : sees (.spareLineSettled 7 15 true) (waveUnit { lowWave with chg := some (chgOf .settle 0) } true)
    (fun u => (((u.port 7).wave 15).spare, u.laserJournal, u.spare1.used)) = some (true, [(7, 15, false)], 0x8000) := by
  decide +kernel
theorem test_laneOutAck : sees (.laneOutAck 47 0 0x8000) (waveUnit { lowWave with chg := some (chgOf .drain 0x20) } true)
    (fun u => ((u.port 7).wave 15).chg.map fun c => (c.stage, c.links)) = some (some (.settle, 0)) := by decide +kernel
theorem test_laneInAck : sees (.laneInAck 47 0 0x8000) (waveUnit { lowWave with chg := some (chgOf .restore 0x20) } true)
    (fun u => ((u.port 7).wave 15).spare) = some true := by decide +kernel

/-! ## Discovery -/

/-- The record of module 9, whose link 40 meets link 47 here, with its verdict. -/
def recOf (verdict link : Nat) : Bytes := List.replicate 16 7 ++ toLE 2 9 ++ toLE 1 6 ++ toLE 1 40 ++ [2, 1] ++
  toLE 2 (1 + 2 * verdict) ++ toLE 4 0 ++ toLE 2 5 ++ toLE 1 link ++ [0] ++ List.replicate 32 0
def discUnit (x : LState) (d : Disc) : State := { linkUnit (inState x) with
  fab := { Fab.init with go := true, nodeId := 5, acceptObs := true, disc := [(47, d)] } }
theorem met_discovery : (discUnit .exch Disc.init).fab.go = true ∧ (inState .exch).state.meets = true ∧
    (recOf 1 47).length = 64 ∧ (discUnit .exch Disc.init).record 47 ≠ recOf 1 47 ∧ leField (recOf 1 47) 0x16 2 / 2 % 4 ≠ 0 ∧
    ((discUnit .isolated { Disc.init with reason := 0x50 }).disc 47).reason = 0x50 ∧ (0x3C006401 : BitVec 32).getLsbD 0 = true ∧
    unit.fab.go = false ∧ (Tab.get Route.init [(0xFFFE, ⟨0, true⟩)] 0xFFFE).hold = true := by decide +kernel
/-- The refusals of FAB_CTL.GO in order, and none. -/
theorem test_fabCtl : ([(0xFFFF, 4, 0x3C000101), (5, 4, 0x3C000901), (5, 4, 0x3C271101), (5, 4, 0x00006401),
      (5, 0, 0x3C006401), (5, 4, 0x3C006401)].map fun e => sees (.fabCtlGoSet e.2.2) { unit with
        fab := { Fab.init with nodeId := e.1, hot := e.2.1 } } fun u => (u.fab.go, u.fab.reason)) =
    [some (false, 0x40), some (false, 0x41), some (false, 0x41), some (false, 0x42), some (false, 0x43),
     some (true, 0)] := by decide +kernel
theorem test_fabClear : sees (.fabCtlGoClear 0) (linkUnit Link.init) (fun u => (u.fab.go, u.fab.discDone)) =
    some (false, false) := by decide +kernel
theorem test_verdicts : ([(1, 1), (1, 2), (2, 1), (1, 0)].map fun v =>
      (((discUnit .exch { Disc.init with mine := v.1, theirs := v.2 }).discSettle 47).link 47).state) =
    [.active, .isolated, .isolated, .exch] := by decide +kernel
theorem test_discTimeout : sees (.discTimeout 47) (discUnit .exch Disc.init) (fun u => ((u.link 47).state, (u.disc 47).reason)) =
    some (.isolated, 0x50) := by decide +kernel
theorem test_fabRoute : sees (.fabRouteWrite 0xFFFE 0x100000003) (linkUnit actLink) (fun u =>
    (Tab.get Route.init u.fab.route 0xFFFE).hold) = some true ∧
    sees (.routeDrainEnd 0xFFFE) { unit with fab := { Fab.init with route := [(0xFFFE, ⟨3, true⟩)] } } (fun u =>
    (Tab.get Route.init u.fab.route 0xFFFE).hold) = some false := by decide +kernel

/-! ## Fabric packets -/

/-- A packet of module 9 for module `dst`; the route to both leads over link 47. -/
def pktOf (dst : BitVec 16) (type ttl : Nat) (body : Bytes) : Bytes :=
  (Pkt.mk dst 9 1 0 type ttl 7 0 body).bytes
def hop47 : Route := ⟨1 + 2 + 47 * 2 ^ 8 + 2 ^ 32, false⟩
def fabUnit (f : Fab → Fab) : State := { linkUnit actLink with
  fab := f { Fab.init with go := true, nodeId := 5, route := [(9, hop47), (11, hop47)] }
  bundles := [(0, { Bundle.init with go := true, trained := true })]
  mem := { Mem.init with cells := [(own + 8, 9)], wordErr := [(own / 8 + 16, 3)] } }
def rdBody (a n : Nat) : Bytes := toLE 8 a ++ toLE 2 n
def atBody (a opc w : Nat) : Bytes := toLE 8 a ++ toLE 1 opc ++ toLE 1 w ++ List.replicate 6 0 ++ toLE 8 1 ++ toLE 8 0
def fabReq : FabReq := ⟨4, .msg 0 0, 1, 2, 9, own, 4, 7, [], true, true⟩
theorem met_packets : (parsePkt (pktOf 5 1 63 (rdBody (own + 8) 4))).isSome = true ∧
    (∀ p ∈ parsePkt (pktOf 5 1 63 (rdBody own 4)), (fabUnit id).comes 47 (pktOf 5 1 63 (rdBody own 4)) p = true ∧
      (fabUnit id).canGo p = true) ∧
    (∀ p ∈ parsePkt (pktOf 11 1 63 []), (fabUnit id).canGo p = true ∧ (fabUnit fun f => { f with
      route := [(11, { hop47 with hold := true })] }).canGo p = false ∧ (fabUnit id).comes 47 (pktOf 11 1 63 []) p = true) ∧
    (∀ p ∈ parsePkt (pktOf 5 1 63 (rdBody own 256)), rdOk p = true) ∧
    (∀ p ∈ parsePkt (pktOf 5 5 63 (atBody own 9 8)), atomOk p = true) ∧
    ((fabUnit id).placeOf 0x00F000000000 4).toOption = none ∧
    ((fabUnit id).placeOf (regBase + 0x180010) 8).toOption = some (.reg 0x180010) ∧
    ((fabUnit id).placeOf (own + 8) 4).toOption = some (.spad 0 8) ∧
    ((fabUnit id).readPlace (.spad 0 128) 4 2).1.toOption = none ∧
    ((fabUnit id).readPlace (.spad 0 8) 4 2).1.toOption = some [9, 0, 0, 0] ∧
    ((fabUnit id).writePlace (.spad 0 8) [1] 2).1.toOption = some () ∧
    ((fabUnit id).writePlace (.spad 0 128) [1] 2).1.toOption = none ∧
    ((fabUnit id).semsigAt (0x8000000 + 159 * 0x4000 + 0x9F8)) = some (159, 63, true) ∧
    (fabUnit id).lineAt ((fabUnit id).canon own) 8 = none ∧ ((fabUnit id).unitOpen own).1.toOption = some () ∧
    ((fabUnit id).semsigAt 0x8000000) = none ∧ parsePkt (1 :: (pktOf 5 1 63 []).drop 1) = none ∧
    ((fabUnit fun f => { f with reqs := [fabReq] }).fab.reqs.find? fun q => q.id == 4 && q.sent) = some fabReq ∧
    ((fabUnit fun f => { f with reqs := [fabReq] }).answered ⟨5, 9, 1, 1, 7, 63, 7, 0, []⟩) = some fabReq := by
  decide +kernel
theorem test_fabricRd : sees (.fabricRd 47 (pktOf 5 1 63 (rdBody (own + 8) 4))) (fabUnit id) (fun u =>
    ((u.link 47).held.length, u.fab.drops)) = some (2, 0) := by decide +kernel
theorem test_fabricWr : sees (.fabricWr 47 (pktOf 5 2 63 (toLE 8 (own + 9) ++ [8]))) (fabUnit id) (fun u => u.mem.cells) =
    some [(own + 8, 9), (own + 9, 8)] := by decide +kernel
theorem test_fabricSemsig : sees (.fabricWr 47 (pktOf 5 2 63 (toLE 8 (regBase + 0x8000000 + 159 * 0x4000 + 0x9F8) ++ toLE 4 3)))
    (fabUnit id) (fun u => Tab.get 0 (u.core 159).sems 63) = some 3 := by decide +kernel
theorem test_fabricPut : sees (.fabricPut 47 (pktOf 5 3 63 (toLE 8 (own + 9) ++ [8]))) (fabUnit id) (fun u => u.mem.cells) =
    some [(own + 8, 9), (own + 9, 8)] := by decide +kernel
theorem test_fabricAtom : sees (.fabricAtom 47 (pktOf 5 4 63 (atBody (own + 8) 0 4))) (fabUnit id) (fun u => u.mem.cells) =
    some [(own + 8, 10)] := by decide +kernel
theorem test_fabricAtomn : sees (.fabricAtomn 47 (pktOf 5 5 63 (atBody (own + 8) 0 8))) (fabUnit id) (fun u => u.mem.cells) =
    some [(own + 8, 10)] := by decide +kernel
theorem test_fabricAck : sees (.fabricAck 47 (pktOf 5 7 63 [])) (fabUnit fun f => { f with reqs := [fabReq] }) (fun u =>
    (u.fab.reqs, u.fab.late)) = some ([], 0) ∧ sees (.fabricRdrsp 47 (pktOf 5 6 63 [])) (fabUnit id) (fun u => u.fab.late) =
    some 1 := by decide +kernel
theorem test_fabricForward : sees (.fabricForward 47 (pktOf 11 1 63 (rdBody own 4))) (fabUnit id) (fun u =>
    (u.link 47).held.length) = some 2 ∧ sees (.fabricForward 47 (pktOf 12 3 63 (rdBody own 4))) (fabUnit id) (fun u =>
    u.fab.drops) = some 1 ∧ sees (.fabricForward 47 (pktOf 11 7 0 [])) (fabUnit id) (fun u => u.fab.drops) = some 1 ∧
    sees (.fabricForward 47 (pktOf 11 7 1 [])) (fabUnit fun f => { f with route := [(11, { hop47 with hold := true })] })
      (fun u => (u.link 47).inq.length) = some 1 := by decide +kernel
theorem test_fabricE2e : sees (.fabricRd 47 (1 :: (pktOf 5 1 63 []).drop 1)) (fabUnit id) (fun u => u.fab.e2e) = some 1 := by
  decide +kernel
theorem test_fabricTimeout : sees (.fabricTimeout 4) (fabUnit fun f => { f with reqs := [fabReq] }) (fun u =>
    (u.fab.reqs, u.fab.timeouts)) = some ([], 1) := by decide +kernel

/-! ## Timebase -/

/-- A follower of link 47 in an exchange. -/
def tbUnit (f : Tb → Tb) : State := { linkUnit actLink with tb := f { Tb.init with
  go := true, source := 2, hasParent := true, parent := 47, time := 5000, t1 := some 100, t2 := 200, t3 := 300 } }
def rackUnit (f : Tb → Tb) : State := { unit with tb := f { Tb.init with
  go := true, source := 1, rackclk := true, arm := true, stepval := 9000, time := 5000 } }
theorem met_timebase : ((tbUnit id).link 47).state = .active ∧ (tbUnit id).tb.follows = true ∧ (tbUnit id).tb.ann = [] ∧
    (tbUnit id).tb.parent.toNat = 47 ∧ signedNat 64 ((200 : BitVec 64) - 100).toNat - signedNat 64 ((380 : BitVec 64) - 300).toNat =
      2 * 10 ∧ (rackUnit id).tb.rack = true ∧ (0x10 : BitVec 32).getLsbD 4 = true ∧ unit.tb.go = false := by decide +kernel
theorem test_announce : sees (.ttAnnounce 47 62 true 3) (tbUnit fun t => { t with hasParent := false, parent := 0 }) (fun u =>
    (u.tb.parent, u.tb.hops, u.tb.gmNode)) = some (47, 63, 3) := by decide +kernel
theorem test_sync : sees (.ttSync 47 7 8) (tbUnit id) (fun u => (u.tb.t1, u.tb.t2, u.tb.t3)) = some (some 7, 8, 5000) := by
  decide +kernel
/-- Offset (100 − 80) / 2 = 10 is neither good nor bad; (100 − 58) / 2 = 21 is bad; 2,000 before the first lock steps. -/
theorem test_dresp : ([380, 358, 16777216 - 16780716].map fun t4 => sees (.ttDresp 47 (BitVec.ofInt 64 t4) 0)
      (tbUnit fun t => { t with good := 15, bad := 3, locked := true }) fun u =>
        (u.tb.offset, u.tb.locked, u.tb.slew, u.tb.time)) =
    [some (10, true, -10, 5000), some (21, false, -21, 5000), some (1950, false, 0, 3050)] := by decide +kernel
theorem test_dresp_lock : sees (.ttDresp 47 392 0) (tbUnit fun t => { t with good := 15 }) (fun u => (u.tb.good, u.tb.locked)) =
    some (16, true) := by decide +kernel
theorem test_stepEdge : sees .stepEdge (rackUnit id) (fun u => (u.tb.time, u.tb.arm, u.tb.locked)) = some (9000, false, true) ∧
    sees .stepEdge (rackUnit fun t => { t with everLocked := true, stepval := 4000 }) (fun u => (u.tb.time, u.tb.slew)) =
    some (5000, -1000) := by decide +kernel
theorem test_rackclk : sees .rackclkLoss (rackUnit id) (fun u => (u.tb.holdover, u.err.pend)) = some (true, 0x400) ∧
    sees .rackclkPresent (rackUnit fun t => { t with rackclk := false, holdover := true }) (fun u =>
      (u.tb.rackclk, u.tb.holdover)) = some (true, false) := by decide +kernel
theorem test_parentLoss : sees .timebaseParentLoss (tbUnit id) (fun u => (u.tb.holdover, u.tb.hasParent)) =
    some (true, false) := by decide +kernel
theorem test_tbCtl : ([0x13, 0x16, 0x11, 0x10].map fun w => sees (.tbCtlGoSet w) unit fun u =>
      (u.tb.go, u.tb.reason, u.tb.locked)) =
    [some (false, 0x58, false), some (false, 0x59, false), some (false, 0x5A, false), some (true, 0, true)] := by
  decide +kernel
theorem test_announceSend : sees .ttAnnounceSend (tbUnit fun t => { t with gm := true, source := 0 }) (fun u =>
    (u.link 47).mseq) = some 2 := by decide +kernel

/-! ## Collectives -/

/-- Bucket 4095, attempt 255, on tree entry 63 whose parent is link 47; the same at the root. -/
def bktPar : CPar := { CPar.default with n := 1, count := 64 }
def bkt (f : Bucket → Bucket) : Bucket := f { Bucket.new 4095 255 2 1 (some bktPar) with tree := some 63, flight := [0] }
def colUnit (b : List Bucket) (f : Col → Col) : State := { linkUnit actLink with
  col := f { Col.init with go := true, buckets := b, trees := [(63, 1 + 0x10 + 47 * 256)], groups := [(2, { Group.init with w := 3 })] } }
/-- A packet of a KIND for attempt `at`, with one block or element. -/
def colPkt (kind attempt n : Nat) (body : Bytes) : Bytes := colHeader kind 4095 attempt 0 0 n 1 false false 0 0 ++ body
def openBody : Bytes := [0, 0, 0, 2] ++ toLE 4 1 ++ toLE 4 64 ++ toLE 4 64 ++ toLE 4 1 ++ [2] ++ List.replicate 27 0
theorem met_colPackets : ((colUnit [bkt id] id).link 47).state = .active ∧ (colPkt 0 255 1 (openBody ++ [5, 0])).length = 66 ∧
    hdrOk (colPkt 7 255 0 []) = true ∧ hdrOk ((colPkt 7 255 0 []).take 15 ++ [0x20]) = false ∧
    hFld (colPkt 0 255 1 openBody) 0 4 = 0 ∧ (openOf 47 (colPkt 0 255 1 openBody)).par.red = true ∧
    ((colUnit [bkt id] id).takeBody 47 2 (colPkt 7 255 0 [])).isSome = true ∧ (colUnit [] id).col.aborted = [] ∧
    (Tab.get Gone.init (colUnit [] id).col.gone 4095).valid = false ∧
    (colUnit [] id).bucket? 4095 = none ∧ (∀ e < 64, trEn ((unit.tree e)) = false) ∧
    (colUnit [bkt id] id).bucket? 4095 = some (bkt id) ∧ (bkt id).attempt.toNat = 255 ∧ ((bkt id).chunk 0).ts = none ∧
    trParent ((bkt id).entry (colUnit [] id)) = some 47 ∧ (bkt fun b => { b with admitted := false }).refuses (colUnit [] id) = true ∧
    (bkt id).downLinks (colUnit [] id) = [] ∧ (bkt id).locals = [] ∧ (bkt id).p.direct = false := by decide +kernel
theorem test_open : sees (.open 47 (colPkt 0 255 1 (openBody ++ [5, 0]))) { colUnit [] id with col := { Col.init with go := true } }
    (fun u => (u.col.buckets.map Bucket.grp, u.col.buckets.map fun b => (b.chunk 0).mx)) = some ([2], [[(47, [5])]]) := by
  decide +kernel
theorem test_exp : sees (.exp 47 (colPkt 1 255 1 [0xFB, 0xFF])) (colUnit [bkt id] id) (fun u => u.col.buckets.map fun b =>
    (b.chunk 0).mx) = some [[(47, [-5])]] := by decide +kernel
theorem test_win : sees (.win 47 (colPkt 3 255 1 (toLE 16 (2 ^ 128 - 3)))) (colUnit [bkt id] id) (fun u =>
    u.col.buckets.map fun b => Tab.get 0 (Tab.get WAcc.init (b.chunk 0).accs 0).win 0) = some [-3] := by decide +kernel
theorem test_spec : sees (.spec 47 (colPkt 4 255 1 (toLE 4 0x103F))) (colUnit [bkt id] id) (fun u => u.col.buckets.map fun b =>
    Tab.get 0 (Tab.get WAcc.init (b.chunk 0).accs 0).flags 63) = some [1] := by decide +kernel
theorem test_discard : sees (.data 47 (colPkt 6 254 0 [])) (colUnit [bkt id] id) (fun u => u.col.discards) = some 1 ∧
    sees (.cnt 47 (colPkt 7 255 0 [])) (colUnit [] id) (fun u => u.col.discards) = some 1 ∧
    sees (.tv 47 ((colPkt 2 255 0 []).take 15 ++ [0x20])) (colUnit [bkt id] id) (fun u => u.fab.e2e) = some 1 := by
  decide +kernel
theorem test_data : sees (.data 47 (colPkt 6 255 1 [3, 4])) (colUnit [bkt fun b => { b with par := some { bktPar with op := 2, ifmt := 1 } }]
    id) (fun u => u.col.buckets.map fun b => b.early.map Prod.fst) = some [[47]] := by decide +kernel

/-- A descriptor that passes its checks, in the scratchpad of core 0, of the operation in its queue. -/
def descOk (grp0 : Nat) : Bytes := [0, 0, 0, 63] ++ toLE 2 4095 ++ toLE 1 255 ++ [1] ++ toLE 4 1 ++ toLE 4 0 ++ toLE 4 64 ++
  toLE 4 64 ++ toLE 8 (own + 0x1000) ++ toLE 8 (own + 0x2000) ++ toLE 8 (own + 0x4000) ++ toLE 4 1120 ++ toLE 4 grp0 ++ toLE 8 0
def csOp : AsyncOp := { sfuOp with word := wd 0x90 [(38, 2)], ra := 0x100, rb := 1 }
def descUnit (go : Bool) : State :=
  let s := { colUnit [] fun c => { c with go := go, trees := [(63, 0x15)] } with
    bundles := [(0, { Bundle.init with go := true, trained := true })], ops := [csOp], cores := [(0, { Core.init with colQ := [7] })] }
  (s.writeMem (own + 0x100) (descOk 0) 2).2
theorem met_descriptor : iGrp csOp.word = 2 ∧ ((descUnit true).readMem (spadAddr 0 csOp.ra.toNat) 64 2).1.toOption = some (descOk 0) ∧
    (descUnit true).descCheck ((descUnit true).dieOf 0) 2 1 (descOk 0) = none ∧
    (descUnit false).descCheck 0 2 1 (descOk 0) = some 0x60 ∧ (descUnit true).awake 0 = true ∧
    (descUnit true).pilUp 0 = true := by decide +kernel
/-- The same where attempt 255 of the bucket was aborted here. -/
def lateUnit : State := { descUnit true with col := { (descUnit true).col with aborted := [(4095, ⟨true, 255, 2, 1, true⟩)] } }
theorem met_late : (descTag (descOk 0), descAttempt (descOk 0), iGrp csOp.word, (1 : BitVec 32)) ∈
      lateUnit.col.aborted.map (fun a => (a.1, a.2.attempt, a.2.grp.toNat, a.2.step)) ∧ (descUnit true).col.aborted = [] := by
  decide +kernel
theorem test_late : sees (.collectiveDescriptorAccept 0) lateUnit (fun u => (u.col.buckets.length, u.ops.length)) =
    some (0, 0) := by decide +kernel
theorem test_descReject : sees (.collectiveDescriptorAccept 0) (descUnit false) (fun u => (u.col.reject, u.ops,
    (u.core 0).colQ)) = some (0x60, [], []) := by decide +kernel
theorem test_descAccept : sees (.collectiveDescriptorAccept 0) (descUnit true) (fun u => u.col.buckets.map fun b =>
    (b.tag, b.locals.map Contrib.op)) = some [(4095, [7])] := by decide +kernel

/-- CollectiveControl: a complete bucket; a group whose fence round waits for link 47 at the root. -/
def doneBkt : Bucket := bkt fun b => { b with started := true, flight := [], delivered := 1 }
def rootUnit (root : Bool) (count : Nat) : State := colUnit [] fun c => { c with
  trees := [(63, 1 + 0x10 + (if root then 4 + 2 ^ 63 else 47 * 256))]
  groups := [(15, { Group.init with w := BitVec.ofNat 32 (3 + 0x20 + 63 * 64 + 2 * 65536), rounds := [⟨1, count, [], false⟩] })] }
theorem met_colControl : doneBkt.complete = true ∧ (colUnit [doneBkt] id).bucket? 4095 = some doneBkt ∧
    ((rootUnit true 2).group 15).en = true ∧ ((rootUnit true 2).group 15).mfence = true ∧
    stepGe ((rootUnit true 2).group 15).step 1 = false ∧ trChildren ((rootUnit true 2).tree 63) = [47] ∧
    trParent ((rootUnit true 2).tree 63) = none ∧ trParent ((rootUnit false 2).tree 63) = some 47 ∧
    ((rootUnit true 2).group 15).fcount ≤ (((rootUnit true 2).group 15).round 1).count ∧
    trDirect ((rootUnit true 2).tree 63) = false ∧ unit.col.go = false ∧ trEn (unit.tree 63) = false ∧
    trEn ((colUnit [] id).tree 63) = true ∧ (unit.group 15).en = false := by decide +kernel
theorem test_fenceArrive : sees (.fenceArrive 47 15 1) (rootUnit true 2) (fun u => (u.group 15).step) = some 1 ∧
    sees (.fenceArrive 47 15 1) (rootUnit true 1) (fun u => ((u.group 15).round 1).heard) = some [47] := by decide +kernel
theorem test_fenceRelease : sees (.fenceRelease 47 15 1) (rootUnit false 0) (fun u => (u.group 15).step) = some 1 := by
  decide +kernel
theorem test_bucketComplete : sees (.bucketComplete 4095) (colUnit [doneBkt] id) (fun u => (u.col.buckets,
    (Tab.get Gone.init u.col.gone 4095).attempt)) = some ([], 255) := by decide +kernel
theorem test_stepTimeout : sees (.stepTimeout 4095) (colUnit [bkt id] id) (fun u => (u.col.buckets, u.col.timeouts, u.err.pend)) =
    some ([], 1, 0x1000) := by decide +kernel
theorem test_stepAbort : sees (.stepAbort 47 4095 255 2 1) (colUnit [bkt id] id) (fun u => u.col.buckets) = some [] := by
  decide +kernel
theorem test_colCtl : sees (.colCtlGoSet 0x00090001) unit (fun u => (u.col.go, u.col.reason)) = some (false, 0x6E) ∧
    sees (.colCtlGoSet 0x000A0001) unit (fun u => u.col.go) = some true ∧
    sees (.colCtlGoClear 0) (colUnit [bkt id] id) (fun u => (u.col.go, u.col.buckets)) = some (false, []) := by decide +kernel
theorem test_tree : sees (.colTreeEnSet 63 0x15) unit (fun u => (trEn (u.tree 63), u.col.reason)) = some (true, 0) ∧
    sees (.colTreeEnSet 63 0x05) unit (fun u => (trEn (u.tree 63), u.col.reason)) = some (false, 0x6D) ∧
    sees (.colTreeEnClear 63 0) (colUnit [] id) (fun u => trEn (u.tree 63)) = some false := by decide +kernel
theorem test_group : sees (.colGroupEnSet 15 0x00010003) unit (fun u => ((u.group 15).en, u.col.reason)) = some (true, 0) ∧
    sees (.colGroupEnSet 15 0x00000003) unit (fun u => ((u.group 15).en, u.col.reason)) = some (false, 0x6F) ∧
    sees (.colGroupEnClear 15 0) (rootUnit true 0) (fun u => (u.group 15).en) = some false := by decide +kernel

/-! ## Host interface -/

/-- The function in operation, queue 63 as given. -/
def hostUnit (x : Queue) : State := { unit with
  dev := { Dev.init with go := true, ready := true, everReady := true, winBase := 0x500 }
  pcie := { Pcie.init with ready := true, command := 0x0006, queues := [(63, x)] } }
def runQ : Queue := { Queue.init with go := true, sqLog2 := 4, cqLog2 := 4, sqBase := 0x10000, cqBase := 0x20000 }
def maskedEnt : BitVec 128 := 0xFEE00000 + 2 ^ 64 * 5 + 2 ^ 96
theorem met_host : (hostUnit runQ).decodes = true ∧ (hostUnit runQ).pcie.ready = true ∧ unit.pcie.ready = false ∧
    (hostUnit runQ).bar2At 8 = own + 8 ∧ ((hostUnit runQ).placeOf (own + 8) 4).toOption = some (.spad 0 8) ∧
    (hostUnit runQ).dev.everReady = true ∧ unit.dev.go = false ∧ (hostUnit runQ).pcie.command.getLsbD 2 = true ∧
    (hostUnit runQ).pcie.d3 = false ∧ (hostUnit runQ).pcie.lastQ = 63 ∧
    (hostUnit { runQ with tail := 1 }).turn = some 63 ∧ (hostUnit runQ).queue 63 = runQ ∧
    0 < { runQ with ien := true, coalTime := 1, unacked := 1 : Queue }.unacked := by decide +kernel
theorem test_cfgRetry : sees (.configurationRequest 0 none) unit (fun u => u.pcie.cfgRetry) = some true ∧
    sees (.configurationRequest 0 none) (hostUnit runQ) (fun u => u.pcie.cfgData) = some 0x00481F3A := by decide +kernel
theorem test_command : sees (.configurationRequest 4 (some 0xFFFFFFFF)) (hostUnit runQ) (fun u => u.pcie.command) =
    some 0x0546 := by decide +kernel
theorem test_d3hot : sees .d3hotEntry (hostUnit runQ) (fun u => (u.decodes, u.dev.go, (u.queue 63).go)) =
    some (false, false, false) := by decide +kernel
theorem test_flr : sees .functionLevelReset (hostUnit runQ) (fun u => (u.pcie.command, u.dev.go, u.dev.ready)) =
    some (0, false, true) := by decide +kernel
theorem test_bar2Size : sees (.bar2SizeWrite 6) { unit with pcie := { Pcie.init with ready := true, bar2 := 0x7FC0000000 } }
    (fun u => (u.pcie.bar2Size, u.pcie.bar2)) = some (6, 0x7000000000) ∧
    sees (.bar2SizeWrite 6) (hostUnit runQ) (fun u => u.pcie.bar2Size) = some Pcie.init.bar2Size := by decide +kernel
theorem test_bar2 : sees (.bar2Access 8 2 (some [3, 4])) (hostUnit runQ) (fun u => u.mem.cells) =
    some [(own + 8, 3), (own + 9, 4)] ∧ sees (.bar2Access 0x3000000 2 none) (hostUnit runQ) (fun u => (u.pcie.readData, u.err.pend,
      u.dev.errKind)) = some ([0xFF, 0xFF], 0x800, 2) := by decide +kernel
theorem test_devCtl : ([(false, 6, 0x801), (true, 2, 0x801), (true, 6, 0x001), (true, 6, 0x801)].map fun e =>
      sees (.devCtlGoSet e.2.2) { unit with dev := { Dev.init with ready := e.1 }, pcie := { Pcie.init with ready := true, command := e.2.1 } }
        fun u => (u.dev.go, u.dev.reason)) =
    [some (false, 0x70), some (false, 0x71), some (false, 0x72), some (true, 0)] := by decide +kernel
theorem test_msix : sees (.devIrqsetWrite 1023) { hostUnit runQ with pcie := { (hostUnit runQ).pcie with
      msix := [(1023, maskedEnt)] } } (fun u => (u.pcie.pba.getLsbD 1023, u.out)) = some (true, []) ∧
    sees (.msixUnmask 1023) { hostUnit runQ with pcie := { (hostUnit runQ).pcie with msix := [(1023, maskedEnt)], pba := 1#1024 <<< 1023 } }
      (fun u => (u.pcie.pba, u.out)) = some (0, [.msix 0xFEE00000 5]) := by decide +kernel
theorem test_sqCfg : ([(false, runQ, 0x4401), (true, runQ, 0x3401), (true, { runQ with cqBase := 0x20 }, 0x4401),
      (true, runQ, 0x4401)].map fun e => sees (.sqCfgGoSet 63 e.2.2) { hostUnit { e.2.1 with go := false, head := 3 } with
        dev := { Dev.init with go := e.1 } } fun u => ((u.queue 63).go, (u.queue 63).reason, (u.queue 63).head)) =
    [some (false, 0x73, 3), some (false, 0x74, 3), some (false, 0x75, 3), some (true, 0, 0)] := by decide +kernel
theorem test_doorbells : sees (.sqTailDoorbell 63 15) (hostUnit runQ) (fun u => (u.queue 63).tail) = some 15 ∧
    sees (.sqTailDoorbell 63 16) (hostUnit runQ) (fun u => (u.queue 63).reason) = some 0x76 ∧
    sees (.cqHeadDoorbell 63 16) (hostUnit runQ) (fun u => (u.queue 63).error) = some true := by decide +kernel
theorem test_stoppedDoorbell : sees (.cqHeadDoorbell 63 9) (hostUnit { runQ with go := false }) (fun u =>
    ((u.queue 63).cqHead, (u.queue 63).go)) = some (9, false) := by decide +kernel
theorem test_sqFetch : sees (.sqEntryFetch 63) (hostUnit { runQ with head := 15, tail := 0 }) (fun u => ((u.queue 63).head,
    (u.queue 63).fetched.length)) = some (0, 1) := by decide +kernel
theorem test_coalesce : sees (.cqCoalesceTimeout 63) (hostUnit { runQ with ien := true, coalTime := 1, unacked := 1 }) (fun u =>
    ((u.queue 63).unacked, u.pcie.pba)) = some (0, 1) := by decide +kernel

/-! ## Queue commands -/

/-- A command of bytes (offset, value). -/
def cmdOf (fs : List (Nat × Nat)) : Cmd := ⟨7, toLE 64 (fs.foldl (fun a f => a + f.2 * 2 ^ (8 * f.1)) 0), 0, 0, 0, false, [],
  [], none, []⟩
def cmdUnit (c : Cmd) : State := hostUnit { runQ with fetched := [c] }
/-- LAUNCH of thread 31 of core 158 at byte 64, SIGNAL 3 to semaphore 63 of core 159, LOAD of 0x58 bytes, COPYs of 8. -/
def launchCmd : Cmd := cmdOf [(0, 1), (8, 158), (10, 1), (12, 2 ^ 31), (16, 64), (24, 5)]
def signalCmd : Cmd := cmdOf [(0, 5), (8, 159), (10, 63), (11, 3)]
def loadCmd (len size : Nat) : Cmd := cmdOf [(0, 2), (8, 0x1000), (16, len), (20, 0), (22, 1), (24, 0x100), (28, size)]
def copyCmd (opc a n : Nat) : Cmd := cmdOf [(0, opc), (8, 0x1000), (16, a), (24, n)]
def imgHead : Bytes := [0x4C, 0x52, 0x50, 0x32, 2, 0, 1, 0] ++ List.replicate 56 0
def imgSeg : Bytes := toLE 4 0 ++ toLE 4 8 ++ toLE 8 0x50
def loadUnit (c : Cmd) : State := (cmdUnit c).setHostBytes 0x1000 (imgHead ++ imgSeg ++ [1, 2, 3, 4, 5, 6, 7, 8])
theorem met_commands : (launchCmd.reserved = false ∧ launchCmd.fld 16 4 % 8 = 0 ∧ launchCmd.fld 16 4 < spadSize ∧
      (cmdUnit launchCmd).coreRange 158 1 = none ∧ launchCmd.targets = [(158, 31)] ∧
      (cmdUnit launchCmd).ctxTaken 158 31 = false ∧ (cmdUnit launchCmd).awake 158 = true ∧
      ((cmdUnit launchCmd).core 158).retest = false ∧ ((cmdUnit launchCmd).core 158).waiters = []) ∧
    (signalCmd.reserved = false ∧ ((cmdUnit signalCmd).core 159).diked = false) ∧
    ((loadCmd 0x58 8).reserved = false ∧ imageOk ((loadUnit (loadCmd 0x58 8)).hostBytes 0x1000 0x40) 0x58 = true ∧
      imageOk imgHead 0x40 = false ∧ imageOk (imgHead.set 4 1) 0x58 = true ∧ leField (imgHead.set 4 1) 4 1 = 1 ∧ segsOk (imageSegs 1 imgSeg) 0x58 8 = true ∧ segsOk (imageSegs 1 imgSeg) 0x58 7 = false ∧
      (cmdUnit (loadCmd 0x58 8)).coreBusy 1 = false) ∧
    ((copyCmd 3 own 8).reserved = false ∧ (cmdUnit signalCmd).copyRange own 8 = none ∧
      (cmdUnit signalCmd).copyRange (own + spadSize) 8 = some 0x79) ∧
    (cmdOf [(0, 6)]).reserved = false ∧ (cmdOf [(0, 0), (9, 1)]).reserved = true := by decide +kernel
/-- The only command started by `i` from `cmdUnit c`: what it ends with, and what `f` reads of the state. -/
def starts {α : Type} (i : Instr) (s : State) (f : State → α) : Option (List (Bool × BitVec 8) × α) :=
  sees i s fun u => ((u.queue 63).started.map fun c => (c.ready, c.status), f u)
theorem test_nop : starts (.commandNop 63) (cmdUnit (cmdOf [])) (fun u => (u.queue 63).fetched.length) = some ([(true, 0)], 0) ∧
    starts (.commandNop 63) (cmdUnit (cmdOf [(0, 7)])) (fun _ => 0) = some ([(true, 0x77)], 0) ∧
    starts (.commandNop 63) (cmdUnit (cmdOf [(9, 1)])) (fun _ => 0) = some ([(true, 0x78)], 0) := by decide +kernel
theorem test_fence : starts (.commandFence 63) (cmdUnit (cmdOf [(0, 6)])) (fun u => (u.queue 63).fetched.length) =
    some ([(false, 0)], 0) := by decide +kernel
theorem test_signal : starts (.signal 63) (cmdUnit signalCmd) (fun u => Tab.get 0 (u.core 159).sems 63) =
    some ([(true, 0)], 3) := by decide +kernel
theorem test_launch : starts (.launch 63) (cmdUnit launchCmd) (fun u => ((u.thread 158 31).pc, (u.thread 158 31).regs.getS 1)) =
    some ([(true, 0)], (64, 5)) := by decide +kernel
theorem test_load : starts (.load 63) (loadUnit (loadCmd 0x40 8)) (fun u => u.pumps.length) = some ([(true, 0x7B)], 0) ∧
    starts (.load 63) (loadUnit (loadCmd 0x58 7)) (fun u => u.pumps.length) = some ([(true, 0x7C)], 0) ∧
    starts (.load 63) (loadUnit (loadCmd 0x58 8)) (fun u => u.pumps.length + u.pcie.pumpWait.length) =
      some ([(true, 0x01)], 0) := by decide +kernel
theorem test_copy : starts (.copyIn 63) (cmdUnit (copyCmd 3 (own + spadSize) 8)) (fun u => u.pumps.length) =
    some ([(true, 0x79)], 0) ∧ starts (.copyOut 63) (cmdUnit (copyCmd 4 own 8)) (fun u => u.pumps.length) =
    some ([(false, 0)], 1) := by decide +kernel
def endedUnit : State := hostUnit { runQ with started := [{ cmdOf [(0, 0), (2, 0x1234)] with ready := true, status := 0x78 }] }
theorem met_complete : ((endedUnit.queue 63).started.find? fun y => y.n == 7).isSome = true ∧ (endedUnit.queue 63).finished = [] ∧
    (endedUnit.queue 63).unread < (endedUnit.queue 63).cqSize - 1 := by decide +kernel
theorem test_complete : sees (.commandComplete 63 7) endedUnit (fun u => (u.hostBytes 0x20000 8, (u.queue 63).cqTail)) =
    some ([0x34, 0x12, 0, 0, 0x78, 0, 63, 1], 1) := by decide +kernel
def abortRun : PumpRun := ⟨true, 0, 15, none, some (63, 7), [], [], [], none, 0⟩
def abortUnit : State := { hostUnit { runQ with started := [copyCmd 3 own 8] } with pumps := [abortRun] }
theorem met_abort : abortUnit.pcie.pumpWait = [] ∧ (abortUnit.pumps.find? fun r => r.host && r.pump == 15 && r.hostWrites.isEmpty) =
    some abortRun := by decide +kernel

/-! ## Start-up and resets -/

/-- A module on which the steps of the mask are complete. -/
def bootUnit (done : BitVec 16) : State := { State.reset with boot := { Boot.init with
  done := done, main := true, pwrEn := true, pll := true } }
/-- A module whose image of KIND 1 in slot A carries a key that the ROM knows. -/
def imgUnit : State := { bootUnit 0x2 with fuses := { State.reset.fuses with
  fwKeys := List.replicate 4 (shake256 (Mmc.init.bytes (imageBase false 1 + 0x60) 1793) 32) } }
theorem imgUnit_key : imgUnit.fuses.fwKeys.getD (imgUnit.mmc.img false 1 5 1) [] =
    shake256 (imgUnit.mmc.bytes (imageBase false 1 + 0x60) 1793) 32 := by
  have e : imgUnit.mmc.img false 1 5 1 = 0 := by decide +kernel
  have k : ∀ x : Bytes, (List.replicate 4 x).getD 0 [] = x := fun _ => rfl
  have f : imgUnit.fuses.fwKeys = List.replicate 4 (shake256 (Mmc.init.bytes (imageBase false 1 + 0x60) 1793) 32) := rfl
  have m : imgUnit.mmc = Mmc.init := rfl
  rw [e, f, k, m]
/-- Its signature is right or wrong as `Config.falconVerify` says (assumption 12); with it right, the image is good. -/
theorem met_image (h : ∀ p m g, Config.falconVerify p m g = true) :
    imgUnit.stepDue 2 = true ∧ imgUnit.imageStatus imgUnit.mmc.cur.slotB 1 = 0 := by
  have g : imgUnit.imageGood false 1 = true := by
    simp only [State.imageGood, h, imgUnit_key, beq_self_eq_true, Bool.and_true]
    decide +kernel
  have c : imgUnit.mmc.cur.slotB = false := by decide +kernel
  refine ⟨by decide +kernel, ?_⟩
  rw [c, State.imageStatus, g]
  decide +kernel
theorem met_startUp : State.reset.boot.has 1 = false ∧ (bootUnit 0x2).stepDue 2 = true ∧ Mmc.init.cur.valid = true ∧
    (bootUnit 0x6).stepDue 3 = true ∧ (bootUnit 0xE).stepDue 4 = true ∧ (bootUnit 0x1E).stepDue 5 = true ∧
    ((bootUnit 0x1E).dlu.failed0 && (bootUnit 0x1E).dlu.failed1) = false ∧
    (∀ d < 4, ((bootUnit 0x1E).bundle d).replayLimit ≠ 0) ∧ (bootUnit 0x3E).stepDue 6 = true ∧
    (bootUnit 0x3E).steppingsKnown = true ∧ (bootUnit 0x7E).stepDue 7 = true ∧ (bootUnit 0xFE).stepDue 8 = true ∧
    (bootUnit 0xFE).stepDue 9 = true ∧ (bootUnit 0x3FE).stepDue 11 = true ∧ State.reset.nidp = 15 ∧
    { bootUnit 0xBFE with nidp := 3 }.stepDue 12 = true ∧ { bootUnit 0x1BFE with nidp := 3 }.stepDue 13 = true ∧
    (bootUnit 0xBFE).readyDue = true ∧ (bootUnit 0x2).siteJournal = [] ∧ (bootUnit 0x2).remapJournal = [] ∧
    (∀ c < 8, ((bootUnit 0xFE).core c).diked = false) ∧ (∀ d < 4, (3 : Nat) ≤ ((bootUnit 0xFE).die d).lpd.rate.toNat + 3) ∧
    { bootUnit 0x2 with mmc := { Mmc.init with flash := [] } }.imageStatus false 1 ≠ 0 := by decide +kernel
theorem test_standby : sees .standbyPowerOn State.reset (fun u => (u.boot.has 1, u.boot.main)) = some (true, false) := by
  decide +kernel
theorem test_verify_bad : sees .mmcFirmwareVerify { bootUnit 0x2 with mmc := { Mmc.init with flash := [] } } (fun u =>
    (u.boot.recovery, u.boot.has 2)) = some (true, false) := by decide +kernel
theorem test_power : sees .mainPowerSequencing (bootUnit 0x6) (fun u => u.boot.has 3) = some true ∧
    sees .powerSequenceTimeout (bootUnit 0x6) (fun u => (u.boot.stop, u.boot.main)) = some (0x81, false) := by decide +kernel
theorem test_hubLoad_bad : sees .hubFirmwareLoad { bootUnit 0xE with mmc := { Mmc.init with flash := [] } } (fun u =>
    (u.dev.stopped, u.dev.stopReason)) = some (true, 0x80) := by decide +kernel
theorem test_bundles : sees (.bundleTraining [] true) (bootUnit 0x1E) (fun u => ((u.bundle 3).trained, (u.bundle 3).go,
    u.boot.has 5)) = some (true, true, true) ∧ sees (.bundleTraining [] false) (bootUnit 0x1E) (fun u => u.dev.stopReason) =
    some 0x21 := by decide +kernel
theorem test_feature : sees .featureLevelWrite (bootUnit 0x3E) (fun u => (u.feature, u.boot.has 6)) = some (some 0xF, true) ∧
    sees .featureLevelWrite { bootUnit 0x3E with fuses := { State.reset.fuses with hubStep := 0xC0 } } (fun u => u.dev.stopReason) =
    some 0x22 := by decide +kernel
theorem test_release : sees .dieRelease (bootUnit 0x7E) (fun u => (u.die 3).inReset) = some false := by decide +kernel
theorem test_lpddr : sees (.lpddrTraining [some 0, some 0, some 0, some 0] [] []) (bootUnit 0xFE) (fun u =>
    ((u.die 3).lpd.trained, u.boot.has 8)) = some (true, true) ∧
    sees (.lpddrTraining [some 0, some 0, some 0, none] [] []) (bootUnit 0xFE) (fun u => u.dev.stopReason) = some 0x10 := by
  decide +kernel
theorem test_pcie : sees .pcieControllerReady (bootUnit 0xE) (fun u => u.pcie.ready) = some true := by decide +kernel
theorem test_lasers : sees (.portLaserStart []) (bootUnit 0x3FE) (fun u => ((u.port 7).lit, u.boot.has 11)) =
    some (true, true) := by decide +kernel
theorem test_ready : sees .readySet (bootUnit 0xBFE) (fun u => (u.dev.ready, u.boot.has 14)) = some (true, true) := by
  decide +kernel
theorem test_stepTimeouts : ([(0xE, 4), (0xFE, 8), (0x1FE, 9)].map fun e => sees (.startUpStepTimeout e.2)
      (bootUnit (BitVec.ofNat 16 e.1)) fun u => u.dev.stopReason) = [some 0x80, some 0x10, some 0x84] := by decide +kernel

def ledUnit : State := { unit with dies := [(3, { upDie with led := true, inReset := true })] }
theorem met_resets : (bootUnit 0xE).boot.main = true ∧ (hostUnit runQ).pcie.ready = true ∧ unit.lcores = 160 ∧
    unit.awake 159 = true ∧ unit.col.buckets = [] ∧ (unit.die 3).inReset = false ∧ unit.dev.stopped = false ∧ unit.pumps = [] ∧
    (ledUnit.die 3).led = true := by decide +kernel
theorem test_moduleReset : sees (.moduleReset .mmc) (bootUnit 0x7FFE) (fun u => (u.boot.done, u.boot.rstClass, u.threads)) =
    some (0xE, 3, []) := by decide +kernel
theorem test_feedLoss : sees .auxiliaryFeedLoss (bootUnit 0x7FFE) (fun u => (u.boot.done, u.boot.main)) = some (0, false) := by
  decide +kernel
theorem test_refclk : sees .refclkFailure (hostUnit runQ) (fun u => (u.pcie.ready, u.dev.go)) = some (false, true) := by
  decide +kernel
theorem test_coreRst : sees (.hubCorerstWrite 159) { unit with cores := [(159, { Core.init with sems := [(63, 5)] })] } (fun u =>
    ((u.thread 159 31).state, (u.core 159).sems)) = some (.free, []) ∧
    sees (.hubCorerstWrite 160) unit (fun u => (u.thread 159 31).state) = some .ready := by decide +kernel
theorem test_dieReset : sees (.hubDiectlDieReset 3) unit (fun u => ((u.die 3).inReset, (u.thread 159 31).state,
    (u.thread 0 0).state)) = some (true, .free, .ready) := by decide +kernel
theorem test_dieResetEnd : sees (.hubLedDieResetEnd 3 [] none []) ledUnit
    (fun u => ((u.die 3).inReset, (u.bundle 3).trained, (u.die 3).lpd.trained)) = some (false, true, false) ∧
    sees (.hubLedDieResetEnd 3 [] (some 0) []) ledUnit (fun u => ((u.die 3).lpd.trained, (u.die 3).lpd.rateNow)) =
    some (true, 0) := by decide +kernel

/-! ## Registers, debug, mailbox -/

theorem met_keys : (hostUnit runQ).decodes = true ∧ ([1, 2, 3].all fun n : Nat => !((n = 4 ∨ n = 8) ∧ 0x10 % n = 0)) = true ∧
    ¬ ((8 = 4 ∨ 8 = 8) ∧ 0x14 % 8 = 0) := by decide +kernel
theorem test_keys : ([(0xFF8, 0x5EA0), (0x180FF8, 0x5EA0), (0x200FF8, 0x5EA0), (0x1000FF8, 0x5EA0), (0x123FF8, 0x5EA0),
      (0x147FF8, 0x5EA0), (0x147FF8, 0x5EA1)].map fun e : Nat × Nat =>
      sees (.expertKeyWrite e.1 (BitVec.ofNat 16 e.2)) (hostUnit runQ) fun u => [u.dev.unlocked, u.tb.unlocked, u.col.unlocked,
        u.fab.unlocked, (u.bundle 3).unlocked, (u.port 7).unlocked].idxOf true) =
    [some 0, some 1, some 2, some 3, some 4, some 5, some 6] := by decide +kernel
theorem test_bar0 : sees (.bar0Write 0x180018 [1, 2, 3, 4, 5, 6, 7, 8]) (hostUnit runQ) (fun u => u.tb.stepval) =
    some 0x0807060504030201 ∧ sees (.bar0Write 0x180018 [1, 2, 3]) (hostUnit runQ) (fun u => (u.tb.stepval, u.dev.errKind,
      u.dev.errOffset)) = some (0, 1, 0x180018) := by decide +kernel
theorem test_winBase : sees (.registerWrite 0x10 8 0x14000000000) (hostUnit runQ) (fun u => u.dev.winBase) = some 0x500 := by
  decide +kernel
/-- `unit` with its BARs decoded. -/
def hearing : State := { unit with pcie := { Pcie.init with ready := true, command := 2 } }
theorem met_hearing : hearing.decodes = true ∧ unit.decodes = false := by decide +kernel
theorem test_deaf : sees (.pwrCapWrite 0x021807D0) unit (fun u => u.pwr.hostCap) = some 0 := by decide +kernel
def dbgUnit (x : TState) : State := { hearing with
  threads := [(159 * 32 + 31, { busy with state := x })]
  err := { Err.init with dbgCore := 159, dbgThread := 31, dbgFile := 0, dbgIndex := 2 } }
theorem met_debug : (dbgUnit .faulted).err.dbgCore.toNat < (dbgUnit .faulted).lcores ∧
    ((dbgUnit .faulted).thread 159 31).state ∈ [.done, .stopped, .faulted] ∧
    ((dbgUnit .ready).thread 159 31).state ∉ [.done, .stopped, .faulted] ∧ openUnit.dev.unlocked = true := by decide +kernel
theorem test_debug : sees .errDbgdataRead (dbgUnit .faulted) (fun u => (u.pcie.readData, u.err.dbgDenied)) =
    some ([9, 0, 0, 0, 0, 0, 0, 0], false) ∧ sees .errDbgdataRead (dbgUnit .ready) (fun u => (u.pcie.readData, u.err.dbgDenied)) =
    some ([0, 0, 0, 0, 0, 0, 0, 0], true) := by decide +kernel
theorem test_perturb : sees .perturbCtlGoSet openUnit (fun u => u.err.perturbGo) = some true ∧
    sees .perturbCtlGoSet unit (fun u => u.err.perturbGo) = some false ∧
    sees .perturbCtlGoClear { openUnit with err := { Err.init with perturbGo := true } } (fun u => u.err.perturbGo) =
      some false := by decide +kernel
theorem test_perturbEnt : sees (.perturbEntWrite 63 0x111) { openUnit with err := { Err.init with
      ents := [(63, { PerturbEnt.init with hits := 9 })] } } (fun u => (Tab.get PerturbEnt.init u.err.ents 63).hits) =
    some 0 := by decide +kernel
def mbxReq : BitVec 32 := 0x00200005
theorem met_mailbox : mbxReq.getLsbD 0 = true ∧ (mbxReq.extractLsb' 16 14).toNat = 32 ∧ unit.mmc.mbx.busy = false := by
  decide +kernel
theorem test_mailbox : sees (.mmcMbxSubmit mbxReq) hearing (fun u => (u.mmc.mbx.busy, u.mmc.held.length)) = some (true, 1) ∧
    sees (.mmcMbxSubmit 0x001F0001) hearing (fun u => (u.mmc.mbx.refused, u.mmc.held.length)) = some (true, 0) ∧
    sees .mmcMbxAck { hearing with mmc := { Mmc.init with mbx := { Mbx.init with resp := true } } } (fun u => u.mmc.mbx.resp) =
      some false := by decide +kernel
theorem test_pwrCap : sees (.pwrCapWrite 0x021807D0) hearing (fun u => (u.pwr.hostCap, u.pwr.fmin, u.pwr.dutymin)) =
    some (2000, 24, 2) := by decide +kernel

/-! ## Management -/

/-- A module whose controller runs; a request for command `cmd`, signed or not. -/
def mgmtUnit : State := { unit with boot := { Boot.init with done := 6 }, mmc := { Mmc.init with ownerKey := some [], ownerSeq := 5 } }
/-- The same with main power and the hub. -/
def pwrUp : State := { mgmtUnit with boot := { Boot.init with done := 0x7FFE, main := true, pll := true } }
def reqOf (cmd auth seq : Nat) (p : Bytes) : Bytes := toLE 2 0x4D47 ++ [1, 0] ++ toLE 2 cmd ++ toLE 2 p.length ++ toLE 8 seq ++
  [0, 0] ++ toLE 1 auth ++ List.replicate 13 0 ++ p ++ List.replicate (1280 * auth) 0
def capBytes (mw fmin duty : Nat) : Bytes := toLE 2 mw ++ toLE 1 fmin ++ toLE 1 duty ++ [0, 0, 0, 0]
theorem met_mgmt : mgmtUnit.boot.has 2 = true ∧ mgmtUnit.mmc.held = [] ∧ frameOk 0 (reqOf 1 0 0 []) = true ∧
    frAuth (reqOf 0x12 0 6 []) = 0 ∧ mgmtSigned 0x12 = true ∧ mgmtSigned 1 = false ∧ mgmtListed 7 = false ∧
    frameOk 0 ((reqOf 1 0 0 []).drop 1) = false ∧ (capBytes 1000 12 2).length = 8 ∧ leField (capBytes 3200 24 8) 0 2 = 3200 ∧
    frameOk 2 (toLE 2 0x4D47 ++ [1, 2] ++ List.replicate 28 0) = true ∧ mgmtUnit.mmc.smb.busy = false ∧
    { Mmc.init with session := some ⟨1, .mga, 3, true⟩ : Mmc }.sessionOf 1 none = some ⟨1, .mga, 3, true⟩ ∧
    Mmc.init.cur.seq.toNat + 1 < 2 ^ 32 ∧ mgmtUnit.hubUp = false := by decide +kernel
/-- A request frame with a signature is well formed; whether the signature is right `Config.falconVerify` says. -/
theorem met_signed (p : Bytes) (h : ∀ k m g, Config.falconVerify k m g = true) : mgmtUnit.mmc.verifies p = true := by
  rw [Mmc.verifies, show mgmtUnit.mmc.ownerKey = some [] from rfl]; exact h _ _ _
/-- A request that the SMBus or the mailbox brought, the oldest held. -/
theorem met_heldRequest : ([Transport.smbus, .mailbox].all fun tr => { mgmtUnit with mmc := { mgmtUnit.mmc with
    held := [(tr, reqOf 1 0 0 [])] } }.mmc.held == [(tr, reqOf 1 0 0 [])]) = true := by decide +kernel
/-- The arguments that a payload holds `Config.mgmtArgs` says (assumption 57); with these, each command's conditions are
met, at the ends of their ranges. -/
theorem met_mgmtArgs (p : Bytes) (h : Config.mgmtArgs 4 p = some [regSize - 8 * 128, 128])
    (g : Config.mgmtArgs 0x20 p = some [3]) : (pwrUp.hubUp = true ∧ (Config.mgmtArgs 4 p).isSome = true ∧
      (regSize - 8 * 128) % 8 = 0 ∧ regSize - 8 * 128 + 8 * 128 ≤ regSize) ∧
    (mgmtUnit.mmc.session = none ∧ (Config.mgmtArgs 0x20 p).isSome = true) ∧ mgmtUnit.mmc.attests < 10 := by
  rw [h, g]; decide +kernel
theorem test_unsignedRefused : sees (.ownerClear .mga (reqOf 0x31 0 6 [])) mgmtUnit (fun u => (u.mmc.ownerKey, u.out.length)) =
    some (some [], 1) := by decide +kernel
theorem test_badFrame : sees (.badFrame .mga [1, 2, 3]) mgmtUnit (fun u => u.out.length) = some 1 := by decide +kernel
theorem test_info : sees (.info .mgb (reqOf 1 0 9 [])) mgmtUnit (fun u => (u.out.length, u.mmc.ownerSeq)) = some (1, 5) := by
  decide +kernel
theorem test_powercap : ([capBytes 1000 12 2, capBytes 0 24 8, capBytes 999 12 2, capBytes 1000 11 2].map fun p =>
      ((mgmtUnit.mgmtDo .mga 0x12 p).status, (mgmtUnit.mgmtDo .mga 0x12 p).s.pwr.ownerCap)) =
    [(0, 1000), (0, 0), (7, 0), (7, 0)] := by decide +kernel
theorem test_ownerClear : (mgmtUnit.mgmtDo .mga 0x31 []).s.mmc.ownerKey = none := by decide +kernel
theorem test_smbus : sees (.smbusFragmentWrite [1, 2] true) mgmtUnit (fun u => u.mmc.smb.req) = some [1, 2] ∧
    sees (.smbusFragmentWrite [1, 2] false) mgmtUnit (fun u => (u.mmc.smb.req, u.mmc.smb.pecErr)) = some ([], true) ∧
    sees .smbusSubmit mgmtUnit (fun u => (u.mmc.smb.busy, u.mmc.held.length)) = some (true, 1) := by decide +kernel

/-! ## Power and temperature -/

/-- Main power on; level and counts as given; a site in throttle at 103 °C. -/
def pwrUnit (f : Pwr → Pwr) : State := { unit with
  boot := { Boot.init with done := 0x7FFE, main := true, pll := true, pwrEn := true },
  pwr := f { Pwr.init with ownerCap := 2000 } }
def hotUnit : State := pwrUnit fun p => { p with chans := [(0x37, { Chan.init with value := 95 * 16 })], sites := [(38, ⟨true, true, 12⟩)] }
theorem met_power : (pwrUnit id).boot.main = true ∧ (pwrUnit id).pwr.cap = 2000 ∧ isChan 0x37 = true ∧ isChan 0x1B = true ∧
    siteOfChan 0x37 = some 38 ∧ (limitsOf 38).throttle = some (95 * 16) ∧ (hotUnit.site 38).throt = true ∧
    95 * 16 ≤ hotUnit.temp 38 ∧ (pwrUnit id).boot.has 1 = true ∧ State.reset.boot.pwrEn = false ∧ State.reset.boot.main = false ∧
    0 < ((pwrUnit fun p => { p with chans := [(0x1A, { Chan.init with value := 320 }), (0x1B, { Chan.init with value := 336 })] }).chan 0x1B).value
      - ((pwrUnit fun p => { p with chans := [(0x1A, { Chan.init with value := 320 })] }).chan 0x1A).value := by decide +kernel
theorem test_capping : sees (.cappingEvaluation 2001) (pwrUnit id) (fun u => (u.pwr.level, u.pwr.capEff)) = some (1, 2000) ∧
    sees (.cappingEvaluation 1939) (pwrUnit fun p => { p with level := 3, below := 49 }) (fun u => u.pwr.level) = some 2 ∧
    sees (.cappingEvaluation 1940) (pwrUnit fun p => { p with level := 3, below := 49 }) (fun u => u.pwr.level) = some 3 := by
  decide +kernel
theorem test_peak : sees (.peakLimit 3801 false) (pwrUnit id) (fun u => (u.pwr.peak, u.pwr.peakCnt)) = some (true, 1) ∧
    sees (.peakLimit 3800 false) (pwrUnit id) (fun u => u.pwr.peak) = some false ∧
    sees (.peakLimit 3499 true) (pwrUnit fun p => { p with peak := true }) (fun u => u.pwr.peak) = some false := by decide +kernel
theorem test_cclk : sees (.cclkStep 3) hotUnit (fun u => (u.die 3).freq) = some (upDie.freq - 1) ∧
    sees (.cclkStep 2) hotUnit (fun u => (u.die 2).freq) = some (if upDie.freq < 24 then upDie.freq + 1 else upDie.freq) := by
  decide +kernel
theorem test_supply : sees .inputOutOfRange (pwrUnit id) (fun u => (u.boot.main, u.boot.stop)) = some (false, 0x82) ∧
    sees (.railOutOfRange 10) (pwrUnit id) (fun u => (u.boot.stop, u.boot.stopCh)) = some (0x81, 10) := by decide +kernel
theorem test_pwrEn : sees .pwrEnLow (pwrUnit id) (fun u => (u.boot.main, u.boot.pwrEn)) = some (false, false) ∧
    sees .pwrEnHigh State.reset (fun u => u.boot.pwrEn) = some true := by decide +kernel
theorem test_sample : sees (.thermalSample 0x1B (some (-321))) (pwrUnit id) (fun u => (u.chan 0x1B).fault) = some true ∧
    sees (.thermalSample 0x1B (some (-320))) (pwrUnit id) (fun u => (u.chan 0x1B).fault) = some false ∧
    sees (.thermalSample 0x37 none) (pwrUnit fun p => { p with chans := [(0x37, { Chan.init with miss := 2 })] }) (fun u =>
      (u.chan 0x37).fault) = some true := by decide +kernel
theorem test_throttleSteps : sees (.throttleStepDown 0x37) (pwrUnit fun p => { p with
      chans := [(0x37, { Chan.init with value := 95 * 16 })], sites := [(38, ⟨true, true, 13⟩)] }) (fun u => (u.site 38).freq) = some 12 ∧
    sees (.throttleStepUp 0x37) (pwrUnit fun p => { p with sites := [(38, ⟨false, false, 23⟩)] }) (fun u => (u.site 38).freq) =
      some 24 := by decide +kernel
theorem test_flow : sees (.flowEstimate 1100) (pwrUnit fun p => { p with low := 9, chans := [(0x1A, { Chan.init with value := 320 }),
    (0x1B, { Chan.init with value := 640 })] }) (fun u => (u.pwr.low, u.pwr.lowflow)) = some (10, true) := by decide +kernel

/-! ## The queue, invariants, refusals -/

theorem reset_inv : Memory.wf State.reset.mem = true := by decide +kernel
/-- A step at the front of the queue, and one with none waiting. -/
def stepUnit : State := { unit with pending := [.coreSemsigWrite 159 63 2, .wckDqCheck 3 23] }
theorem met_step : step stepUnit = .next { unit with
    pending := [.wckDqCheck 3 23], cores := [(159, { Core.init with sems := [(63, 2)] })] } := by rfl
theorem met_invariants : Memory.wf (hostUnit runQ).mem = true ∧ sees (.bar2Access 8 2 (some [0, 4])) (hostUnit runQ) (fun u =>
    (Memory.wf u.mem, u.pending)) = some (true, []) := by decide +kernel

/-- An ill-formed term for each check of `Instr.wf`: the check refuses it, and so does `exec`. -/
theorem smoke_wf1 : ([
  .nop 160 0 0, .nop 0 32 0, .halt 0 0 0, .semWait 0 0 (wd 0x68 [(32, 2)]), .instructionFetch 160 0, .externalResponse 0 32 0,
  .operationErrorStatus 0 0x01 0, .operationErrorStatus 0 0x20 6, .ctxModeWrite 0 32 0, .coreSemsigWrite 0 64 0, .barCfgEnable 4 0 0x1000,
  .barCfgEnable 0 64 0x1000, .barCfgEnable 0 0 0, .expertKeyWrite 0xFF0 0, .arrayInstructionStart 0 4, .pumpTransferStart 0 false 8,
  .pumpTransferStart 0 true 16, .pumpTransferComplete false 32, .pumpTransferComplete true 16, .maCtlGoSet 0 0 0, .maCtlGoClear 0 0 1,
  .arraySelfTestDone 0 0 7, .coreDike 0 0x24, .siteJournalAppend 176, .spadEccWriteback 0 (spadSize / 8),
  .lpddrEccWriteback (unit.lpdTop / 32), .rowRemapCopyDone 0 24 0, .rowRemapCopyDone 0 0 512, .lpdCtlGoSet 0 0].all fun i : Instr =>
  !i.wf (fabUnit id) && refuses i (fabUnit id)) = true := by decide +kernel
theorem smoke_wf2 : ([
  .pilPacketReceive 0 0 0 [], .pilPacketReceive 0 2 0 pilPkt, .pilPacketReceive 0 0 16 pilPkt, .pilNak 0 0 0 128,
  .pilGroupCheckDone 0 0 0 [272], .laneMarginSample 0 0 272 0, .laneReplacement 0 0 256, .dluChangeoverDone [(0, 0, 272)],
  .hubDiectlDieReset 4, .pilCtlGoSet 0 0, .flitReceive 0 [], .flitReceive 0 (flitBad ++ List.replicate 33 0), .laneSetChange 48 true, .ringRelockDone 0 16 true, .changeoverTimeout 8 0,
  .changeoverTimeout 0 16, .tklCtlGoSet 0 0, .portReset 8, .fabCtlGoSet 0, .fabCtlGoClear 1, .disc 0 [], .fabRouteWrite 0xFFFF 0,
  .fabricRd 49 (pktOf 5 1 63 (rdBody 0 4)), .fabricRd 0 [], .fabricRd 0 (pktOf 5 1 63 (rdBody 0 0)),
  .fabricWr 0 (pktOf 5 2 63 []), .fabricAtom 0 (pktOf 5 4 63 (atBody 0 10 8)), .fabricAtom 0 (pktOf 5 4 63 (atBody 0 9 2)),
  .fabricAck 0 (pktOf 5 7 63 [1]), .tbCtlGoSet 0, .open 0 [], .open 0 (colPkt 1 0 0 []), .bucketComplete 4096, .colCtlGoSet 0,
  .colTreeEnSet 64 1, .colGroupEnClear 16 0, .configurationRequest 2 none, .configurationRequest 4096 none, .bar2SizeWrite 7,
  .bar0Write 0 [], .bar0Write 0xFFFFFFF [0, 0], .bar2Access 0 0 none, .bar2Access 0 2 (some [0]), .sqCfgGoSet 64 1, .sqCfgGoClear 0 1].all fun i : Instr =>
  !i.wf (fabUnit id) && refuses i (fabUnit id)) = true := by decide +kernel
theorem smoke_wf3 : ([
  .hostAbort 16, .hubDikeDike 256, .perturbEntWrite 64 0, .mmcMbxSubmit 0, .registerWrite 0 2 0, .registerWrite 4 8 0,
  .registerWrite 0x10000000 4 0, .bundleTraining [(0, 0, 272)] true, .lpddrTraining [] [] [], .scratchpadSelfTest [176],
  .portLaserStart [(2, 0)], .hubLedDieResetEnd 4 [] none [], .hubLedDieResetEnd 0 [] none [176], .info .mga [], .info .mga (reqOf 2 0 0 []),
  .smbusFragmentWrite [] true, .smbusFragmentWrite (List.replicate 33 0) true, .networkEchoReply .smbus [], .cclkStep 4,
  .railOutOfRange 11, .thermalSample 0x0A none, .thermalSample 0 (some 32768), .throttleStepDown 0x1C, .startUpStepTimeout 0,
  .startUpStepTimeout 15, .spareLineSettled 8 0 true, .laneRetrained 0 16 true, .badFrame .mga (reqOf 1 0 0 [])].all fun i : Instr =>
  !i.wf (fabUnit id) && refuses i (fabUnit id)) = true := by decide +kernel
/-- No row of the table gives bits, so no word spells a command. -/
theorem test_noWords (n w : Nat) : decodeTableWord n w = none := rfl

end Sys2Proof.Tests
end

section
/-! SUPPORT. What the sending of packets and messages on a link can change, said once: links, the entries of
PERTURB_ENT, the counter of free values and what has left the module. -/

namespace Sys2Proof.Machine

/-- `u` follows `s` by sending on links. -/
def State.LinkStep (s u : State) : Prop :=
  ∃ ls e f o, u = { s with links := ls, err := { s.err with ents := e }, freeCtr := f, out := o }

theorem State.LinkStep.refl (s : State) : s.LinkStep s := ⟨s.links, s.err.ents, s.freeCtr, s.out, rfl⟩

theorem State.LinkStep.trans {s u v : State} (h : s.LinkStep u) (h' : u.LinkStep v) : s.LinkStep v := by
  obtain ⟨ls, e, f, o, rfl⟩ := h
  obtain ⟨ls', e', f', o', rfl⟩ := h'
  exact ⟨ls', e', f', o', rfl⟩

theorem State.LinkStep.ite {s u v : State} {p : Prop} [Decidable p] (h : s.LinkStep u) (h' : s.LinkStep v) :
    s.LinkStep (if p then u else v) := by split <;> assumption

theorem State.LinkStep.foldl {α : Type} (f : State → α → State) (hf : ∀ s a, State.LinkStep s (f s a)) (l : List α)
    (s : State) : s.LinkStep (l.foldl f s) := by
  induction l generalizing s with
  | nil => exact .refl s
  | cons a l ih => exact (hf s a).trans (ih _)

/-- The collective engine does not change with what its links send. -/
theorem State.LinkStep.col {s u : State} (h : s.LinkStep u) : u.col = s.col := by
  obtain ⟨ls, e, f, o, rfl⟩ := h; rfl

theorem State.LinkStep.mem {s u : State} (h : s.LinkStep u) : u.mem = s.mem := by
  obtain ⟨ls, e, f, o, rfl⟩ := h; rfl

variable (s : State)

theorem State.linkStep_setLink (l x) : s.LinkStep (s.setLink l x) := ⟨_, s.err.ents, s.freeCtr, s.out, rfl⟩

theorem State.linkStep_modLink (l f) : s.LinkStep (s.modLink l f) := s.linkStep_setLink ..

theorem State.linkStep_emit (x) : s.LinkStep (s.emit x) := ⟨s.links, s.err.ents, s.freeCtr, _, rfl⟩

theorem State.linkStep_takeFree : s.LinkStep s.takeFree.2 := ⟨s.links, s.err.ents, _, s.out, rfl⟩

theorem State.linkStep_perturbBy (tgt action place) : s.LinkStep (s.perturbBy tgt action place).2 := by
  obtain ⟨e, h⟩ := s.perturbBy_cases tgt action place
  rw [h]; exact ⟨s.links, e, s.freeCtr, s.out, rfl⟩

/-! ## Flits -/

theorem State.linkStep_putFlit (l seq type crvc crcnt d) : s.LinkStep (s.putFlit l seq type crvc crcnt d) :=
  (s.linkStep_setLink ..).trans (State.linkStep_emit ..)

theorem State.linkStep_sendIdle (l crvc n) : s.LinkStep (s.sendIdle l crvc n) := s.linkStep_putFlit ..

theorem State.linkStep_sendFlit (l type d ps) : s.LinkStep (s.sendFlit l type d ps) := by
  unfold State.sendFlit
  exact (s.linkStep_putFlit ..).trans (State.linkStep_modLink ..)

theorem State.linkStep_startLane (l) : s.LinkStep (s.startLane l).2 := by
  unfold State.startLane
  split
  · exact .refl s
  · exact s.linkStep_takeFree

theorem State.linkStep_sendAlign (l) : s.LinkStep (s.sendAlign l) :=
  (s.linkStep_startLane l).trans (State.linkStep_sendFlit ..)

theorem State.linkStep_sendNew (l type d ps) : s.LinkStep (s.sendNew l type d ps) :=
  (State.LinkStep.ite (s.linkStep_sendAlign l) (.refl s)).trans (State.linkStep_sendFlit ..)

theorem State.linkStep_sendPacket (l vc d) : s.LinkStep (s.sendPacket l vc d) := by
  have h := ((s.linkStep_perturbBy 5 1 (linkPlace l 0 vc)).trans (State.linkStep_modLink _ l fun k =>
    { k with spent := Tab.set 0 k.spent vc (Tab.get 0 k.spent vc + unitsOf d) })).trans (State.linkStep_takeFree _)
  unfold State.sendPacket
  exact .ite (h.trans (State.linkStep_sendNew ..))
    ((h.trans (State.linkStep_sendNew ..)).trans (State.linkStep_sendNew ..))

/-! ## Queues of a link -/

theorem State.linkStep_drainQueue (l : Nat) (blocked : List Nat) (q : List (Nat × Bytes)) :
    s.LinkStep (State.drainQueue l s blocked q).2 := by
  induction q generalizing s blocked with
  | nil => exact .refl s
  | cons p q ih =>
    unfold State.drainQueue
    rw [apply_ite Prod.snd]
    exact .ite ((s.linkStep_sendPacket ..).trans (ih ..)) (ih ..)

theorem State.linkStep_drainSideband (l fuel : Nat) : s.LinkStep (State.drainSideband l fuel s) := by
  induction fuel generalizing s with
  | zero => exact .refl s
  | succ n ih =>
    unfold State.drainSideband
    exact .ite (.refl s) (((s.linkStep_setLink ..).trans (State.linkStep_sendNew ..)).trans (ih _))

theorem State.linkStep_flush (l : Nat) : s.LinkStep (s.flush l) := by
  have h := s.linkStep_drainSideband l (s.link l).sideband.length
  unfold State.flush
  exact .ite h (((h.trans (State.linkStep_modLink ..)).trans (State.linkStep_drainQueue ..)).trans
    (State.linkStep_modLink ..))

theorem State.linkStep_linkPut (l vc d) : s.LinkStep (s.linkPut l vc d) := by
  have h := s.linkStep_modLink l fun k => { k with queue := k.queue ++ [(vc, d)] }
  unfold State.linkPut
  exact .ite (h.trans (State.linkStep_flush ..)) h

theorem State.linkStep_sendSb (l kind lanes rest) : s.LinkStep (s.sendSb l kind lanes rest) :=
  (s.linkStep_setLink ..).trans (State.linkStep_flush ..)

/-- A packet that leaves its receive buffer changes its link and returns credits (10 R325). -/
theorem State.linkStep_takeBody {s t : State} {l vc : Nat} {d : Bytes} (h : s.takeBody l vc d = some t) :
    s.LinkStep t := by
  have back (u : State) : u.LinkStep
      (if (u.link l).state.meets then u.sendIdle l vc ((16 + d.length + 63) / 64) else u) :=
    .ite (u.linkStep_sendIdle ..) (.refl u)
  unfold State.takeBody at h
  dsimp only at h
  split at h
  · split at h
    · cases h
      exact (s.linkStep_modLink ..).trans (back _)
    · cases h
  · cases h
    exact back s

end Sys2Proof.Machine
end

section
/-! SUPPORT. What the collective engine keeps while it sends, delivers and aborts: the tree entries and the members of
their DIRECT entries, which only writes of COL_TREE and COL_MEMBER change (12 R382). -/

namespace Sys2Proof.Machine

/-- `u` has the tree entries of `s` with their members. -/
def State.TreesKept (s u : State) : Prop := u.col.trees = s.col.trees ∧ u.col.members = s.col.members

theorem State.TreesKept.refl (s : State) : s.TreesKept s := ⟨rfl, rfl⟩

theorem State.TreesKept.trans {s u v : State} (h : s.TreesKept u) (h' : u.TreesKept v) : s.TreesKept v :=
  ⟨h'.1.trans h.1, h'.2.trans h.2⟩

theorem State.TreesKept.ite {s u v : State} {p : Prop} [Decidable p] (h : s.TreesKept u) (h' : s.TreesKept v) :
    s.TreesKept (if p then u else v) := by split <;> assumption

theorem State.TreesKept.foldl {α : Type} (f : State → α → State) (hf : ∀ s a, State.TreesKept s (f s a)) (l : List α)
    (s : State) : s.TreesKept (l.foldl f s) := by
  induction l generalizing s with
  | nil => exact .refl s
  | cons a l ih => exact (hf s a).trans (ih _)

/-- A step that leaves the collective engine alone. -/
theorem State.TreesKept.of_col {s u : State} (h : u.col = s.col) : s.TreesKept u := ⟨by rw [h], by rw [h]⟩

theorem State.LinkStep.treesKept {s u : State} (h : s.LinkStep u) : s.TreesKept u := .of_col h.col

theorem State.MemStep.col {s u : State} (h : s.MemStep u) : u.col = s.col := by
  obtain ⟨m, c, d, e, p, mm, o, rfl, -⟩ := h; rfl

theorem State.MemStep.treesKept {s u : State} (h : s.MemStep u) : s.TreesKept u := .of_col h.col

theorem State.TreesKept.tree {s u : State} (h : s.TreesKept u) (e : Nat) : u.tree e = s.tree e := by
  unfold State.tree; rw [h.1]

theorem State.TreesKept.members {s u : State} (h : s.TreesKept u) (e : Nat) : u.members e = s.members e := by
  simp only [State.members, State.memberReg, h.tree, h.2]

theorem State.TreesKept.entry {s u : State} (h : s.TreesKept u) (b : Bucket) : b.entry u = b.entry s := by
  unfold Bucket.entry
  split
  · exact h.tree _
  · rfl

theorem State.treesKept_of_writeMem {s u : State} {a cls : Nat} {d : Bytes} {r : Except (BitVec 8) Unit}
    (h : s.writeMem a d cls = (r, u)) : s.TreesKept u := by
  have hm := s.memStep_writeMem a d cls
  rw [h] at hm
  exact hm.treesKept

variable (s : State)

/-! ## Sending -/

theorem State.linkStep_sendCol (l d) : s.LinkStep (s.sendCol l d) := by
  unfold State.sendCol
  exact .ite (.refl s) ((s.linkStep_perturbBy ..).trans (State.linkStep_linkPut ..))

theorem State.linkStep_sendStep (l kind tag attempt g k) : s.LinkStep (s.sendStep l kind tag attempt g k) := by
  unfold State.sendStep
  exact .ite (.refl s) (s.linkStep_sendSb ..)

/-! ## Buckets, groups and their operations -/

theorem State.treesKept_modCol (f : Col → Col) (hf : ∀ c, (f c).trees = c.trees ∧ (f c).members = c.members) :
    s.TreesKept (s.modCol f) := hf s.col

theorem State.treesKept_setBucket (b) : s.TreesKept (s.setBucket b) := s.treesKept_modCol _ fun _ => ⟨rfl, rfl⟩

theorem State.treesKept_setGroup (g x) : s.TreesKept (s.setGroup g x) := s.treesKept_modCol _ fun _ => ⟨rfl, rfl⟩

theorem State.treesKept_onBucket (tag : Nat) (f : State → Bucket → State) (hf : ∀ b, s.TreesKept (f s b)) :
    s.TreesKept (s.onBucket tag f) := by
  unfold State.onBucket
  split
  · exact hf _
  · exact .refl s

theorem State.treesKept_opComplete (o) : s.TreesKept (s.opComplete o) := by
  obtain ⟨ts, k, h⟩ := s.opComplete_cases o
  exact .of_col (by rw [h]; rfl)

theorem State.treesKept_opFail (o cause dest) : s.TreesKept (s.opFail o cause dest) := by
  obtain ⟨ts, k, h⟩ := s.opFail_cases o cause dest
  exact .of_col (by rw [h]; rfl)

theorem State.treesKept_destVal (c a) : s.TreesKept (s.destVal c a).2 := by
  obtain ⟨f, h⟩ := s.destVal_cases c a
  exact .of_col (by rw [h])

theorem State.treesKept_stepRelease (g p v) : s.TreesKept (s.stepRelease g p v) := by
  refine .foldl _ (fun s e => ?_) _ s
  split
  · exact .ite (.of_col rfl) (.refl s)
  · exact .refl s

/-! ## The end of a bucket (R396, R400) -/

theorem State.treesKept_endContrib (b late c) : s.TreesKept (s.endContrib b late c) := by
  have h : s.TreesKept (s.writeMem c.cist (b.record late c) 2).2 := (s.memStep_writeMem ..).treesKept
  have h' := fun f hf => h.trans (State.treesKept_modCol _ f hf)
  unfold State.endContrib
  dsimp only
  split
  · refine .trans ?_ (State.treesKept_opComplete ..)
    exact h' _ fun _ => ⟨rfl, rfl⟩
  · exact h' _ fun _ => ⟨rfl, rfl⟩

theorem State.treesKept_endBucket (b late) : s.TreesKept (s.endBucket b late) := by
  unfold State.endBucket
  exact (s.treesKept_modCol _ fun _ => ⟨rfl, rfl⟩).trans (.foldl _ (fun s c => s.treesKept_endContrib b late c) _ _)

theorem State.treesKept_abortOne (b) : s.TreesKept (s.abortOne b) := by
  unfold State.abortOne
  exact .trans (.foldl _ (fun s l => (s.linkStep_sendStep ..).treesKept) _ s) (State.treesKept_endBucket ..)

theorem State.treesKept_stepLate (g k) : s.TreesKept (s.stepLate g k) :=
  (s.treesKept_setGroup ..).trans (State.treesKept_stepRelease ..)

theorem State.treesKept_abortStep (g k) : s.TreesKept (s.abortStep g k) :=
  .trans (.foldl _ State.treesKept_abortOne _ s) (State.treesKept_stepLate ..)

theorem State.treesKept_abortBucket (tag) : s.TreesKept (s.abortBucket tag) := by
  unfold State.abortBucket
  split
  · exact .refl s
  · exact .ite (s.treesKept_abortStep ..) (s.treesKept_abortOne _)

/-! ## Delivery (R395) -/

theorem State.treesKept_putDst (tag op o d) : s.TreesKept (s.putDst tag op o d) := by
  refine s.treesKept_onBucket _ _ fun b => ?_
  split
  · exact .refl s
  · exact .refl s
  · split <;> rename_i hw <;> have h := State.treesKept_of_writeMem hw
    · exact h.trans (State.treesKept_setBucket ..)
    · refine .trans ?_ (State.treesKept_abortBucket ..)
      split
      · exact (h.trans (State.treesKept_destVal ..)).trans (State.treesKept_opFail ..)
      · exact h.trans (State.treesKept_destVal ..)

theorem State.treesKept_deliverRes (tag g codes) : s.TreesKept (s.deliverRes tag g codes) :=
  s.treesKept_onBucket _ _ fun _ => .foldl _ (fun s _ => .ite (s.treesKept_putDst ..) (.refl s)) _ s

end Sys2Proof.Machine
end

section
/-! SUPPORT. The bucket table: what a read gives after an open bucket is replaced or a new one appended, and a bucket
that waits for its tree entry. -/

namespace Sys2Proof.Machine

variable {s : State} {b b' : Bucket} {tag : Nat}

/-- A bucket is kept under its own tag. -/
theorem State.tag_of_bucket? (h : s.bucket? tag = some b) : b.tag = tag := by
  simpa using List.find?_some h

theorem State.onBucket_of_bucket? (h : s.bucket? tag = some b) (f : State → Bucket → State) :
    s.onBucket tag f = f s b := by simp only [State.onBucket, h]

/-- The bucket read after an open bucket was replaced. -/
theorem State.bucket?_setBucket (h : s.bucket? tag = some b) (hb : b'.tag = tag) :
    (s.setBucket b').bucket? tag = some b' := by
  have key (l : List Bucket) (hl : (l.find? fun x => x.tag == tag) = some b) :
      ((l.map fun x => if x.tag = b'.tag then b' else x).find? fun x => x.tag == tag) = some b' := by
    induction l with
    | nil => cases hl
    | cons x l ih =>
      by_cases hx : x.tag = tag
      · simp [hx, hb]
      · have hl' : (l.find? fun x => x.tag == tag) = some b := by simpa [List.find?_cons, hx] using hl
        simpa [List.find?_cons, hb, hx] using ih hl'
  exact key _ h

/-- A new entry of the bucket state table. -/
def State.addBucket (s : State) (b : Bucket) : State := s.modCol fun c => { c with buckets := c.buckets ++ [b] }

theorem State.bucket?_addBucket (h : s.bucket? tag = none) (hb : b.tag = tag) :
    (s.addBucket b).bucket? tag = some b := by
  unfold State.bucket? at h ⊢
  simp [State.addBucket, State.modCol, List.find?_append, h, hb]

@[simp] theorem Bucket.chunk_modChunk (b : Bucket) (c : Nat) (f : CChunk → CChunk) :
    (b.modChunk c f).chunk c = f (b.chunk c) := Tab.get_set_self ..

/-! ## A bucket that waits for its tree entry -/

/-- The bucket has no tree entry, and nothing that follows from one has happened. -/
structure Bucket.Idle (b : Bucket) : Prop where
  tree : b.tree = none
  started : b.started = false
  checked : b.checked = false
  rcount : b.rcount = false
  flight : b.flight = []

theorem Bucket.Idle.modChunk (h : b.Idle) (c : Nat) (f : CChunk → CChunk) : (b.modChunk c f).Idle :=
  ⟨h.tree, h.started, h.checked, h.rcount, h.flight⟩

section
variable (h : s.bucket? tag = some b) (hi : b.Idle)
include h hi

theorem State.tryStart_of_idle : s.tryStart tag = s := by
  rw [State.tryStart, State.onBucket_of_bucket? h]
  simp [hi.tree]

theorem State.tryCheck_of_idle : s.tryCheck tag = s := by
  rw [State.tryCheck, State.onBucket_of_bucket? h]
  simp [hi.started]

theorem State.vCounts_of_idle : s.vCounts tag = s := by
  rw [State.vCounts, State.onBucket_of_bucket? h]
  simp [hi.checked]

theorem State.takeEarly_of_idle : s.takeEarly tag = s := by
  rw [State.takeEarly, State.onBucket_of_bucket? h]
  simp [hi.rcount, Bucket.ready, hi.started]

/-- A pass does nothing before the bucket has a tree entry (R387). -/
theorem State.colPass_of_idle : s.colPass tag = s := by
  unfold State.colPass
  dsimp only
  rw [State.tryStart_of_idle h hi, State.tryCheck_of_idle h hi, State.onBucket_of_bucket? h]
  simp only [hi.checked, Bool.false_eq_true, false_and, and_false, if_false]
  rw [State.vCounts_of_idle h hi, State.takeEarly_of_idle h hi, State.onBucket_of_bucket? h, hi.flight]
  rfl

theorem State.colGo_of_idle : s.colGo tag = s := by
  unfold State.colGo State.colRun
  simp [State.colPass_of_idle h hi]

end

theorem selectBelow_eq_nil {n : Nat} {p : Nat → Bool} (h : ∀ e < n, p e = false) : selectBelow n p = [] := by
  simpa [selectBelow] using h

/-- With no tree entry enabled a packet's link names none (assumption 45). -/
theorem State.guessTree_of_disabled (h : ∀ e < 64, trEn (s.tree e) = false) (tag l : Nat) : s.guessTree tag l = s := by
  unfold State.guessTree State.onBucket
  split
  · dsimp only
    rw [selectBelow_eq_nil fun e he => by simp only [h e he, Bool.false_and]]
    exact ite_self s
  · rfl

/-- A bucket that no tree entry takes stays as it is. -/
theorem State.colGo_guessTree_of_idle (ht : ∀ e < 64, trEn (s.tree e) = false) (h : s.bucket? tag = some b)
    (hi : b.Idle) {l : Nat} : (s.guessTree tag l).colGo tag = s := by
  rw [State.guessTree_of_disabled ht, State.colGo_of_idle h hi]

end Sys2Proof.Machine
end

section
/-! SUPPORT. What a collective packet does, said once for every KIND: the checks that all of them share (12 R384), and
the bucket that OPEN opens. -/

namespace Sys2Proof.Machine

/-! ## Arrival -/

/-- A COLL packet of KIND `kind` has arrived on an ACTIVE link: `t` is the state with the packet out of its receive
buffer and its credits returned (10 R325). -/
structure ColArrives (kind l : Nat) (d : Bytes) (s t : State) : Prop where
  link : l < 48
  active : (s.link l).state = .active
  lo : 16 ≤ d.length
  hi : d.length ≤ 256
  kind : hFld d 0 4 = kind
  take : s.takeBody l 2 d = some t

theorem ColArrives.linkStep {kind l : Nat} {d : Bytes} {s t : State} (h : ColArrives kind l d s t) : s.LinkStep t :=
  State.linkStep_takeBody h.take

theorem ColArrives.bucket? {kind l : Nat} {d : Bytes} {s t : State} (h : ColArrives kind l d s t) (tag : Nat) :
    t.bucket? tag = s.bucket? tag := by
  unfold State.bucket?; rw [h.linkStep.col]

section
variable {kind l : Nat} {d : Bytes} {s t : State} (h : ColArrives kind l d s t) (opens : State → State)
  (f : State → Bucket → State)
include h

/-- A header that is wrong counts in E2E. -/
theorem colRecv_of_not_hdrOk (hd : hdrOk d = false) :
    colRecv kind l d s opens f = .next (t.modFab fun x => { x with e2e := satInc16 x.e2e }) := by
  simp [colRecv, h.link, h.active, h.lo, h.hi, h.kind, h.take, hd]

/-- A packet of no bucket is discarded. -/
theorem colRecv_of_none (hd : hdrOk d = true) (hb : (opens t).bucket? (hFld d 4 12) = none) :
    colRecv kind l d s opens f = .next (opens t).colDiscard := by
  simp [colRecv, h.link, h.active, h.lo, h.hi, h.kind, h.take, hd, hb]

variable {b : Bucket} (hd : hdrOk d = true) (hb : (opens t).bucket? (hFld d 4 12) = some b)
include hd hb

/-- A packet of another attempt is discarded. -/
theorem colRecv_of_attempt_ne (ha : b.attempt.toNat ≠ hFld d 16 8) :
    colRecv kind l d s opens f = .next (opens t).colDiscard := by
  simp [colRecv, h.link, h.active, h.lo, h.hi, h.kind, h.take, hd, hb, ha]

/-- A packet of an open bucket's attempt is handled. -/
theorem colRecv_of_bucket (ha : b.attempt.toNat = hFld d 16 8) :
    colRecv kind l d s opens f = .next (f (opens t) b) := by
  simp [colRecv, h.link, h.active, h.lo, h.hi, h.kind, h.take, hd, hb, ha]

end

/-! ## The rows of the table -/

variable (l : Nat) (d : Bytes) (s : State)

theorem exec_open : exec (.open l d) s = execOpen l d s := rfl
theorem exec_exp : exec (.exp l d) s = execExp l d s := rfl
theorem exec_tv : exec (.tv l d) s = execTv l d s := rfl
theorem exec_win : exec (.win l d) s = execWin l d s := rfl
theorem exec_spec : exec (.spec l d) s = execSpec l d s := rfl
theorem exec_res : exec (.res l d) s = execRes l d s := rfl
theorem exec_data : exec (.data l d) s = execData l d s := rfl
theorem exec_cnt : exec (.cnt l d) s = execCnt l d s := rfl

/-- The command of a collective packet of KIND `k`. -/
def colRow (k : Nat) : Instr :=
  [Instr.open l d, .exp l d, .tv l d, .win l d, .spec l d, .res l d, .data l d, .cnt l d].getD k (.open l d)

/-- A known bucket is not opened again. -/
theorem State.openEntry_of_bucket? {s : State} {d : Bytes} {b : Bucket} (h : s.bucket? (hFld d 4 12) = some b)
    (o : Option COpen) : s.openEntry d o = s := by
  simp [State.openEntry, h]

/-- Each row receives packets of its KIND; only OPEN and EXP open a bucket, and only one that is not known (R384). -/
theorem exec_colRow {k : Nat} (hk : k < 8) : ∃ opens f,
    (∀ s, exec (colRow l d k) s = colRecv k l d s opens f) ∧
    ∀ s, 2 ≤ k ∨ (∃ b, s.bucket? (hFld d 4 12) = some b) → opens s = s := by
  have known (o : Option COpen) (j : Nat) (hj : j < 2) (s : State)
      (h : 2 ≤ j ∨ ∃ b, s.bucket? (hFld d 4 12) = some b) : s.openEntry d o = s := by
    obtain ⟨b, hb⟩ := h.resolve_left (by omega)
    exact State.openEntry_of_bucket? hb o
  match k, hk with
  | 0, _ =>
    simp only [colRow, List.getD_cons_zero, exec_open, execOpen]
    exact ⟨_, _, fun _ => rfl, known _ 0 (by decide)⟩
  | 1, _ =>
    simp only [colRow, List.getD_cons_succ, List.getD_cons_zero, exec_exp, execExp]
    exact ⟨_, _, fun _ => rfl, known _ 1 (by decide)⟩
  | 2, _ | 3, _ | 4, _ | 5, _ | 6, _ | 7, _ =>
    simp only [colRow, List.getD_cons_succ, List.getD_cons_zero, exec_tv, execTv, exec_win, execWin, exec_spec,
      execSpec, exec_res, execRes, exec_data, execData, exec_cnt, execCnt]
    exact ⟨id, _, fun _ => rfl, fun _ _ => rfl⟩

section
variable {l : Nat} {d : Bytes} {s t : State} (h : ColArrives (hFld d 0 4) l d s t) (hk : hFld d 0 4 < 8)
include h hk

/-- A wrong header counts in E2E, whatever the KIND. -/
theorem exec_colRow_of_not_hdrOk (hd : hdrOk d = false) : exec (colRow l d (hFld d 0 4)) s =
    .next { t with fab := { t.fab with e2e := satInc16 t.fab.e2e } } := by
  obtain ⟨opens, f, hrow, -⟩ := exec_colRow l d hk
  rw [hrow]
  exact colRecv_of_not_hdrOk h opens f hd

/-- A packet of no bucket, which it cannot open, or of another attempt is discarded, whatever the KIND. -/
theorem exec_colRow_of_discard (hd : hdrOk d = true)
    (hb : (s.bucket? (hFld d 4 12) = none ∧ 2 ≤ hFld d 0 4) ∨
      ∃ b, s.bucket? (hFld d 4 12) = some b ∧ b.attempt.toNat ≠ hFld d 16 8) :
    exec (colRow l d (hFld d 0 4)) s = .next { t with col := { t.col with discards := satInc16 t.col.discards } } := by
  obtain ⟨opens, f, hrow, hopens⟩ := exec_colRow l d hk
  simp only [← h.bucket?] at hb
  have ho : opens t = t := hopens t (hb.elim (fun hn => .inl hn.2) fun ⟨b, hb, _⟩ => .inr ⟨b, hb⟩)
  rw [hrow]
  obtain ⟨hn, -⟩ | ⟨b, hb, ha⟩ := hb
  · rw [colRecv_of_none h opens f hd (by rw [ho]; exact hn), ho]; rfl
  · rw [colRecv_of_attempt_ne h opens f hd (by rw [ho]; exact hb) ha, ho]; rfl

end

end Sys2Proof.Machine
end

section
/-! SUPPORT. OPEN on a bucket that is not known: its entry holds the neighbour's parameters and maxima, and waits for a
tree entry (12 R384, R387). -/

namespace Sys2Proof.Machine

variable {s : State} {tag : Nat}

section
variable {l c : Nat} {mx : List Int}

theorem State.mem_takeMax : (s.takeMax tag l c mx).mem = s.mem := by
  unfold State.takeMax State.onBucket
  split <;> rfl

theorem State.treesKept_takeMax : s.TreesKept (s.takeMax tag l c mx) :=
  s.treesKept_onBucket _ _ fun _ => State.treesKept_setBucket ..

theorem State.bucket?_takeMax {b : Bucket} (h : s.bucket? tag = some b) (hb : b.tag = tag) :
    (s.takeMax tag l c mx).bucket? tag =
      some (b.modChunk c fun k => { k with mx := (k.mx.filter fun e => e.1 != l) ++ [(l, mx)] }) := by
  rw [State.takeMax, State.onBucket_of_bucket? h]
  exact State.bucket?_setBucket h hb

end

/-- The entry that an OPEN packet on link `l` makes. -/
def newOf (l : Nat) (d : Bytes) : Bucket :=
  Bucket.new (hFld d 4 12) (BitVec.ofNat 8 (hFld d 16 8)) (openOf l d).grp (openOf l d).step (some (openOf l d).par)

/-- The entry with the neighbour's OPEN. -/
def openedOf (l : Nat) (d : Bytes) : Bucket := { newOf l d with opens := (newOf l d).opens ++ [openOf l d] }

theorem idle_openedOf (l : Nat) (d : Bytes) : (openedOf l d).Idle := ⟨rfl, rfl, rfl, rfl, rfl⟩

theorem attempt_newOf (l : Nat) (d : Bytes) : (newOf l d).attempt.toNat = hFld d 16 8 :=
  Nat.mod_eq_of_lt (Nat.mod_lt _ (Nat.two_pow_pos 8))

/-- OPEN of a bucket that is not known, and that has not ended here, opens its entry (R384). -/
theorem openEntry_of_none {d : Bytes} (hb : s.bucket? (hFld d 4 12) = none)
    (hg : (Tab.get Gone.init s.col.gone (hFld d 4 12)).valid = false) (ha : ∀ a ∈ s.col.aborted, a.1 ≠ hFld d 4 12)
    (l : Nat) : s.openEntry d (some (openOf l d)) = s.addBucket (newOf l d) := by
  unfold State.openEntry
  dsimp only
  rw [if_neg (by simpa [hb, hg] using fun x hx => absurd rfl (ha _ hx))]
  rfl

/-- OPEN of a bucket that is not known, where no tree entry is enabled: the entry waits with the neighbour's OPEN, and
for a reduction with its maxima of chunk 0. -/
theorem exec_open_of_none {l : Nat} {d : Bytes} {s t : State} (h : ColArrives 0 l d s t) (hd : hdrOk d = true)
    (hb : s.bucket? (hFld d 4 12) = none) (hg : (Tab.get Gone.init s.col.gone (hFld d 4 12)).valid = false)
    (ha : ∀ a ∈ s.col.aborted, a.1 ≠ hFld d 4 12) (ht : ∀ e < 64, trEn (s.tree e) = false) :
    ∃ u, exec (.open l d) s = .next u ∧ u.mem = s.mem ∧ u.bucket? (hFld d 4 12) = some
      (if (openOf l d).par.red then
        (openedOf l d).modChunk 0 fun k => { k with mx := [(l, maxOf d 64 (hFld d 64 8))] }
      else openedOf l d) := by
  have hcol : t.col = s.col := h.linkStep.col
  have hbt : t.bucket? (newOf l d).tag = none := (h.bucket? _).trans hb
  have hnew : t.openEntry d (some (openOf l d)) = t.addBucket (newOf l d) :=
    openEntry_of_none hbt (hcol ▸ hg) (hcol ▸ ha) l
  have h0 := State.bucket?_addBucket hbt rfl
  have h1 := State.bucket?_setBucket h0 (b' := newOf l d) rfl
  have h2 := State.bucket?_setBucket h1 (b' := openedOf l d) rfl
  rw [exec_open, execOpen]
  dsimp only
  rw [colRecv_of_bucket h _ _ hd (hnew ▸ h0) (attempt_newOf l d), hnew,
    if_pos (show (newOf l d).par.isSome = true from rfl), State.onBucket_of_bucket? h1,
    if_neg (show ¬((newOf l d).opens.any fun x => x.link == l) = true from Bool.false_ne_true), ← openedOf,
    State.onBucket_of_bucket? h2]
  generalize hv : State.setBucket _ (openedOf l d) = v at h2 ⊢
  have hmem : v.mem = s.mem := hv ▸ h.linkStep.mem
  have hkept : t.TreesKept v := hv ▸ ⟨rfl, rfl⟩
  have htree : ∀ e < 64, trEn (v.tree e) = false := fun e he => by
    rw [(h.linkStep.treesKept.trans hkept).tree, ht e he]
  rw [show (openedOf l d).p.red = (openOf l d).par.red from rfl]
  split
  · have h3 := State.bucket?_takeMax (l := l) (c := 0) (mx := maxOf d 64 (hFld d 64 8)) h2 rfl
    rw [State.colGo_guessTree_of_idle (fun e he => by rw [State.treesKept_takeMax.tree, htree e he]) h3
      ((idle_openedOf l d).modChunk 0 _)]
    exact ⟨_, rfl, State.mem_takeMax.trans hmem, h3⟩
  · rw [State.colGo_guessTree_of_idle htree h2 (idle_openedOf l d)]
    exact ⟨v, rfl, hmem, h2⟩

end Sys2Proof.Machine
end

section
/-! SUPPORT. Packets of an open bucket: what each KIND does to it (12 R390 to R397). -/

namespace Sys2Proof.Machine

section
variable {k l : Nat} {d : Bytes} {s t : State} {b : Bucket} (h : ColArrives k l d s t) (hd : hdrOk d = true)
  (hb : s.bucket? (hFld d 4 12) = some b) (ha : b.attempt.toNat = hFld d 16 8)
include h hd hb ha

/-- A packet of an open bucket that opens nothing is handled in the state that has taken it. -/
theorem colRecv_of_known (opens : State → State) (f : State → Bucket → State) (ho : opens t = t) :
    colRecv k l d s opens f = .next (f t b) := by
  rw [colRecv_of_bucket h opens f hd (by rw [ho, h.bucket?]; exact hb) ha, ho]

end

section
variable {l : Nat} {d : Bytes} {s t : State} {b : Bucket} (hd : hdrOk d = true)
  (hb : s.bucket? (hFld d 4 12) = some b) (ha : b.attempt.toNat = hFld d 16 8)
include hd hb ha

/-- EXP records the link's maxima of its chunk (R390). -/
theorem exec_exp_of_bucket (h : ColArrives 1 l d s t) : exec (.exp l d) s =
    .next ((t.takeMax b.tag l (hFld d 24 22) (maxOf d 16 (hFld d 64 8))).colGo b.tag) := by
  have ht : t.bucket? (hFld d 4 12) = some b := (h.bucket? _).trans hb
  rw [exec_exp, execExp, colRecv_of_known h hd hb ha _ _ (State.openEntry_of_bucket? ht none)]

/-- TV from the parent gives the weights of a chunk in flight (R390). -/
theorem exec_tv_of_bucket (h : ColArrives 2 l d s t) (hts : (b.chunk (hFld d 24 22)).ts = none)
    (hf : hFld d 24 22 ∈ b.flight) (hp : trParent (b.entry t) = some l) : exec (.tv l d) s =
    .next ((t.setTs b.tag (hFld d 24 22) (maxOf d 16 (hFld d 64 8))).colGo b.tag) := by
  rw [exec_tv, execTv, colRecv_of_known h hd hb ha _ _ rfl]
  simp [hts, hf, hp]

/-- WIN joins the sums of its chunk, or goes on with OVF (R392, R393). -/
theorem exec_win_of_bucket (h : ColArrives 3 l d s t) : exec (.win l d) s = .next (if b.refuses t
    then (trParent (b.entry t)).toList.foldl (fun s p => s.sendCol p (withOvf d)) t
    else ((t.addAcc b.tag (hFld d 24 22) (b.mySlice t) (hFld d 46 12) (hFld d 46 12 + hFld d 64 8) fun a =>
      a.addWin (hFld d 46 12) ((List.range (hFld d 64 8)).map fun i => signedNat 128 (leField d (16 + 16 * i) 16))
        (hFld d 72 21) (hFld d 93 1 == 1) (hFld d 94 1 == 1)).sumCheck b.tag (hFld d 24 22)).colGo b.tag) := by
  rw [exec_win, execWin, colRecv_of_known h hd hb ha _ _ rfl]
  simp only [List.length_map, List.length_range]

/-- SPEC joins the special flags of its chunk, or goes on with OVF (R392, R393). -/
theorem exec_spec_of_bucket (h : ColArrives 4 l d s t) :
    let es := (List.range (hFld d 64 8)).map fun i =>
      (leField d (16 + 4 * i) 2 % 4096, leField d (16 + 4 * i) 2 / 4096)
    exec (.spec l d) s = .next (if b.refuses t
      then (trParent (b.entry t)).toList.foldl (fun s p => s.sendCol p (withOvf d)) t
      else t.addAcc b.tag (hFld d 24 22) (b.mySlice t) ((es.map Prod.fst).foldl min 4096)
        ((es.map Prod.fst).foldl max 0 + 1) fun a => a.addSpec es (hFld d 72 21)) := by
  rw [exec_spec, execSpec, colRecv_of_known h hd hb ha _ _ rfl]

/-- RES goes down the tree and is delivered; the member that sent it, looked up after the delivery, is the one of
before, since a delivery keeps the tree entries (R389, R395). -/
theorem exec_res_of_bucket (h : ColArrives 5 l d s t) : exec (.res l d) s = .next (
    let sent := if b.p.direct then t
      else (b.downLinks t).foldl (fun s k => s.sendCol k (if b.admitted then d else withOvf d)) t
    let b' := { b with
      trunc := b.trunc || hFld d 93 1 == 1
      ovf := b.ovf || hFld d 94 1 == 1
      nan := b.nan + hFld d 96 8 }
    let from? := ((t.members (b.tree.getD 0)).find? fun e => e.2 == l).elim 0 Prod.fst
    let slice' := b.p.slice (hFld d 24 22) from? (trMcount (b.entry t))
    let took := if hFld d 64 8 = 0 ∧ b.p.direct = true ∧ hFld d 96 8 < 240 then slice'.2 - slice'.1 else hFld d 64 8
    (((sent.setBucket b').deliverRes b.tag (hFld d 24 22 * b.p.chunk + hFld d 46 12)
      (slice d 16 (hFld d 64 8 * fmtBytes b.p.ofmt))).addGot b.tag (hFld d 24 22) took).colGo b.tag) := by
  rw [exec_res, execRes, colRecv_of_known h hd hb ha _ _ rfl]
  dsimp only
  have hsent : t.TreesKept (if b.p.direct then t
      else (b.downLinks t).foldl (fun s k => s.sendCol k (if b.admitted then d else withOvf d)) t) :=
    .ite (.refl t) (.foldl _ (fun s k => (s.linkStep_sendCol ..).treesKept) _ t)
  have hdone := fun b' g codes => (hsent.trans (State.treesKept_setBucket _ b')).trans
    (State.treesKept_deliverRes _ b.tag g codes)
  rw [(hdone ..).members, (hdone ..).entry]

/-- DATA waits until its turn (R397). -/
theorem exec_data_of_bucket (h : ColArrives 6 l d s t) : exec (.data l d) s = .next ((t.setBucket { b with
    early := b.early ++ [(l, d.take (16 + hFld d 64 8 * fmtBytes b.p.ifmt))] }).colGo b.tag) := by
  rw [exec_data, execData, colRecv_of_known h hd hb ha _ _ rfl]

end

/-- CNT of a neighbour whose OPEN is in brings one count for each pair of its ranks and the local ones (R397). -/
theorem exec_cnt_of_bucket {l : Nat} {d : Bytes} {s t : State} {b : Bucket} {o : COpen} (h : ColArrives 7 l d s t)
    (hd : hdrOk d = true) (hb : s.bucket? (hFld d 4 12) = some b) (ha : b.attempt.toNat = hFld d 16 8)
    (ho : (b.opens.find? fun o => o.link == l) = some o) : ∃ cs, exec (.cnt l d) s =
      .next ((t.setBucket { b with cnts := b.cnts ++ cs }).colGo b.tag) ∧
      cs.length = o.ranks.length * b.locals.length := by
  rw [exec_cnt, execCnt, colRecv_of_known h hd hb ha _ _ rfl, ho]
  exact ⟨_, rfl, by simp⟩

end Sys2Proof.Machine
end

section
/-! SUPPORT. Window sums: a stream adds to each element an amount that does not depend on what has been summed before,
so that streams may arrive in any order (02 R46; 12 R393, R394). -/

namespace Sys2Proof.Machine

/-- Steps over a table, each of which combines its own amount into the entry of key `i`, combine one total into it. -/
theorem Tab.exists_get_foldl {α β : Type} (d : β) (op : β → β → β) (e : β) (i : Nat)
    (assoc : ∀ x y z, op (op x y) z = op x (op y z)) (unit : ∀ x, op x e = x) (step : Tab β → α → Tab β)
    (hstep : ∀ a, ∃ w, ∀ m, Tab.get d (step m a) i = op (Tab.get d m i) w) (as : List α) :
    ∃ w, ∀ m, Tab.get d (as.foldl step m) i = op (Tab.get d m i) w := by
  induction as with
  | nil => exact ⟨e, fun m => (unit _).symm⟩
  | cons a as ih =>
    obtain ⟨w, hw⟩ := ih
    obtain ⟨v, hv⟩ := hstep a
    exact ⟨op v w, fun m => by rw [List.foldl_cons, hw, hv, assoc]⟩

/-- One entry combined with an amount. -/
theorem Tab.exists_get_set {β : Type} [DecidableEq β] (d : β) (op : β → β → β) (e : β) (unit : ∀ x, op x e = x)
    (k i : Nat) (v : β) : ∃ w, ∀ m, Tab.get d (Tab.set d m k (op (Tab.get d m k) v)) i = op (Tab.get d m i) w := by
  by_cases h : i = k
  · exact ⟨v, fun m => by rw [h, Tab.get_set_self]⟩
  · exact ⟨e, fun m => by rw [Tab.get_set_ne _ _ _ _ h, unit]⟩

namespace WAcc

variable (x y : WStream) (a : WAcc) (i : Nat)

theorem exists_win_addStream : ∃ w, ∀ a : WAcc, Tab.get 0 (a.addStream x).win i = Tab.get 0 a.win i + w := by
  obtain ⟨w, hw⟩ := Tab.exists_get_foldl (0 : Int) (· + ·) 0 i Int.add_assoc Int.add_zero _
    (fun e => Tab.exists_get_set 0 (· + ·) 0 Int.add_zero (x.off + e.2) i e.1) x.ws.zipIdx
  exact ⟨w, fun a => hw a.win⟩

theorem exists_flags_addStream : ∃ w, ∀ a : WAcc, Tab.get 0 (a.addStream x).flags i = Tab.get 0 a.flags i ||| w := by
  obtain ⟨w, hw⟩ := Tab.exists_get_foldl (0 : Nat) (· ||| ·) 0 i Nat.or_assoc Nat.or_zero _
    (fun e => Tab.exists_get_set 0 (· ||| ·) 0 Nat.or_zero e.1 i (e.2 % 8)) x.spec
  exact ⟨w, fun a => hw a.flags⟩

theorem exists_neg_addStream : ∃ w, ∀ a : WAcc, Tab.get 0 (a.addStream x).neg i = Tab.get 0 a.neg i + w := by
  obtain ⟨w, hw⟩ := Tab.exists_get_foldl (0 : Nat) (· + ·) 0 i Nat.add_assoc Nat.add_zero
    (fun m (e : Nat × Nat) => if e.2.testBit 3 then Tab.set 0 m e.1 (Tab.get 0 m e.1 + x.contrib) else m) (fun e => by
      cases e.2.testBit 3
      · exact ⟨0, fun m => rfl⟩
      · exact Tab.exists_get_set 0 (· + ·) 0 Nat.add_zero e.1 i x.contrib) x.spec
  exact ⟨w, fun a => hw a.neg⟩

theorem win_addStream_comm :
    Tab.get 0 ((a.addStream x).addStream y).win i = Tab.get 0 ((a.addStream y).addStream x).win i := by
  obtain ⟨v, hx⟩ := exists_win_addStream x i
  obtain ⟨w, hy⟩ := exists_win_addStream y i
  rw [hy, hx, hx, hy, Int.add_right_comm]

theorem flags_addStream_comm :
    Tab.get 0 ((a.addStream x).addStream y).flags i = Tab.get 0 ((a.addStream y).addStream x).flags i := by
  obtain ⟨v, hx⟩ := exists_flags_addStream x i
  obtain ⟨w, hy⟩ := exists_flags_addStream y i
  rw [hy, hx, hx, hy, Nat.or_right_comm]

theorem neg_addStream_comm :
    Tab.get 0 ((a.addStream x).addStream y).neg i = Tab.get 0 ((a.addStream y).addStream x).neg i := by
  obtain ⟨v, hx⟩ := exists_neg_addStream x i
  obtain ⟨w, hy⟩ := exists_neg_addStream y i
  rw [hy, hx, hx, hy, Nat.add_right_comm]

theorem got_addStream_comm : ((a.addStream x).addStream y).got = ((a.addStream y).addStream x).got :=
  Nat.add_right_comm ..

theorem trunc_addStream_comm : ((a.addStream x).addStream y).trunc = ((a.addStream y).addStream x).trunc :=
  Bool.or_right_comm ..

theorem ovf_addStream_comm : ((a.addStream x).addStream y).ovf = ((a.addStream y).addStream x).ovf :=
  Bool.or_right_comm ..

end WAcc

end Sys2Proof.Machine
end

section
/-! SUPPORT. Collective packets, as the obligation says them. -/

namespace Sys2Proof.Machine

/-- Settles O51: the checks of every KIND are those of `colRecv`, the handler of each KIND acts on the bucket found, and
streams of windows add amounts that do not depend on one another. -/
theorem collectivePackets : Obligations.CollectivePackets := by
  unfold Obligations.CollectivePackets
  refine ⟨fun l d s t hl hact hlo hhi ht => ?_, fun a x y i => ?_⟩
  · intro kind tag c n off row
    have arrives {k : Nat} (hk : kind = k) : ColArrives k l d s t := ⟨hl, hact, hlo, hhi, hk, ht⟩
    refine ⟨fun hd hk => exec_colRow_of_not_hdrOk (arrives rfl) hk hd,
      fun hd hk hb => exec_colRow_of_discard (arrives rfl) hk hd hb, fun hd hk hb hg ha htree => ?_,
      fun b hd hb ha => ?_⟩
    · obtain ⟨u, hu, hmem, hbucket⟩ := exec_open_of_none (arrives hk) hd hb hg ha htree
      refine ⟨u, _, hu, hbucket, ?_⟩
      split
      · exact ⟨rfl, rfl, rfl, rfl, fun _ => by rw [Bucket.chunk_modChunk], hmem⟩
      · next hr => exact ⟨rfl, rfl, rfl, rfl, fun h => absurd h hr, hmem⟩
    · have htag : tag = b.tag := (State.tag_of_bucket? hb).symm
      rw [htag]
      exact ⟨fun hk => exec_exp_of_bucket hd hb ha (arrives hk),
        fun hk hts hf hp => exec_tv_of_bucket hd hb ha (arrives hk) hts hf hp,
        fun hk => exec_win_of_bucket hd hb ha (arrives hk),
        fun hk => exec_spec_of_bucket hd hb ha (arrives hk),
        fun hk => exec_res_of_bucket hd hb ha (arrives hk),
        fun hk => exec_data_of_bucket hd hb ha (arrives hk),
        fun hk o ho => exec_cnt_of_bucket (arrives hk) hd hb ha ho⟩
  · exact ⟨WAcc.win_addStream_comm x y a i, WAcc.flags_addStream_comm x y a i, WAcc.neg_addStream_comm x y a i,
      WAcc.got_addStream_comm x y a, WAcc.trunc_addStream_comm x y a, WAcc.ovf_addStream_comm x y a⟩

end Sys2Proof.Machine
end

section
/-! SUPPORT. Fields of instruction words as numbers and as bit vectors (04 R101). -/

namespace Sys2Proof.Machine

theorem signedNat_eq_toInt {n : Nat} (hn : 0 < n) (x : Nat) : signedNat n x = (BitVec.ofNat n x).toInt := by
  obtain ⟨m, rfl⟩ : ∃ m, n = m + 1 := ⟨n - 1, by omega⟩
  have h2 : 2 ^ (m + 1) = 2 * 2 ^ m := by rw [Nat.pow_succ, Nat.mul_comm]
  rw [BitVec.toInt_eq_toNat_cond, BitVec.toNat_ofNat, signedNat, Nat.add_sub_cancel]
  by_cases h : x % 2 ^ (m + 1) < 2 ^ m
  · rw [if_pos h, if_pos (by omega)]
  · rw [if_neg h, if_neg (by omega)]

variable (w : BitVec 64)

theorem ifld_eq_toNat (lo n : Nat) : ifld w lo n = (w.extractLsb' lo n).toNat := by
  simp [ifld, fieldNat, BitVec.extractLsb'_toNat]

theorem ifld_lt (lo n : Nat) : ifld w lo n < 2 ^ n := Nat.mod_lt _ (Nat.two_pow_pos n)

theorem ofNat_ifld (lo n : Nat) : BitVec.ofNat n (ifld w lo n) = w.extractLsb' lo n := by
  rw [ifld_eq_toNat, BitVec.ofNat_toNat, BitVec.setWidth_eq]

/-- An `n`-bit field, sign-extended, as the manual writes it. -/
theorem sext64_ifld (lo : Nat) {n : Nat} (hn : 0 < n) :
    sext64 n (ifld w lo n) = (w.extractLsb' lo n).signExtend 64 := by
  rw [sext64, signedNat_eq_toInt hn, ofNat_ifld]; rfl

theorem ifld_one_eq_one (i : Nat) : ifld w i 1 = 1 ↔ w.getLsbD i = true := by
  rw [← BitVec.testBit_toNat, Nat.testBit_eq_decide_div_mod_eq, decide_eq_true_eq, ifld, fieldNat,
    Nat.shiftRight_eq_div_pow, pow_one]

theorem ifld_one_beq (i : Nat) : (ifld w i 1 == 1) = w.getLsbD i := by
  rw [Bool.eq_iff_iff, beq_iff_eq, ifld_one_eq_one]

/-- MOVK replaces the 16 bits at 16 × `k`. -/
theorem getLsbD_insert16 (a : BitVec 64) (k x : Nat) {i : Nat} (hi : i < 64) :
    (insert16 a k x).getLsbD i =
      if 16 * k ≤ i ∧ i < 16 * k + 16 then x.testBit (i - 16 * k) else a.getLsbD i := by
  have hm : (0xFFFF#64 <<< (16 * k)).getLsbD i = decide (16 * k ≤ i ∧ i < 16 * k + 16) := by
    rw [BitVec.getLsbD_shiftLeft, show (0xFFFF#64) = BitVec.setWidth 64 (BitVec.allOnes 16) from rfl,
      BitVec.getLsbD_setWidth, BitVec.getLsbD_allOnes]
    by_cases h : 16 * k ≤ i ∧ i < 16 * k + 16
    · simp [hi, h]; omega
    · simp [hi, h]; omega
  rw [insert16, BitVec.getLsbD_or, BitVec.getLsbD_and, BitVec.getLsbD_not, hm, BitVec.getLsbD_shiftLeft,
    BitVec.getLsbD_ofNat, Nat.testBit_mod_two_pow]
  by_cases h : 16 * k ≤ i ∧ i < 16 * k + 16
  · have h1 : i - 16 * k < 16 := by omega
    have h2 : i - 16 * k < 64 := by omega
    simp [hi, h, h1, h2, Nat.not_lt.2 h.1]
  · have h1 : i < 16 * k ∨ ¬ (i - 16 * k < 16) := by omega
    rcases h1 with h1 | h1 <;> simp [hi, h, h1]

end Sys2Proof.Machine
end
section
/-! SUPPORT. Scalar and system instructions (04 R109 to R112). -/

namespace Sys2Proof.Machine

@[simp] theorem State.core_advance (s : State) (c t c' : Nat) : (s.advance c t).core c' = s.core c' := rfl

variable {op sub c t : Nat} {w : BitVec 64} {s : State} {body : Thread → State → Eff}

/-! ## What an issued instruction does, by what its body answers -/

theorem issue_done {u : State} (h : Acts op sub c t w s) (hb : body (s.thread c t) (s.advance c t) = .done u) :
    issue op sub c t w s body = .next u := by
  rw [issue_acts _ h, hb]; rfl

theorem issue_effThread (f : Thread → Thread) (h : Acts op sub c t w s)
    (hb : body (s.thread c t) (s.advance c t) = effThread c t (s.advance c t) f) :
    issue op sub c t w s body = .next (s.setThread c t (f (s.thread c t).stepped)) := by
  rw [issue_done h hb, State.modThread_eq, State.thread_advance, State.advance_eq, State.setThread_setThread]

/-- An exception at issue changes the thread only (R105). -/
theorem issue_exc {unit : BitVec 3} {cause : BitVec 8} (h : Acts op sub c t w s) (hu : unitOf op = some unit)
    (hb : body (s.thread c t) (s.advance c t) = .exc cause) :
    issue op sub c t w s body =
      .next (s.setThread c t (Thread.except { s.thread c t with state := .ready } cause unit 0)) := by
  rw [issue_acts _ h, hb, hu]; rfl

theorem issue_hold (h : Acts op sub c t w s) (hb : body (s.thread c t) (s.advance c t) = .hold) :
    issue op sub c t w s body = .next s := by
  rw [issue_acts _ h, hb]; rfl

/-- An instruction that lacks slots waits for them and changes nothing else (R73). -/
theorem issue_slots {n : Nat} (h : Acts op sub c t w s) (hb : body (s.thread c t) (s.advance c t) = .slots n) :
    issue op sub c t w s body = .next (s.setThread c t { s.thread c t with state := .waitMem, memNeed := n }) := by
  rw [issue_acts _ h, hb]; rfl

/-- Settles O6: each body changes its thread only, by the function that the opcode map gives. -/
theorem scalarResults : Obligations.ScalarResults := by
  unfold Obligations.ScalarResults
  intro c t w s th next
  refine ⟨fun h => ?_, issue_thread _, issue_thread _, fun h => ?_, fun h => ?_, fun h => ?_⟩
  · exact issue_done h rfl
  · rw [← sext64_ifld w 0 (by decide)]
    exact issue_thread _ h
  · rw [← sext64_ifld w 0 (by decide)]
    exact issue_thread _ h
  · refine ⟨_, issue_thread (fun th u => u.putS (iRd w) (insert16 (th.regs.getS (iRd w)) (iSh w) (iImmL w))) h,
      fun i hi => ?_⟩
    rw [getLsbD_insert16 _ _ _ hi]
    have : ∀ j < 16, (iImmL w).testBit j = w.getLsbD j := fun j hj => by
      rw [iImmL, ifld_eq_toNat, BitVec.testBit_toNat, BitVec.getLsbD_extractLsb']; simp; omega
    by_cases h : 16 * iSh w ≤ i ∧ i < 16 * iSh w + 16
    · rw [if_pos h, if_pos h, this _ (by omega)]
    · rw [if_neg h, if_neg h]

/-- The register files read back what was written, but for S0 and P0 (03, table Per-thread register files). -/
theorem Regs.getS_setS (r : Regs) (n m : Nat) (v : BitVec 64) :
    (r.setS n v).getS m = if m = 0 then 0 else if m = n then v else r.getS m := by
  unfold Regs.setS Regs.getS
  by_cases hn : n = 0
  · grind
  · simp only [hn, if_false, Tab.get_set]
    grind

theorem Regs.getP_setP (r : Regs) (n m : Nat) (v : BitVec 64) :
    (r.setP n v).getP m = if m = 0 then BitVec.allOnes 64 else if m = n then v else r.getP m := by
  unfold Regs.setP Regs.getP
  by_cases hn : n = 0
  · grind
  · simp only [hn, if_false, Tab.get_set]
    grind

theorem Regs.getD_setD (r : Regs) (n m : Nat) (v : BitVec 256) :
    (r.setD n v).getD m = if m = n then v else r.getD m := Tab.get_set ..

theorem Regs.getV_setV (r : Regs) (n m : Nat) (v : BitVec 2048) :
    (r.setV n v).getV m = if m = n then v else r.getV m := Tab.get_set ..

theorem Req.overS_of_dst {q : Req} {n width : Nat} {sg : Bool} (h : q.dst = .s n width sg) :
    q.overS n = { q with superseded := true } := by simp [Req.overS, h]

/-- Settles O7. -/
theorem registerWrites : Obligations.RegisterWrites := by
  unfold Obligations.RegisterWrites
  refine ⟨Regs.getS_setS, Regs.getP_setP, Regs.getD_setD, Regs.getV_setV, fun th n v q width sg hq hd => ?_⟩
  refine ⟨q.overS n, List.mem_map_of_mem hq, ?_⟩
  rw [Req.overS_of_dst hd]
  exact ⟨rfl, rfl⟩

/-- Settles O8: each body changes its thread only, or raises EXPERT_LOCKED before any effect (R95). -/
theorem systemAccess : Obligations.SystemAccess := by
  unfold Obligations.SystemAccess
  intro c t w s th next locked
  refine ⟨fun h => ?_, fun h hn => ?_, fun h h5 hl => ?_, issue_thread _, fun h => ?_⟩
  · exact issue_effThread (fun u => u.putS (iRd w) (s.capReg (ifld w 0 8))) h rfl
  · exact issue_effThread (fun u => u.putS (iRd w) (s.sysVal c t (iSubI w) th)) h (if_neg hn)
  · exact issue_exc h rfl (if_pos ⟨h5, hl⟩)
  · by_cases hx : (s.core c).unlocked = false ∧
      ((w.getLsbD 9 = true ∧ ifld w 1 2 ≠ t % 4) ∨ (w.getLsbD 10 = true ∧ ifld w 3 2 ≠ 0))
    · refine ⟨_, issue_exc h rfl (if_pos ?_), by rw [State.thread_setThread], ?_⟩
      · simpa [ifld_one_beq] using hx
      · rw [if_pos hx, State.thread_setThread]; rfl
    · refine ⟨_, issue_effThread _ h (if_neg ?_), by rw [State.thread_setThread], ?_⟩
      · simpa [ifld_one_beq] using hx
      · rw [if_neg hx, State.thread_setThread]
        refine ⟨rfl, ?_⟩
        simp only [ifld_one_beq, ofNat_ifld, ifld_one_eq_one, CtxMode.compatWrite]
        split <;> rfl

end Sys2Proof.Machine
end

section
/-! SUPPORT. Addresses of load and store instructions and their exceptions at issue (04 R106, R123). -/

namespace Sys2Proof.Machine

/-- The address RA + sext(OFF), as the manual writes it (R123). -/
theorem mAddr_eq (th : Thread) (w : BitVec 64) :
    mAddr th w = (th.regs.getS (iRa w) + (w.extractLsb' 0 30).signExtend 64).toNat := by
  rw [mAddr, iOff, sext64_ifld w 0 (by decide)]

theorem physAddr_iff (a : Nat) :
    physAddr a = true ↔ 0x010000000000 ≤ a ∧ a < 0x010000000000 + 176 * 0x4000000 := by
  rw [physAddr, Bool.and_eq_true, decide_eq_true_eq, decide_eq_true_eq]; rfl

@[simp] theorem State.addrCheck_advance (s : State) (c t c' n : Nat) (as bs : List Nat) :
    (s.advance c t).addrCheck c' n as bs = s.addrCheck c' n as bs := rfl

/-- The exceptions of one address in the order of R106. -/
theorem State.addrCheck_one (s : State) (c n a : Nat) : s.addrCheck c n [a] [a] =
    if (s.core c).unlocked = false ∧ (0x010000000000 ≤ a ∧ a < 0x010000000000 + 176 * 0x4000000) then some cExpert
    else if 2 ^ 48 ≤ a then some cAddrForm
    else if a % n ≠ 0 then some cAlign
    else none := by
  simp only [State.addrCheck, List.any_cons, List.any_nil, Bool.or_false, Bool.and_eq_true, Bool.not_eq_true',
    decide_eq_true_eq, bne_iff_ne, physAddr_iff]

/-- Settles O15: the body of each raises what the check of its address finds, before anything else. -/
theorem addressExceptions : Obligations.AddressExceptions := by
  unfold Obligations.AddressExceptions
  intro c t w s k hk th a site e hacts he
  have hc : s.addrCheck c (widthBytes w) [mAddr (s.thread c t) w] [mAddr (s.thread c t) w] = some e := by
    rw [mAddr_eq, State.addrCheck_one]
    dsimp only [site] at he
    split at he
    · next h => rw [if_pos h, he]
    · next h =>
      rw [if_neg h]
      split at he
      · next h => rw [if_pos h, he]
      · next h => rw [if_neg h, he.2]; exact if_pos he.1
  simp only [List.mem_cons, List.not_mem_nil, or_false] at hk
  obtain rfl | rfl | rfl := hk
  all_goals exact issue_exc hacts rfl (by simp only [State.addrCheck_advance, hc])

end Sys2Proof.Machine
end

section
/-! SUPPORT. Semaphores: who is served, and what an addition leaves (03 R84 to R88). -/

namespace Sys2Proof.Machine

/-- The waiters of one semaphore. -/
def waitersOf (sem : Nat) (ws : List (Nat × Nat × Nat)) : List (Nat × Nat × Nat) := ws.filter fun x => x.1 == sem

/-- What serving the waiters `ws` of semaphore `sem` from value `v` gives, said of its result (R87): a released run
`mine.take k`, the value left, the waiters left, and a head that blocks. -/
def ServedInOrder (sem v : Nat) (ws : List (Nat × Nat × Nat)) (r : List (Nat × Nat × Nat) × Nat × List Nat) : Prop :=
  ∃ k, k ≤ (waitersOf sem ws).length ∧ r.2.2 = ((waitersOf sem ws).take k).map (fun x => x.2.1) ∧
    r.2.1 + (((waitersOf sem ws).take k).map fun x => x.2.2).sum = v ∧
    waitersOf sem r.1 = (waitersOf sem ws).drop k ∧
    (r.1.filter fun x => x.1 != sem) = (ws.filter fun x => x.1 != sem) ∧
    ∀ x, ((waitersOf sem ws).drop k).head? = some x → r.2.1 < x.2.2

theorem serveWaiters_inOrder (sem v : Nat) (ws : List (Nat × Nat × Nat)) :
    ServedInOrder sem v ws (serveWaiters sem ws v) := by
  induction ws generalizing v with
  | nil => exact ⟨0, by simp [serveWaiters, waitersOf]⟩
  | cons x ws ih =>
    by_cases hx : x.1 = sem
    · have hmine : waitersOf sem (x :: ws) = x :: waitersOf sem ws := by simp [waitersOf, hx]
      by_cases hv : x.2.2 ≤ v
      · obtain ⟨k, hk, hrel, hsum, hleft, hother, hhead⟩ := ih (v - x.2.2)
        refine ⟨k + 1, ?_⟩
        simp only [serveWaiters, hx, hv, if_true, hmine, List.length_cons, List.take_succ_cons, List.drop_succ_cons,
          List.map_cons, List.sum_cons]
        exact ⟨by omega, by rw [hrel], by omega, hleft, by simp [hother, hx], hhead⟩
      · refine ⟨0, ?_⟩
        simp only [serveWaiters, hx, hv, if_true, if_false]
        refine ⟨by omega, by simp, by simp, by simp, trivial, fun y hy => ?_⟩
        simp only [hmine, List.drop_zero, List.head?_cons, Option.some.injEq] at hy
        rw [← hy]; omega
    · have hmine (l : List (Nat × Nat × Nat)) : waitersOf sem (x :: l) = waitersOf sem l := by simp [waitersOf, hx]
      obtain ⟨k, hk, hrel, hsum, hleft, hother, hhead⟩ := ih v
      refine ⟨k, ?_⟩
      simp only [serveWaiters, hx, if_false, hmine]
      exact ⟨hk, hrel, hsum, hleft, by rw [List.filter_cons, List.filter_cons, hother], hhead⟩

/-- Where nothing waits on the semaphore, nothing is served. -/
theorem serveWaiters_of_not_waited {sem : Nat} {ws : List (Nat × Nat × Nat)} (h : ∀ x ∈ ws, x.1 ≠ sem) (v : Nat) :
    serveWaiters sem ws v = (ws, v, []) := by
  induction ws with
  | nil => rfl
  | cons x ws ih =>
    rw [serveWaiters, if_neg (h x (List.mem_cons_self ..)), ih fun y hy => h y (List.mem_cons_of_mem _ hy)]

theorem Core.waited_iff (k : Core) (sem : Nat) : k.waited sem = true ↔ ∃ x ∈ k.waiters, x.1 = sem := by
  simp [Core.waited]

/-- The condition of SEM.WAIT and SEM.TRY: nothing waits, and the value suffices (R84, R87). -/
theorem Core.semFree_iff (k : Core) (sem n v : Nat) :
    (!k.waited sem && decide (n ≤ v)) = true ↔ (∀ x ∈ k.waiters, x.1 ≠ sem) ∧ n ≤ v := by
  rw [Bool.and_eq_true, Bool.not_eq_true', ← Bool.not_eq_true, Core.waited_iff, decide_eq_true_eq]
  simp only [not_exists, not_and, ne_eq]

variable {s : State} {c sem : Nat}

/-- The core with one semaphore changed. -/
def Core.setSem (k : Core) (sem v : Nat) : Core := { k with sems := Tab.set 0 k.sems sem (BitVec.ofNat 16 v) }

theorem Core.toNat_get_setSem_self (k : Core) (sem : Nat) {v : Nat} (hv : v ≤ 0xFFFF) :
    (Tab.get 0 (k.setSem sem v).sems sem).toNat = v := by
  rw [Core.setSem, Tab.get_set_self, BitVec.toNat_ofNat, Nat.mod_eq_of_lt (by omega)]

theorem Core.get_setSem_ne (k : Core) {sem m : Nat} (h : m ≠ sem) (v : Nat) :
    Tab.get 0 (k.setSem sem v).sems m = Tab.get 0 k.sems m := Tab.get_set_ne _ _ _ _ h

theorem State.semPut_of_not_waited (h : ∀ x ∈ (s.core c).waiters, x.1 ≠ sem) (v : Nat) :
    s.semPut c sem v = s.setCore c ((s.core c).setSem sem v) := by
  simp only [State.semPut, serveWaiters_of_not_waited h]
  rfl

/-- An addition where nothing waits saturates, and marks the semaphore when it does (R84, R86). -/
theorem State.semAdd_of_not_waited (hd : (s.core c).diked = false) (h : ∀ x ∈ (s.core c).waiters, x.1 ≠ sem) {n : Nat}
    (hn : n ≠ 0) : s.semAdd c sem n = s.setCore c
      { (s.core c).setSem sem (min ((Tab.get 0 (s.core c).sems sem).toNat + n) 0xFFFF) with
        semOvf := if 0xFFFF < (Tab.get 0 (s.core c).sems sem).toNat + n then (s.core c).semOvf ||| (1#64 <<< sem)
          else (s.core c).semOvf } := by
  have hc : ((s.core c).diked || n == 0) = false := by simp [hd, hn]
  rw [State.semAdd]
  dsimp only
  rw [hc, if_neg Bool.false_ne_true]
  by_cases hv : 0xFFFF < (Tab.get 0 (s.core c).sems sem).toNat + n
  · rw [if_pos hv, State.semPut_of_not_waited (by simpa using h), if_pos hv]
    simp [Core.setSem]
  · rw [if_neg hv, State.semPut_of_not_waited h, if_neg hv]
    rfl

/-- SEM.SIG, SEM.WAIT and SEM.TRY name a count of at least 1 (R102). -/
theorem iN_ne_zero {sub t : Nat} {w : BitVec 64} (h : Acts 0x68 sub c t w s) : iN w ≠ 0 := by
  have hl := h.legal
  simp only [Machine.legal, h.opcode, legalS] at hl
  simp at hl
  tauto

end Sys2Proof.Machine
end

section
/-! SUPPORT. The statements about semaphores. -/

namespace Sys2Proof.Machine

theorem exec_semTry (c t : Nat) (w : BitVec 64) (s : State) : exec (.semTry c t w) s = execSemTry c t w s := rfl

/-- SEM.TRY that does not succeed writes 0 and changes nothing else. -/
theorem exec_semTry_of_not_free {c t : Nat} {w : BitVec 64} {s : State} (h : Acts 0x68 2 c t w s)
    (hf : ¬ ((∀ x ∈ (s.core c).waiters, x.1 ≠ iId w) ∧ iN w ≤ (Tab.get 0 (s.core c).sems (iId w)).toNat)) :
    exec (.semTry c t w) s = .next (s.setThread c t ((s.thread c t).stepped.putS (iRd w) 0)) := by
  rw [← Core.semFree_iff] at hf
  exact issue_effThread (fun u => u.putS (iRd w) 0) h (if_neg hf)

/-- Settles O23, by induction on the waiters in the order of their SEM.WAIT. -/
theorem waiterOrder : Obligations.WaiterOrder := by
  unfold Obligations.WaiterOrder
  refine ⟨fun sem v ws => serveWaiters_inOrder sem v ws, fun c t w s h hw => exec_semTry_of_not_free h fun hf => ?_⟩
  obtain ⟨x, hx, hid⟩ := hw
  exact hf.1 x hx hid

/-- Settles O22. -/
theorem semaphoreResults : Obligations.SemaphoreResults := by
  unfold Obligations.SemaphoreResults
  intro c t w s th k id val free others hd
  have hfree : free ↔ _ := (Core.semFree_iff k id (iN w) (val s id)).symm
  have val_le : val s id ≤ 0xFFFF := Nat.le_of_lt_succ (Tab.get 0 k.sems id).isLt
  have hput (hf : free) (v : Nat) : (s.advance c t).semPut c id v = (s.advance c t).setCore c (k.setSem id v) :=
    State.semPut_of_not_waited (s := s.advance c t) hf.1 v
  refine ⟨fun h hw => ?_, fun h hf => ?_, fun h hf => ?_, fun h hf => ?_, fun h hf => exec_semTry_of_not_free h hf⟩
  · refine ⟨_, issue_done h (congrArg Eff.done (State.semAdd_of_not_waited (s := s.advance c t) hd hw (iN_ne_zero h))),
      by rw [State.setCore_thread, State.thread_advance], ?_, fun m hm => ?_, by rw [State.core_setCore]; rfl⟩
    all_goals simp only [val, State.core_setCore]
    · exact k.toNat_get_setSem_self id (Nat.min_le_right ..)
    · exact congrArg BitVec.toNat (k.get_setSem_ne hm _)
  · refine ⟨_, issue_done h ((if_pos (hfree.1 hf)).trans (congrArg Eff.done (hput hf _))),
      by rw [State.setCore_thread, State.thread_advance], ?_, fun m hm => ?_, by rw [State.core_setCore]; rfl⟩
    all_goals simp only [val, State.core_setCore]
    · exact k.toNat_get_setSem_self id (by omega)
    · exact congrArg BitVec.toNat (k.get_setSem_ne hm _)
  · refine ⟨_, issue_done h (if_neg (mt hfree.2 hf)), ?_, ?_⟩
    · rw [State.modThread_eq, State.thread_setThread, State.setCore_thread, State.thread_advance]; rfl
    · rw [State.modThread_eq, State.setThread_core, State.core_setCore]; rfl
  · refine ⟨_, issue_done h ((if_pos (hfree.1 hf)).trans
      (congrArg (fun u => effThread c t u fun u => u.putS (iRd w) 1) (hput hf _))), ?_, ?_, fun m hm => ?_⟩
    · rw [State.modThread_eq, State.thread_setThread, State.setCore_thread, State.thread_advance]
    all_goals simp only [val, State.modThread_eq, State.setThread_core, State.core_setCore]
    · exact k.toNat_get_setSem_self id (by omega)
    · exact congrArg BitVec.toNat (k.get_setSem_ne hm _)

end Sys2Proof.Machine
end

section
/-! SUPPORT. A thread that is listed twice among the waiters of a semaphore is woken twice, and the second wake can find
it in WAIT_SYNC again. -/

namespace Sys2Proof.Machine

/-- A thread in WAIT_SYNC that stops toward WAIT_SYNC. -/
def twiceWoken : Thread := { Thread.init false 0 with state := .waitSync, stopping := some .waitSync }

/-- The reference module with that thread listed twice among the waiters of semaphore 0 of core 0. -/
def twiceListed : State := { State.reset with
  threads := [(0, twiceWoken)]
  cores := [(0, { Core.init with waiters := [(0, 0, 1), (0, 0, 1)] })] }

/-- One wake leaves the thread in WAIT_SYNC, its stop carried out. -/
theorem state_wake_twiceWoken : (Thread.settle { twiceWoken with state := .ready, wait := none }).state = .waitSync := rfl

/-- CORE_SEMSET with 2 wakes it twice, and the second wake makes it READY. -/
theorem state_semSet_twiceListed : ((twiceListed.semSet 0 0 2).thread 0 0).state = .ready := rfl

theorem exec_coreSemsetWrite {c sem : Nat} {s : State} (v : BitVec 16) (hc : c < s.lcores) (hs : sem < 64) :
    exec (.coreSemsetWrite c sem v) s = .next (s.semSet c sem v) := if_pos ⟨hc, hs⟩

/-- Refutes O32: the statement gives each thread released one wake; a thread that stands twice among the waiters is woken
twice, and where it stops toward WAIT_SYNC the first wake leaves it there, so that the second makes it READY. -/
theorem not_hostSemaphores : ¬ Obligations.HostSemaphores := by
  unfold Obligations.HostSemaphores
  intro h
  obtain ⟨-, -, hset⟩ := h.1 0 0 twiceListed (by decide) (by decide) rfl
  obtain ⟨u, hu, -, -, -, -, -, hthread⟩ := hset 2
  obtain rfl : twiceListed.semSet 0 0 2 = u :=
    Host.Outcome.next.inj ((exec_coreSemsetWrite 2 (by decide) (by decide)).symm.trans hu)
  have hstate := congrArg Thread.state (hthread 0 (by decide))
  rw [state_semSet_twiceListed, if_pos (by decide)] at hstate
  exact absurd (hstate.trans state_wake_twiceWoken) (by decide)

end Sys2Proof.Machine
end

section
/-! SUPPORT. Walks over the thread table: what a thread is after every listed thread was changed in turn. -/

namespace Sys2Proof.Machine

/-- A written entry stands once in the table. -/
theorem Tab.set_eq_append {α : Type} [DecidableEq α] {d v : α} (hv : v ≠ d) (m : Tab α) (k : Nat) :
    ∃ l r, Tab.set d m k v = l ++ (k, v) :: r ∧ (∀ e ∈ l, e.1 ≠ k) ∧ ∀ e ∈ r, e.1 ≠ k := by
  have insert_eq (n : Tab α) (hn : ∀ e ∈ n, e.1 ≠ k) :
      ∃ l r, Tab.insert k v n = l ++ (k, v) :: r ∧ (∀ e ∈ l, e.1 ≠ k) ∧ ∀ e ∈ r, e.1 ≠ k := by
    induction n with
    | nil => exact ⟨[], [], rfl, by simp, by simp⟩
    | cons e n ih =>
      obtain ⟨l, r, hl, hl', hr⟩ := ih fun e he => hn e (List.mem_cons_of_mem _ he)
      unfold Tab.insert
      split
      · exact ⟨[], _, rfl, by simp, hn⟩
      · exact ⟨e :: l, r, by rw [hl]; rfl, List.forall_mem_cons.2 ⟨hn e (List.mem_cons_self ..), hl'⟩, hr⟩
  rw [Tab.set, if_neg hv]
  exact insert_eq _ (Tab.not_mem_erase m k)

variable {s : State} {c t : Nat}

/-- A walk over the thread table reaches a thread by its key. -/
theorem State.thread_modThread_key (k : Nat) (f : Thread → Thread) (ht : t < 32) :
    (s.modThread (k / 32) (k % 32) f).thread c t = if k = c * 32 + t then f (s.thread c t) else s.thread c t := by
  split
  · next h =>
    obtain ⟨rfl, rfl⟩ : c = k / 32 ∧ t = k % 32 := by omega
    exact State.thread_setThread ..
  · next h => exact State.thread_setThread_ne _ _ _ _ (by omega)

end Sys2Proof.Machine
end

section
/-! SUPPORT. Step fences: what a round of this module alone does (03 R92 to R94; 12 R404; assumption 46). -/

namespace Sys2Proof.Machine

/-! ## Rounds of a group -/

theorem Group.k_round (x : Group) (k : BitVec 32) : (x.round k).k = k := by
  rw [Group.round]
  cases h : x.rounds.find? fun r => r.k == k with
  | none => rfl
  | some r => simpa using List.find?_some h

theorem Group.round_setRound (x : Group) (r : Round) : (x.setRound r).round r.k = r := by
  have h : (x.rounds.filter fun y => y.k != r.k).find? (fun y => y.k == r.k) = none := by
    simp [List.find?_eq_none]
  simp [Group.round, Group.setRound, List.find?_append, h]

variable (s : State) (g : Nat)

@[simp] theorem State.group_setGroup (x : Group) : (s.setGroup g x).group g = x := Tab.get_set_self ..

@[simp] theorem State.setGroup_thread (x : Group) (c t : Nat) : (s.setGroup g x).thread c t = s.thread c t := rfl

@[simp] theorem State.setGroup_setGroup (x y : Group) : (s.setGroup g x).setGroup g y = s.setGroup g y := by
  simp [State.setGroup, State.modCol]

/-- The register of a step fence of group `g` that ends when its step satisfies `p`. -/
def Wait.fenceReg (g : Nat) (p : BitVec 32 → Bool) : Wait → Option Nat
  | .step g' k rd => if g' = g ∧ p k then some rd else none
  | _ => none

/-- One entry of the walk that releases step fences. -/
def State.releaseEntry (g : Nat) (p : BitVec 32 → Bool) (v : BitVec 64) (s : State) (e : Nat × Thread) : State :=
  (e.2.wait.bind (Wait.fenceReg g p)).elim s fun rd => s.modThread (e.1 / 32) (e.1 % 32) (Thread.fenceDone v rd)

theorem State.stepRelease_eq_foldl (p : BitVec 32 → Bool) (v : BitVec 64) :
    s.stepRelease g p v = s.threads.foldl (State.releaseEntry g p v) s := by
  unfold State.stepRelease
  congr 1
  funext s e
  unfold State.releaseEntry
  match e.2.wait with
  | none | some (.sem ..) | some (.bar ..) => rfl
  | some (.step g' k rd) =>
    by_cases h : g' = g ∧ p k = true
    · simp [Wait.fenceReg, h]
    · simp [Wait.fenceReg, h]

theorem State.releaseEntry_cases (p : BitVec 32 → Bool) (v : BitVec 64) (e : Nat × Thread) :
    ∃ ts, s.releaseEntry g p v e = { s with threads := ts } := by
  unfold State.releaseEntry
  cases e.2.wait.bind (Wait.fenceReg g p) with
  | none => exact ⟨s.threads, rfl⟩
  | some rd => exact ⟨_, rfl⟩

/-- The release of step fences changes threads. -/
theorem State.stepRelease_cases (p : BitVec 32 → Bool) (v : BitVec 64) :
    ∃ ts, s.stepRelease g p v = { s with threads := ts } := by
  rw [State.stepRelease_eq_foldl]
  generalize s.threads = l
  induction l generalizing s with
  | nil => exact ⟨s.threads, rfl⟩
  | cons e l ih =>
    rw [List.foldl_cons]
    obtain ⟨ts, h⟩ := s.releaseEntry_cases g p v e
    obtain ⟨ts', h'⟩ := ih (s.releaseEntry g p v e)
    exact ⟨ts', by rw [h', h]⟩

@[simp] theorem State.mem_stepRelease (p : BitVec 32 → Bool) (v : BitVec 64) : (s.stepRelease g p v).mem = s.mem := by
  obtain ⟨ts, h⟩ := s.stepRelease_cases g p v
  rw [h]

@[simp] theorem State.group_stepRelease (p : BitVec 32 → Bool) (v : BitVec 64) (g' : Nat) :
    (s.stepRelease g p v).group g' = s.group g' := by
  obtain ⟨ts, h⟩ := s.stepRelease_cases g p v
  rw [h]; rfl

theorem State.thread_releaseEntry_ne {c t : Nat} (ht : t < 32) (p : BitVec 32 → Bool) (v : BitVec 64)
    {e : Nat × Thread} (he : e.1 ≠ c * 32 + t) : (s.releaseEntry g p v e).thread c t = s.thread c t := by
  unfold State.releaseEntry
  cases e.2.wait.bind (Wait.fenceReg g p) with
  | none => rfl
  | some rd => exact (State.thread_modThread_key _ _ ht).trans (if_neg he)

/-- A thread of the table that waits for such a step completes its fence, once. -/
theorem State.thread_stepRelease {c t : Nat} {x : Thread} {m : Tab Thread} {p : BitVec 32 → Bool} {k : BitVec 32}
    {rd : Nat} (v : BitVec 64) (ht : t < 32)
    (hs : s.threads = Tab.set (Thread.init s.compat t) m (c * 32 + t) x) (hw : x.wait = some (.step g k rd))
    (hp : p k = true) : (s.stepRelease g p v).thread c t = x.fenceDone v rd := by
  have others (l : List (Nat × Thread)) (hl : ∀ e ∈ l, e.1 ≠ c * 32 + t) (s : State) :
      (l.foldl (State.releaseEntry g p v) s).thread c t = s.thread c t := by
    induction l generalizing s with
    | nil => rfl
    | cons e l ih =>
      rw [List.foldl_cons, ih fun e he => hl e (List.mem_cons_of_mem _ he),
        State.thread_releaseEntry_ne _ _ ht _ _ (hl e (List.mem_cons_self ..))]
  have self (s : State) : (s.releaseEntry g p v (c * 32 + t, x)).thread c t = (s.thread c t).fenceDone v rd := by
    simp only [State.releaseEntry, hw, Option.bind_some, Wait.fenceReg, hp, and_self, if_true, Option.elim]
    exact (State.thread_modThread_key _ _ ht).trans (if_pos rfl)
  have hx : x ≠ Thread.init s.compat t := by rintro rfl; cases hw
  have hthread : s.thread c t = x := by rw [State.thread, hs, Tab.get_set_self]
  obtain ⟨l, r, hlist, hl, hr⟩ := Tab.set_eq_append hx m (c * 32 + t)
  rw [State.stepRelease_eq_foldl, hs, hlist, List.foldl_append, List.foldl_cons, others r hr, self, others l hl, hthread]

/-- The group with an arrival counted for step `k`. -/
def Group.arrive (x : Group) (k : BitVec 32) : Group := x.setRound { x.round k with count := (x.round k).count + 1 }

theorem Group.round_arrive (x : Group) (k : BitVec 32) :
    (x.arrive k).round k = { x.round k with count := (x.round k).count + 1 } := by
  have h := x.round_setRound { x.round k with count := (x.round k).count + 1 }
  rwa [show Round.k { x.round k with count := (x.round k).count + 1 } = k from x.k_round k] at h

@[simp] theorem Group.mfence_arrive (x : Group) (k : BitVec 32) : (x.arrive k).mfence = x.mfence := rfl
@[simp] theorem Group.fcount_arrive (x : Group) (k : BitVec 32) : (x.arrive k).fcount = x.fcount := rfl
@[simp] theorem Group.step_arrive (x : Group) (k : BitVec 32) : (x.arrive k).step = x.step := rfl

/-! ## One fence -/

section
variable {s} {g} {k : BitVec 32} {x : Group} (hx : s.group g = x)
include hx

theorem State.fenceWait_off {c t rd : Nat} (h : x.en = false ∨ s.col.go = false) :
    s.fenceWait c t g k rd = s.modThread c t fun u => u.putS rd 1 := by
  rw [State.fenceWait, hx]
  exact if_pos (by simpa using h)

theorem State.fenceWait_on {c t rd : Nat} (hen : x.en = true) (hgo : s.col.go = true) :
    s.fenceWait c t g k rd = s.modThread c t fun u =>
      if stepGe x.step k then u.putS rd 0 else u.startWait (.step g k rd) := by
  rw [State.fenceWait, hx, if_neg (by simp [hen, hgo])]
  split <;> rfl

theorem State.fenceArrive_off (h : x.en = false ∨ s.col.go = false) : s.fenceArrive g k = s := by
  rw [State.fenceArrive, hx]
  exact if_pos (by simpa using h)

/-- An arrival is counted (R94, R404). -/
theorem State.fenceArrive_on (hen : x.en = true) (hgo : s.col.go = true) : s.fenceArrive g k =
    (s.setGroup g (x.arrive k)).roundGo g k := by
  rw [State.fenceArrive, hx]
  exact if_neg (by simp [hen, hgo])

theorem State.roundGo_of_count_lt (h : (x.round k).count < x.fcount) : s.roundGo g k = s := by
  rw [State.roundGo, hx]
  exact if_pos (by simp [h])

/-- A complete round of a group without MFENCE ends on this module alone, and sets the counter (assumption 46). -/
theorem State.roundGo_of_complete (hm : x.mfence = false) (hsent : (x.round k).sent = false)
    (h : x.fcount ≤ (x.round k).count) :
    s.roundGo g k = (s.setGroup g { x with rounds := x.rounds.filter fun r => r.k != k }).setCounter g k := by
  rw [State.roundGo, hx, if_neg (by simp [hsent, h]), if_pos (by simp [hm]), State.fenceRelease, hx]
  simp [hm]

end

end Sys2Proof.Machine
end

section
/-! SUPPORT. The statement about fences. -/

namespace Sys2Proof.Machine

/-- A fence that the counter does not end yet, in the thread that executes it. -/
def Thread.fenced (th : Thread) (x : Group) (g : Nat) (k : BitVec 32) (rd : Nat) : Thread :=
  if stepGe x.step k then th.putS rd 0 else th.startWait (.step g k rd)

variable {c t : Nat} {w : BitVec 64} {s : State}

/-- STEPFENCE while group and engine are on: the thread goes on with 0, or waits (R92). -/
theorem exec_stepfence_on (h : Acts 0x6B 0 c t w s) (hen : (s.group (iId w)).en = true) (hgo : s.col.go = true) :
    exec (.stepfence c t w) s = .next (s.setThread c t ((s.thread c t).stepped.fenced (s.group (iId w)) (iId w)
      (((s.thread c t).regs.getS (iRa w)).extractLsb' 0 32) (iRd w))) :=
  issue_effThread (fun u => u.fenced (s.group (iId w)) (iId w) (((s.thread c t).regs.getS (iRa w)).extractLsb' 0 32)
    (iRd w)) h (congrArg Eff.done (State.fenceWait_on (s := s.advance c t) rfl hen hgo))

theorem exec_stepfence_off (h : Acts 0x6B 0 c t w s) (hoff : (s.group (iId w)).en = false ∨ s.col.go = false) :
    exec (.stepfence c t w) s = .next (s.setThread c t ((s.thread c t).stepped.putS (iRd w) 1)) :=
  issue_effThread (fun u => u.putS (iRd w) 1) h
    (congrArg Eff.done (State.fenceWait_off (s := s.advance c t) rfl hoff))

theorem exec_stepfenceM_off (h : Acts 0x6B 1 c t w s) (hoff : (s.group (iId w)).en = false ∨ s.col.go = false) :
    exec (.stepfenceM c t w) s = .next (s.setThread c t ((s.thread c t).stepped.putS (iRd w) 1)) := by
  refine issue_effThread (fun u => u.putS (iRd w) 1) h (congrArg Eff.done ?_)
  rw [State.fenceWait_off (s := s.advance c t) rfl hoff]
  exact State.fenceArrive_off (s := (s.advance c t).modThread c t _) rfl hoff

/-- STEPFENCE.M does the same and is counted as an arrival (R94). -/
theorem exec_stepfenceM_on (h : Acts 0x6B 1 c t w s) (hen : (s.group (iId w)).en = true) (hgo : s.col.go = true) :
    let x := s.group (iId w)
    let k := ((s.thread c t).regs.getS (iRa w)).extractLsb' 0 32
    exec (.stepfenceM c t w) s = .next (((s.setThread c t ((s.thread c t).stepped.fenced x (iId w) k (iRd w))).setGroup
      (iId w) (x.arrive k)).roundGo (iId w) k) := by
  refine issue_done h (congrArg Eff.done ?_)
  rw [State.fenceWait_on (s := s.advance c t) rfl hen hgo]
  refine (State.fenceArrive_on (s := (s.advance c t).modThread c t _) rfl hen hgo).trans ?_
  rw [State.modThread_eq, State.thread_advance, State.advance_eq, State.setThread_setThread]
  rfl

/-- A thread that issues is not being stopped (R60). -/
theorem Runs.stopping_eq_none {op sub : Nat} (h : Runs op sub c t w s) : (s.thread c t).stopping = none := by
  have hi := h.canIssue
  rw [Thread.canIssue, Bool.and_eq_true] at hi
  exact Option.isNone_iff_eq_none.1 hi.2

theorem stepGe_self (k : BitVec 32) : stepGe k k = true := by simp [stepGe]

/-- A fence that ends leaves the wait with its status in the register. -/
theorem Thread.fenceDone_startWait {th : Thread} (hstop : th.stopping = none) (v : BitVec 64) (rd : Nat) (x : Wait) :
    ((th.startWait x).fenceDone v rd).regs = th.regs.setS rd v ∧ ((th.startWait x).fenceDone v rd).state = .ready := by
  simp [Thread.fenceDone, Thread.startWait, Thread.wake, Thread.putS, Thread.settle, hstop]

/-- The thread that completes the round of its group does not wait. -/
theorem State.setCounter_fenced {th : Thread} {g rd : Nat} {k : BitVec 32} {x y : Group} (ht : t < 32)
    (hstop : th.stopping = none) (hready : th.state = .ready) (hy : y.step = x.step) :
    let u := ((s.setThread c t (th.fenced x g k rd)).setGroup g y).setCounter g k
    u.mem = s.mem ∧ (u.group g).step = (if stepGe x.step k then x.step else k) ∧ (u.group g).rounds = y.rounds ∧
      (u.thread c t).regs = th.regs.setS rd 0 ∧ (u.thread c t).state = .ready := by
  intro u
  by_cases hreached : stepGe x.step k
  · have hu : u = (s.setThread c t (th.putS rd 0)).setGroup g y := by
      simp only [u, Thread.fenced, hreached, if_true]
      rw [State.setCounter, State.group_setGroup, hy, if_pos hreached]
    have hthread : u.thread c t = th.putS rd 0 := by rw [hu, State.setGroup_thread, State.thread_setThread]
    rw [hthread, hu, State.group_setGroup, if_pos hreached]
    exact ⟨rfl, hy, rfl, rfl, hready⟩
  · have hu : u = ((s.setThread c t (th.startWait (.step g k rd))).setGroup g
        { y with step := k, ends := y.ends.filter fun e => !stepGe k e.1 }).stepRelease g (stepGe k) 0 := by
      simp only [u, Thread.fenced, hreached, Bool.false_eq_true, if_false]
      rw [State.setCounter, State.group_setGroup, hy, if_neg hreached, State.setGroup_setGroup]
    have hthread : u.thread c t = (th.startWait (.step g k rd)).fenceDone 0 rd := by
      rw [hu]
      exact State.thread_stepRelease _ g 0 ht rfl rfl (stepGe_self k)
    rw [hthread, hu, State.mem_stepRelease, State.group_stepRelease, State.group_setGroup, if_neg hreached]
    exact ⟨rfl, rfl, rfl, Thread.fenceDone_startWait hstop 0 rd _⟩

/-- Settles O24. -/
theorem fenceResults : Obligations.FenceResults := by
  unfold Obligations.FenceResults
  intro c t w s th loc k x reached
  have hloc : (th.reqs.any fun r => r.parts.any fun p => p.node.isNone) = true ↔ loc := by
    simp [loc]
  have hout : (th.reqs.isEmpty && th.msgs.isEmpty) = true ↔ th.reqs = [] ∧ th.msgs = [] := by simp
  have hreached : stepGe x.step k = true ↔ reached := decide_eq_true_iff
  have fenced_of_reached (h : reached) : th.stepped.fenced x (iId w) k (iRd w) = th.stepped.putS (iRd w) 0 :=
    if_pos (hreached.2 h)
  have fenced_of_not (h : ¬ reached) : th.stepped.fenced x (iId w) k (iRd w) =
      { th.stepped with state := .waitSync, wait := some (.step (iId w) k (iRd w)) } := if_neg (mt hreached.1 h)
  refine ⟨fun h => issue_done h rfl, fun h hl => issue_done h (if_neg (mt hloc.1 hl)),
    fun h hl => issue_hold h (if_pos (hloc.2 hl)), fun h hr hm => issue_done h (if_pos (hout.2 ⟨hr, hm⟩)),
    fun h ho => issue_hold h (if_neg fun hn => ho.elim (· (hout.1 hn).1) (· (hout.1 hn).2)),
    fun h hen hgo hr => ?_, fun h hen hgo hr => ?_, fun e he h hoff => ?_, fun h hen hgo hc => ?_,
    fun h hen hgo hm hsent hc => ?_⟩
  · rw [exec_stepfence_on h hen hgo, fenced_of_reached hr]
  · rw [exec_stepfence_on h hen hgo, fenced_of_not hr]
  · simp only [List.mem_cons, List.not_mem_nil, or_false] at he
    obtain rfl | rfl := he
    · exact exec_stepfence_off h hoff
    · exact exec_stepfenceM_off h hoff
  · rw [exec_stepfenceM_on h hen hgo, State.roundGo_of_count_lt (State.group_setGroup ..)
      (by rw [Group.round_arrive]; exact hc)]
    by_cases hr : reached
    · rw [fenced_of_reached hr, if_pos hr]; rfl
    · rw [fenced_of_not hr, if_neg hr]; rfl
  · have hgo' := State.roundGo_of_complete (s := (s.setThread c t (th.stepped.fenced x (iId w) k (iRd w))).setGroup
      (iId w) (x.arrive k)) (State.group_setGroup ..) (k := k) hm (by rw [Group.round_arrive]; exact hsent)
      (by rw [Group.round_arrive]; exact hc)
    rw [State.setGroup_setGroup] at hgo'
    obtain ⟨hmem, hstep, hrounds, hregs, hstate⟩ := State.setCounter_fenced (s := s) (c := c) (g := iId w) (k := k)
      (rd := iRd w) (x := x) (y := { x.arrive k with rounds := (x.arrive k).rounds.filter fun r => r.k != k }) h.thread
      (th := th.stepped) h.stopping_eq_none rfl rfl
    refine ⟨_, (exec_stepfenceM_on h hen hgo).trans (congrArg _ hgo'), hmem, ?_, ?_, hregs, hstate⟩
    · simpa only [hreached] using hstep
    · rw [hrounds]
      simp

end Sys2Proof.Machine
end

section
/-! SUPPORT. Barrier channels: what a write, an arrival and a wait do (03 R89 to R91). -/

namespace Sys2Proof.Machine

variable {s : State} {c t d ch : Nat}

/-! ## The channels of a die -/

@[simp] theorem State.bar_setBar (b : Bar) : (s.setBar d ch b).bar d ch = b := by
  simp [State.setBar, State.bar, State.modDie_eq]

@[simp] theorem State.setDie_setDie (x y : Die) : (s.setDie d x).setDie d y = s.setDie d y := by
  simp [State.setDie]

@[simp] theorem State.setBar_setBar (b b' : Bar) : (s.setBar d ch b).setBar d ch b' = s.setBar d ch b' := by
  simp only [State.setBar, State.modDie_eq, State.die_setDie, State.setDie_setDie, Tab.set_set]

@[simp] theorem State.setBar_thread (b : Bar) (c' t' : Nat) : (s.setBar d ch b).thread c' t' = s.thread c' t' := rfl

@[simp] theorem State.setBar_mem (b : Bar) : (s.setBar d ch b).mem = s.mem := rfl

@[simp] theorem State.modThread_bar (c t : Nat) (f : Thread → Thread) (d' ch' : Nat) :
    (s.modThread c t f).bar d' ch' = s.bar d' ch' := rfl

theorem State.bar_setDie (x : Die) : (s.setDie d x).bar d ch = Tab.get Bar.init x.bars ch := by
  rw [State.bar, State.die_setDie]

/-! ## Waking -/

/-- Every listed thread is woken in turn. -/
def State.wakeKeys (s : State) (ks : List Nat) : State :=
  ks.foldl (fun s k => s.modThread (k / 32) (k % 32) Thread.wake) s

theorem State.wakeKeys_cases (s : State) (ks : List Nat) : ∃ ts, s.wakeKeys ks = { s with threads := ts } := by
  induction ks generalizing s with
  | nil => exact ⟨s.threads, rfl⟩
  | cons k ks ih =>
    obtain ⟨ts, h⟩ := ih (s.modThread (k / 32) (k % 32) Thread.wake)
    exact ⟨ts, h.trans rfl⟩

/-- Where a second wake changes nothing, a listed thread ends as one wake leaves it. -/
theorem State.thread_wakeKeys (s : State) (ks : List Nat) (ht : t < 32)
    (hw : (s.thread c t).wake.wake = (s.thread c t).wake) :
    (s.wakeKeys ks).thread c t = if c * 32 + t ∈ ks then (s.thread c t).wake else s.thread c t := by
  induction ks generalizing s with
  | nil => rfl
  | cons k ks ih =>
    have hk := s.thread_modThread_key (c := c) (t := t) k Thread.wake ht
    change ((s.modThread (k / 32) (k % 32) Thread.wake).wakeKeys ks).thread c t = _
    by_cases h : k = c * 32 + t
    · rw [if_pos h] at hk
      rw [ih _ (by rw [hk, hw, hw]), hk, hw, ite_self, if_pos (h ▸ List.mem_cons_self ..)]
    · rw [if_neg h] at hk
      rw [ih _ (by rw [hk, hw]), hk]
      simp [Ne.symm h]

/-- A thread that waits and is not being stopped becomes READY. -/
theorem Thread.wake_of_waiting {th : Thread} (hs : th.state = .waitSync) (hstop : th.stopping = none) :
    th.wake = { th with state := .ready, wait := none } := by
  simp [Thread.wake, Thread.settle, hs, hstop]

theorem Thread.wake_of_ready {th : Thread} (hs : th.state = .ready) : th.wake = th := by
  simp [Thread.wake, hs]

theorem State.barWake_eq (s : State) (d ch gen : Nat) : s.barWake d ch gen = s.wakeKeys
    ((s.threads.filter fun e => e.2.wait == some (.bar ch gen) && s.dieOf (e.1 / 32) == d).map Prod.fst) := rfl

@[simp] theorem State.barWake_mem (s : State) (d ch gen : Nat) : (s.barWake d ch gen).mem = s.mem := by
  obtain ⟨ts, h⟩ := s.wakeKeys_cases
    ((s.threads.filter fun e => e.2.wait == some (.bar ch gen) && s.dieOf (e.1 / 32) == d).map Prod.fst)
  rw [State.barWake_eq, h]

@[simp] theorem State.barWake_bar (s : State) (d ch gen d' ch' : Nat) :
    (s.barWake d ch gen).bar d' ch' = s.bar d' ch' := by
  obtain ⟨ts, h⟩ := s.wakeKeys_cases
    ((s.threads.filter fun e => e.2.wait == some (.bar ch gen) && s.dieOf (e.1 / 32) == d).map Prod.fst)
  rw [State.barWake_eq, h]; rfl

@[simp] theorem State.barWake_dieOf (s : State) (d ch gen c : Nat) : (s.barWake d ch gen).dieOf c = s.dieOf c := by
  obtain ⟨ts, h⟩ := s.wakeKeys_cases
    ((s.threads.filter fun e => e.2.wait == some (.bar ch gen) && s.dieOf (e.1 / 32) == d).map Prod.fst)
  rw [State.barWake_eq, h]; rfl

theorem State.barWake_thread_of_ready {gen : Nat} (ht : t < 32) (hs : (s.thread c t).state = .ready) :
    (s.barWake d ch gen).thread c t = s.thread c t := by
  rw [State.barWake_eq, State.thread_wakeKeys _ _ ht (by rw [Thread.wake_of_ready hs, Thread.wake_of_ready hs]),
    Thread.wake_of_ready hs, ite_self]

/-- An entry that a read of the table finds stands in it. -/
theorem Tab.mem_of_get_ne {α : Type} {e : α} {m : Tab α} {k : Nat} (h : Tab.get e m k ≠ e) :
    (k, Tab.get e m k) ∈ m := by
  induction m with
  | nil => exact absurd rfl h
  | cons x m ih =>
    obtain ⟨j, v⟩ := x
    rw [Tab.get] at h ⊢
    split
    · next hj => subst hj; exact List.mem_cons_self ..
    · next hj => rw [if_neg hj] at h; exact List.mem_cons_of_mem _ (ih h)

/-- A thread of the die that waits for the generation is woken. -/
theorem State.barWake_thread_of_waiting {gen : Nat} (ht : t < 32) (hd : s.dieOf c = d)
    (hs : (s.thread c t).state = .waitSync) (hstop : (s.thread c t).stopping = none)
    (hw : (s.thread c t).wait = some (.bar ch gen)) :
    (s.barWake d ch gen).thread c t = { s.thread c t with state := .ready, wait := none } := by
  have hwake := Thread.wake_of_waiting hs hstop
  have hmem : (c * 32 + t, s.thread c t) ∈ s.threads := by
    refine Tab.mem_of_get_ne fun h => ?_
    rw [show s.thread c t = Thread.init s.compat t from h] at hw
    cases hw
  rw [State.barWake_eq, State.thread_wakeKeys _ _ ht (by rw [hwake]; exact Thread.wake_of_ready rfl), hwake, if_pos]
  refine List.mem_map.2 ⟨_, List.mem_filter.2 ⟨hmem, ?_⟩, rfl⟩
  have hc : (c * 32 + t) / 32 = c := by omega
  simp [hw, hc, hd]

/-! ## Arrivals -/

/-- The channel after one more arrival at die scope (R90). -/
def Bar.arrived (b : Bar) : Bar :=
  if b.count.toNat ≤ b.arrivals + 1 then { b with gen := b.gen + 1, arrivals := b.arrivals + 1 - b.count.toNat }
  else { b with arrivals := b.arrivals + 1 }

/-- The thread after its arrival. -/
def Thread.arrive (th : Thread) (b : Bar) (ch : Nat) : Thread :=
  { th with arrived := Tab.set 0 th.arrived ch (b.nextGen + 1) }

theorem Thread.get_arrived_arrive (th : Thread) (b : Bar) (ch : Nat) :
    Tab.get 0 (th.arrive b ch).arrived ch = b.nextGen + 1 := by simp [Thread.arrive]

section
variable (hscope : (s.bar (s.dieOf c) ch).scope = false)
include hscope

/-- An arrival at die scope is recorded; the last one releases the generation and wakes who waits for it (R90). -/
theorem State.barArrive_eq : s.barArrive c t ch =
    let d := s.dieOf c
    let b := s.bar d ch
    let u := (s.setThread c t ((s.thread c t).arrive b ch)).setBar d ch b.arrived
    if b.count.toNat ≤ b.arrivals + 1 then u.barWake d ch b.gen.toNat else u := by
  rw [State.barArrive]
  dsimp only
  rw [State.barTry, State.bar_setBar, if_neg (by simp [hscope]), State.barReleaseDie, State.bar_setBar,
    State.setBar_setBar]
  by_cases h : (s.bar (s.dieOf c) ch).count.toNat ≤ (s.bar (s.dieOf c) ch).arrivals + 1
  · rw [if_pos h, if_pos h, Bar.arrived, if_pos h]; rfl
  · rw [if_neg h, if_neg h, Bar.arrived, if_neg h]; rfl

theorem State.barArrive_mem : (s.barArrive c t ch).mem = s.mem := by
  rw [State.barArrive_eq hscope]
  dsimp only
  split
  · exact State.barWake_mem ..
  · rfl

theorem State.barArrive_dieOf : (s.barArrive c t ch).dieOf c = s.dieOf c := by
  rw [State.barArrive_eq hscope]
  dsimp only
  split
  · rw [State.barWake_dieOf]; rfl
  · rfl

theorem State.barArrive_bar : (s.barArrive c t ch).bar (s.dieOf c) ch = (s.bar (s.dieOf c) ch).arrived := by
  rw [State.barArrive_eq hscope]
  dsimp only
  split
  · rw [State.barWake_bar, State.bar_setBar]
  · rw [State.bar_setBar]

/-- The thread that arrives is READY, and is not woken by its own arrival. -/
theorem State.barArrive_thread (ht : t < 32) (hs : (s.thread c t).state = .ready) :
    (s.barArrive c t ch).thread c t = (s.thread c t).arrive (s.bar (s.dieOf c) ch) ch := by
  rw [State.barArrive_eq hscope]
  dsimp only
  split
  · rw [State.barWake_thread_of_ready ht, State.setBar_thread, State.thread_setThread]
    rw [State.setBar_thread, State.thread_setThread]; exact hs
  · rw [State.setBar_thread, State.thread_setThread]

end

/-- The last arrival wakes the threads of the die that wait for the generation. -/
theorem State.barArrive_thread_of_waiting {c' t' : Nat} (hscope : (s.bar (s.dieOf c) ch).scope = false) (ht' : t' < 32)
    (hlast : (s.bar (s.dieOf c) ch).count.toNat ≤ (s.bar (s.dieOf c) ch).arrivals + 1) (hne : c' * 32 + t' ≠ c * 32 + t)
    (hd : s.dieOf c' = s.dieOf c) (hs : (s.thread c' t').state = .waitSync) (hstop : (s.thread c' t').stopping = none)
    (hw : (s.thread c' t').wait = some (.bar ch (s.bar (s.dieOf c) ch).gen.toNat)) :
    (s.barArrive c t ch).thread c' t' = { s.thread c' t' with state := .ready, wait := none } := by
  rw [State.barArrive_eq hscope]
  dsimp only
  have hth : ((s.setThread c t ((s.thread c t).arrive (s.bar (s.dieOf c) ch) ch)).setBar (s.dieOf c) ch
      (s.bar (s.dieOf c) ch).arrived).thread c' t' = s.thread c' t' := by
    rw [State.setBar_thread, State.thread_setThread_ne _ _ _ _ hne]
  generalize hu : State.setBar _ _ _ _ = u at hth ⊢
  have hd' : u.dieOf c' = s.dieOf c := by rw [← hu]; exact hd
  rw [if_pos hlast, State.barWake_thread_of_waiting ht' hd' (by rw [hth, hs]) (by rw [hth, hstop]) (by rw [hth, hw]), hth]

/-- A thread that has arrived waits while its generation is not released (R90). -/
theorem State.barWait_eq {b : Bar} {g : Nat} (hd : s.dieOf c = d) (hb : s.bar d ch = b)
    (hg : Tab.get 0 (s.thread c t).arrived ch = g + 1) : s.barWait c t ch =
    if (g + 2 ^ 16 - b.gen.toNat) % 2 ^ 16 < 2 ^ 15 then s.modThread c t fun u => u.startWait (.bar ch g) else s := by
  rw [State.barWait, hd, hb, hg]

end Sys2Proof.Machine
end

section
/-! SUPPORT. The statement about barriers. -/

namespace Sys2Proof.Machine

variable {c t d ch : Nat} {s : State}

theorem exec_barCfgEnable {w : BitVec 32} (hd : d < 4) (hch : ch < 64) (hw : w.getLsbD 12 = true) :
    exec (.barCfgEnable d ch w) s = .next (s.writeBarCfg d ch w) := if_pos ⟨hd, hch, hw⟩

/-- An enabled channel keeps COUNT and SCOPE, and stays as it is when ENABLE is written 1 again. -/
theorem State.writeBarCfg_of_enabled {w : BitVec 32} (hen : (s.bar d ch).enable = true) (hw : w.getLsbD 12 = true) :
    s.writeBarCfg d ch w = s.setBar d ch (s.bar d ch) := by
  have hb : ({ s.bar d ch with enable := true } : Bar) = s.bar d ch := by rw [← hen]
  rw [State.writeBarCfg, if_pos hen, hw]
  dsimp only
  rw [if_neg (by simp), hb]

/-- ENABLE of a disabled channel sets COUNT and SCOPE, and enables it where COUNT can be reached (R89). -/
theorem State.writeBarCfg_of_disabled {w : BitVec 32} (hen : (s.bar d ch).enable = false) (hw : w.getLsbD 12 = true) :
    s.writeBarCfg d ch w =
      let b : Bar := { s.bar d ch with count := w.extractLsb' 0 11, scope := w.getLsbD 11 }
      if w.extractLsb' 0 11 = 0 ∨ s.liveContexts d < (w.extractLsb' 0 11).toNat then
        (s.setBar d ch b).modDie d fun x => { x with barReason := 0x04 }
      else s.setBar d ch { b with enable := true, arrivals := 0 } := by
  rw [State.writeBarCfg, if_neg (by simp [hen]), hw]
  rfl

/-- A thread that issues does not wait for an event (R60, R73). -/
theorem Runs.state_ne_waitSync {op sub : Nat} {w : BitVec 64} (h : Runs op sub c t w s) :
    (s.thread c t).state ≠ .waitSync := fun hs => by
  have hi := h.canIssue
  rw [Thread.canIssue, hs] at hi
  simp at hi

/-- Settles O33. -/
theorem barrierResults : Obligations.BarrierResults := by
  unfold Obligations.BarrierResults
  refine ⟨fun d ch w s hd hch hw => ?_, fun c t w s => ?_⟩
  · intro b n bad
    refine ⟨fun hen hbad => ⟨_, exec_barCfgEnable hd hch hw, ?_⟩, fun hen hbad => ⟨_, exec_barCfgEnable hd hch hw, ?_⟩,
      fun hen => ⟨_, exec_barCfgEnable hd hch hw, ?_⟩⟩
    · rw [State.writeBarCfg_of_disabled hen hw]
      dsimp only
      rw [if_pos hbad, State.modDie_eq, State.die_setDie, State.bar_setDie]
      refine ⟨?_, rfl, rfl⟩
      exact (congrArg Bar.enable (State.bar_setBar ..)).trans hen
    · rw [State.writeBarCfg_of_disabled hen hw]
      dsimp only
      rw [if_neg hbad, State.bar_setBar]
      exact ⟨rfl, rfl⟩
    · rw [State.writeBarCfg_of_enabled hen hw, State.bar_setBar]
  · intro th d ch b last gen arr bar'
    have hunit : unitOf 0x69 = some 6 := rfl
    refine ⟨fun hen k hk h => ?_, fun hen hscope => ⟨fun h => ?_, fun h g hg => ?_, fun h hlt => ?_⟩⟩
    · simp only [List.mem_cons, List.not_mem_nil, or_false] at hk
      obtain rfl | rfl | rfl := hk
      all_goals exact issue_exc h hunit (if_neg (Bool.eq_false_iff.1 hen))
    · have hadv : ((s.advance c t).thread c t).state = .ready := by rw [State.thread_advance]; rfl
      have hth := State.barArrive_thread (s := s.advance c t) (ch := ch) hscope h.thread hadv
      rw [State.thread_advance] at hth
      refine ⟨_, issue_done h (if_pos hen), State.barArrive_mem (s := s.advance c t) hscope,
        State.barArrive_bar (s := s.advance c t) hscope, congrArg Thread.pc hth, congrArg Thread.state hth,
        congrArg Thread.arrived hth, by rw [hth]; rfl, fun hlast c' t' ht' hd hs hstop hw => ?_⟩
      have hne : c' * 32 + t' ≠ c * 32 + t := fun he => by
        obtain ⟨rfl, rfl⟩ : c' = c ∧ t' = t := by have := h.thread; omega
        exact h.state_ne_waitSync hs
      have hsame : (s.advance c t).thread c' t' = s.thread c' t' := State.thread_setThread_ne _ _ _ _ hne
      rw [State.barArrive_thread_of_waiting (s := s.advance c t) hscope ht' hlast hne hd (by rw [hsame, hs])
        (by rw [hsame, hstop]) (by rw [hsame]; exact hw)]
      exact ⟨rfl, rfl⟩
    · have harr : Tab.get 0 ((s.advance c t).thread c t).arrived ch = g + 1 := by rw [State.thread_advance]; exact hg
      have hwait := State.barWait_eq (s := s.advance c t) (b := b) rfl rfl harr
      by_cases hbehind : (g + 2 ^ 16 - b.gen.toNat) % 2 ^ 16 < 2 ^ 15
      · rw [if_pos hbehind] at hwait ⊢
        exact issue_effThread (fun u => u.startWait (.bar ch g)) h ((if_pos hen).trans (congrArg Eff.done hwait))
      · rw [if_neg hbehind] at hwait ⊢
        exact issue_done h ((if_pos hen).trans (congrArg Eff.done hwait))
    · have hadv : ((s.advance c t).thread c t).state = .ready := by rw [State.thread_advance]; rfl
      have hth := State.barArrive_thread (s := s.advance c t) (ch := ch) hscope h.thread hadv
      have hbar := State.barArrive_bar (s := s.advance c t) (ch := ch) (t := t) hscope
      have hmem := State.barArrive_mem (s := s.advance c t) (ch := ch) (t := t) hscope
      rw [State.thread_advance] at hth
      have hgen : gen = b.gen.toNat := by
        have h0 : b.arrivals / max 1 b.count.toNat = 0 := Nat.div_eq_of_lt (by omega)
        have := b.gen.isLt
        dsimp only [gen]
        rw [h0]; omega
      have hdie := State.barArrive_dieOf (s := s.advance c t) (ch := ch) (t := t) hscope
      refine ⟨_, issue_done h (if_pos hen), ?_⟩
      change (State.barWait ((s.advance c t).barArrive c t ch) c t ch).mem = s.mem ∧ _
      generalize (s.advance c t).barArrive c t ch = v at hth hbar hmem hdie ⊢
      replace hbar : v.bar d ch = bar' := hbar
      have harr : Tab.get 0 (v.thread c t).arrived ch = b.gen.toNat + 1 := by
        rw [hth, ← hgen]; exact Thread.get_arrived_arrive ..
      rw [State.barWait_eq hdie hbar harr]
      by_cases hl : last
      · rw [if_pos hl, if_neg]
        · exact ⟨hmem, hbar, congrArg Thread.pc hth, congrArg Thread.arrived hth, congrArg Thread.state hth⟩
        · have hb : bar'.gen = b.gen + 1 := by dsimp only [bar']; rw [if_pos hl]
          have := b.gen.isLt
          rw [hb, BitVec.toNat_add, show (1 : BitVec 16).toNat = 1 from rfl]
          omega
      · rw [if_neg hl, if_pos, State.modThread_eq, State.thread_setThread]
        · exact ⟨hmem, hbar, congrArg Thread.pc hth, congrArg Thread.arrived hth, rfl, rfl⟩
        · have hb : bar'.gen = b.gen := by dsimp only [bar']; rw [if_neg hl]
          rw [hb]
          omega

end Sys2Proof.Machine
end

section
/-! SUPPORT. The fetch of a sector: its bytes, and which of its words are uncorrectable (03 R58, R59; 08 R240). -/

namespace Sys2Proof.Machine

/-! ## Numbers from bits -/

theorem bitsOf_succ (n : Nat) (p : Nat → Bool) : bitsOf (n + 1) p = bitsOf n p + if p n then 2 ^ n else 0 := by
  rw [bitsOf, List.range_succ, List.foldl_append]; rfl

theorem bitsOf_lt (n : Nat) (p : Nat → Bool) : bitsOf n p < 2 ^ n := by
  induction n with
  | zero => exact Nat.one_pos
  | succ n ih => rw [bitsOf_succ, Nat.pow_succ]; split <;> omega

theorem testBit_bitsOf {n i : Nat} (p : Nat → Bool) (hi : i < n) : (bitsOf n p).testBit i = p i := by
  induction n with
  | zero => omega
  | succ n ih =>
    have hlt := bitsOf_lt n p
    rw [bitsOf_succ]
    by_cases h : i = n
    · subst h
      cases p i with
      | false => rw [if_neg Bool.false_ne_true, Nat.add_zero, Nat.testBit_lt_two_pow hlt]
      | true => rw [if_pos rfl, Nat.add_comm, Nat.testBit_two_pow_add_eq, Nat.testBit_lt_two_pow hlt]; rfl
    · split
      · rw [Nat.add_comm, Nat.testBit_two_pow_add_gt (by omega), ih (by omega)]
      · rw [Nat.add_zero, ih (by omega)]

/-! ## Marks of words -/

/-- In canonical form a key has one entry. -/
theorem Tab.get_of_mem {α : Type} [DecidableEq α] {d v : α} {lo k : Nat} {m : Tab α} (h : Tab.wfFrom d lo m = true)
    (hm : (k, v) ∈ m) : lo ≤ k ∧ Tab.get d m k = v := by
  induction m generalizing lo with
  | nil => cases hm
  | cons e m ih =>
    obtain ⟨j, u⟩ := e
    simp only [Tab.wfFrom, Bool.and_eq_true, decide_eq_true_eq] at h
    obtain ⟨⟨hlo, -⟩, hrest⟩ := h
    rcases List.mem_cons.1 hm with he | he
    · obtain ⟨rfl, rfl⟩ := Prod.mk.inj he
      exact ⟨hlo, if_pos rfl⟩
    · obtain ⟨hj, hget⟩ := ih hrest he
      exact ⟨by omega, (if_neg (by omega)).trans hget⟩

variable {s : State}

/-- The marked words of a range, where 0 marks nothing. -/
theorem State.mem_markedWords (hw : Memory.wf s.mem = true) {k n j : Nat} {p : Nat → Bool} (hp : p 0 = false) :
    j ∈ s.markedWords k n p ↔ k / 8 ≤ j ∧ j ≤ (k + (n - 1)) / 8 ∧ p (Tab.get 0 s.mem.wordErr j) = true := by
  have hwf := ((Memory.wf_iff _).1 hw).2.1
  simp only [State.markedWords, List.mem_map, List.mem_filter, Bool.and_eq_true, decide_eq_true_eq]
  constructor
  · rintro ⟨⟨j', v⟩, ⟨hm, ⟨h1, h2⟩, h3⟩, rfl⟩
    exact ⟨h1, h2, by rw [(Tab.get_of_mem hwf hm).2]; exact h3⟩
  · rintro ⟨h1, h2, h3⟩
    have hne : Tab.get 0 s.mem.wordErr j ≠ 0 := fun h => by rw [h, hp] at h3; cases h3
    exact ⟨_, ⟨Tab.mem_of_get_ne hne, ⟨h1, h2⟩, h3⟩, rfl⟩

/-! ## What a read leaves of the bytes -/

theorem State.cells_countUe (c word : Nat) (injected : Bool) : (s.countUe c word injected).mem.cells = s.mem.cells := by
  obtain ⟨e, p, m, o, h⟩ := State.notify_cases (s.modCore c fun k => { k with
    spdUncorr := BitVec.ofNat 16 (satAdd k.spdUncorr.toNat 1 0xFFFF)
    spdLastUe := BitVec.ofNat 23 word
    spdUeValid := true }) 2 injected c 0x20 _
  rw [State.countUe, h]; rfl

theorem State.cells_countCorr (c n : Nat) : (s.countCorr c n).mem.cells = s.mem.cells := by
  unfold State.countCorr; split <;> rfl

theorem State.cells_foldl (f : State → Nat → State) (hf : ∀ s a, (f s a).mem.cells = s.mem.cells) (l : List Nat)
    (s : State) : (l.foldl f s).mem.cells = s.mem.cells := by
  induction l generalizing s with
  | nil => rfl
  | cons a l ih => rw [List.foldl_cons, ih, hf]

variable {c off : Nat}

/-- With PERTURB off the read of a sector finds the uncorrectable words of its marks, and changes no byte. -/
theorem State.sectorRead_off (hgo : s.err.perturbGo = false) (hit : Nat) :
    (s.sectorRead c off hit).1 =
      BitVec.ofNat 4 (bitsOf 4 fun i => (s.markedWords (spadAddr c off) 32 (· == 3)).contains (spadAddr c off / 8 + i)) ∧
    (s.sectorRead c off hit).2.mem.cells = s.mem.cells := by
  simp only [State.sectorRead, State.perturb_off _ hgo, Bool.false_and, Bool.or_false]
  refine ⟨trivial, ?_⟩
  rw [if_neg Bool.false_ne_true, State.cells_foldl _ fun s a => State.cells_countUe .., State.cells_countCorr]
  exact State.cells_foldl (fun s w => s.setWordMark w 2) (fun _ _ => rfl) ..

/-- Word `i` of the sector is bad when its mark says so. -/
theorem State.sectorRead_bad (hgo : s.err.perturbGo = false) (hw : Memory.wf s.mem = true) (sec hit : Nat) {i : Nat}
    (hi : i < 4) : (s.sectorRead c (32 * sec) hit).1.getLsbD i =
      (Tab.get 0 s.mem.wordErr (spadAddr c (32 * sec) / 8 + i) == 3) := by
  rw [(State.sectorRead_off hgo hit).1, BitVec.getLsbD_ofNat, testBit_bitsOf _ hi, decide_eq_true hi, Bool.true_and,
    Bool.eq_iff_iff, List.contains_iff_mem, State.mem_markedWords hw rfl]
  have hk : (spadAddr c (32 * sec) + 31) / 8 = spadAddr c (32 * sec) / 8 + 3 := by
    simp only [spadAddr, windowBase]; omega
  refine ⟨fun h => h.2.2, fun h => ⟨by omega, ?_, h⟩⟩
  rw [hk]; omega

theorem State.sectorRead_bytes (hgo : s.err.perturbGo = false) (hit k n : Nat) :
    (s.sectorRead c off hit).2.bytes k n = s.bytes k n := by
  rw [State.bytes, (State.sectorRead_off hgo hit).2]; rfl

theorem State.MemStep.thread {s u : State} (h : s.MemStep u) (c t : Nat) : u.thread c t = s.thread c t := by
  obtain ⟨m, c, d, e, p, mm, o, rfl, -⟩ := h; rfl

variable {t : Nat}

/-- The fetch buffer that a fetch leaves. -/
def State.fetched (s : State) (c t : Nat) : FetchBuf :=
  let sec := (s.thread c t).pc.toNat / 32
  let r := s.sectorRead c (32 * sec) 0
  ⟨sec, BitVec.ofNat 256 (fromLE (r.2.bytes (spadAddr c (32 * sec)) 32)), r.1⟩

/-- The buffer of a thread's own sector says of its own word whether it is bad. -/
theorem Thread.fetchBad_of_sector (th : Thread) {b : FetchBuf} (hb : b.sector = th.pc.toNat / 32) :
    ({ th with fetch := some b } : Thread).fetchBad = b.bad.getLsbD (th.pc.toNat / 8 % 4) := by
  rw [Thread.fetchBad]
  exact (congrArg (· && _) (decide_eq_true hb)).trans (Bool.true_and _)

/-- A fetch fills the buffer, and stops the thread where the word at CTX_PC is bad. -/
theorem State.fetch_eq (hpc : (s.thread c t).pc.toNat < spadSize) :
    let b := s.fetched c t
    let th := s.thread c t
    s.fetch c t = (s.sectorRead c (32 * (th.pc.toNat / 32)) 0).2.setThread c t
      (if b.bad.getLsbD (th.pc.toNat / 8 % 4) then
        Thread.except { th with fetch := some b, state := .ready } cEcc 0 0 else { th with fetch := some b }) := by
  intro b th
  have hth := (s.memStep_sectorRead c (32 * (th.pc.toNat / 32)) 0).thread c t
  have hbuf := th.fetchBad_of_sector (b := b) rfl
  have hfetch : s.fetch c t =
      let u := (s.sectorRead c (32 * (th.pc.toNat / 32)) 0).2.setThread c t { th with fetch := some b }
      if (u.thread c t).fetchBad then u.except c t cEcc 0 else u := by
    rw [State.fetch, if_neg (Nat.not_le.2 hpc)]
    dsimp only
    rw [State.modThread_eq, hth]
    rfl
  rw [hfetch]
  dsimp only
  rw [State.thread_setThread, hbuf]
  by_cases h : b.bad.getLsbD (th.pc.toNat / 8 % 4)
  · rw [if_pos h, if_pos h, State.except, State.modThread_eq, State.thread_setThread, State.setThread_setThread]
  · rw [if_neg h, if_neg h]

/-- Settles O30. -/
theorem fetchResults : Obligations.FetchResults := by
  unfold Obligations.FetchResults
  intro c t s hc ht th sec key bad
  have hexec : exec (.instructionFetch c t) s = if th.canIssue && s.awake c then .next (s.fetch c t) else .next s :=
    if_pos ⟨hc, ht⟩
  refine ⟨fun hi ha hpc => ?_, fun hi ha hpc hgo hw => ?_, fun hi => ?_⟩
  · rw [hexec, hi, ha, State.fetch, if_pos hpc]; rfl
  · have hbad : ∀ i < 4, (s.fetched c t).bad.getLsbD i = bad i := fun i hi => State.sectorRead_bad hgo hw sec 0 hi
    have hfetch := State.fetch_eq hpc
    refine ⟨s.fetch c t, s.fetched c t, by rw [hexec, hi, ha]; rfl, rfl, ?_, hbad, ?_, ?_⟩
    · rw [← State.sectorRead_bytes hgo 0 key 32]; rfl
    · rw [hfetch, State.thread_setThread, hbad _ (Nat.mod_lt _ (by decide))]
    · rw [hfetch]
      exact (State.sectorRead_off hgo 0).2
  · rw [hexec, hi]; rfl

end Sys2Proof.Machine
end

section
/-! SUPPORT. Slots and outstanding parts of a core (03 R72 to R74). -/

namespace Sys2Proof.Machine

variable {s : State} {c t : Nat}

/-- A thread changed apart from its requests keeps the core's outstanding parts. -/
theorem State.coreParts_setThread {x : Thread} (h : x.reqs = (s.thread c t).reqs) :
    (s.setThread c t x).coreParts c = s.coreParts c := by
  refine List.flatMap_congr fun t' _ => ?_
  by_cases ht : t' = t
  · rw [ht, State.thread_setThread, h]
  · rw [State.thread_setThread_ne _ _ _ _ (by omega)]

/-- … and, where its messages stay too, the slots in use. -/
theorem State.slotsUsed_setThread {x : Thread} (h : x.reqs = (s.thread c t).reqs) (hm : x.msgs = (s.thread c t).msgs) :
    (s.setThread c t x).slotsUsed c = s.slotsUsed c := by
  have hmsgs : ((List.range 32).map fun t' => (((s.setThread c t x).thread c t').msgs.filter Msg.slot).length) =
      (List.range 32).map fun t' => ((s.thread c t').msgs.filter Msg.slot).length := by
    refine List.map_congr_left fun t' _ => ?_
    by_cases ht : t' = t
    · rw [ht, State.thread_setThread, hm]
    · rw [State.thread_setThread_ne _ _ _ _ (by omega)]
  rw [State.slotsUsed, State.slotsUsed, State.coreParts_setThread h, hmsgs]
  rfl

@[simp] theorem State.coreParts_advance (s : State) (c t : Nat) : (s.advance c t).coreParts c = s.coreParts c :=
  State.coreParts_setThread rfl

@[simp] theorem State.slotsUsed_advance (s : State) (c t : Nat) : (s.advance c t).slotsUsed c = s.slotsUsed c :=
  State.slotsUsed_setThread rfl rfl

theorem length_toLE (n x : Nat) : (toLE n x).length = n := by
  induction n generalizing x with
  | zero => rfl
  | succ n ih => rw [toLE, List.length_cons, ih]

end Sys2Proof.Machine
end

section
/-! SUPPORT. One external access of this module that lies in one sector: its part, and what its issue changes
(03 R72, R73; 08 R248). -/

namespace Sys2Proof.Machine

/-! ## Loads that a store closes -/

/-- `u` follows `s` where a thread's requests only had parts marked. -/
def State.ReqsMarked (s u : State) : Prop :=
  (∃ ts, u = { s with threads := ts }) ∧
  ∀ c t, t < 32 → ∃ rs, u.thread c t = { s.thread c t with reqs := rs } ∧ rs.length = (s.thread c t).reqs.length

theorem State.ReqsMarked.refl (s : State) : s.ReqsMarked s := ⟨⟨s.threads, rfl⟩, fun _ _ _ => ⟨_, rfl, rfl⟩⟩

theorem State.ReqsMarked.trans {s u v : State} (h : s.ReqsMarked u) (h' : u.ReqsMarked v) : s.ReqsMarked v := by
  obtain ⟨⟨ts, hu⟩, hth⟩ := h
  obtain ⟨⟨ts', hv⟩, hth'⟩ := h'
  refine ⟨⟨ts', by rw [hv, hu]⟩, fun c t ht => ?_⟩
  obtain ⟨rs, hrs, hlen⟩ := hth c t ht
  obtain ⟨rs', hrs', hlen'⟩ := hth' c t ht
  exact ⟨rs', by rw [hrs', hrs], by rw [hlen', hrs, hlen]⟩

theorem State.reqsMarked_setThread (s : State) (c : Nat) {t : Nat} (ht : t < 32) (f : Req → Req) :
    s.ReqsMarked (s.setThread c t { s.thread c t with reqs := (s.thread c t).reqs.map f }) := by
  refine ⟨⟨_, rfl⟩, fun c' t' ht' => ?_⟩
  by_cases h : c' * 32 + t' = c * 32 + t
  · obtain ⟨rfl, rfl⟩ : c' = c ∧ t' = t := by omega
    exact ⟨_, State.thread_setThread .., List.length_map ..⟩
  · exact ⟨_, State.thread_setThread_ne _ _ _ _ h, rfl⟩

theorem State.reqsMarked_closeLoads (s : State) (c : Nat) (ps : List Part) : s.ReqsMarked (s.closeLoads c ps) := by
  have key (l : List Nat) (hl : ∀ t ∈ l, t < 32) (secs : List Nat) (v : State) : v.ReqsMarked (l.foldl (fun s' t =>
      let th := s'.thread c t
      if th.reqs.isEmpty then s' else s'.setThread c t { th with reqs := th.reqs.map fun r =>
        { r with parts := r.parts.map fun p =>
            if p.op = .rd ∧ secs.contains (s.canon p.addr / 32) then { p with closed := true } else p } }) v) := by
    induction l generalizing v with
    | nil => exact .refl v
    | cons t l ih =>
      refine .trans ?_ (ih (fun t ht => hl t (List.mem_cons_of_mem _ ht)) _)
      dsimp only
      split
      · exact .refl v
      · exact v.reqsMarked_setThread c (hl t (List.mem_cons_self ..)) _
  unfold State.closeLoads
  dsimp only
  split
  · exact .refl s
  · exact key _ (fun t ht => List.mem_range.1 ht) _ s

/-! ## One access -/

/-- The part of an access that lies in one sector. -/
def Part.fresh (sid a n : Nat) (op : PartOp) (time : Nat) (err : Option (BitVec 8 × BitVec 4)) : Part :=
  ⟨sid, a, n, op, none, 0, [], time, false, none, none, err⟩

variable {s : State} {c t a n : Nat} {op : PartOp}

/-- An access within one sector is one part. -/
theorem splitSectors_one (hn : 0 < n) (hfit : a % 32 + n ≤ 32) (hop : ∀ d, op = .wr d → d.length = n) (sid : Nat) :
    splitSectors 10 ⟨a, n, 0, op, []⟩ sid = [.fresh sid a n op 0 none] := by
  have hmin : min n (32 - a % 32) = n := Nat.min_eq_left (by omega)
  rw [splitSectors]
  dsimp only
  rw [if_neg (by omega), hmin, splitSectors]
  dsimp only
  rw [if_pos (by omega)]
  cases op with
  | wr d =>
    have hd : d.take n = d := List.take_of_length_le (hop d rfl).le
    simp only [hd]; rfl
  | _ => rfl

/-- The parts of one such access: an address that R23 rejects gives it an error. -/
theorem State.mkParts_one (hn : 0 < n) (hfit : a % 32 + n ≤ 32) (hop : ∀ d, op = .wr d → d.length = n) (sid : Nat) :
    ∃ err f, s.mkParts c [⟨a, n, 0, op, []⟩] sid = ([.fresh sid a n op s.ticks err], { s with freeCtr := f }) ∧
      (err = none ↔ ∃ pl, s.placeOf a n = .ok pl) := by
  rw [State.mkParts, splitSectors_one hn hfit hop]
  simp only [State.mkParts, State.markInvalid, List.map_cons, List.map_nil, List.append_nil]
  cases h : s.placeOf a n with
  | ok pl => exact ⟨none, s.freeCtr, rfl, by simp⟩
  | error e =>
    obtain ⟨f, hf⟩ := s.destVal_cases c a
    exact ⟨_, f, by rw [← hf]; rfl, by simp⟩

/-- A part joins no load, or one outstanding on the core (R248). -/
theorem State.combine_one (out : List Part) (sid time : Nat) (err : Option (BitVec 8 × BitVec 4)) :
    ∃ p, s.combine out [.fresh sid a n op time err] = [p] ∧ p.addr = a ∧ p.len = n ∧ p.op = op ∧ p.node = none ∧
      p.err = err ∧ (p.res = none ∨ ∃ y ∈ out, y.op = .rd ∧ p.op = .rd ∧ p.sid = y.sid ∧ p.res = y.snap.bind p.take) := by
  rw [State.combine, State.combine]
  split
  · next h =>
    cases hy : out.find? (s.joins (.fresh sid a n op time err)) with
    | none => exact ⟨_, rfl, rfl, rfl, rfl, rfl, rfl, .inl rfl⟩
    | some y =>
      have hjoin := List.find?_some hy
      simp only [State.joins, Bool.and_eq_true, beq_iff_eq] at hjoin
      exact ⟨_, rfl, rfl, rfl, rfl, rfl, rfl, .inr ⟨y, List.mem_of_find?_eq_some hy, by tauto, h.1, rfl, rfl⟩⟩
  · exact ⟨_, rfl, rfl, rfl, rfl, rfl, rfl, .inl rfl⟩

theorem newSlots_one_le (out : List Part) (p : Part) : newSlots out [p] ≤ 1 :=
  (List.length_filter_le ..).trans (by simp [List.eraseDups_cons])

/-- Without a free instruction slot the access waits (R73). -/
theorem State.external_of_slots (hs : 8 ≤ (s.thread c t).slots) (pc : BitVec 64) (dst : ReqDst) (x : Acc) :
    ∃ k, s.external c t pc dst [x] = .slots k := by
  rw [State.external, if_neg (by simp)]
  exact ⟨_, if_pos (.inl hs)⟩

/-- With slots free it becomes one outstanding request of its thread (R72). -/
theorem State.external_one (ht : t < 32) (hn : 0 < n) (hfit : a % 32 + n ≤ 32) (hop : ∀ d, op = .wr d → d.length = n)
    (hs : (s.thread c t).slots < 8) (hu : s.slotsUsed c < 256) (pc : BitVec 64) (dst : ReqDst) :
    ∃ u id p rs, s.external c t pc dst [⟨a, n, 0, op, []⟩] = .done u ∧ u.mem = s.mem ∧
      u.thread c t = { s.thread c t with reqs := rs ++ [⟨id, pc, dst, false, [p]⟩] } ∧
      rs.length = (s.thread c t).reqs.length ∧
      p.addr = a ∧ p.len = n ∧ p.op = op ∧ p.node = none ∧
      (p.res = none ∨ ∃ y ∈ s.coreParts c, y.op = .rd ∧ p.op = .rd ∧ p.sid = y.sid ∧ p.res = y.snap.bind p.take) ∧
      (p.err = none ↔ ∃ pl, s.placeOf a n = .ok pl) := by
  obtain ⟨err, f, hparts, herr⟩ := s.mkParts_one (c := c) hn hfit hop (s.nextId + 1)
  obtain ⟨p, hcomb, haddr, hlen, hpop, hnode, hperr, hres⟩ :=
    s.combine_one (a := a) (n := n) (op := op) (s.coreParts c) (s.nextId + 1) s.ticks err
  have hnew := newSlots_one_le (s.coreParts c) p
  rw [State.external, if_neg (by simp)]
  dsimp only
  rw [hparts]
  dsimp only
  rw [hcomb, if_neg (by omega)]
  obtain ⟨⟨ts, hv⟩, hth⟩ := State.reqsMarked_closeLoads
    { s with freeCtr := f, nextId := s.nextId + 1 + 1 } c [p]
  obtain ⟨rs, hrs, hlen'⟩ := hth c t ht
  have hmem := congrArg State.mem hv
  refine ⟨_, s.nextId, p, rs, rfl, hmem, ?_, hlen', haddr, hlen, hpop, hnode, hres, hperr ▸ herr⟩
  rw [State.modThread_eq, State.thread_setThread]
  have hid := congrArg State.nextId hv
  dsimp only [List.length_cons, List.length_nil, Nat.zero_add] at hrs hid ⊢
  rw [hrs, hid]
  rfl

end Sys2Proof.Machine
end

section
/-! SUPPORT. The statement about external accesses. -/

namespace Sys2Proof.Machine

variable {s : State} {c t a n : Nat} {w : BitVec 64}

/-- An aligned access of at most 8 bytes lies in one sector. -/
theorem aligned_fits (hw : iWidth w < 4) (ha : a % 2 ^ iWidth w = 0) : a % 32 + 2 ^ iWidth w ≤ 32 := by
  interval_cases iWidth w <;> omega

/-- LDS, STS and ATOM have a WIDTH of at most 8 bytes (R102). -/
theorem iWidth_lt {op : Nat} (h : Acts op 0 c t w s) (hop : op ∈ [0x50, 0x51, 0x56]) : iWidth w < 4 := by
  have hl := h.legal
  simp only [List.mem_cons, List.not_mem_nil, or_false] at hop
  obtain rfl | rfl | rfl := hop <;> simp [Machine.legal, h.opcode, legalM] at hl <;> omega

/-- An instruction whose body makes one external access with slots free: what it adds, and what it keeps (R72). -/
theorem issue_external_one {i : Instr} {opc : Nat} {body : Thread → State → Eff} {op : PartOp} {dst : ReqDst}
    (h : Acts opc 0 c t w s) (hexec : exec i s = issue opc 0 c t w s body)
    (hbody : body (s.thread c t) (s.advance c t) =
      (s.advance c t).external c t (s.thread c t).pc dst [⟨a, n, 0, op, []⟩])
    (hn : 0 < n) (hfit : a % 32 + n ≤ 32) (hop : ∀ d, op = .wr d → d.length = n) (hs : (s.thread c t).slots < 8)
    (hu : s.slotsUsed c < 256) :
    ∃ u q p, exec i s = .next u ∧ u.mem = s.mem ∧ (u.thread c t).regs = (s.thread c t).regs ∧
      (u.thread c t).pc = (s.thread c t).pc + 8 ∧ (u.thread c t).reqs.length = (s.thread c t).reqs.length + 1 ∧
      (u.thread c t).reqs.getLast? = some q ∧ q.pc = (s.thread c t).pc ∧ q.dst = dst ∧ q.superseded = false ∧
      q.parts = [p] ∧ p.addr = a ∧ p.len = n ∧ p.op = op ∧ p.node = none ∧
      (p.res = none ∨ ∃ y ∈ s.coreParts c, y.op = .rd ∧ p.op = .rd ∧ p.sid = y.sid ∧ p.res = y.snap.bind p.take) ∧
      (p.err = none ↔ ∃ pl, s.placeOf a n = .ok pl) := by
  obtain ⟨u, id, p, rs, heff, hmem, hth, hlen, haddr, hplen, hpop, hnode, hres, herr⟩ :=
    State.external_one (s := s.advance c t) h.thread hn hfit hop (by rw [State.thread_advance]; exact hs)
      (by rw [State.slotsUsed_advance]; exact hu) (s.thread c t).pc dst
  rw [State.thread_advance] at hth hlen
  rw [State.coreParts_advance] at hres
  refine ⟨u, _, p, hexec.trans (issue_done h (hbody.trans heff)), hmem, by rw [hth]; rfl, by rw [hth]; rfl, ?_,
    by rw [hth]; exact List.getLast?_concat .., rfl, rfl, rfl, rfl, haddr, hplen, hpop, hnode, hres, herr⟩
  rw [hth]
  exact (List.length_append ..).trans (congrArg (· + 1) hlen)

/-- … and without a free instruction slot it waits (R73). -/
theorem issue_external_waits {i : Instr} {opc : Nat} {body : Thread → State → Eff} {dst : ReqDst} {x : Acc}
    (h : Acts opc 0 c t w s) (hexec : exec i s = issue opc 0 c t w s body)
    (hbody : body (s.thread c t) (s.advance c t) = (s.advance c t).external c t (s.thread c t).pc dst [x])
    (hs : 8 ≤ (s.thread c t).slots) : ∃ u, exec i s = .next u ∧ u = s.setThread c t (u.thread c t) ∧
      u.thread c t = { s.thread c t with state := .waitMem, memNeed := (u.thread c t).memNeed } := by
  obtain ⟨k, hk⟩ := State.external_of_slots (s := s.advance c t) (by rw [State.thread_advance]; exact hs)
    (s.thread c t).pc dst x
  refine ⟨_, hexec.trans (issue_slots h (hbody.trans hk)), ?_, ?_⟩
  · rw [State.thread_setThread]
  · rw [State.thread_setThread]

/-- Settles O18: each of the three makes one external access where its address passes the checks and is not its own. -/
theorem externalAccess : Obligations.ExternalAccess := by
  unfold Obligations.ExternalAccess
  intro c t w s th a n x k hk hacts hform halign hown hphys
  have ha : mAddr (s.thread c t) w = a := mAddr_eq ..
  have hcheck : s.addrCheck c n [a] [a] = none := by
    rw [State.addrCheck_one, if_neg, if_neg (Nat.not_le.2 hform), if_neg (not_not.2 halign)]
    rw [← physAddr_iff]
    rintro ⟨hl, hp⟩
    exact hphys.elim (by rw [hl]; exact Bool.false_ne_true) (by rw [hp]; simp)
  have hown' : (s.advance c t).own c a = false := hown
  have hn : 0 < n := Nat.two_pow_pos _
  have hwidth : widthBytes w = n := rfl
  have hfit : a % 32 + n ≤ 32 :=
    aligned_fits (iWidth_lt hacts (List.mem_map_of_mem (f := Prod.fst) hk)) halign
  have settle {body : Thread → State → Eff}
      (hexec : exec (k.2.1 c t w) s = issue k.1 0 c t w s body)
      (hbody : body (s.thread c t) (s.advance c t) =
        (s.advance c t).external c t (s.thread c t).pc k.2.2.1 [⟨a, n, 0, k.2.2.2, []⟩])
      (hlen : ∀ d, k.2.2.2 = .wr d → d.length = n) := And.intro
    (fun hs hu => issue_external_one hacts hexec hbody hn hfit hlen hs hu)
    (issue_external_waits hacts hexec hbody)
  simp only [List.mem_cons, List.not_mem_nil, or_false] at hk
  obtain rfl | rfl | rfl := hk
  · refine settle rfl ?_ (fun d hd => nomatch hd)
    simp only [ha, hwidth, State.addrCheck_advance, hcheck, hown', Bool.false_eq_true, if_false]
  · refine settle rfl ?_ (fun d hd => PartOp.wr.inj hd ▸ length_toLE ..)
    simp only [ha, hwidth, State.addrCheck_advance, hcheck, hown', Bool.false_eq_true, if_false, length_toLE]
    rfl
  · refine settle rfl ?_ (fun d hd => nomatch hd)
    simp only [ha, hwidth, State.addrCheck_advance, hcheck, hown', Bool.false_eq_true, if_false]
    rfl

end Sys2Proof.Machine
end

section
/-! SUPPORT. What a new fabric request of a thread changes: the endpoint's list of requests, links, the entries of
PERTURB_ENT, the counter of free values and what has left the module; neither threads nor memory (11 R348 to R356). -/

namespace Sys2Proof.Machine

/-- `q'` is `q`, perhaps with a tag, accepted by the hub or sent. -/
def FabReq.Marked (q q' : FabReq) : Prop :=
  ∃ tag a b, q' = { q with tag := tag, atHub := q.atHub || a, sent := q.sent || b }

theorem FabReq.Marked.refl (q : FabReq) : q.Marked q := ⟨q.tag, false, false, by simp⟩

theorem FabReq.Marked.trans {q r v : FabReq} (h : q.Marked r) (h' : r.Marked v) : q.Marked v := by
  obtain ⟨_, a, b, rfl⟩ := h
  obtain ⟨tag, a', b', rfl⟩ := h'
  exact ⟨tag, a || a', b || b', by simp [Bool.or_assoc]⟩

/-- Marks keep what the packet carries and whom its response answers. -/
theorem FabReq.Marked.keeps {q q' : FabReq} (h : q.Marked q') : q'.owner = q.owner ∧ q'.node = q.node ∧
    q'.addr = q.addr ∧ q'.len = q.len ∧ q'.type = q.type ∧ q'.body = q.body := by
  obtain ⟨_, _, _, rfl⟩ := h
  exact ⟨rfl, rfl, rfl, rfl, rfl, rfl⟩

/-- A packet to node `n` finds a way: the module itself, or a route in force. -/
def State.onWay (s : State) (n : BitVec 16) : Prop := n = s.fab.nodeId ∨ (s.routeOf n).inForce = true

/-- No request is lost when it is next tried: each is sent already, or is a part of a thread's request whose packet
finds a way. -/
def State.fabricClear (s : State) : Prop :=
  ∀ q ∈ s.fab.reqs, (q.atHub = true ∧ q.sent = true) ∨ (∃ c t r o, q.owner = .part c t r o) ∧ s.onWay q.node

theorem State.fabricSent.clear {s : State} (h : s.fabricSent) : s.fabricClear :=
  fun q hq => .inl ⟨(h q hq).1, (h q hq).2.1⟩

theorem State.onWay_of_reachable {s : State} {n : BitVec 16} (h : s.reachable n false = true) : s.onWay n := by
  simp only [State.reachable, State.inPolder, Bool.false_eq_true, if_false, Bool.and_eq_true, Bool.or_eq_true,
    beq_iff_eq] at h
  exact h.2.imp id fun h => h.1

/-- `u` follows `s` by sending requests that all find a way. -/
structure State.SendStep (s u : State) : Prop where
  rest : ∃ ls e f o fab n, u = { s with links := ls, err := { s.err with ents := e }, freeCtr := f, out := o,
                                         fab := fab, nextId := n }
  fab : u.fab = { s.fab with reqs := u.fab.reqs, dead := u.fab.dead, e2e := u.fab.e2e }
  kept : ∀ q ∈ s.fab.reqs, ∃ q' ∈ u.fab.reqs, q.Marked q'
  clear : s.fabricClear → u.fabricClear

namespace State.SendStep

variable {s u v : State}

theorem refl (s : State) : s.SendStep s :=
  ⟨⟨s.links, s.err.ents, s.freeCtr, s.out, s.fab, s.nextId, rfl⟩, rfl, fun q hq => ⟨q, hq, .refl q⟩, id⟩

theorem trans (h : s.SendStep u) (h' : u.SendStep v) : s.SendStep v where
  rest := by
    obtain ⟨_, _, _, _, _, _, rfl⟩ := h.rest
    obtain ⟨ls, e, f, o, fab, n, rfl⟩ := h'.rest
    exact ⟨ls, e, f, o, fab, n, rfl⟩
  fab := by rw [h'.fab, h.fab]
  kept q hq := by
    obtain ⟨r, hr, hqr⟩ := h.kept q hq
    obtain ⟨q', hq', hrq⟩ := h'.kept r hr
    exact ⟨q', hq', hqr.trans hrq⟩
  clear := h'.clear ∘ h.clear

theorem mem (h : s.SendStep u) : u.mem = s.mem := by
  obtain ⟨_, _, _, _, _, _, rfl⟩ := h.rest; rfl

theorem thread (h : s.SendStep u) (c t : Nat) : u.thread c t = s.thread c t := by
  obtain ⟨_, _, _, _, _, _, rfl⟩ := h.rest; rfl

theorem routeOf (h : s.SendStep u) (n : BitVec 16) : u.routeOf n = s.routeOf n := by
  rw [State.routeOf, h.fab]; rfl

theorem onWay (h : s.SendStep u) {n : BitVec 16} : u.onWay n ↔ s.onWay n := by
  rw [State.onWay, State.onWay, h.routeOf, h.fab]

theorem target (h : s.SendStep u) (n : BitVec 16) (a : Acc) : u.target n a = s.target n a := by
  have hrepl : u.fab.repl = s.fab.repl := by rw [h.fab]
  have hid : u.fab.nodeId = s.fab.nodeId := by rw [h.fab]
  simp only [State.target, State.replicaOf, State.inPolder, h.routeOf, hrepl, hid]
  rfl

/-- What links send, and the marks of requests. -/
theorem of_linkStep (h : s.LinkStep u) : s.SendStep u := by
  obtain ⟨ls, e, f, o, rfl⟩ := h
  exact ⟨⟨ls, e, f, o, s.fab, s.nextId, rfl⟩, rfl, fun q hq => ⟨q, hq, FabReq.Marked.refl q⟩, id⟩

theorem of_marks {f : Fab → Fab} {g : FabReq → FabReq} (hg : ∀ q : FabReq, q.Marked (g q))
    (hf : f s.fab = { s.fab with reqs := (f s.fab).reqs, dead := (f s.fab).dead, e2e := (f s.fab).e2e })
    (hr : (f s.fab).reqs = s.fab.reqs.map g) : s.SendStep (s.modFab f) where
  rest := ⟨s.links, s.err.ents, s.freeCtr, s.out, _, s.nextId, rfl⟩
  fab := hf
  kept q hq := ⟨g q, hr ▸ List.mem_map_of_mem hq, hg q⟩
  clear h q hq := by
    have hq' : q ∈ (f s.fab).reqs := hq
    rw [hr] at hq'
    obtain ⟨r, hr', rfl⟩ := List.mem_map.1 hq'
    obtain ⟨tag, a, b, he⟩ := hg r
    rw [he]
    refine (h r hr').imp (fun ⟨ha, hs⟩ => by simp [ha, hs]) fun ⟨ho, hw⟩ => ⟨ho, ?_⟩
    rw [State.onWay, State.routeOf] at hw ⊢
    rw [show (s.modFab f).fab = f s.fab from rfl, hf]
    exact hw

end State.SendStep

/-! ## Trying, accepting and sending -/

variable {s : State}

/-- A waiting request whose packet finds a way is sent or stays. -/
theorem State.sendStep_trySend (earlier : List FabReq) {q : FabReq} (hq : s.onWay q.node) :
    s.SendStep (s.trySend earlier q) := by
  have lost : ¬ ((!(q.node == s.fab.nodeId) && !(s.routeOf q.node).inForce) = true) := by
    simpa [State.onWay, or_iff_not_imp_left] using hq
  unfold State.trySend
  dsimp only
  rw [if_neg lost]
  generalize (if (q.node == s.fab.nodeId) = true then 48 else _) = l
  generalize (if (q.node == s.fab.nodeId) = true then 0 else portOf l) = port
  split
  · exact .refl s
  split
  · exact .refl s
  split
  · exact .refl s
  next tag _ _ =>
  have perturbed := (State.SendStep.of_linkStep (s.linkStep_perturbBy 6 1 (· == port % 2 ^ 16))).trans
    (.of_linkStep (State.linkStep_perturbBy _ 6 4 (· == port % 2 ^ 16)))
  refine (perturbed.trans (.of_marks (f := fun f => { f with
      dead := f.dead.filter (· != port * 4096 + tag)
      reqs := f.reqs.map fun x => if x.id = q.id then
        { x with sent := true, tag := BitVec.ofNat 15 (port * 4096 + tag) } else x }) ?_ rfl rfl)).trans ?_
  · exact fun x => by
      split
      · exact ⟨BitVec.ofNat 15 (port * 4096 + tag), false, true, by simp⟩
      · exact .refl x
  split
  · exact .of_marks (g := id) .refl rfl (List.map_id _).symm
  split
  · exact .of_linkStep (State.linkStep_linkPut ..)
  · exact .of_linkStep ((State.linkStep_perturbBy ..).trans (State.linkStep_linkPut ..))

theorem State.sendStep_kickFrom (done qs : List FabReq)
    (hqs : ∀ q ∈ qs, q.sent = true ∨ s.onWay q.node) : s.SendStep (s.kickFrom done qs) := by
  induction qs generalizing s done with
  | nil => exact .refl s
  | cons q qs ih =>
    rw [State.kickFrom]
    have step : s.SendStep (if q.sent then s else
        s.trySend (s.fab.reqs.filter fun r => done.any fun d => d.id == r.id) q) := by
      split
      · exact .refl s
      · next hs => exact s.sendStep_trySend _ ((hqs q (List.mem_cons_self ..)).resolve_left hs)
    exact step.trans (ih _ fun r hr => (hqs r (List.mem_cons_of_mem _ hr)).imp id step.onWay.2)

/-- The hub's acceptance frees no slot of a message when none is waiting. -/
theorem State.sendStep_hubAccept (h : s.fabricClear) : s.SendStep s.hubAccept := by
  have free (l : List FabReq) (hl : ∀ q ∈ l, ∃ c t r o, q.owner = .part c t r o) (u : State) :
      l.foldl State.freeSlot u = u := by
    induction l generalizing u with
    | nil => rfl
    | cons q l ih =>
      obtain ⟨c, t, r, o, ho⟩ := hl q (List.mem_cons_self ..)
      rw [List.foldl_cons, State.freeSlot, ho]
      exact ih (fun r hr => hl r (List.mem_cons_of_mem _ hr)) u
  unfold State.hubAccept
  dsimp only
  split
  · exact .refl s
  rw [free]
  · exact .of_marks (fun x => by
      split
      · exact ⟨x.tag, true, false, by simp⟩
      · exact .refl x) rfl rfl
  · intro q hq
    obtain ⟨hq, hhub⟩ := List.mem_filter.1 hq
    rcases h q hq with h | h
    · rw [h.1] at hhub; exact absurd hhub (by simp)
    · exact h.1

theorem State.sendStep_kick (h : s.fabricClear) : s.SendStep s.kick := by
  have accepted := State.sendStep_hubAccept h
  unfold State.kick
  dsimp only
  split
  · exact accepted.trans (State.sendStep_kickFrom _ _ fun q hq =>
      (accepted.clear h q hq).imp And.right And.right)
  · exact accepted

/-- A new request of a part of a thread's request, whose packet finds a way. -/
theorem State.sendStep_newReq (h : s.fabricClear) {node : BitVec 16} (hn : s.onWay node) (c t r o : Nat)
    (eng : BitVec 16) (type addr len : Nat) (body : Bytes) :
    s.SendStep (s.newReq (.part c t r o) eng type node addr len body).2 ∧
    ∃ f ∈ (s.newReq (.part c t r o) eng type node addr len body).2.fab.reqs, f.owner = .part c t r o ∧
      f.node = node ∧ f.addr = addr ∧ f.len = len ∧ f.type = type ∧ f.body = body := by
  let q : FabReq := { id := s.nextId, owner := .part c t r o, eng := eng, type := type, node := node, addr := addr,
                      len := len, tag := 0, body := body, atHub := false, sent := false }
  let u := s.fresh.2.modFab fun f => { f with reqs := f.reqs ++ [q] }
  have hu : s.SendStep u := by
    refine ⟨⟨s.links, s.err.ents, s.freeCtr, s.out, _, _, rfl⟩, rfl,
      fun q' hq' => ⟨q', List.mem_append_left _ hq', .refl q'⟩, fun h q' hq' => ?_⟩
    rcases List.mem_append.1 hq' with hq' | hq'
    · exact h q' hq'
    · rw [List.mem_singleton.1 hq']
      exact .inr ⟨⟨c, t, r, o, rfl⟩, hn⟩
  have kicked := State.sendStep_kick (hu.clear h)
  refine ⟨hu.trans kicked, ?_⟩
  obtain ⟨f, hf, hmark⟩ := kicked.kept q (List.mem_append_right _ (List.mem_singleton_self q))
  exact ⟨f, hf, hmark.keeps⟩

/-- The packets of a request: each becomes a request of the fabric endpoint at its target. -/
theorem State.sendStep_sendParts (h : s.fabricClear) (c t r : Nat) (node : BitVec 16) (pk : List Acc)
    (hpk : ∀ x ∈ pk, s.onWay (s.target node x)) :
    s.SendStep (s.sendParts c t r node pk) ∧
    ∀ x ∈ pk, ∃ f ∈ (s.sendParts c t r node pk).fab.reqs, f.owner = .part c t r x.off ∧
      f.node = s.target node x ∧ f.addr = x.addr ∧ f.len = x.len ∧ f.type = (x.op.packet node x.addr x.len).1 ∧
      f.body = (x.op.packet node x.addr x.len).2 := by
  induction pk generalizing s with
  | nil => exact ⟨.refl s, fun x hx => nomatch hx⟩
  | cons a pk ih =>
    rw [State.sendParts, List.foldl_cons, ← State.sendParts]
    dsimp only
    obtain ⟨step, f, hf, hfields⟩ := State.sendStep_newReq h (hpk a (List.mem_cons_self ..)) c t r a.off
      (threadEng c t) (a.op.packet node a.addr a.len).1 a.addr a.len (a.op.packet node a.addr a.len).2
    obtain ⟨steps, others⟩ := ih (step.clear h) fun x hx =>
      step.onWay.2 (by rw [step.target]; exact hpk x (List.mem_cons_of_mem _ hx))
    refine ⟨step.trans steps, fun x hx => ?_⟩
    rcases List.mem_cons.1 hx with rfl | hx
    · obtain ⟨f', hf', hmark⟩ := steps.kept f hf
      obtain ⟨h1, h2, h3, h4, h5, h6⟩ := hmark.keeps
      obtain ⟨g1, g2, g3, g4, g5, g6⟩ := hfields
      exact ⟨f', hf', h1.trans g1, h2.trans g2, h3.trans g3, h4.trans g4, h5.trans g5, h6.trans g6⟩
    · rw [← step.target node x]
      exact others x hx

end Sys2Proof.Machine
end

section
/-! SUPPORT. A remote access at its issue: its parts and the packets they send (03 R72; 11 R353, R370). -/

namespace Sys2Proof.Machine

variable {s : State} {c t : Nat} {node : BitVec 16} {accs : List Acc}

/-- A part of a request goes on its way to node `dest`, or has ended with NODE_UNREACH (R353). -/
def State.Sent (s u : State) (c t : Nat) (q : Req) (p : Part) (dest : BitVec 16) (type : Nat) (body : Bytes) : Prop :=
  if s.reachable dest false = true then p.err = none ∧ ∃ f ∈ u.fab.reqs, f.owner = .part c t q.id p.off ∧
    f.node = dest ∧ f.addr = p.addr ∧ f.len = p.len ∧ f.type = type ∧ f.body = body
  else p.err = some (cUnreach, 4)

/-- Part `p` of request `q` is the packet of access `x`. -/
structure State.IsPacket (s u : State) (c t : Nat) (q : Req) (node : BitVec 16) (x : Acc) (p : Part) : Prop where
  addr : p.addr = x.addr
  len : p.len = x.len
  op : p.op = x.op
  dest : p.node = some node
  off : p.off = x.off
  res : p.res = none
  sent : s.Sent u c t q p (s.target node x) (x.op.packet node x.addr x.len).1 (x.op.packet node x.addr x.len).2

/-- Every packet is a part. -/
theorem exists_mem_remoteParts {pk : List Acc} {x : Acc} (hx : x ∈ pk) (sid nsec : Nat) (lost : Acc → Bool) :
    ∃ p ∈ remoteParts node sid nsec lost pk, p.addr = x.addr ∧ p.len = x.len ∧ p.op = x.op ∧ p.node = some node ∧
      p.off = x.off ∧ p.res = none ∧ p.err = if lost x then some (cUnreach, 4) else none := by
  obtain ⟨k, hk⟩ := List.mem_iff_getElem?.1 hx
  have hmem : (x, k) ∈ pk.zipIdx := List.mem_zipIdx_iff_getElem?.2 hk
  exact ⟨_, List.mem_append_left _ (List.mem_map_of_mem hmem), rfl, rfl, rfl, rfl, rfl, rfl, rfl⟩

theorem length_remoteParts (sid nsec : Nat) (lost : Acc → Bool) (pk : List Acc) :
    (remoteParts node sid nsec lost pk).length = pk.length + (nsec - pk.length) := by
  simp [remoteParts]

/-- With slots free a remote access becomes one outstanding request of its thread, with one part for each packet. -/
theorem State.remote_done (hsent : s.fabricSent) (hne : accs ≠ []) (hs : (s.thread c t).slots < 8)
    (hu : s.slotsUsed c + sectorsIn accs ≤ 256) (pc : BitVec 64) (dst : ReqDst) :
    ∃ u q, s.remote c t pc dst node accs = .done u ∧ u.mem = s.mem ∧ u.thread c t = (s.thread c t).addReq q ∧
      q.pc = pc ∧ q.dst = dst ∧ q.superseded = false ∧
      q.parts.length = (accs.flatMap (packetsOf 4)).length + (sectorsIn accs - (accs.flatMap (packetsOf 4)).length) ∧
      ∀ x ∈ accs.flatMap (packetsOf 4), ∃ p ∈ q.parts, s.IsPacket u c t q node x p := by
  rw [State.remote, if_neg (by simpa using hne)]
  dsimp only
  rw [if_neg (by omega)]
  generalize accs.flatMap (packetsOf 4) = pk
  let lost : Acc → Bool := fun x => !s.reachable (s.target node x) false
  let q : Req := ⟨s.nextId, pc, dst, false, remoteParts node (s.nextId + 1) (sectorsIn accs) lost pk⟩
  let v : State := State.modThread { s with nextId := s.nextId + 1 + sectorsIn accs } c t fun th => th.addReq q
  have hclear : v.fabricClear := hsent.clear
  obtain ⟨steps, packets⟩ := State.sendStep_sendParts hclear c t q.id node (pk.filter fun x => !lost x) (by
    intro x hx
    obtain ⟨_, hx⟩ := List.mem_filter.1 hx
    exact State.onWay_of_reachable (s := s) (n := s.target node x) (by simpa [lost] using hx))
  refine ⟨_, q, rfl, steps.mem, ?_, rfl, rfl, rfl, length_remoteParts .., fun x hx => ?_⟩
  · exact (steps.thread c t).trans (State.thread_setThread ..)
  · obtain ⟨p, hp, haddr, hlen, hop, hnode, hoff, hres, herr⟩ :=
      exists_mem_remoteParts (node := node) hx (s.nextId + 1) (sectorsIn accs) lost
    refine ⟨p, hp, haddr, hlen, hop, hnode, hoff, hres, ?_⟩
    rw [State.Sent, herr, hoff, haddr, hlen]
    split
    · next h =>
      have hgo : lost x = false := by simp [lost, h]
      exact ⟨by rw [hgo]; rfl, packets x (List.mem_filter.2 ⟨hx, by rw [hgo]; rfl⟩)⟩
    · next h => rw [show lost x = true by simp [lost, h]]; rfl

/-- Without a free instruction slot it waits (R73). -/
theorem State.remote_of_slots (hne : accs ≠ []) (hs : 8 ≤ (s.thread c t).slots) (pc : BitVec 64) (dst : ReqDst) :
    s.remote c t pc dst node accs = .slots (sectorsIn accs) := by
  rw [State.remote, if_neg (by simpa using hne)]
  exact if_pos (.inl hs)

@[simp] theorem State.remoteCheck_advance (s : State) (c' t c : Nat) (node : BitVec 16) (b : Bool) (n : Nat)
    (as : List Nat) : (s.advance c' t).remoteCheck c node b n as = s.remoteCheck c node b n as := rfl

/-- A remote access raises no exception when its addresses are aligned, to a node that is none for broadcasts, and on
no physical site that the core may not name. -/
theorem State.remoteCheck_eq_none {n : Nat} {as : List Nat} (hnode : node ≠ 0xFFFF) (halign : ∀ a ∈ as, a % n = 0)
    (hphys : (s.core c).unlocked = true ∨ ∀ a ∈ as, physAddr a = false) : s.remoteCheck c node false n as = none := by
  rw [State.remoteCheck, if_neg, if_neg (by simpa using hnode), if_neg]
  · simpa using halign
  · rcases hphys with h | h
    · simp [h]
    · simpa using fun _ => h

/-! ## As an instruction -/

variable {w : BitVec 64} {i : Instr} {opc : Nat} {body : Thread → State → Eff} {dst : ReqDst}

/-- An instruction whose body makes a remote access with slots free: what it adds, and what it keeps (R72). -/
theorem issue_remote (h : Acts opc 0 c t w s) (hexec : exec i s = issue opc 0 c t w s body)
    (hbody : body (s.thread c t) (s.advance c t) =
      (s.advance c t).remote c t (s.thread c t).pc dst node accs)
    (hne : accs ≠ []) (hs : (s.thread c t).slots < 8) (hu : s.slotsUsed c + sectorsIn accs ≤ 256)
    (hsent : s.fabricSent) : ∃ u q, exec i s = .next u ∧
      (u.mem = s.mem ∧ (u.thread c t).regs = (s.thread c t).regs ∧ (u.thread c t).pc = (s.thread c t).pc + 8 ∧
        (u.thread c t).reqs = (s.thread c t).reqs ++ [q] ∧ q.pc = (s.thread c t).pc ∧ q.dst = dst ∧
        q.superseded = false) ∧
      q.parts.length = (accs.flatMap (packetsOf 4)).length + (sectorsIn accs - (accs.flatMap (packetsOf 4)).length) ∧
      ∀ x ∈ accs.flatMap (packetsOf 4), ∃ p ∈ q.parts, s.IsPacket u c t q node x p := by
  have hsent' : (s.advance c t).fabricSent := hsent
  obtain ⟨u, q, heff, hmem, hth, hpc, hdst, hsup, hparts, hpackets⟩ :=
    State.remote_done (s := s.advance c t) (node := node) hsent' hne (by rw [State.thread_advance]; exact hs)
      (by rw [State.slotsUsed_advance]; exact hu) (s.thread c t).pc dst
  rw [State.thread_advance] at hth
  exact ⟨u, q, hexec.trans (issue_done h (hbody.trans heff)), ⟨hmem, by rw [hth]; rfl, by rw [hth]; rfl,
    by rw [hth]; rfl, hpc, hdst, hsup⟩, hparts, fun x hx => by
      obtain ⟨p, hp, h⟩ := hpackets x hx
      exact ⟨p, hp, h.addr, h.len, h.op, h.dest, h.off, h.res, h.sent⟩⟩

/-- … and without a free instruction slot it waits (R73). -/
theorem issue_remote_waits (h : Acts opc 0 c t w s) (hexec : exec i s = issue opc 0 c t w s body)
    (hbody : body (s.thread c t) (s.advance c t) =
      (s.advance c t).remote c t (s.thread c t).pc dst node accs) (hne : accs ≠ []) (hs : 8 ≤ (s.thread c t).slots) :
    ∃ u, exec i s = .next u ∧ u = s.setThread c t (u.thread c t) ∧
      u.thread c t = { s.thread c t with state := .waitMem, memNeed := (u.thread c t).memNeed } := by
  have heff := State.remote_of_slots (s := s.advance c t) (node := node) hne (by rw [State.thread_advance]; exact hs)
    (s.thread c t).pc dst
  refine ⟨_, hexec.trans (issue_slots h (hbody.trans heff)), ?_, ?_⟩
  · rw [State.thread_setThread]
  · rw [State.thread_setThread]

end Sys2Proof.Machine
end

section
/-! SUPPORT. The scalar remote instructions: one part, one packet. -/

namespace Sys2Proof.Machine

variable {s : State} {c t a n : Nat} {node : BitVec 16} {op : PartOp}

/-- An access within one sector takes one sector slot. -/
theorem sectorsIn_one (hn : 0 < n) (hfit : a % 32 + n ≤ 32) : sectorsIn [⟨a, n, 0, op, []⟩] = 1 := by
  have : (a + (n - 1)) / 32 - a / 32 + 1 = 1 := by omega
  simp [sectorsIn, sectorsOf, hn.ne', this, List.eraseDups_cons]

/-- It is one packet. -/
theorem packetsOf_one (hop : ∀ d, op = .wr d → d.length ≤ 248) :
    packetsOf 4 ⟨a, n, 0, op, []⟩ = [⟨a, n, 0, op, []⟩] := by
  rw [packetsOf]
  dsimp only
  split
  · next d => exact if_pos (hop d rfl)
  · rfl

variable {w : BitVec 64} {i : Instr} {opc : Nat} {body : Thread → State → Eff} {dst : ReqDst}

/-- One remote access within one sector is a request of one part. -/
theorem issue_remote_one (h : Acts opc 0 c t w s) (hexec : exec i s = issue opc 0 c t w s body)
    (hbody : body (s.thread c t) (s.advance c t) =
      (s.advance c t).remote c t (s.thread c t).pc dst node [⟨a, n, 0, op, []⟩])
    (hn : 0 < n) (hfit : a % 32 + n ≤ 32) (hop : ∀ d, op = .wr d → d.length ≤ 248) (hs : (s.thread c t).slots < 8)
    (hu : s.slotsUsed c < 256) (hsent : s.fabricSent) : ∃ u q p, exec i s = .next u ∧
      (u.mem = s.mem ∧ (u.thread c t).regs = (s.thread c t).regs ∧ (u.thread c t).pc = (s.thread c t).pc + 8 ∧
        (u.thread c t).reqs = (s.thread c t).reqs ++ [q] ∧ q.pc = (s.thread c t).pc ∧ q.dst = dst ∧
        q.superseded = false) ∧ q.parts = [p] ∧ p.addr = a ∧ p.len = n ∧ p.op = op ∧ p.node = some node ∧
      p.res = none ∧ s.Sent u c t q p (s.target node ⟨a, n, 0, op, []⟩) (op.packet node a n).1
        (op.packet node a n).2 := by
  have hsec := sectorsIn_one (op := op) hn hfit
  obtain ⟨u, q, hnext, hwent, hlen, hpackets⟩ := issue_remote h hexec hbody (by simp) hs (by omega) hsent
  simp only [List.flatMap_cons, List.flatMap_nil, List.append_nil, packetsOf_one hop, hsec, List.length_singleton,
    List.mem_singleton, forall_eq] at hlen hpackets
  obtain ⟨p, hp, hpacket⟩ := hpackets
  obtain ⟨p', hq⟩ := List.length_eq_one_iff.1 hlen
  rw [hq, List.mem_singleton] at hp
  exact ⟨u, q, p, hnext, hwent, hp ▸ hq, hpacket.addr, hpacket.len, hpacket.op, hpacket.dest, hpacket.res,
    hpacket.sent⟩

end Sys2Proof.Machine
end

section
/-! SUPPORT. Runs of guarded lanes (04 R103), the sectors they take (03 R72) and the bytes of their lanes. -/

namespace Sys2Proof.Machine

/-! ## Runs -/

/-- The runs of a list cover its elements and no others. -/
theorem mem_iff_runsOf (l : List Nat) (j : Nat) : j ∈ l ↔ ∃ r ∈ runsOf l, r.1 ≤ j ∧ j < r.1 + r.2 := by
  induction l with
  | nil => simp [runsOf]
  | cons i l ih =>
    have single : j = i ↔ i ≤ j ∧ j < i + 1 := by omega
    rw [List.mem_cons, ih, runsOf]
    split
    · next k n rs h =>
      rw [h]
      split
      · next hk =>
        have merged : i ≤ j ∧ j < i + (n + 1) ↔ j = i ∨ k ≤ j ∧ j < k + n := by omega
        simp only [List.mem_cons, exists_eq_or_imp, merged, or_assoc]
      · simp only [List.mem_cons, exists_eq_or_imp, ← single]
    · next h => simp only [h, List.mem_singleton, exists_eq_left, ← single]; simp

/-- Every run has a lane. -/
theorem runsOf_pos (l : List Nat) : ∀ r ∈ runsOf l, 0 < r.2 := by
  induction l with
  | nil => simp [runsOf]
  | cons i l ih =>
    rw [runsOf]
    split
    · next k n rs h =>
      rw [h, List.forall_mem_cons] at ih
      split
      · exact List.forall_mem_cons.2 ⟨Nat.succ_pos n, ih.2⟩
      · exact List.forall_mem_cons.2 ⟨Nat.one_pos, List.forall_mem_cons.2 ih⟩
    · simp

/-- The runs of an ascending list follow one another. -/
theorem pairwise_runsOf {l : List Nat} (h : l.Pairwise (· < ·)) :
    (runsOf l).Pairwise fun r r' => r.1 + r.2 ≤ r'.1 := by
  induction l with
  | nil => simp [runsOf]
  | cons i l ih =>
    obtain ⟨hi, hl⟩ := List.pairwise_cons.1 h
    have starts : ∀ r ∈ runsOf l, i + 1 ≤ r.1 := fun r hr =>
      hi r.1 ((mem_iff_runsOf l r.1).2 ⟨r, hr, le_rfl, by have := runsOf_pos l r hr; omega⟩)
    replace ih := ih hl
    rw [runsOf]
    split
    · next k n rs hruns =>
      rw [hruns] at ih starts
      split
      · next hk =>
        obtain ⟨hhead, htail⟩ := List.pairwise_cons.1 ih
        exact List.pairwise_cons.2 ⟨fun r hr => by have := hhead r hr; dsimp only at this ⊢; omega, htail⟩
      · exact List.pairwise_cons.2 ⟨starts, ih⟩
    · exact List.pairwise_singleton ..

/-- Runs that follow one another split at the lane where their first lanes reach `m`. -/
theorem exists_split_runs (m : Nat) {rs : List (Nat × Nat)} (h : rs.Pairwise fun r r' => r.1 + r.2 ≤ r'.1) :
    ∃ k, ∀ r ∈ rs, (r.1 < m ∧ r.1 + r.2 ≤ k) ∨ (m ≤ r.1 ∧ k ≤ r.1) := by
  induction rs with
  | nil => exact ⟨0, by simp⟩
  | cons r rs ih =>
    obtain ⟨hr, hrs⟩ := List.pairwise_cons.1 h
    obtain ⟨k, hk⟩ := ih hrs
    by_cases hm : m ≤ r.1
    · refine ⟨r.1, List.forall_mem_cons.2 ⟨.inr ⟨hm, le_rfl⟩, fun r' hr' => .inr ?_⟩⟩
      have := hr r' hr'
      omega
    · refine ⟨max k (r.1 + r.2), List.forall_mem_cons.2 ⟨by omega, fun r' hr' => ?_⟩⟩
      have := hr r' hr'
      have := hk r' hr'
      omega

/-! ## Sectors -/

/-- A list has at most as many distinct elements as a set that holds them. -/
theorem length_eraseDups_le {α : Type} [DecidableEq α] (l : List α) (b : Finset α) (h : ∀ x ∈ l, x ∈ b) :
    l.eraseDups.length ≤ b.card := by
  induction hn : l.length using Nat.strong_induction_on generalizing l b with
  | _ n ih =>
    cases l with
    | nil => simp
    | cons a l =>
      rw [List.eraseDups_cons, List.length_cons, ← Finset.card_erase_add_one (h a (List.mem_cons_self ..))]
      have hlen := List.length_filter_le (fun x => !x == a) l
      refine Nat.succ_le_succ (ih _ (by simp only [List.length_cons] at hn; omega) _ _ (fun x hx => ?_) rfl)
      obtain ⟨hx, hne⟩ := List.mem_filter.1 hx
      exact Finset.mem_erase.2 ⟨by simpa using hne, h x (List.mem_cons_of_mem _ hx)⟩

/-- A sector of an access lies between those of its first and its last byte. -/
theorem mem_sectors {x : Acc} {v : Nat} (h : v ∈ (List.range (sectorsOf x.addr x.len)).map fun i => x.addr / 32 + i) :
    x.addr / 32 ≤ v ∧ v ≤ (x.addr + x.len - 1) / 32 := by
  obtain ⟨i, hi, rfl⟩ := List.mem_map.1 h
  rw [List.mem_range, sectorsOf] at hi
  split at hi
  · omega
  · omega

variable {th : Thread} {w : BitVec 64}

theorem Thread.mem_lanes {j : Nat} : j ∈ th.lanes w ↔ j < 64 ∧ th.laneGuard w j = true := by
  rw [Thread.lanes, selectBelow, List.mem_filter, List.mem_range]

theorem Thread.pairwise_lanes (th : Thread) (w : BitVec 64) : (th.lanes w).Pairwise (· < ·) :=
  (List.pairwise_lt_range ..).filter _

/-- A run of guarded lanes ends at the last lane. -/
theorem Thread.run_le {r : Nat × Nat} (hr : r ∈ runsOf (th.lanes w)) : r.1 + r.2 ≤ 64 := by
  have hpos := runsOf_pos _ r hr
  have hlast := (mem_iff_runsOf (th.lanes w) (r.1 + r.2 - 1)).2 ⟨r, hr, by omega, by omega⟩
  have := (Thread.mem_lanes.1 hlast).1
  omega

/-- The lanes of a vector take at most ten sectors: 256 bytes, which may begin anew once at address 2^48. -/
theorem sectorsIn_gRuns_le (th : Thread) (w : BitVec 64) (op : Nat → Nat → PartOp) :
    sectorsIn (gRuns th w op) ≤ 16 := by
  obtain ⟨a, ha⟩ : ∃ a, gAddr th w = a := ⟨_, rfl⟩
  have hlt : a < 2 ^ 48 := ha ▸ BitVec.isLt _
  obtain ⟨k, hk⟩ := exists_split_runs ((2 ^ 48 - a + 3) / 4) (pairwise_runsOf (th.pairwise_lanes w))
  let below := Finset.Icc (a / 32) ((a + 4 * min k 64 - 1) / 32)
  let above := Finset.Icc ((a + 4 * min k 64 - 2 ^ 48) / 32) ((a + 255 - 2 ^ 48) / 32)
  have hcard : (below ∪ above).card ≤ 16 := by
    refine (Finset.card_union_le ..).trans ?_
    rw [Nat.card_Icc, Nat.card_Icc]
    omega
  refine (length_eraseDups_le _ (below ∪ above) fun v hv => ?_).trans hcard
  obtain ⟨x, hx, hv⟩ := List.mem_flatMap.1 hv
  obtain ⟨r, hr, rfl⟩ := List.mem_map.1 hx
  obtain ⟨hlo, hhi⟩ := mem_sectors hv
  have hpos := runsOf_pos _ r hr
  have hend := Thread.run_le hr
  dsimp only at hlo hhi
  rw [ha] at hlo hhi
  rw [Finset.mem_union, Finset.mem_Icc, Finset.mem_Icc]
  rcases hk r hr with ⟨h1, h2⟩ | ⟨h1, h2⟩
  · have hmod : (a + 4 * r.1) % 2 ^ 48 = a + 4 * r.1 := Nat.mod_eq_of_lt (by omega)
    rw [hmod] at hlo hhi
    left; omega
  · have hmod : (a + 4 * r.1) % 2 ^ 48 = a + 4 * r.1 - 2 ^ 48 := by omega
    rw [hmod] at hlo hhi
    right; omega

end Sys2Proof.Machine
end

section
/-! SUPPORT. The bytes of lanes, and how a write is cut into packets (11 R347). -/

namespace Sys2Proof.Machine

theorem fromLE_toLE (n x : Nat) : fromLE (toLE n x) = x % 256 ^ n := by
  induction n generalizing x with
  | zero => simp [toLE, fromLE, Nat.mod_one]
  | succ n ih =>
    rw [toLE, fromLE, ih, BitVec.toNat_ofNat, Nat.mod_mod, Nat.pow_succ', ← Nat.mod_mul]

theorem length_laneBytes (v : BitVec 2048) (i n : Nat) : (laneBytes v i n).length = 4 * n := by
  simp [laneBytes, length_toLE, Nat.mul_comm]

/-- The word of each lane. -/
theorem leField_laneBytes (v : BitVec 2048) (i : Nat) {n j : Nat} (h : j < n) :
    leField (laneBytes v i n) (4 * j) 4 = (lane v (i + j)).toNat := by
  have word : slice (laneBytes v i n) (4 * j) 4 = toLE 4 (lane v (i + j)).toNat := by
    induction n generalizing i j with
    | zero => omega
    | succ n ih =>
      have cons : laneBytes v i (n + 1) = toLE 4 (lane v i).toNat ++ laneBytes v (i + 1) n := by
        simp only [laneBytes, List.range_succ_eq_map, List.flatMap_cons, List.flatMap_map, Nat.add_zero]
        simp only [Nat.succ_eq_add_one, Nat.add_comm 1, Nat.add_assoc]
      rw [cons]
      cases j with
      | zero => exact List.take_left' (length_toLE ..)
      | succ j =>
        have hdrop := ih (i + 1) (Nat.lt_of_succ_lt_succ h)
        rw [slice, Nat.mul_succ, Nat.add_comm, ← List.drop_drop, List.drop_left' (length_toLE ..), ← slice, hdrop]
        congr 3; omega
  rw [leField, word, fromLE_toLE]
  exact Nat.mod_eq_of_lt (BitVec.isLt _)

/-- Each word of a write lies in one of its packets, with its data. -/
theorem exists_packet_of_wr (fuel : Nat) {x : Acc} {d : Bytes} (hop : x.op = .wr d) (hlen : d.length = x.len)
    (hfuel : x.len ≤ 248 * fuel) {o : Nat} (ho : o % 4 = 0) (hin : o + 4 ≤ x.len) :
    ∃ y ∈ packetsOf fuel x, ∃ e d', y.op = .wr d' ∧ y.addr = x.addr + e ∧ y.off = x.off + e ∧ e ≤ o ∧
      o + 4 ≤ e + y.len ∧ leField d' (o - e) 4 = leField d o 4 := by
  induction fuel generalizing x d o with
  | zero => omega
  | succ fuel ih =>
    rw [packetsOf, hop]
    dsimp only
    split
    · exact ⟨x, List.mem_singleton_self x, 0, d, hop, rfl, rfl, Nat.zero_le o, by omega, rfl⟩
    · by_cases hfirst : o < 248
      · refine ⟨_, List.mem_cons_self .., 0, d.take 248, rfl, rfl, rfl, Nat.zero_le o, by dsimp only; omega, ?_⟩
        rw [leField, leField, slice, slice, Nat.sub_zero, List.drop_take, List.take_take, min_eq_left (by omega)]
      · obtain ⟨y, hy, e, d', hyop, haddr, hoff, hle, hend, hval⟩ :=
          ih (x := ⟨x.addr + 248, x.len - 248, x.off + 248, .wr (d.drop 248), []⟩) (o := o - 248) rfl
            (by rw [List.length_drop, hlen]) (by dsimp only; omega) (by omega) (by dsimp only; omega)
        refine ⟨y, List.mem_cons_of_mem _ hy, e + 248, d', hyop, by rw [haddr]; dsimp only; omega,
          by rw [hoff]; dsimp only; omega, by omega, by omega, ?_⟩
        rw [show o - (e + 248) = o - 248 - e by omega, hval]
        rw [leField, leField, slice, slice, List.drop_drop, show 248 + (o - 248) = o by omega]

end Sys2Proof.Machine
end

section
/-! SUPPORT. The statement about remote accesses. -/

namespace Sys2Proof.Machine

variable {s : State} {c t : Nat} {w : BitVec 64}

theorem gAddr_eq (th : Thread) (w : BitVec 64) : gAddr th w = ((th.regs.getS (iRa w)).extractLsb' 0 48 +
    ((w.extractLsb' 0 30).signExtend 64).extractLsb' 0 48).toNat := by
  rw [gAddr, iOff, sext64_ifld w 0 (by decide)]

/-- RLD, RST and RATOM have a WIDTH of at most 8 bytes (R102). -/
theorem iWidth_lt_of_remote {op : Nat} (h : Acts op 0 c t w s) (hop : op ∈ [0x58, 0x59, 0x5C]) : iWidth w < 4 := by
  have hl := h.legal
  simp only [List.mem_cons, List.not_mem_nil, or_false] at hop
  obtain rfl | rfl | rfl := hop <;> simp [Machine.legal, h.opcode, legalM] at hl <;> omega

variable {th : Thread} {i : Nat}

/-- The run of a guarded lane. -/
theorem Thread.exists_run (hi : i < 64) (hg : th.laneGuard w i = true) :
    ∃ r ∈ runsOf (th.lanes w), r.1 ≤ i ∧ i < r.1 + r.2 :=
  (mem_iff_runsOf ..).1 (Thread.mem_lanes.2 ⟨hi, hg⟩)

theorem gRuns_ne_nil (op : Nat → Nat → PartOp) (h : ∃ i < 64, th.laneGuard w i = true) : gRuns th w op ≠ [] := by
  obtain ⟨i, hi, hg⟩ := h
  obtain ⟨r, hr, _⟩ := Thread.exists_run hi hg
  exact List.ne_nil_of_mem (List.mem_map_of_mem hr)

/-- A guarded lane of a vector load lies in one packet. -/
theorem exists_packet_of_lane_rd (hi : i < 64) (hg : th.laneGuard w i = true) :
    ∃ x ∈ (gRuns th w fun _ _ => .rd).flatMap (packetsOf 4), x.op = .rd ∧ x.off ≤ 4 * i ∧ 4 * i + 4 ≤ x.off + x.len ∧
      (x.addr + (4 * i - x.off)) % 2 ^ 48 = (gAddr th w + 4 * i) % 2 ^ 48 := by
  obtain ⟨r, hr, hlo, hhi⟩ := Thread.exists_run hi hg
  refine ⟨_, List.mem_flatMap.2 ⟨_, List.mem_map_of_mem hr, List.mem_singleton_self _⟩, rfl, ?_, ?_, ?_⟩
  all_goals dsimp only; omega

/-- A guarded lane of a vector store lies in one packet, with its word. -/
theorem exists_packet_of_lane_wr (v : BitVec 2048) (hi : i < 64) (hg : th.laneGuard w i = true) :
    ∃ x ∈ (gRuns th w fun i n => .wr (laneBytes v i n)).flatMap (packetsOf 4), ∃ d, x.op = .wr d ∧ x.off ≤ 4 * i ∧
      4 * i + 4 ≤ x.off + x.len ∧ (x.addr + (4 * i - x.off)) % 2 ^ 48 = (gAddr th w + 4 * i) % 2 ^ 48 ∧
      leField d (4 * i - x.off) 4 = (lane v i).toNat := by
  obtain ⟨r, hr, hlo, hhi⟩ := Thread.exists_run hi hg
  have hend := Thread.run_le hr
  obtain ⟨y, hy, e, d, hop, haddr, hoff, hle, hlast, hval⟩ := exists_packet_of_wr 4
    (x := ⟨(gAddr th w + 4 * r.1) % 2 ^ 48, 4 * r.2, 4 * r.1, .wr (laneBytes v r.1 r.2), []⟩) rfl
    (length_laneBytes ..) (by dsimp only; omega) (o := 4 * (i - r.1)) (by omega) (by dsimp only; omega)
  rw [leField_laneBytes _ _ (by omega), show r.1 + (i - r.1) = i by omega] at hval
  dsimp only at haddr hoff
  refine ⟨y, List.mem_flatMap.2 ⟨_, List.mem_map_of_mem hr, hy⟩, d, hop, by omega, by omega, by omega, ?_⟩
  rw [← hval]
  congr 1; omega

/-- Settles O20: a scalar form is one access of one part; a guarded lane of a vector form lies in the packet of its
run, or for a store of more than 248 bytes in one of its two packets. -/
theorem remoteIssue : Obligations.RemoteIssue := by
  unfold Obligations.RemoteIssue
  intro c t w s th node a n x y g at' waits went sent
  have ha : gAddr (s.thread c t) w = a := gAddr_eq ..
  have hnode' : gNode (s.thread c t) w = node := rfl
  have hwidth : widthBytes w = n := rfl
  refine ⟨fun k hk hacts hnode halign hphys => ?_, fun k hk hacts hnode halign hguard hphys => ?_⟩
  · have hw := iWidth_lt_of_remote hacts (List.mem_map_of_mem (f := Prod.fst) hk)
    have hn : 0 < n := Nat.two_pow_pos _
    have hn8 : n ≤ 248 := (Nat.pow_le_pow_right (by decide) (Nat.le_of_lt_succ hw)).trans (by decide)
    have hcheck : s.remoteCheck c node false n [a] = none :=
      State.remoteCheck_eq_none hnode (by simpa using halign) (by simpa using hphys)
    have settle {body : Thread → State → Eff}
        (hexec : exec (k.2.1 c t w) s = issue k.1 0 c t w s body)
        (hbody : body (s.thread c t) (s.advance c t) =
          (s.advance c t).remote c t (s.thread c t).pc k.2.2.1 node [⟨a, n, 0, k.2.2.2.1, []⟩])
        (hop : ∀ d, k.2.2.2.1 = .wr d → d.length ≤ 248) := And.intro
      (fun hs hu hsent => issue_remote_one hacts hexec hbody hn (aligned_fits hw halign) hop hs hu hsent)
      (issue_remote_waits hacts hexec hbody (by simp))
    simp only [List.mem_cons, List.not_mem_nil, or_false] at hk
    obtain rfl | rfl | rfl := hk
    · refine settle rfl ?_ (fun d hd => nomatch hd)
      simp only [ha, hwidth, hnode', State.remoteCheck_advance, hcheck]
    · refine settle rfl ?_ (fun d hd => PartOp.wr.inj hd ▸ (length_toLE ..).trans_le hn8)
      simp only [ha, hwidth, hnode', State.remoteCheck_advance, hcheck]
      rfl
    · refine settle rfl ?_ (fun d hd => nomatch hd)
      simp only [ha, hwidth, hnode', State.remoteCheck_advance, hcheck]
      rfl
  · have hlanes : ∀ b ∈ gLanes (s.thread c t) w, ∃ i < 64, g i = true ∧ b = at' i := by
      intro b hb
      obtain ⟨i, hi, rfl⟩ := List.mem_map.1 hb
      obtain ⟨hi, hg⟩ := Thread.mem_lanes.1 hi
      exact ⟨i, hi, hg, by rw [ha]⟩
    have hcheck : s.remoteCheck c node false 4 (gLanes (s.thread c t) w) = none := by
      refine State.remoteCheck_eq_none hnode (fun b hb => ?_) (hphys.imp id fun h b hb => ?_)
      · obtain ⟨i, _, _, rfl⟩ := hlanes b hb
        dsimp only [at']
        omega
      · obtain ⟨i, hi, hg, rfl⟩ := hlanes b hb
        exact h i hi hg
    have settle {body : Thread → State → Eff} {dst : ReqDst} {op : Nat → Nat → PartOp}
        (hexec : exec (k.2.1 c t w) s = issue k.1 0 c t w s body)
        (hbody : body (s.thread c t) (s.advance c t) =
          (s.advance c t).remote c t (s.thread c t).pc dst node (gRuns (s.thread c t) w op)) := And.intro
      (fun hs hu hsent => issue_remote hacts hexec hbody (gRuns_ne_nil op hguard) hs
        ((Nat.add_le_add_left (sectorsIn_gRuns_le ..) _).trans hu) hsent)
      (issue_remote_waits hacts hexec hbody (gRuns_ne_nil op hguard))
    simp only [List.mem_cons, List.not_mem_nil, or_false] at hk
    obtain rfl | rfl := hk
    · obtain ⟨done, full⟩ := settle (op := fun _ _ => .rd) (dst := .v (iRd w) (BitVec.ofNat 64 (bitsOf 64 g)) 0) rfl
        (by simp only [hnode', State.remoteCheck_advance, hcheck]; rfl)
      refine ⟨fun hs hu hsent => ?_, full⟩
      obtain ⟨u, q, hnext, hwent, _, hpackets⟩ := done hs hu hsent
      refine ⟨u, q, hnext, hwent, fun i hi hg => ?_⟩
      obtain ⟨x, hx, hop, hfirst, hlast, haddr⟩ := exists_packet_of_lane_rd hi hg
      obtain ⟨p, hp, h⟩ := hpackets x hx
      have hsent := h.sent
      rw [State.target, hop, ← h.addr, ← h.len] at hsent
      rw [← h.off, ← h.addr, ha] at haddr
      exact ⟨p, hp, h.dest, h.res, h.off ▸ hfirst, h.off ▸ h.len ▸ hlast, haddr, h.op.trans hop, hsent⟩
    · obtain ⟨done, full⟩ := settle (op := fun i n => .wr (laneBytes ((s.thread c t).regs.getV (iRd w)) i n))
        (dst := .none) rfl (by simp only [hnode', State.remoteCheck_advance, hcheck])
      refine ⟨fun hs hu hsent => ?_, full⟩
      obtain ⟨u, q, hnext, hwent, _, hpackets⟩ := done hs hu hsent
      refine ⟨u, q, hnext, hwent, fun i hi hg => ?_⟩
      obtain ⟨x, hx, d, hop, hfirst, hlast, haddr, hval⟩ := exists_packet_of_lane_wr _ hi hg
      obtain ⟨p, hp, h⟩ := hpackets x hx
      have hsent := h.sent
      rw [State.target, hop, ← h.addr, ← h.len] at hsent
      rw [← h.off, ← h.addr, ha] at haddr
      exact ⟨p, hp, h.dest, h.res, h.off ▸ hfirst, h.off ▸ h.len ▸ hlast, haddr, d, h.op.trans hop, h.off ▸ hval,
        hsent⟩

end Sys2Proof.Machine
end

section
/-! SUPPORT. An error status that reaches a thread, and the slots that become free (03 R60, R73; 04 R107). -/

namespace Sys2Proof.Machine

/-! ## The record of a thread -/

section
variable (th : Thread) (cause : BitVec 8) (unit : BitVec 3) (dest : BitVec 4) (pc : BitVec 64)

/-- A thread in these states takes no error status (R60). -/
def Thread.settled : Prop := th.state = .free ∨ th.state = .fenced ∨ th.state = .faulted

/-- Settling ends the wait and the stop only. -/
theorem Thread.settle_cases : ∃ st f w, th.settle = { th with state := st, stopping := f, wait := w } := by
  unfold Thread.settle
  split
  · split
    · exact ⟨_, _, _, rfl⟩
    · exact ⟨_, _, _, rfl⟩
  · exact ⟨_, _, _, rfl⟩

theorem Thread.errorStatus_of_settled {th : Thread} (h : th.settled) : th.errorStatus cause unit dest pc = th := by
  rw [Thread.errorStatus]
  obtain h | h | h := h <;> rw [h]

theorem Thread.errorStatus_of_not_settled {th : Thread} (h : ¬ th.settled) :
    th.errorStatus cause unit dest pc = (th.record cause unit dest pc).stopTo .faulted := by
  simp only [Thread.settled, not_or] at h
  rw [Thread.errorStatus]
  split <;> simp_all

/-- An error status changes the record and the state only. -/
theorem Thread.errorStatus_cases : ∃ st f w, th.errorStatus cause unit dest pc =
    { th with state := st, stopping := f, wait := w, fault := (th.errorStatus cause unit dest pc).fault } := by
  by_cases h : th.settled
  · rw [Thread.errorStatus_of_settled _ _ _ _ h]; exact ⟨_, _, _, rfl⟩
  · rw [Thread.errorStatus_of_not_settled _ _ _ _ h, Thread.stopTo, Thread.record]
    split
    · obtain ⟨st, f, w, h⟩ := Thread.settle_cases { th with stopping := some .faulted }
      rw [h]; exact ⟨_, _, _, rfl⟩
    · obtain ⟨st, f, w, h⟩ := Thread.settle_cases
        { th with fault := ⟨cause, unit, dest, true, pc.extractLsb' 3 23⟩, stopping := some .faulted }
      rw [h]; exact ⟨_, _, _, rfl⟩

theorem Thread.fault_errorStatus_of_not_settled {th : Thread} (h : ¬ th.settled) :
    (th.errorStatus cause unit dest pc).fault = (th.record cause unit dest pc).fault := by
  rw [Thread.errorStatus_of_not_settled _ _ _ _ h, Thread.stopTo]
  obtain ⟨st, f, w, hs⟩ := Thread.settle_cases { th.record cause unit dest pc with stopping := some .faulted }
  rw [hs]

/-- What is recorded depends on the record before and on whether the thread takes an error status. -/
theorem Thread.fault_errorStatus_congr {th x : Thread} (hf : x.fault = th.fault) (hs : x.settled ↔ th.settled) :
    (x.errorStatus cause unit dest pc).fault = (th.errorStatus cause unit dest pc).fault := by
  by_cases h : th.settled
  · rw [Thread.errorStatus_of_settled _ _ _ _ h, Thread.errorStatus_of_settled _ _ _ _ (hs.2 h), hf]
  · rw [Thread.fault_errorStatus_of_not_settled _ _ _ _ h,
      Thread.fault_errorStatus_of_not_settled _ _ _ _ (mt hs.1 h), Thread.record, Thread.record, hf]
    split
    · exact hf
    · rfl

end

/-! ## Waiters that the thread blocked -/

variable (s : State) (c t : Nat)

theorem State.thread_wakeAll_ne {ts : List Nat} (h : t ∉ ts) : (s.wakeAll c ts).thread c t = s.thread c t := by
  induction ts generalizing s with
  | nil => rfl
  | cons a ts ih =>
    rw [List.mem_cons, not_or] at h
    exact (ih _ h.2).trans (State.thread_setThread_ne _ _ _ _ (by omega))

theorem State.core_wakeAll (ts : List Nat) (c' : Nat) : (s.wakeAll c ts).core c' = s.core c' := by
  obtain ⟨x, h⟩ := s.wakeAll_cases c ts
  rw [h]; rfl

/-- Only waiters are released. -/
theorem mem_of_served {sem v : Nat} {ws : List (Nat × Nat × Nat)} (h : t ∈ (serveWaiters sem ws v).2.2) :
    ∃ x ∈ ws, x.2.1 = t := by
  obtain ⟨k, -, hrel, -⟩ := serveWaiters_inOrder sem v ws
  rw [hrel] at h
  obtain ⟨x, hx, rfl⟩ := List.mem_map.1 h
  exact ⟨x, (List.mem_filter.1 (List.mem_of_mem_take hx)).1, rfl⟩

theorem serveWaiters_value_le (sem v : Nat) (ws : List (Nat × Nat × Nat)) : (serveWaiters sem ws v).2.1 ≤ v := by
  obtain ⟨k, -, -, hsum, -⟩ := serveWaiters_inOrder sem v ws
  omega

/-- A wait given up leaves the thread itself as it is. -/
theorem State.thread_leaveWait : (s.leaveWait c t).thread c t = s.thread c t := by
  rw [State.leaveWait]
  split
  · refine (State.thread_wakeAll_ne _ _ _ fun h => ?_).trans rfl
    obtain ⟨x, hx, ht⟩ := mem_of_served t h
    rw [State.core_setCore, Core.dropWaiter, List.mem_filter] at hx
    exact absurd ht (by simpa using hx.2)
  · rfl

/-- It releases what it blocked: semaphores only fall. -/
theorem State.core_leaveWait : ∃ ws sems, (s.leaveWait c t).core c = { s.core c with waiters := ws, sems := sems } ∧
    ∀ m, (Tab.get 0 sems m).toNat ≤ (Tab.get 0 (s.core c).sems m).toNat := by
  rw [State.leaveWait]
  split
  · next w hw =>
    rw [State.semPut, State.core_wakeAll, State.core_setCore, State.core_setCore]
    refine ⟨_, _, rfl, fun m => ?_⟩
    by_cases hm : m = w.1
    · rw [hm, Tab.get_set_self, BitVec.toNat_ofNat]
      exact (Nat.mod_le ..).trans (serveWaiters_value_le ..)
    · rw [Tab.get_set_ne _ _ _ _ hm]; exact le_rfl
  · rw [State.core_setCore]; exact ⟨_, _, rfl, fun _ => le_rfl⟩

variable (cause : BitVec 8) (unit : BitVec 3) (dest : BitVec 4) (pc : BitVec 64)

theorem State.thread_threadError : (s.threadError c t cause unit dest pc).thread c t =
    (s.thread c t).errorStatus cause unit dest pc := by
  rw [State.threadError]
  split
  · exact State.thread_setThread ..
  · split
    · rw [State.thread_leaveWait, State.thread_setThread]
    · rw [State.modCore_eq, State.setCore_thread, State.thread_setThread]

@[simp] theorem State.mem_threadError : (s.threadError c t cause unit dest pc).mem = s.mem := by
  obtain ⟨ts, k, h⟩ := s.threadError_cases c t cause unit dest pc
  rw [h]

/-- An error status leaves the core but for its waiters and the semaphores of those it releases. -/
theorem State.core_threadError : ∃ ws sems, (s.threadError c t cause unit dest pc).core c =
    { s.core c with waiters := ws, sems := sems } ∧
    (∀ m, (Tab.get 0 sems m).toNat ≤ (Tab.get 0 (s.core c).sems m).toNat) ∧
    ((s.thread c t).state ≠ .waitSync → sems = (s.core c).sems) := by
  rw [State.threadError]
  split
  · exact ⟨_, _, rfl, fun _ => le_rfl, fun _ => rfl⟩
  · split
    · next h =>
      obtain ⟨ws, sems, hcore, hle⟩ := State.core_leaveWait
        (s.setThread c t ((s.thread c t).errorStatus cause unit dest pc)) c t
      exact ⟨ws, sems, hcore, hle, fun hn => absurd h hn⟩
    · exact ⟨_, _, State.core_setCore .., fun _ => le_rfl, fun _ => rfl⟩

/-! ## Slots that become free -/

/-- `y` is `x`, perhaps no longer in WAIT_MEM. -/
def Thread.Roused (x y : Thread) : Prop := y = x ∨ (x.state = .waitMem ∧ y = { x with state := .ready, memNeed := 0 })

theorem Thread.Roused.trans {x y z : Thread} (h : x.Roused y) (h' : y.Roused z) : x.Roused z := by
  rcases h with rfl | ⟨hx, rfl⟩
  · exact h'
  · rcases h' with rfl | ⟨hy, -⟩
    · exact .inr ⟨hx, rfl⟩
    · cases hy

theorem Thread.Roused.cases {x y : Thread} (h : x.Roused y) : ∃ st n, y = { x with state := st, memNeed := n } := by
  rcases h with rfl | ⟨-, rfl⟩
  · exact ⟨_, _, rfl⟩
  · exact ⟨_, _, rfl⟩

theorem Thread.Roused.settled_iff {x y : Thread} (h : x.Roused y) : y.settled ↔ x.settled := by
  rcases h with rfl | ⟨hx, rfl⟩
  · rfl
  · simp [Thread.settled, hx]

theorem Thread.Roused.eq_of_ne {x y : Thread} (h : x.Roused y) (hne : x.state ≠ .waitMem) : y = x :=
  h.resolve_right fun h => hne h.1

/-- Free slots change threads, each of which may leave WAIT_MEM. -/
theorem State.releaseMem_cases :
    (∃ ts, s.releaseMem c = { s with threads := ts }) ∧ (s.thread c t).Roused ((s.releaseMem c).thread c t) := by
  unfold State.releaseMem
  dsimp only
  generalize s.slotsUsed c = used
  generalize List.range 32 = l
  induction l generalizing s with
  | nil => exact ⟨⟨s.threads, rfl⟩, .inl rfl⟩
  | cons a l ih =>
    rw [List.foldl_cons]
    split
    · next h =>
      obtain ⟨⟨ts, hts⟩, hth⟩ := ih (s.setThread c a { s.thread c a with state := .ready, memNeed := 0 })
      refine ⟨⟨ts, hts.trans rfl⟩, .trans ?_ hth⟩
      by_cases ha : a = t
      · rw [ha, State.thread_setThread]; exact .inr ⟨ha ▸ h.1, rfl⟩
      · rw [State.thread_setThread_ne _ _ _ _ (by omega)]; exact .inl rfl
    · exact ih s

theorem State.roused_releaseMem : (s.thread c t).Roused ((s.releaseMem c).thread c t) := (s.releaseMem_cases c t).2

@[simp] theorem State.mem_releaseMem : (s.releaseMem c).mem = s.mem := by
  obtain ⟨⟨ts, h⟩, -⟩ := s.releaseMem_cases c 0
  rw [h]

end Sys2Proof.Machine
end

section
/-! SUPPORT. The last response to a request (03 R60, R62, R72, R539). -/

namespace Sys2Proof.Machine

variable {s : State} {c t : Nat} {q : Req}

/-- Parts that have all returned leave nothing to perform. -/
theorem State.performReq_of_returned {r : Nat} (hq : (s.thread c t).reqs.find? (fun x => x.id == r) = some q)
    (hp : ∀ p ∈ q.parts, p.pending = false) (n : Nat) : s.performReq c t r n = s := by
  have perform (i : Nat) : s.performAt c t r i = s := by
    rw [State.performAt, hq, Option.bind_some]
    cases h : q.parts[i]? with
    | none => rfl
    | some p => simp [hp p (List.mem_of_getElem? h)]
  rw [State.performReq]
  induction List.range n with
  | nil => rfl
  | cons i l ih => rw [List.foldl_cons, perform, ih]

/-- The response that completes a request is its answer. -/
theorem exec_externalResponse {r : Nat} (hc : c < s.lcores) (ht : t < 32)
    (hq : (s.thread c t).reqs.find? (fun x => x.id == r) = some q)
    (hp : ∀ p ∈ q.parts, (p.res.isSome = true ∨ p.err.isSome = true) ∧ s.partPath c p = true) :
    exec (.externalResponse c t r) s = .next (s.answerReq c t q) := by
  have returned : ∀ p ∈ q.parts, (p.res.isNone && p.err.isNone) = false := fun p hm => by
    rcases (hp p hm).1 with h | h
    · rw [Option.isNone_eq_false_iff.2 h, Bool.false_and]
    · rw [Option.isNone_eq_false_iff.2 h, Bool.and_false]
  have done : ∀ p ∈ q.parts, p.pending = false := fun p hm => by
    rw [Part.pending, Bool.and_assoc, returned p hm, Bool.and_false]
  have waits : q.parts.any s.partWaits = false := by
    simp only [List.any_eq_false, State.partWaits]
    exact fun p hm => by rw [returned p hm, Bool.false_and]; exact Bool.false_ne_true
  have path : q.parts.all (s.partPath c) = true := List.all_eq_true.2 fun p hm => (hp p hm).2
  have blocked : (q.parts.any fun p => p.pending && s.sidBlocked c p.sid) = false := by
    simp only [List.any_eq_false]
    exact fun p hm => by rw [done p hm, Bool.false_and]; exact Bool.false_ne_true
  have lines : (q.parts.findSome? fun p => if p.pending then s.lineAt (s.canon p.addr) p.len else none) = none :=
    List.findSome?_eq_none_iff.2 fun p hm => by rw [done p hm]; rfl
  refine (if_pos ⟨hc, ht⟩).trans ?_
  simp only [hq, waits, path, blocked, lines, State.performReq_of_returned hq done]
  rfl

/-- The thread once request `q` has returned, before its error status or its stop. -/
def Thread.returned (th : Thread) (q : Req) : Thread :=
  { th with regs := q.deliver th.regs, reqs := (th.reqs.filter fun x => x.id != q.id).map q.overtake }

/-- The thread once it has taken the error status of request `q`, or gone on. -/
def Thread.answered (th : Thread) (q : Req) : Thread :=
  match q.parts.findSome? Part.err with
  | some e => th.errorStatus e.1 3 e.2 q.pc
  | none => th.settle

theorem State.answerReq_of_err {e : BitVec 8 × BitVec 4} (h : q.parts.findSome? Part.err = some e) :
    s.answerReq c t q =
      ((s.setThread c t ((s.thread c t).returned q)).threadError c t e.1 3 e.2 q.pc).releaseMem c := by
  rw [State.answerReq, h]; rfl

theorem State.answerReq_of_no_err (h : q.parts.findSome? Part.err = none) :
    s.answerReq c t q = (s.setThread c t ((s.thread c t).returned q).settle).releaseMem c := by
  have settled : (s.setThread c t ((s.thread c t).returned q)).modThread c t Thread.settle =
      s.setThread c t ((s.thread c t).returned q).settle := by
    rw [State.modThread_eq, State.thread_setThread, State.setThread_setThread]
  rw [State.answerReq, h, ← settled]; rfl

/-- What an answer changes of the thread's own: memory stays. -/
theorem State.answerReq_thread (s : State) (c t : Nat) (q : Req) : (s.answerReq c t q).mem = s.mem ∧
    (((s.thread c t).returned q).answered q).Roused ((s.answerReq c t q).thread c t) := by
  rw [Thread.answered]
  cases h : q.parts.findSome? Part.err with
  | none =>
    rw [State.answerReq_of_no_err h]
    have hr := State.roused_releaseMem (s.setThread c t ((s.thread c t).returned q).settle) c t
    rw [State.thread_setThread] at hr
    exact ⟨State.mem_releaseMem .., hr⟩
  | some e =>
    rw [State.answerReq_of_err h]
    have hr := State.roused_releaseMem
      ((s.setThread c t ((s.thread c t).returned q)).threadError c t e.1 3 e.2 q.pc) c t
    rw [State.thread_threadError, State.thread_setThread] at hr
    exact ⟨(State.mem_releaseMem ..).trans (State.mem_threadError ..), hr⟩

/-- An answered thread keeps its program counter, registers and requests. -/
theorem Thread.answered_cases (th : Thread) (q : Req) : (th.answered q).reqs = th.reqs ∧ (th.answered q).pc = th.pc ∧
    (th.answered q).regs = th.regs := by
  rw [Thread.answered]
  split
  · next e _ =>
    obtain ⟨st, f, w, h⟩ := th.errorStatus_cases e.1 3 e.2 q.pc
    rw [h]; exact ⟨rfl, rfl, rfl⟩
  · obtain ⟨st, f, w, h⟩ := th.settle_cases
    rw [h]; exact ⟨rfl, rfl, rfl⟩

/-- A loaded value as the manual writes it. -/
theorem extend_eq (sg : Bool) (d : Bytes) : extend sg d =
    if sg then BitVec.ofInt 64 (BitVec.ofNat (8 * d.length) (fromLE d)).toInt else BitVec.ofNat 64 (fromLE d) := by
  rw [extend]
  cases d with
  | nil => rfl
  | cons b d => rw [signedNat_eq_toInt (by simp)]

theorem Req.overtake_of_load {q x : Req} {rd width k : Nat} {sg m : Bool} (hlt : x.id < q.id)
    (hq : q.dst = .s rd width sg) (hx : x.dst = .s rd k m) (hres : (q.parts.head?.bind Part.res).isSome = true) :
    q.overtake x = { x with superseded := true } := by
  rw [Req.overtake, if_neg (Nat.not_le.2 hlt), hq]
  dsimp only
  rw [if_pos hres, Req.overS_of_dst hx]

end Sys2Proof.Machine
end

section
/-! SUPPORT. An error status of an operation that an array, a pump or the SFU executes (04 R107, R542). -/

namespace Sys2Proof.Machine

variable {s : State} {o : AsyncOp} {cause : BitVec 8} {dest : BitVec 4}

/-- The causes that memory, the fabric or the host returns. -/
def externalCauses : List (BitVec 8) := [0x20, 0x21, 0x22, 0x23, 0x24, 0x26]

theorem exec_operationErrorStatus {op : Nat} (hc : cause ∈ externalCauses) (hd : dest.toNat ≤ 5)
    (ho : s.op? op = some o) : exec (.operationErrorStatus op cause dest) s = .next (s.opError o cause dest) := by
  refine (if_pos ⟨List.contains_iff_mem.2 hc, hd⟩).trans ?_
  simp only [ho]

theorem State.id_of_op? {op : Nat} (h : s.op? op = some o) : o.id = op := by
  simpa using List.find?_some h

/-! ## The operation fails -/

theorem State.op?_dropOp (s : State) (id : Nat) : (s.dropOp id).op? id = none := by
  simp [State.dropOp, State.op?, List.find?_eq_none]

/-- A failed operation is gone. -/
theorem State.op?_opFail (s : State) (o : AsyncOp) (cause : BitVec 8) (dest : BitVec 4) :
    (s.opFail o cause dest).op? o.id = none := by
  obtain ⟨ts, k, h⟩ := s.opFail_cases o cause dest
  rw [h]
  exact s.op?_dropOp o.id

@[simp] theorem State.mem_opFail (s : State) (o : AsyncOp) (cause : BitVec 8) (dest : BitVec 4) :
    (s.opFail o cause dest).mem = s.mem := by
  obtain ⟨ts, k, h⟩ := s.opFail_cases o cause dest
  rw [h]; rfl

/-- Its thread records it. -/
theorem State.thread_opFail (s : State) (hm : o.mute = false) : (s.opFail o cause dest).thread o.core o.thread =
    (s.thread o.core o.thread).errorStatus cause (opUnit o.word) dest o.pc := by
  rw [State.opFail, hm]
  exact State.thread_threadError ..

/-- A thread like the one before, but for its flags and for a wait that has ended, records the same. -/
theorem State.fault_opFail {v : State} (hm : o.mute = false) {x : Thread} (hr : (s.thread o.core o.thread).Roused x)
    (f : BitVec 4) (hv : v.thread o.core o.thread = { x with fpstat := f }) :
    ((v.opFail o cause dest).thread o.core o.thread).fault =
      ((s.thread o.core o.thread).errorStatus cause (opUnit o.word) dest o.pc).fault := by
  rw [State.thread_opFail v hm, hv]
  refine Thread.fault_errorStatus_congr _ _ _ _ ?_ hr.settled_iff
  obtain ⟨st, n, rfl⟩ := hr.cases
  rfl

/-! ## What the outputs before the error change -/

/-- Outputs of a unit change neither threads nor arrays. -/
theorem State.unitWrites_cases (s : State) (c : Nat) (l : List OutW) : ∃ m k d e p mm x f, (s.unitWrites c l).2 =
    { s with mem := m, cores := k, dies := d, err := e, pcie := p, mmc := mm, out := x, freeCtr := f } := by
  obtain ⟨m, k, d, e, p, mm, x, h, -⟩ := s.memStep_writeOuts l 0
  rw [State.unitWrites]
  split
  · next u hw => rw [hw] at h; exact ⟨m, k, d, e, p, mm, x, s.freeCtr, h⟩
  · next cause a u hw =>
    rw [hw] at h
    obtain ⟨f, hf⟩ := State.destVal_cases u c a
    exact ⟨m, k, d, e, p, mm, x, f, hf.trans (by rw [show u = _ from h])⟩

/-- Outputs written before an error stops an operation leave arrays as they are, and their thread but for its flags. -/
theorem State.partialWrites_cases (s : State) (o : AsyncOp) (hm : o.mute = false) (l : List OutW) (fl : BitVec 4) :
    (s.partialWrites o l fl).arrs = s.arrs ∧ ∃ f, (s.partialWrites o l fl).thread o.core o.thread =
      { s.thread o.core o.thread with fpstat := f } := by
  obtain ⟨m, k, d, e, p, mm, x, f, h⟩ := s.takeFree.2.takeFree.2.unitWrites_cases o.core
    (l.take ((Config.freeWord s.takeFree.1).toNat % (l.length + 1)))
  rw [State.partialWrites, State.opFlags, hm, h]
  exact ⟨rfl, _, State.thread_setThread ..⟩

/-- Where there was nothing to write, only flags are set. -/
theorem State.partialWrites_nil (s : State) (o : AsyncOp) (hm : o.mute = false) (fl : BitVec 4) :
    ∃ f y, s.partialWrites o [] fl = State.modThread { s with freeCtr := f } o.core o.thread
      fun th => { th with fpstat := th.fpstat ||| (fl &&& y) } := by
  rw [State.partialWrites, State.opFlags, hm, List.take_nil]
  exact ⟨_, (Config.freeWord s.takeFree.2.freeCtr).extractLsb' 0 4, rfl⟩

/-! ## An array -/

/-- While an array operation ends: no instruction under way is of the operation, and its thread is as before but for
flags and for a wait that has ended. -/
structure State.ArrEnding (s v : State) (o : AsyncOp) (a : Nat) : Prop where
  left : ∀ r ∈ (v.arr o.core a).run, r.op ≠ o.id
  thread : ∃ x f, (s.thread o.core o.thread).Roused x ∧ v.thread o.core o.thread = { x with fpstat := f }

variable {v : State} {a : Nat}

theorem State.ArrEnding.modArr (h : s.ArrEnding v o a) {g : Arr → Arr}
    (hg : ∀ x, ∀ r ∈ (g x).run, ∃ r' ∈ x.run, r'.op = r.op) : s.ArrEnding (v.modArr o.core a g) o a where
  left r hr := by
    rw [State.modArr_eq, State.arr_setArr] at hr
    obtain ⟨r', hr', hop⟩ := hg _ r hr
    exact hop ▸ h.left r' hr'
  thread := h.thread

theorem Arr.run_count (x : Arr) (armed : Bool) : (x.count armed).run = x.run := by
  unfold Arr.count
  dsimp only
  split <;> rfl

theorem ArrRun.op_spoil (n b : Nat) (r : ArrRun) : (r.spoil n b).op = r.op := by
  unfold ArrRun.spoil
  split <;> rfl

/-- Self-tests that begin leave threads, and instructions under way. -/
theorem State.ArrEnding.stestBegin (h : s.ArrEnding v o a) : s.ArrEnding (v.stestBegin o.core a) o a := by
  unfold State.stestBegin
  dsimp only
  split
  · exact h.modArr (g := fun x => { x with stestWait := false, stestBusy := true }) fun x r hr => ⟨r, hr, rfl⟩
  · exact h

/-- An error status of an array operation: the operation and its run are gone, and its thread records it. -/
theorem State.arrError_cases (s : State) (hm : o.mute = false) (a : Nat) (r : ArrRun) :
    let u := s.arrError o.core a r o cause dest
    u.op? o.id = none ∧ (∀ q ∈ (u.arr o.core a).run, q.op ≠ o.id) ∧ (u.thread o.core o.thread).fault =
      ((s.thread o.core o.thread).errorStatus cause (opUnit o.word) dest o.pc).fault := by
  have begun : s.ArrEnding (s.modArr o.core a fun x => { x with run := x.run.filter fun q => q.op != o.id }) o a := by
    refine ⟨fun q hq => ?_, _, _, .inl rfl, rfl⟩
    rw [State.modArr_eq, State.arr_setArr] at hq
    simpa using (List.mem_filter.1 hq).2
  have freed {v : State} (h : s.ArrEnding v o a) : s.ArrEnding (v.releaseMem o.core) o a := by
    obtain ⟨⟨ts, hts⟩, hr⟩ := v.releaseMem_cases o.core o.thread
    obtain ⟨x, f, hx, hth⟩ := h.thread
    refine ⟨fun q hq => h.left q (by rwa [hts] at hq), ?_⟩
    rw [hth] at hr
    rcases hr with hr | ⟨hw, hr⟩
    · exact ⟨x, f, hx, hr⟩
    · exact ⟨_, f, hx.trans (.inr ⟨hw, rfl⟩), hr⟩
  have written {v : State} (h : s.ArrEnding v o a) : s.ArrEnding (v.partialWrites o r.writes r.flags) o a := by
    obtain ⟨harrs, f, hth'⟩ := v.partialWrites_cases o hm r.writes r.flags
    obtain ⟨x, f', hx, hth⟩ := h.thread
    rw [hth] at hth'
    exact ⟨fun q hq => h.left q (by rwa [State.arr, harrs] at hq), x, f, hx, hth'⟩
  have spoiled {v : State} (h : s.ArrEnding v o a) : s.ArrEnding (match o.lostBank cause with
      | some b => (v.takeFree.2.freeBank o.core a b).modArr o.core a fun x =>
          { x with run := x.run.map (ArrRun.spoil v.takeFree.1 b) }
      | none => v) o a := by
    split
    · next b _ =>
      have cleared : s.ArrEnding (v.takeFree.2.freeBank o.core a b) o a := ⟨h.left, h.thread⟩
      refine cleared.modArr fun x q hq => ?_
      obtain ⟨q', hq', rfl⟩ := List.mem_map.1 hq
      exact ⟨q', hq', (ArrRun.op_spoil ..).symm⟩
    · exact h
  have counted {v : State} (h : s.ArrEnding v o a) :
      s.ArrEnding (if r.counted then v.modArr o.core a fun x => x.count x.armed else v) o a := by
    split
    · exact h.modArr fun x q hq => ⟨q, by rwa [Arr.run_count] at hq, rfl⟩
    · exact h
  have ended := counted (spoiled (written (freed begun.stestBegin)))
  obtain ⟨x, f, hx, hth⟩ := ended.thread
  refine ⟨State.op?_opFail .., fun q hq => ended.left q ?_, State.fault_opFail hm hx f hth⟩
  obtain ⟨ts, k, hfail⟩ := State.opFail_cases _ o cause dest
  exact (congrArg (fun v => (State.arr v o.core a).run) hfail) ▸ hq

end Sys2Proof.Machine
end

section
/-! SUPPORT. An error status of an operation in a pump or in the SFU (04 R107, R542; 07 R204). -/

namespace Sys2Proof.Machine

variable {s : State} {o : AsyncOp} {cause : BitVec 8} {dest : BitVec 4}

/-- The transfer has left its pump. -/
def State.leavePump (s : State) (r : PumpRun) : State :=
  { s with pumps := s.pumps.filter fun x => !(x.host == r.host && x.die == r.die && x.pump == r.pump) }

theorem State.leavePump_eq (s : State) (r : PumpRun) : s.leavePump r =
    { s with pumps := s.pumps.filter fun x => !(x.host == r.host && x.die == r.die && x.pump == r.pump) } := rfl

theorem State.not_mem_pumps_leavePump (s : State) (r : PumpRun) : r ∉ (s.leavePump r).pumps := fun h => by
  have := (List.mem_filter.1 h).2
  simp at this

/-- A transfer of a thread's operation that has nothing left to write and an error status: its operation fails. -/
theorem State.endRun_of_err {r : PumpRun} {e : BitVec 8 × BitVec 4} (hop : r.op = some o.id) (ho : s.op? o.id = some o)
    (hcmd : r.cmd = none) (hw : r.writes = []) (hh : r.hostWrites = []) (he : r.err = some e) :
    s.endRun State.writeAny r = (s.leavePump r).opFail o e.1 e.2 := by
  have ho' : (s.leavePump r).op? o.id = some o := ho
  have hwrites : (if r.host = true then [] else (s.leavePump r).joinOuts []) = [] := ite_self _
  rw [State.endRun]
  simp only [← State.leavePump_eq, hop, Option.bind_some, ho', hh, List.foldl_nil, hw, hwrites, State.pumpWrites,
    State.failAt, hcmd, he]

/-- An error status of an operation whose transfer a pump holds, nothing of it written. -/
theorem State.opError_pump {r : PumpRun} (harr : s.arrRunOf o = none)
    (hsfu : (s.core o.core).sfuRun.filter (fun r => r.op == o.id) = none)
    (hpump : (s.pumps.find? fun r => r.op == some o.id) = some r) (ho : s.op? o.id = some o) (hcmd : r.cmd = none)
    (hw : r.writes = []) (hh : r.hostWrites = []) :
    s.opError o cause dest = (s.takeFree.2.leavePump r).opFail o cause dest := by
  have hop : r.op = some o.id := by simpa using List.find?_some hpump
  rw [State.opError, harr]
  dsimp only
  rw [hsfu, hpump]
  exact State.endRun_of_err (o := o) (e := (cause, dest)) hop ho hcmd (by rw [hw, List.take_nil])
    (by rw [hh, List.take_nil]) rfl

/-- An error status of an operation in the SFU: its flags, then its failure. -/
theorem State.opError_sfu {r : SfuRun} (ha : s.arrRunOf o = none) (hr : (s.core o.core).sfuRun = some r)
    (hop : r.op = o.id) : s.opError o cause dest =
      ((s.modCore o.core fun k => { k with sfuRun := none }).partialWrites o r.writes r.flags).opFail o cause dest := by
  have hfilter : (s.core o.core).sfuRun.filter (fun r => r.op == o.id) = some r := by
    rw [hr, Option.filter_some, if_pos (by simpa using hop)]
  rw [State.opError, ha]
  dsimp only
  rw [hfilter]

/-- A failed operation's core keeps all but waiters and semaphores, which only fall, and only where its thread waited. -/
theorem State.core_opFail (s : State) (hm : o.mute = false) : ∃ ws sems, (s.opFail o cause dest).core o.core =
    { s.core o.core with waiters := ws, sems := sems } ∧
    (∀ m, (Tab.get 0 sems m).toNat ≤ (Tab.get 0 (s.core o.core).sems m).toNat) ∧
    ((s.thread o.core o.thread).state ≠ .waitSync → sems = (s.core o.core).sems) := by
  rw [State.opFail, hm]
  exact State.core_threadError (s.dropOp o.id) o.core o.thread cause (opUnit o.word) dest o.pc

end Sys2Proof.Machine
end

section
/-! SUPPORT. The statement about responses and error statuses. -/

namespace Sys2Proof.Machine

/-- The state of a stopping thread whose only request has returned without an error. -/
theorem Thread.answered_of_last {th : Thread} {q : Req} {f : TState} (hf : th.stopping = some f) (hone : th.reqs = [q])
    (hmsgs : th.msgs = []) (herr : ∀ p ∈ q.parts, p.err = none) : ((th.returned q).answered q).state = f := by
  have hreqs : (th.returned q).reqs = [] := by simp [Thread.returned, hone]
  have hmsgs : (th.returned q).msgs = [] := hmsgs
  have hf : (th.returned q).stopping = some f := hf
  rw [Thread.answered, List.findSome?_eq_none_iff.2 herr]
  simp [Thread.settle, hf, hreqs, hmsgs]

/-- What a thread without a valid record records of a request's error status. -/
theorem Thread.fault_answered {th : Thread} {q : Req} {e : BitVec 8 × BitVec 4}
    (he : q.parts.findSome? Part.err = some e) (hs : ¬ th.settled) (hv : th.fault.valid = false) :
    ((th.returned q).answered q).fault = ⟨e.1, 3, e.2, true, q.pc.extractLsb' 3 23⟩ := by
  have hs' : ¬ (th.returned q).settled := hs
  have hv' : (th.returned q).fault.valid = false := hv
  rw [Thread.answered, he]
  dsimp only
  rw [Thread.fault_errorStatus_of_not_settled _ _ _ _ hs', Thread.record, hv']
  rfl

/-- Settles O29: a response that completes a request is its answer; an error status of an operation ends the run that
holds it, and the operation fails. -/
theorem responseResults : Obligations.ResponseResults := by
  unfold Obligations.ResponseResults
  refine ⟨?_, ?_, ?_⟩
  · intro c t r s q hc ht th hq hp
    obtain ⟨hmem, hroused⟩ := s.answerReq_thread c t q
    obtain ⟨hreqs, hpc, hregs⟩ := Thread.answered_cases (th.returned q) q
    obtain rfl : q.id = r := by simpa using List.find?_some hq
    obtain ⟨st, n, hth⟩ : ∃ st n, (s.answerReq c t q).thread c t =
        { (th.returned q).answered q with state := st, memNeed := n } := hroused.cases
    have hregs' : ((s.answerReq c t q).thread c t).regs = q.deliver th.regs := by rw [hth]; exact hregs
    have hreqs' : ((s.answerReq c t q).thread c t).reqs = (th.reqs.filter fun x => x.id != q.id).map q.overtake := by
      rw [hth]; exact hreqs
    refine ⟨_, exec_externalResponse hc ht hq hp, hmem, hreqs', by rw [hth]; exact hpc, hregs', ?_, ?_, ?_, ?_, ?_⟩
    · intro rd width sg d hdst hsup hd hrd
      have hdeliver : q.deliver th.regs = th.regs.setS rd (extend sg d) := by simp only [Req.deliver, hdst, hsup, hd]
      rw [hregs', hdeliver, Regs.getS_setS, if_neg hrd, if_pos rfl, extend_eq]
    · intro rd width sg hdst hsup
      rw [hregs']
      simp only [Req.deliver, hdst, hsup]
    · intro rd width sg x k m hdst hres hx hlt hxdst
      refine ⟨q.overtake x, ?_, ?_⟩
      · rw [hreqs']
        exact List.mem_map_of_mem (List.mem_filter.2 ⟨hx, by simpa using hlt.ne⟩)
      · rw [Req.overtake_of_load hlt hdst hxdst hres]
        exact ⟨rfl, rfl⟩
    · intro f hf hone hmsgs herr hne
      have hstate : ((th.returned q).answered q).state = f := Thread.answered_of_last hf hone hmsgs herr
      rw [hroused.eq_of_ne (by rw [hstate]; exact hne)]
      exact hstate
    · intro e he hstate hvalid
      rw [hth]
      exact Thread.fault_answered he (by simpa [Thread.settled] using hstate) hvalid
  · intro op cause dest s o hcause hdest ho hm fault idle
    obtain rfl := State.id_of_op? ho
    rw [exec_operationErrorStatus hcause hdest ho]
    refine ⟨?_, ?_, ?_⟩
    · intro a r harr
      have herr : s.opError o cause dest = s.arrError o.core a r o cause dest := by rw [State.opError, harr]
      exact ⟨_, rfl, herr ▸ s.arrError_cases hm a r⟩
    · intro r harr hidle hpump hcmd hwrites hhost
      refine ⟨_, rfl, ?_⟩
      rw [State.opError_pump harr hidle hpump ho hcmd hwrites hhost]
      refine ⟨State.mem_opFail .., State.op?_opFail .., ?_, by rw [State.thread_opFail _ hm]; rfl⟩
      obtain ⟨ts, k, hfail⟩ := State.opFail_cases (s.takeFree.2.leavePump r) o cause dest
      rw [hfail]
      exact State.not_mem_pumps_leavePump s.takeFree.2 r
    · intro b harr hidle hpump hbucket
      rw [State.opError, harr]
      dsimp only
      rw [hidle, hpump]
      dsimp only
      rw [hbucket]
  · intro op cause dest s o r hcause hdest ho hm ha hr hop hw
    obtain rfl := State.id_of_op? ho
    obtain ⟨f, y, hpartial⟩ := (s.modCore o.core fun k => { k with sfuRun := none }).partialWrites_nil o hm r.flags
    rw [exec_operationErrorStatus hcause hdest ho, State.opError_sfu ha hr hop, hw, hpartial]
    generalize hv : State.modThread _ _ _ _ = v
    have hcore : v.core o.core = { s.core o.core with sfuRun := none } := by rw [← hv]; exact State.core_setCore ..
    have hthread : v.thread o.core o.thread = { s.thread o.core o.thread with
        fpstat := (s.thread o.core o.thread).fpstat ||| (r.flags &&& y) } := by
      rw [← hv]; exact State.thread_setThread ..
    have hvmem : v.mem = s.mem := by rw [← hv]; rfl
    obtain ⟨ws, sems, hafter, hle, hsame⟩ := v.core_opFail (cause := cause) (dest := dest) hm
    rw [hcore] at hafter hle hsame
    rw [hthread] at hsame
    refine ⟨_, rfl, (State.mem_opFail ..).trans hvmem, State.op?_opFail .., ?_, ?_, ?_, r.flags &&& y, ?_, ?_⟩
    · rw [hafter]
    · rw [hafter]; exact hle
    · rw [hafter]; exact hsame
    · ext i; simp; tauto
    · rw [State.thread_opFail _ hm, hthread]

end Sys2Proof.Machine
end

section
/-! SUPPORT. The scalar operations on 64-bit words (04 R109). -/

namespace Sys2Proof.Machine

/-- The smaller of two words, as `f` reads them. -/
theorem read_ite_min {n : Nat} {α : Type} [LinearOrder α] (f : BitVec n → α) (x y : BitVec n) :
    f (if decide (f x < f y) then x else y) = min (f x) (f y) := by
  by_cases h : f x < f y
  · simp [h, h.le]
  · simp [h, not_lt.1 h]

/-- … and the larger. -/
theorem read_ite_max {n : Nat} {α : Type} [LinearOrder α] (f : BitVec n → α) (x y : BitVec n) :
    f (if decide (f x < f y) then y else x) = max (f x) (f y) := by
  by_cases h : f x < f y
  · simp [h, h.le]
  · simp [h, not_lt.1 h]

section
variable (a b : BitVec 64)

theorem extractLsb'_ofInt_hi (z : Int) : (BitVec.ofInt 128 z).extractLsb' 64 64 = BitVec.ofInt 64 (z / 2 ^ 64) := by
  apply BitVec.eq_of_toNat_eq
  simp only [BitVec.extractLsb'_toNat, BitVec.toNat_ofInt, Nat.shiftRight_eq_div_pow]
  omega

/-- The upper half of the signed product. -/
theorem ofInt_mulh : BitVec.ofInt 64 (a.toInt * b.toInt / 2 ^ 64) =
    (a.signExtend 128 * b.signExtend 128).extractLsb' 64 64 := by
  rw [BitVec.signExtend, BitVec.signExtend, ← BitVec.ofInt_mul, extractLsb'_ofInt_hi]

/-- The upper half of the unsigned product. -/
theorem ofNat_mulhu : BitVec.ofNat 64 (a.toNat * b.toNat / 2 ^ 64) =
    (a.setWidth 128 * b.setWidth 128).extractLsb' 64 64 := by
  have h : a.toNat * b.toNat < 2 ^ 128 := Nat.mul_lt_mul'' (c := 2 ^ 64) (d := 2 ^ 64) a.isLt b.isLt
  apply BitVec.eq_of_toNat_eq
  rw [BitVec.extractLsb'_toNat, BitVec.toNat_mul, BitVec.toNat_setWidth_of_le (by decide),
    BitVec.toNat_setWidth_of_le (by decide), Nat.mod_eq_of_lt h, Nat.shiftRight_eq_div_pow, BitVec.toNat_ofNat]

theorem ofInt_tdiv : BitVec.ofInt 64 (a.toInt.tdiv b.toInt) = a.sdiv b :=
  BitVec.eq_of_toInt_eq (by rw [BitVec.toInt_ofInt, BitVec.toInt_sdiv])

theorem ofInt_tmod : BitVec.ofInt 64 (a.toInt.tmod b.toInt) = a.srem b := by
  rw [← BitVec.toInt_srem, BitVec.ofInt_toInt]

/-- DIV, DIVU, REM and REMU by a divisor other than 0. -/
theorem aluVal_div (hb : b ≠ 0) : aluVal 0x14 a b = a.sdiv b ∧ aluVal 0x15 a b = a / b ∧
    aluVal 0x16 a b = a.srem b ∧ aluVal 0x17 a b = a % b :=
  ⟨(if_neg hb).trans (ofInt_tdiv a b), if_neg hb, (if_neg hb).trans (ofInt_tmod a b), if_neg hb⟩

/-- … and by 0 (R109). -/
theorem aluVal_div_zero : aluVal 0x14 a 0 = BitVec.allOnes 64 ∧ aluVal 0x15 a 0 = BitVec.allOnes 64 ∧
    aluVal 0x16 a 0 = a ∧ aluVal 0x17 a 0 = a := ⟨rfl, rfl, rfl, rfl⟩

end

variable {op sub c t : Nat} {w : BitVec 64} {s : State}

/-- A thread that issues is not stopping (R60). -/
theorem Acts.stopping (h : Acts op sub c t w s) : (s.thread c t).stopping = none := by
  have hc := h.canIssue
  simp only [Thread.canIssue, Bool.and_eq_true, Option.isNone_iff_eq_none] at hc
  exact hc.2

/-- An instruction that steps its thread and writes an S register completes, without an exception. -/
theorem Acts.completes (h : Acts op sub c t w s) {i : Instr} {n : Nat} {v : BitVec 64}
    (hi : exec i s = .next (s.setThread c t ((s.thread c t).stepped.putS n v))) : ∃ u, exec i s = .next u ∧
      (u.thread c t).fault = (s.thread c t).fault ∧ (u.thread c t).stopping = none :=
  ⟨_, hi, by rw [State.thread_setThread]; rfl, by rw [State.thread_setThread]; exact h.stopping⟩

/-- Settles O5: the rows are those of `aluVal`, with the halves of products and the quotients as words. -/
theorem aluTable : Obligations.AluTable := by
  unfold Obligations.AluTable
  refine ⟨fun a b => ⟨rfl, rfl, rfl, rfl, rfl, rfl, rfl, rfl, read_ite_min BitVec.toInt a b,
    read_ite_max BitVec.toInt a b, read_ite_min BitVec.toNat a b, read_ite_max BitVec.toNat a b, rfl, ?_, ?_, rfl,
    ofInt_mulh a b, ofNat_mulhu a b, aluVal_div a b, fun hb => hb ▸ aluVal_div_zero a⟩, by decide, by decide,
    fun c t w s h => ?_, fun c t w s h => ?_⟩
  · simp [aluVal, BitVec.slt]
  · simp [aluVal, BitVec.ult]
  · obtain ⟨-, -, halu, -⟩ := scalarResults c t w s
    exact h.completes (halu h)
  · obtain ⟨-, -, -, halui, -⟩ := scalarResults c t w s
    exact h.completes (halui h)

end Sys2Proof.Machine
end

section
/-! SUPPORT. Branches: conditions, targets, and the fetch of a target beyond the scratchpad (04 R110; 03 R59). -/

namespace Sys2Proof.Machine

variable {op sub c t : Nat} {w : BitVec 64} {s : State}

/-- The target of a branch, as the manual writes it (R110). -/
theorem branchTo_eq (pc w : BitVec 64) : branchTo pc w = pc + (w.extractLsb' 0 32).signExtend 64 * 8 := by
  rw [branchTo, iOffB, sext64_ifld w 0 (by decide)]

/-- BR has one of the six conditions (R102). -/
theorem iCond_lt (h : Acts 0x10 0 c t w s) : iCond w < 6 := by
  have hl := h.legal
  simp [Machine.legal, h.opcode, legalB] at hl
  omega

/-- The coded conditions (R110). -/
theorem condHolds_eq (a b : BitVec 64) : ∀ k < 6, condHolds k a b = match k with
    | 0 => decide (a = b)
    | 1 => decide (a ≠ b)
    | 2 => decide (a.toInt < b.toInt)
    | 3 => decide (b.toInt ≤ a.toInt)
    | 4 => decide (a.toNat < b.toNat)
    | _ => decide (b.toNat ≤ a.toNat)
  | 0, _ => beq_eq_decide ..
  | 1, _ => (congrArg not (beq_eq_decide ..)).trans decide_not.symm
  | 2, _ => rfl
  | 3, _ => by simp [condHolds, BitVec.slt, ← decide_not]
  | 4, _ => rfl
  | 5, _ => by simp [condHolds, BitVec.ult, ← decide_not]

/-- A thread whose program counter depends on a condition. -/
def Thread.jump (th : Thread) (x y : BitVec 64) (taken : Bool) : Thread := { th with pc := if taken then x else y }

theorem Thread.ite_jump (th : Thread) (x : BitVec 64) (taken : Bool) :
    (if taken then { th with pc := x } else th) = th.jump x th.pc taken := by
  cases taken <;> rfl

/-- A program counter beyond the scratchpad raises PC_RANGE before the instruction there is looked at (R59). -/
theorem issue_pcRange {body : Thread → State → Eff} (hw : threadFits op sub s c t w = true)
    (hi : (s.thread c t).canIssue = true) (ha : s.awake c = true) (hpc : spadSize ≤ (s.thread c t).pc.toNat) :
    issue op sub c t w s body =
      .next (s.setThread c t (Thread.except { s.thread c t with state := .ready } cPcRange 0 0)) := by
  simp only [threadFits, Bool.and_eq_true, decide_eq_true_eq] at hw
  obtain ⟨⟨hc, ht⟩, hrow⟩ := hw
  rw [issue, if_pos ⟨hc, ht, hrow⟩, issueState, hi, ha]
  exact congrArg _ (if_pos hpc)

/-- Settles O9. -/
theorem branchResults : Obligations.BranchResults := by
  unfold Obligations.BranchResults
  intro c t w s th next off a b
  have target (pc : BitVec 64) : branchTo pc w = pc + off := branchTo_eq pc w
  refine ⟨fun h => ?_, fun h => ?_, fun h => ?_, fun h hal => ?_, fun h hal => ?_, fun _ _ hi ha hpc i hm hw => ?_⟩
  · refine (issue_thread _ h).trans (congrArg next ?_)
    rw [Thread.ite_jump, target]
    exact congrArg (th.stepped.jump (th.pc + off) (th.pc + 8)) (condHolds_eq a b _ (iCond_lt h))
  · rw [← target]
    exact issue_thread _ h
  · rw [← target]
    exact issue_thread _ h
  · rw [← target] at hal ⊢
    exact issue_effThread (fun u => { u.putS (iRd w) (th.pc + 8) with pc := branchTo a w }) h (if_neg (not_not.2 hal))
  · rw [← target] at hal
    exact issue_exc h rfl (if_pos hal)
  · simp only [List.mem_cons, List.not_mem_nil, or_false] at hm
    obtain rfl | rfl | rfl | rfl | rfl | rfl | rfl | rfl := hm <;> exact issue_pcRange hw hi ha hpc

end Sys2Proof.Machine
end

section
/-! SUPPORT. A guard of 0 (04 R103). -/

namespace Sys2Proof.Machine

/-- The guard of an instruction is 0 when its bit of P equals N. -/
theorem Thread.guard_eq_false {th : Thread} {w : BitVec 64} (h : (th.regs.getP (iPg w)).getLsbD 0 = iPn w) :
    th.guard w = false := by rw [Thread.guard, h, bne_self_eq_false]

/-- Settles O28: every such instruction is an issue, whose guard is looked at before its body. -/
theorem guardSkips : Obligations.GuardSkips := by
  unfold Obligations.GuardSkips
  intro k hk c t w s h hg
  have skips {body : Thread → State → Eff} (hexec : exec (k.2.2 c t w) s = issue k.1 k.2.1 c t w s body)
      (hl : laneGuarded k.1 = false) :
      exec (k.2.2 c t w) s = .next (s.setThread c t (s.thread c t).stepped) := by
    rw [hexec, issue_unguarded body h hl (Thread.guard_eq_false hg), State.advance_eq]
  simp only [List.mem_cons, List.not_mem_nil, or_false] at hk
  casesm* _ ∨ _ <;> subst k <;> exact skips rfl rfl

end Sys2Proof.Machine
end

section
/-! SUPPORT. A table that lists a default entry: writing back what was read drops the entry, so that the state is not
the one before (Tab.set keeps the canonical form; no statement asks for it of `State.threads`). -/

namespace Sys2Proof.Machine

/-- The reference module with its first thread, which is FREE as after reset, listed. -/
def freeListed : State := { State.reset with threads := [(0, Thread.init State.reset.compat 0)] }

theorem canIssue_freeListed : (freeListed.thread 0 0).canIssue = false := rfl

/-- The thread written back leaves the list: the state is another one. -/
theorem freeListed_ne_setThread (f : Nat) :
    freeListed ≠ { freeListed with freeCtr := f }.setThread 0 0 (freeListed.thread 0 0) := fun h =>
  List.cons_ne_nil _ _ (congrArg State.threads h : [(0, Thread.init State.reset.compat 0)] = [])

/-- An instruction of a thread that cannot issue changes nothing (R59, R60). -/
theorem issue_of_not_canIssue {op sub c t : Nat} {w : BitVec 64} {s : State} {body : Thread → State → Eff}
    (hw : threadFits op sub s c t w = true) (hi : (s.thread c t).canIssue = false) :
    issue op sub c t w s body = .next s := by
  simp only [threadFits, Bool.and_eq_true, decide_eq_true_eq] at hw
  obtain ⟨⟨hc, ht⟩, hrow⟩ := hw
  rw [issue, if_pos ⟨hc, ht, hrow⟩, issueState, hi]
  rfl

theorem exec_nop (c t : Nat) (w : BitVec 64) (s : State) : exec (.nop c t w) s = execNop c t w s := rfl
theorem exec_valu (c t : Nat) (w : BitVec 64) (s : State) : exec (.valu c t w) s = execValu c t w s := rfl

/-- NOP of that thread. -/
theorem exec_nop_freeListed : exec (.nop 0 0 0) freeListed = .next freeListed :=
  (exec_nop ..).trans (issue_of_not_canIssue (by decide) canIssue_freeListed)

/-- VALU of that thread. -/
theorem exec_valu_freeListed : exec (.valu 0 0 (0x30#64 <<< 56)) freeListed = .next freeListed :=
  (exec_valu ..).trans (issue_of_not_canIssue (by decide) canIssue_freeListed)

/-- Refutes O10: NOP of a thread that cannot issue leaves the state as it is, and the statement says that it is the state
with that thread written back, which is another one where the thread table lists an entry of the default. -/
theorem not_scalarFrame : ¬ Obligations.ScalarFrame := by
  unfold Obligations.ScalarFrame
  intro h
  obtain ⟨hu, -⟩ := h .nop (List.mem_cons_self ..) 0 0 0 freeListed freeListed exec_nop_freeListed
  exact freeListed_ne_setThread _ hu

/-- Refutes O14: as for O10, with VALU. -/
theorem not_vectorFrame : ¬ Obligations.VectorFrame := by
  unfold Obligations.VectorFrame
  intro h
  obtain ⟨hu, -⟩ := h .valu (List.mem_cons_self ..) 0 0 _ freeListed freeListed exec_valu_freeListed
  exact freeListed_ne_setThread _ hu

end Sys2Proof.Machine
end

section
/-! SUPPORT. Lanes of V registers (03, table Per-thread register files; 04 R103). -/

namespace Sys2Proof.Machine

/-- The number whose 32-bit words are `x 0` to `x (n − 1)`. -/
def wordsOf (n : Nat) (x : Nat → Nat) : Nat := (List.range n).foldl (fun a i => a + x i * 2 ^ (32 * i)) 0

theorem wordsOf_succ (n : Nat) (x : Nat → Nat) : wordsOf (n + 1) x = wordsOf n x + x n * 2 ^ (32 * n) := by
  rw [wordsOf, List.range_succ, List.foldl_append]; rfl

variable {x : Nat → Nat} (hx : ∀ i, x i < 2 ^ 32)
include hx

theorem wordsOf_lt (n : Nat) : wordsOf n x < 2 ^ (32 * n) := by
  induction n with
  | zero => exact Nat.one_pos
  | succ n ih =>
    rw [wordsOf_succ, Nat.mul_succ, Nat.pow_add, Nat.mul_comm (2 ^ (32 * n))]
    have := Nat.mul_le_mul_right (2 ^ (32 * n)) (Nat.succ_le_of_lt (hx n))
    rw [Nat.succ_mul] at this
    omega

/-- Each word reads back. -/
theorem wordsOf_word {n i : Nat} (hi : i < n) : wordsOf n x / 2 ^ (32 * i) % 2 ^ 32 = x i := by
  induction n with
  | zero => omega
  | succ n ih =>
    rw [wordsOf_succ]
    rcases Nat.lt_succ_iff_lt_or_eq.1 hi with h | rfl
    · obtain ⟨k, rfl⟩ : ∃ k, n = i + 1 + k := ⟨n - (i + 1), by omega⟩
      have hp : 2 ^ (32 * (i + 1 + k)) = 2 ^ (32 * i) * (2 ^ 32 * 2 ^ (32 * k)) := by
        rw [← Nat.pow_add, ← Nat.pow_add]; congr 1; omega
      rw [hp, ← Nat.mul_assoc, Nat.mul_comm (x _), Nat.mul_assoc, Nat.add_mul_div_left _ _ (Nat.two_pow_pos _),
        ← Nat.mul_assoc, Nat.mul_comm (x _), Nat.mul_assoc, Nat.add_mul_mod_self_left, ih h]
    · rw [Nat.add_mul_div_right _ _ (Nat.two_pow_pos _), Nat.div_eq_of_lt (wordsOf_lt hx i), Nat.zero_add,
        Nat.mod_eq_of_lt (hx i)]

theorem toNat_ofNat_wordsOf (n : Nat) : (BitVec.ofNat (32 * n) (wordsOf n x)).toNat = wordsOf n x := by
  rw [BitVec.toNat_ofNat, Nat.mod_eq_of_lt (wordsOf_lt hx n)]

omit hx

/-- A written lane takes its value where the guard holds; the others stay. -/
theorem lane_setLanes (v : BitVec 2048) (g : Nat → Bool) (f : Nat → BitVec 32) {i : Nat} (hi : i < 64) :
    lane (setLanes v g f) i = if g i then f i else lane v i := by
  have hx : ∀ i, (if g i then (f i).toNat else (lane v i).toNat) < 2 ^ 32 := fun i => by
    split <;> exact BitVec.isLt _
  apply BitVec.eq_of_toNat_eq
  rw [lane, BitVec.extractLsb'_toNat, Nat.shiftRight_eq_div_pow, setLanes, ← wordsOf,
    toNat_ofNat_wordsOf hx 64, wordsOf_word hx hi, apply_ite BitVec.toNat]

theorem Thread.laneGuard_eq (th : Thread) (w : BitVec 64) (i : Nat) :
    th.laneGuard w i = ((th.regs.getP (iPg w)).getLsbD i ^^ iPn w) := congrFun₂ Bool.bne_eq_xor ..

variable {c t : Nat} {w : BitVec 64} {s : State} {rd : Nat} {f : Nat → BitVec 32}

@[simp] theorem Regs.s_setV (r : Regs) (n : Nat) (v : BitVec 2048) : (r.setV n v).s = r.s := rfl
@[simp] theorem Regs.d_setV (r : Regs) (n : Nat) (v : BitVec 2048) : (r.setV n v).d = r.d := rfl
@[simp] theorem Regs.p_setV (r : Regs) (n : Nat) (v : BitVec 2048) : (r.setV n v).p = r.p := rfl

/-- A lane-wise write, by the V register that it leaves. -/
theorem Thread.exists_putV (th : Thread) (n : Nat) (g : Nat → Bool) (f : Nat → BitVec 32) : ∃ v q,
    th.putV n g f = { th with regs := th.regs.setV n v, reqs := q } ∧
    ∀ i < 64, lane v i = if g i then f i else lane (th.regs.getV n) i :=
  ⟨_, _, rfl, fun _ hi => lane_setLanes _ _ _ hi⟩

/-- `y` is `x` but for V register `rd`, requests and status bits. -/
structure Thread.OnlyV (rd : Nat) (x y : Thread) : Prop where
  rest : y = { x with regs := y.regs, reqs := y.reqs, fpstat := y.fpstat }
  s : y.regs.s = x.regs.s
  d : y.regs.d = x.regs.d
  p : y.regs.p = x.regs.p
  v : ∀ n, n ≠ rd → y.regs.getV n = x.regs.getV n

theorem Thread.OnlyV.trans {rd : Nat} {x y z : Thread} (h : Thread.OnlyV rd x y) (h' : Thread.OnlyV rd y z) :
    Thread.OnlyV rd x z where
  rest := by rw [h'.rest, h.rest]
  s := h'.s.trans h.s
  d := h'.d.trans h.d
  p := h'.p.trans h.p
  v n hn := (h'.v n hn).trans (h.v n hn)

theorem Thread.onlyV_flags (th : Thread) (rd : Nat) (f : BitVec 4) : Thread.OnlyV rd th { th with fpstat := f } :=
  ⟨rfl, rfl, rfl, rfl, fun _ _ => rfl⟩

theorem Thread.onlyV_putV (th : Thread) (rd : Nat) (g : Nat → Bool) (f : Nat → BitVec 32) :
    Thread.OnlyV rd th (th.putV rd g f) := by
  obtain ⟨v, q, hput, -⟩ := th.exists_putV rd g f
  rw [hput]
  exact ⟨rfl, Regs.s_setV .., Regs.d_setV .., Regs.p_setV .., fun n hn => (Regs.getV_setV ..).trans (if_neg hn)⟩

theorem Thread.lane_putV (th : Thread) (rd : Nat) (g : Nat → Bool) (f : Nat → BitVec 32) {i : Nat} (hi : i < 64) :
    lane ((th.putV rd g f).regs.getV rd) i = if g i then f i else lane (th.regs.getV rd) i := by
  obtain ⟨v, q, hput, hlane⟩ := th.exists_putV rd g f
  rw [hput, ← hlane i hi]
  exact congrArg (lane · i) ((Regs.getV_setV ..).trans (if_pos rfl))

/-- A thread that has stepped, and whose guarded lanes of `rd` took `f`, has gone through. -/
theorem VecDone.of_onlyV {x : Thread}
    (h : Thread.OnlyV rd (s.thread c t).stepped x) (hlane : ∀ i < 64, lane (x.regs.getV rd) i =
      if (s.thread c t).laneGuard w i then f i else lane ((s.thread c t).regs.getV rd) i) :
    VecDone c t w s (s.setThread c t x) rd f := by
  have hrest := h.rest
  rw [VecDone, State.thread_setThread]
  refine ⟨rfl, by rw [hrest]; rfl, by rw [hrest]; rfl, h.s, h.d, h.p, by rw [hrest]; rfl, by rw [hrest]; rfl, h.v,
    fun i hi => ?_⟩
  rw [← Thread.laneGuard_eq]
  exact hlane i hi

end Sys2Proof.Machine
end

section
/-! SUPPORT. Vector and predicate instructions (04 R103, R120 to R122). -/

namespace Sys2Proof.Machine

variable {op sub c t : Nat} {w : BitVec 64} {s : State} {body : Thread → State → Eff}

/-- An instruction whose body writes lanes alone sets no status bit. -/
theorem issue_putV {i : Instr} (h : Acts op sub c t w s) (rd : Nat) (f : Nat → BitVec 32)
    (hexec : exec i s = issue op sub c t w s body)
    (hb : body (s.thread c t) (s.advance c t) = effThread c t (s.advance c t) fun u =>
      u.putV rd ((s.thread c t).laneGuard w) f) :
    ∃ u, exec i s = .next u ∧ (u.thread c t).fpstat = (s.thread c t).fpstat ∧ VecDone c t w s u rd f :=
  ⟨_, hexec.trans (issue_effThread _ h hb), by rw [State.thread_setThread]; rfl,
    .of_onlyV (Thread.onlyV_putV ..) fun _ hi => Thread.lane_putV _ _ _ _ hi⟩

/-- … and one that writes lanes with their flags sets the bits of the guarded ones. -/
theorem issue_putLanes {i : Instr} (h : Acts op sub c t w s) (rd : Nat) (f : Nat → BitVec 32 × BitVec 4)
    (hexec : exec i s = issue op sub c t w s body)
    (hb : body (s.thread c t) (s.advance c t) = effThread c t (s.advance c t) fun u =>
      u.putLanes rd ((s.thread c t).laneGuard w) f) :
    ∃ u, exec i s = .next u ∧ VecDone c t w s u rd (fun i => (f i).1) ∧
      (u.thread c t).fpstat = (s.thread c t).fpstat ||| laneFlags ((s.thread c t).laneGuard w) f :=
  ⟨_, hexec.trans (issue_effThread _ h hb),
    .of_onlyV ((Thread.onlyV_putV ..).trans (Thread.onlyV_flags ..)) fun _ hi => Thread.lane_putV _ _ _ _ hi,
    by rw [State.thread_setThread]; rfl⟩

/-- Settles O12. -/
theorem vectorResults : Obligations.VectorResults := by
  unfold Obligations.VectorResults
  refine ⟨fun rm i a b d => ⟨rfl, rfl, rfl, rfl, rfl, rfl, rfl, rfl, rfl, ?_, ?_, ?_, ?_⟩, ?_⟩
  · exact (read_ite_min BitVec.toInt b a).trans (min_comm ..)
  · exact read_ite_max BitVec.toInt a b
  · exact (read_ite_min BitVec.toNat b a).trans (min_comm ..)
  · exact read_ite_max BitVec.toNat a b
  · intro c t w s th a b d fp alu cvt
    exact ⟨fun h => issue_putLanes h _ alu rfl rfl, fun h => issue_putLanes h _ cvt rfl rfl,
      fun h => issue_putV h _ _ rfl rfl, fun h => issue_putV h _ _ rfl rfl, fun h => issue_putV h _ _ rfl rfl,
      fun h => issue_putV h _ _ rfl rfl⟩

/-- Bit `i` of PLOG's operation (R122). -/
theorem getLsbD_plogVal (sub : Nat) (a b sreg : BitVec 64) {i : Nat} (hi : i < 64) :
    (plogVal sub a b sreg).getLsbD i = match sub with
      | 0 => a.getLsbD i && b.getLsbD i
      | 1 => a.getLsbD i || b.getLsbD i
      | 2 => a.getLsbD i ^^ b.getLsbD i
      | 3 => a.getLsbD i && !b.getLsbD i
      | 4 => !a.getLsbD i
      | _ => sreg.getLsbD i := by
  unfold plogVal
  split <;> simp [hi]

/-- The bits that a function of the lanes gives. -/
theorem getLsbD_ofNat_bitsOf (p : Nat → Bool) {i : Nat} (hi : i < 64) : (BitVec.ofNat 64 (bitsOf 64 p)).getLsbD i = p i := by
  rw [BitVec.getLsbD_ofNat, testBit_bitsOf _ hi, decide_eq_true hi, Bool.true_and]

/-- Bits chosen from two words by a mask. -/
theorem getLsbD_select (v g x : BitVec 64) {i : Nat} (hi : i < 64) :
    ((v &&& g) ||| (x &&& ~~~g)).getLsbD i = if g.getLsbD i then v.getLsbD i else x.getLsbD i := by
  rw [BitVec.getLsbD_or, BitVec.getLsbD_and, BitVec.getLsbD_and, BitVec.getLsbD_not, decide_eq_true hi]
  cases g.getLsbD i <;> simp

/-- Settles O13. -/
theorem predicateResults : Obligations.PredicateResults := by
  unfold Obligations.PredicateResults
  intro c t w s th g a b next
  have guard : th.laneGuard w = g := funext (th.laneGuard_eq w)
  refine ⟨fun h => ?_, fun h => ?_, issue_thread _, fun h => ?_⟩
  · refine ⟨_, issue_thread (fun th u => u.putP (iRd w) (BitVec.ofNat 64 (bitsOf 64 fun i =>
      th.laneGuard w i && vcmpLane (iFt w) (iSub w) (iRc w) (lane (th.regs.getV (iRa w)) i)
        (lane (th.regs.getV (iRb w)) i)))) h, fun i hi => ?_⟩
    rw [getLsbD_ofNat_bitsOf _ hi, ← guard]
  · refine ⟨_, issue_thread (fun th u => u.putP (iRd w) ((plogVal (iSub w) (th.regs.getP (iRa w))
      (th.regs.getP (iRb w)) (th.regs.getS (iRa w)) &&& BitVec.ofNat 64 (bitsOf 64 (th.laneGuard w))) |||
      (u.regs.getP (iRd w) &&& ~~~BitVec.ofNat 64 (bitsOf 64 (th.laneGuard w))))) h, fun i hi => ?_⟩
    rw [getLsbD_select _ _ _ hi, getLsbD_ofNat_bitsOf _ hi, ← guard, getLsbD_plogVal _ _ _ _ hi]
    rfl
  · rw [← guard]
    exact issue_thread _ h

end Sys2Proof.Machine
end

section
/-! SUPPORT. Fields of descriptors as bits (04 R116), and the instructions on D registers. -/

namespace Sys2Proof.Machine

/-- A replaced field: the new bits inside it, the old ones outside. -/
theorem getLsbD_setField (d : BitVec 256) (lo n x : Nat) {i : Nat} (hi : i < 256) :
    (setField d lo n x).getLsbD i = if lo ≤ i ∧ i < lo + n then x.testBit (i - lo) else d.getLsbD i := by
  have mask : (BitVec.ofNat 256 (2 ^ n - 1) <<< lo).getLsbD i = decide (lo ≤ i ∧ i < lo + n) := by
    rw [BitVec.getLsbD_shiftLeft, BitVec.getLsbD_ofNat, Nat.testBit_two_pow_sub_one]
    by_cases h : lo ≤ i ∧ i < lo + n <;> simp [hi, h] <;> omega
  rw [setField, BitVec.getLsbD_or, BitVec.getLsbD_and, BitVec.getLsbD_not, mask, BitVec.getLsbD_shiftLeft,
    BitVec.getLsbD_ofNat, Nat.testBit_mod_two_pow]
  by_cases h : lo ≤ i ∧ i < lo + n
  · have h1 : i - lo < n := by omega
    have h2 : i - lo < 256 := by omega
    simp [hi, h, h1, h2, Nat.not_lt.2 h.1]
  · have h1 : i < lo ∨ ¬ (i - lo < n) := by omega
    rcases h1 with h1 | h1 <;> simp [hi, h, h1]

/-- Bit `i` of a field read, zero-extended to 64 bits. -/
theorem getLsbD_fieldNat (d : BitVec 256) (lo n : Nat) {i : Nat} (hi : i < 64) :
    (BitVec.ofNat 64 (fieldNat d.toNat lo n)).getLsbD i = (decide (i < n) && d.getLsbD (lo + i)) := by
  rw [BitVec.getLsbD_ofNat, fieldNat, Nat.testBit_mod_two_pow, Nat.testBit_shiftRight, decide_eq_true hi,
    Bool.true_and, BitVec.testBit_toNat]

variable {c t : Nat} {w : BitVec 64} {s : State}

/-- BASE advances modulo 2^48, the other bits are copied. -/
theorem setField_base (d : BitVec 256) (x : BitVec 64) :
    (setField d 0 48 ((d.extractLsb' 0 48).toNat + x.toNat)).extractLsb' 48 208 = d.extractLsb' 48 208 ∧
    (setField d 0 48 ((d.extractLsb' 0 48).toNat + x.toNat)).extractLsb' 0 48 =
      d.extractLsb' 0 48 + x.setWidth 48 := by
  constructor
  · refine BitVec.eq_of_getLsbD_eq fun i hi => ?_
    rw [BitVec.getLsbD_extractLsb', BitVec.getLsbD_extractLsb', getLsbD_setField _ _ _ _ (by omega), if_neg (by omega)]
  · have hsum : d.extractLsb' 0 48 + x.setWidth 48 = BitVec.ofNat 48 ((d.extractLsb' 0 48).toNat + x.toNat) := by
      apply BitVec.eq_of_toNat_eq
      rw [BitVec.toNat_add, BitVec.toNat_setWidth, BitVec.toNat_ofNat, Nat.add_mod_mod]
    rw [hsum]
    refine BitVec.eq_of_getLsbD_eq fun i hi => ?_
    rw [BitVec.getLsbD_extractLsb', getLsbD_setField _ _ _ _ (by omega), if_pos (by omega), BitVec.getLsbD_ofNat,
      Nat.zero_add, Nat.sub_zero]

/-- The offset of DLD, DST and DADV, as the manual writes it (R540). -/
theorem dOffset_eq (th : Thread) (w : BitVec 64) :
    dOffset th w = (th.regs.getS (iRaD w) + (w.extractLsb' 0 30).signExtend 64).toNat := by
  rw [dOffset, iOff, sext64_ifld w 0 (by decide)]

end Sys2Proof.Machine
end

section
/-! SUPPORT. Bytes of memory that is written: at the place, and elsewhere (00 R8). -/

namespace Sys2Proof.Machine

theorem length_bytes (s : State) (k n : Nat) : (s.bytes k n).length = n := by
  rw [State.bytes, Tab.range, List.length_map, List.length_range]

theorem State.bytes_one (s : State) (k : Nat) : s.bytes k 1 = [Tab.get 0 s.mem.cells k] := rfl

theorem take_one_drop {d : Bytes} {i : Nat} (hi : i < d.length) : (d.drop i).take 1 = [d.getD i 0] := by
  rw [List.drop_eq_getElem_cons hi, List.take_succ_cons, List.take_zero, List.getD_eq_getElem _ _ hi]

/-- A byte after a write: of the data within the range, the old one elsewhere. -/
theorem State.bytes_setBytes_one (s : State) (k : Nat) (d : Bytes) (x : Nat) : (s.setBytes k d).bytes x 1 =
    if k ≤ x ∧ x < k + d.length then (d.drop (x - k)).take 1 else s.bytes x 1 := by
  rw [State.bytes_one, State.byte_setBytes]
  split
  · next h => rw [take_one_drop (by omega)]
  · rfl

/-- The data read back. -/
theorem State.bytes_setBytes (s : State) (k : Nat) (d : Bytes) : (s.setBytes k d).bytes k d.length = d := by
  refine List.ext_getElem (length_bytes ..) fun i _ hi => ?_
  have hget := s.byte_setBytes k (k + i) d
  rw [if_pos (by omega), Nat.add_sub_cancel_left, List.getD_eq_getElem _ _ hi] at hget
  simp only [State.bytes, Tab.range, List.getElem_map, List.getElem_range, hget]

/-- Bytes that a write does not touch stay. -/
theorem State.bytes_setBytes_of_disjoint (s : State) {k n j : Nat} {d : Bytes} (h : j + n ≤ k ∨ k + d.length ≤ j) :
    (s.setBytes k d).bytes j n = s.bytes j n := by
  refine List.map_congr_left fun i hi => ?_
  have hi := List.mem_range.1 hi
  exact (s.byte_setBytes k (j + i) d).trans (if_neg (by omega))

theorem getD_toLE {n i : Nat} (x : Nat) (hi : i < n) : (toLE n x).getD i 0 = BitVec.ofNat 8 (x / 256 ^ i) := by
  induction n generalizing x i with
  | zero => omega
  | succ n ih =>
    cases i with
    | zero =>
      apply BitVec.eq_of_toNat_eq
      simp [toLE]
    | succ i => rw [toLE, List.getD_cons_succ, ih _ (by omega), Nat.pow_succ', Nat.div_div_eq_div_mul]

theorem fromLE_lt (d : Bytes) : fromLE d < 256 ^ d.length := by
  induction d with
  | nil => exact Nat.one_pos
  | cons b d ih =>
    rw [fromLE, List.length_cons, Nat.pow_succ']
    have := b.isLt
    omega

end Sys2Proof.Machine
end

section
/-! SUPPORT. Accesses to clean words of the own scratchpad, by an instruction or by a unit: the place of their address,
what they read and what they write (01, Device address map; 08 R239, R240). -/

namespace Sys2Proof.Machine

variable {s : State} {c off n : Nat}

theorem State.lcores_le (s : State) : s.lcores ≤ 160 := by
  rw [State.lcores, State.perDie]; split <;> omega

theorem State.lpdTop_le (s : State) : s.lpdTop ≤ 0xB400000000 := by
  rw [State.lpdTop, State.lpdZ]; split <;> omega

/-- An address in the window of a core that is not diked, on a die in operation. -/
theorem State.place_spadAddr (hc : c < s.lcores) (ha : s.awake c = true) (hd : (s.core c).diked = false)
    (ho : off < spadSize) : s.place (spadAddr c off) = .ok (.spad c off) := by
  have h1 := s.lpdTop_le
  have h2 := s.lcores_le
  simp only [spadSize] at ho
  have hcore : (spadAddr c off - windowBase) / 0x4000000 = c := by simp only [spadAddr, windowBase]; omega
  have hoff : (spadAddr c off - windowBase) % 0x4000000 = off := by simp only [spadAddr, windowBase]; omega
  rw [State.place, if_neg (by simp only [spadAddr, windowBase]; omega),
    if_neg (by simp only [spadAddr, windowBase, physBase]; omega),
    if_neg (by simp only [spadAddr, windowBase, physBase]; omega), if_neg (by simp only [spadAddr]; omega),
    if_pos (by simp only [spadAddr, windowBase]; omega)]
  simp only [hcore, hoff, ha, hd, spadSize]
  simp [Nat.not_le.2 ho]

/-- … and several such bytes. -/
theorem State.placeOf_spadAddr (hc : c < s.lcores) (ha : s.awake c = true) (hd : (s.core c).diked = false)
    (hn : 0 < n) (ho : off + n ≤ spadSize) : s.placeOf (spadAddr c off) n = .ok (.spad c off) := by
  have hlast : spadAddr c off + (n - 1) = spadAddr c (off + (n - 1)) := Nat.add_assoc ..
  rw [State.placeOf, hlast, State.place_spadAddr hc ha hd (by omega), State.place_spadAddr hc ha hd (by omega)]
  simp [Place.same]

theorem State.markedWords_clean (h : s.mem.wordErr = []) (k n : Nat) (p : Nat → Bool) : s.markedWords k n p = [] := by
  rw [State.markedWords, h]; rfl

/-- Without marks and perturbation a read gives the bytes and changes nothing. -/
theorem State.readSpad_clean (hp : s.err.perturbGo = false) (h : s.mem.wordErr = []) (c off n : Nat) :
    s.readSpad c off n = (.ok (s.bytes (spadAddr c off) n), s) := by
  simp only [State.readSpad, State.perturb_off _ hp, State.markedWords_clean h, State.countCorr]
  rfl

/-- Without marks a write writes its bytes. -/
theorem State.writeSpad_clean (h : s.mem.wordErr = []) (c off : Nat) (d : Bytes) :
    s.writeSpad c off d = (.ok (), s.setBytes (spadAddr c off) d) := by
  simp only [State.writeSpad, State.markedWords_clean h, State.countCorr]
  rfl

namespace OwnClean

variable {a : Nat} (h : OwnClean s c a n)
include h

/-- The window lies below 2^48 and is no physical site. -/
theorem addr (hn : 0 < n) (hc : c < s.lcores) : a < 2 ^ 48 ∧ physAddr a = false ∧ s.own c a = true := by
  obtain ⟨off, rfl, ho⟩ := h.window
  have := s.lcores_le
  simp only [spadSize] at ho
  refine ⟨by simp only [spadAddr, windowBase]; omega, ?_, ?_⟩
  · rw [← Bool.not_eq_true, physAddr_iff]
    simp only [spadAddr, windowBase]
    omega
  · refine Bool.or_eq_true_iff.2 (.inl (Bool.and_eq_true_iff.2 ⟨decide_eq_true ?_, decide_eq_true ?_⟩))
    all_goals simp only [spadAddr]; omega

variable (hc : c < s.lcores) (ha : s.awake c = true)
include hc ha

omit h
theorem writeMem {d : Bytes} (h : OwnClean s c a d.length) (hd : d ≠ []) (cls : Nat) :
    s.writeMem a d cls = (.ok (), s.setBytes a d) := by
  obtain ⟨off, rfl, ho⟩ := h.window
  rw [State.writeMem, if_neg (by simpa using hd),
    State.placeOf_spadAddr hc ha h.live (List.length_pos_of_ne_nil hd) ho]
  exact State.writeSpad_clean h.clean ..

include h
variable (hn : 0 < n)
include hn

theorem placeOf : ∃ off, a = spadAddr c off ∧ s.placeOf a n = .ok (.spad c off) := by
  obtain ⟨off, rfl, ho⟩ := h.window
  exact ⟨off, rfl, State.placeOf_spadAddr hc ha h.live hn ho⟩

theorem canon : s.canon a = a := by
  obtain ⟨off, rfl, ho⟩ := h.window
  rw [State.canon, State.place_spadAddr hc ha h.live (by omega)]
  rfl

theorem readMem (cls : Nat) : s.readMem a n cls = (.ok (s.bytes a n), s) := by
  obtain ⟨off, rfl, hp⟩ := h.placeOf hc ha hn
  rw [State.readMem, if_neg hn.ne', hp]
  exact State.readSpad_clean h.quiet h.clean ..

end OwnClean

end Sys2Proof.Machine
end

section
/-! SUPPORT. The statement about descriptor instructions (04 R116, R540). -/

namespace Sys2Proof.Machine

variable {op sub c t : Nat} {w : BitVec 64} {s : State} {body : Thread → State → Eff}

/-- An exception of an instruction whose unit has no code records a free UNIT (log entry 24). -/
theorem issue_exc_free {cause : BitVec 8} (h : Acts op sub c t w s) (hu : unitOf op = none)
    (hb : body (s.thread c t) (s.advance c t) = .exc cause) : ∃ (unit : BitVec 3) (k : Nat),
    issue op sub c t w s body = .next ({ s with freeCtr := k }.setThread c t
      (Thread.except { s.thread c t with state := .ready } cause unit 0)) := by
  rw [issue_acts _ h, hb, hu]
  exact ⟨_, _, rfl⟩

/-- Settles O11: fields are bits of the D register; DLD and DST are accesses of 32 clean bytes. -/
theorem descriptorResults : Obligations.DescriptorResults := by
  unfold Obligations.DescriptorResults
  refine ⟨fun c t w s => ?_, fun c t w s => ?_⟩
  · intro th next f
    refine ⟨fun h => ?_, fun h => ?_, fun h => ?_, issue_thread _⟩
    · exact ⟨_, issue_thread (fun th u => u.putD (iDd w)
        (setField (u.regs.getD (iDd w)) f.1 f.2 (th.regs.getS (iRaD w)).toNat)) h, fun i hi => getLsbD_setField _ _ _ _ hi⟩
    · exact ⟨_, issue_thread (fun th u => u.putS (iRaD w)
        (BitVec.ofNat 64 (fieldNat (th.regs.getD (iDa w)).toNat f.1 f.2))) h, fun i hi => getLsbD_fieldNat _ _ _ hi⟩
    · have base := setField_base (th.regs.getD (iDa w)) (th.regs.getS (iRaD w) + (w.extractLsb' 0 30).signExtend 64)
      rw [← sext64_ifld w 0 (by decide)] at base ⊢
      exact ⟨_, issue_thread _ h, base⟩
  · intro th next off ex
    have hoff : dOffset th w = off := dOffset_eq th w
    have hex : dCheck (dOffset th w) = ex := by rw [hoff]; rfl
    refine ⟨fun e he h => ?_, fun e he h => ?_, fun he h hp hm => ?_, fun he h hm => ?_⟩
    · exact issue_exc_free h rfl (by simp only [hex, he, th])
    · exact issue_exc_free h rfl (by simp only [hex, he, th])
    · rw [← hoff]
      refine issue_effThread (fun u => u.putD (iDd w) (BitVec.ofNat 256 (fromLE (s.bytes (spadAddr c (dOffset th w)) 32))))
        h ?_
      simp only [hex.trans he, th, State.readSpad_clean (s := s.advance c t) hp hm]
      rfl
    · refine ⟨_, issue_done h (u := (s.advance c t).setBytes (spadAddr c off) (toLE 32 (th.regs.getD (iDa w)).toNat)) ?_,
        by rw [State.setBytes_thread, State.thread_advance], rfl, fun a => ?_⟩
      · simp only [hex.trans he, th, State.writeSpad_clean (s := s.advance c t) hm, ← hoff]
      · rw [State.bytes_setBytes_one, length_toLE]
        split
        · next hin => rw [take_one_drop (by rw [length_toLE]; omega), getD_toLE _ (by omega)]
        · rfl

end Sys2Proof.Machine
end

section
/-! SUPPORT. The statements about atomic operations and about the own scratchpad (04 R123, R126). -/

namespace Sys2Proof.Machine

/-- Settles O17. -/
theorem atomicTable : Obligations.AtomicTable := by
  unfold Obligations.AtomicTable
  intro n hn o v cmp ho hv sg r
  have hpos : 0 < 8 * n := by simp at hn; omega
  have hval (op : Nat) : r op = match op with
      | 0 => (o + v) % 2 ^ (8 * n)
      | 1 => v
      | 2 => if o = cmp % 2 ^ (8 * n) then v else o
      | 3 => o &&& v
      | 4 => o ||| v
      | 5 => o ^^^ v
      | 6 => if sg v < sg o then v else o
      | 7 => if sg o < sg v then v else o
      | 8 => if v < o then v else o
      | _ => if o < v then v else o := by
    simp only [r, atomVal, Nat.mod_eq_of_lt ho, Nat.mod_eq_of_lt hv, signedNat_eq_toInt hpos]
    rfl
  have hlt {p : Prop} [Decidable p] {x y : Nat} (hx : x < 2 ^ (8 * n)) (hy : y < 2 ^ (8 * n)) :
      (if p then x else y) < 2 ^ (8 * n) := by split <;> assumption
  refine ⟨hval 0, hval 1, hval 2, hval 3, hval 4, hval 5, ?_, ?_, ?_, ?_, fun op => ?_⟩
  · exact (congrArg sg (hval 6)).trans ((apply_ite ..).trans ((min_def_lt ..).symm.trans (min_comm ..)))
  · exact (congrArg sg (hval 7)).trans ((apply_ite ..).trans (max_def_lt ..).symm)
  · exact (hval 8).trans ((min_def_lt ..).symm.trans (min_comm ..))
  · exact (hval 9).trans (max_def_lt ..).symm
  · rw [hval op]
    split
    · exact Nat.mod_lt _ (Nat.two_pow_pos _)
    · exact hv
    · exact hlt hv ho
    · exact Nat.and_lt_two_pow _ hv
    · exact Nat.or_lt_two_pow ho hv
    · exact Nat.xor_lt_two_pow ho hv
    all_goals exact hlt hv ho

variable {s : State} {c t : Nat} {w : BitVec 64} {a n : Nat}

/-- The address of an own access raises no exception. -/
theorem OwnClean.addrCheck (h : OwnClean s c a n) (hn : 0 < n) (hc : c < s.lcores) (hal : a % n = 0) :
    s.addrCheck c n [a] [a] = none := by
  obtain ⟨hform, hphys, -⟩ := h.addr hn hc
  rw [State.addrCheck_one, if_neg, if_neg (Nat.not_le.2 hform), if_neg (not_not.2 hal)]
  rw [← physAddr_iff, hphys]
  exact fun h => Bool.false_ne_true h.2

/-- An own access waits for no line that the remote-atomic unit holds. -/
theorem OwnClean.unlessLine (h : OwnClean s c a n) (hn : 0 < n) (hc : c < s.lcores) (ha : s.awake c = true) (f : Eff) :
    s.unlessLine [(a, n)] f = f := by
  simp only [State.unlessLine, List.findSome?_cons, h.canon hc ha hn, h.free, List.findSome?_nil]

theorem OwnClean.advance (h : OwnClean s c a n) (c' t : Nat) : OwnClean (s.advance c' t) c a n :=
  ⟨h.window, h.live, h.quiet, h.clean, h.free⟩

/-- Threads and memory are written apart. -/
theorem State.setThread_setBytes (s : State) (k : Nat) (d : Bytes) (c t : Nat) (x : Thread) :
    (s.setBytes k d).setThread c t x = (s.setThread c t x).setBytes k d := rfl

/-- The bytes of a loaded value make the value again. -/
theorem extend_bytes (sg : Bool) (hn : n ≤ 8) (d : Bytes) (hd : d.length = n) : extend sg d =
    if sg = true then (BitVec.ofNat (8 * n) (fromLE d)).signExtend 64 else (BitVec.ofNat (8 * n) (fromLE d)).setWidth 64 := by
  subst hd
  rw [extend_eq]
  cases sg with
  | true => rfl
  | false =>
    apply BitVec.eq_of_toNat_eq
    have hlt : fromLE d < 2 ^ (8 * d.length) := by rw [Nat.pow_mul]; exact fromLE_lt d
    simp only [Bool.false_eq_true, if_false, BitVec.toNat_ofNat, BitVec.toNat_setWidth, Nat.mod_eq_of_lt hlt]

/-- Settles O16: each is one access to clean bytes at issue. -/
theorem ownScratchpadAccess : Obligations.OwnScratchpadAccess := by
  unfold Obligations.OwnScratchpadAccess
  intro c t w s th a n old v new hclean hal
  have hn : 0 < n := Nat.two_pow_pos _
  have haddr : mAddr (s.thread c t) w = a := mAddr_eq ..
  have hwidth : widthBytes w = n := rfl
  have own {op : Nat} (h : Acts op 0 c t w s) : (s.advance c t).own c a = true ∧
      (s.advance c t).addrCheck c n [a] [a] = none ∧ ∀ f, (s.advance c t).unlessLine [(a, n)] f = f := by
    have hadv := hclean.advance c t
    exact ⟨(hadv.addr hn h.core).2.2, hadv.addrCheck hn h.core hal, hadv.unlessLine hn h.core h.awake⟩
  have value {op : Nat} (h : Acts op 0 c t w s) (hop : op ∈ [0x50, 0x51, 0x56]) (sg : Bool) :
      extend sg old = if sg = true then v.signExtend 64 else v.setWidth 64 :=
    extend_bytes sg ((Nat.pow_le_pow_right (by decide) (Nat.le_of_lt_succ (iWidth_lt h hop))).trans (by decide)) _
      (length_bytes ..)
  refine ⟨fun h => ?_, fun h => ?_, fun h => ?_⟩
  · obtain ⟨hown, hcheck, hline⟩ := own h
    have hread : (s.advance c t).readMem a n 0 = (.ok old, s.advance c t) :=
      (hclean.advance c t).readMem h.core h.awake hn 0
    have hval := value h (by decide) (iAop w == 1)
    simp only [beq_iff_eq] at hval
    rw [← hval]
    refine issue_effThread (fun u => u.putS (iRd w) (extend (iAop w == 1) old)) h ?_
    simp only [haddr, hwidth, hcheck, hown, if_true, hread, hline]
  · obtain ⟨hown, hcheck, hline⟩ := own h
    have hlen : (toLE n (th.regs.getS (iRd w)).toNat).length = n := length_toLE ..
    have hwrite := OwnClean.writeMem (s := s.advance c t) h.core h.awake (by rw [hlen]; exact hclean.advance c t)
      (List.ne_nil_of_length_pos (by rw [hlen]; exact hn)) 0
    refine ⟨_, issue_done h (u := (s.advance c t).setBytes a (toLE n (th.regs.getS (iRd w)).toNat)) ?_, rfl, fun x => ?_⟩
    · simp only [haddr, hwidth, hcheck, hown, if_true, hlen, hwrite, hline, th]
    · rw [State.bytes_setBytes_one, hlen]; rfl
  · obtain ⟨hown, hcheck, hline⟩ := own h
    obtain ⟨off, hoff, hplace⟩ := (hclean.advance c t).placeOf h.core h.awake hn
    have hread : (s.advance c t).readPlace (.spad c off) n 0 = (.ok old, s.advance c t) := by
      refine (State.readSpad_clean (s := s.advance c t) hclean.quiet hclean.clean c off n).trans ?_
      rw [← hoff]; rfl
    have hput : (s.advance c t).putPlace (.spad c off) new = (s.advance c t).setBytes a new := by
      simp only [State.putPlace, State.markedWords_clean (s := s.advance c t) hclean.clean, Place.key, ← hoff]
      rfl
    have hsteps : (((s.advance c t).setBytes a new).modThread c t fun u => u.putS (iRd w) (extend false old)) =
        (s.setThread c t (th.stepped.putS (iRd w) (v.setWidth 64))).setBytes a new := by
      rw [State.modThread_eq, State.setBytes_thread, State.thread_advance, State.advance_eq, value h (by decide),
        if_neg Bool.false_ne_true, State.setThread_setBytes, State.setThread_setThread]
    refine ⟨_, issue_done h (u := (s.setThread c t (th.stepped.putS (iRd w) (v.setWidth 64))).setBytes a new) ?_, ?_, ?_,
      fun x => ?_⟩
    · simp only [haddr, hwidth, hcheck, hown, if_true, hline, hplace, State.atomPlace, hread, effThread]
      exact congrArg Eff.done ((congrArg (fun u : State => u.modThread c t _) hput).trans hsteps)
    · rw [State.setBytes_thread, State.thread_setThread]
    · rw [State.setBytes_thread, State.thread_setThread]
    · rw [State.bytes_setBytes_one, length_toLE]; rfl

end Sys2Proof.Machine
end

section
/-! SUPPORT. Several accesses of one instruction to clean words of the own scratchpad (04 R103, R123, R124; 08 R238). -/

namespace Sys2Proof.Machine

/-! ## Slices of memory -/

theorem State.slice_bytes (s : State) {k n o m : Nat} (h : o + m ≤ n) : slice (s.bytes k n) o m = s.bytes (k + o) m := by
  refine List.ext_getElem (by simp [slice, length_bytes]; omega) fun i hi _ => ?_
  simp only [slice, State.bytes, Tab.range, List.getElem_take, List.getElem_drop, List.getElem_map, List.getElem_range,
    Nat.add_assoc]

/-- A write that holds the bytes looked at, or misses them all: what they read after it. -/
theorem State.bytes_setBytes_slice (s : State) {k a n : Nat} {d : Bytes} (hlo : k ≤ a) (hhi : a + n ≤ k + d.length) :
    (s.setBytes k d).bytes a n = slice d (a - k) n := by
  have h := (s.setBytes k d).slice_bytes (k := k) (n := d.length) (o := a - k) (m := n) (by omega)
  rw [State.bytes_setBytes, Nat.add_sub_cancel' hlo] at h
  exact h.symm

/-- The write leaves `z` at the `n` bytes from `a`, whatever they were. -/
def puts (a n : Nat) (z : Bytes) (e : Nat × Bytes) : Prop :=
  e.1 ≤ a ∧ a + n ≤ e.1 + e.2.length ∧ slice e.2 (a - e.1) n = z

/-- The write misses the `n` bytes from `a`. -/
def misses (a n : Nat) (e : Nat × Bytes) : Prop := a + n ≤ e.1 ∨ e.1 + e.2.length ≤ a

/-- Writes in turn. -/
def State.writeAll (s : State) (l : List (Nat × Bytes)) : State := l.foldl (fun s e => s.setBytes e.1 e.2) s

/-- Writes that each leave `z` at some bytes or miss them: they read `z` after one of the first kind, or where they read
it before. -/
theorem State.bytes_writeAll (s : State) {a n : Nat} {z : Bytes} {l : List (Nat × Bytes)}
    (hl : ∀ e ∈ l, puts a n z e ∨ misses a n e) (hz : s.bytes a n = z ∨ ∃ e ∈ l, puts a n z e) :
    (s.writeAll l).bytes a n = z := by
  induction l generalizing s with
  | nil => exact hz.resolve_right (by simp)
  | cons e l ih =>
    refine ih (s.setBytes e.1 e.2) (fun e' he' => hl e' (List.mem_cons_of_mem _ he')) ?_
    rcases hl e (List.mem_cons_self ..) with ⟨hlo, hhi, hval⟩ | hmiss
    · exact .inl ((s.bytes_setBytes_slice hlo hhi).trans hval)
    · rcases hz with hz | ⟨e', he', hput⟩
      · exact .inl ((s.bytes_setBytes_of_disjoint hmiss).trans hz)
      · rcases List.mem_cons.1 he' with rfl | he'
        · exact .inl ((s.bytes_setBytes_slice hput.1 hput.2.1).trans hput.2.2)
        · exact .inr ⟨e', he', hput⟩

/-- Writes change cells of memory alone. -/
theorem State.writeAll_cases (s : State) (l : List (Nat × Bytes)) :
    ∃ m, s.writeAll l = { s with mem := { s.mem with cells := m } } := by
  induction l generalizing s with
  | nil => exact ⟨s.mem.cells, rfl⟩
  | cons e l ih => obtain ⟨m, h⟩ := ih (s.setBytes e.1 e.2); exact ⟨m, h⟩

/-- Stores change no thread. -/
theorem State.writeAll_thread (s : State) (l : List (Nat × Bytes)) (c t : Nat) :
    (s.writeAll l).thread c t = s.thread c t := by
  obtain ⟨m, hm⟩ := s.writeAll_cases l
  rw [hm]
  rfl

/-! ## Accesses to the own scratchpad -/

section
variable {s u : State} {c t : Nat}

/-- Every access is one to clean bytes. -/
def OwnAccs (s : State) (c : Nat) (accs : List Acc) : Prop := ∀ x ∈ accs, 0 < x.len ∧ OwnClean s c x.addr x.len

theorem OwnClean.setBytes {a n : Nat} (h : OwnClean s c a n) (k : Nat) (d : Bytes) : OwnClean (s.setBytes k d) c a n :=
  ⟨h.window, h.live, h.quiet, h.clean, h.free⟩

theorem OwnClean.setThread {a n : Nat} (h : OwnClean s c a n) (c' t : Nat) (x : Thread) :
    OwnClean (s.setThread c' t x) c a n := ⟨h.window, h.live, h.quiet, h.clean, h.free⟩

/-- Words side by side are clean together. -/
theorem OwnClean.join {a m : Nat} (hm : 0 < m) (h : ∀ j < m, OwnClean s c (a + 4 * j) 4) : OwnClean s c a (4 * m) := by
  have first := h 0 hm
  refine ⟨?_, first.live, first.quiet, first.clean, ?_⟩
  · obtain ⟨off, hoff, -⟩ := first.window
    obtain ⟨off', hoff', hin⟩ := (h (m - 1) (by omega)).window
    refine ⟨off, hoff, ?_⟩
    simp only [spadAddr] at hoff hoff'
    omega
  · rw [State.lineAt, Option.map_eq_none_iff, List.find?_eq_none]
    intro l hl hover
    simp only [Bool.and_eq_true, decide_eq_true_eq] at hover
    have free := (h ((64 * l.line - a) / 4) (by omega)).free
    rw [State.lineAt, Option.map_eq_none_iff, List.find?_eq_none] at free
    refine free l hl ?_
    simp only [Bool.and_eq_true, decide_eq_true_eq]
    omega

variable (hc : c < s.lcores) (ha : s.awake c = true) {accs : List Acc} (h : OwnAccs s c accs)
include hc ha h

/-- Own accesses make no external one, and wait for no line. -/
theorem State.vectorAccess_own (pc : BitVec 64) (rd : Nat) (load : Bool) (hu : (if load then
    State.ownLoads c t rd s accs else State.ownStores s accs) = (none, u)) :
    s.vectorAccess c t pc rd load accs = .done u := by
  have hown : ∀ x ∈ accs, s.own c x.addr = true := fun x hx => ((h x hx).2.addr (h x hx).1 hc).2.2
  have hl : (accs.filter fun x => s.own c x.addr) = accs := List.filter_eq_self.2 hown
  have he : (accs.filter fun x => !s.own c x.addr) = [] :=
    List.filter_eq_nil_iff.2 fun x hx => by rw [hown x hx]; exact Bool.false_ne_true
  have hline : ((accs.map fun x => (x.addr, x.len)).findSome? fun a => s.lineAt (s.canon a.1) a.2) = none := by
    rw [List.findSome?_eq_none_iff, List.forall_mem_map]
    exact fun x hx => by rw [(h x hx).2.canon hc ha (h x hx).1]; exact (h x hx).2.free
  simp only [State.vectorAccess, hl, he, State.unlessLine, hline, State.external, List.isEmpty_nil, if_true, hu]

omit hc ha h

/-- The writes of a list of accesses. -/
def accWrites (accs : List Acc) : List (Nat × Bytes) :=
  accs.filterMap fun x => match x.op with
    | .wr d => some (x.addr, d)
    | _ => none

theorem mem_accWrites {accs : List Acc} {e : Nat × Bytes} :
    e ∈ accWrites accs ↔ ∃ x ∈ accs, x.op = .wr e.2 ∧ x.addr = e.1 := by
  simp only [accWrites, List.mem_filterMap]
  refine exists_congr fun x => and_congr_right fun _ => ?_
  cases x.op <;> simp [Prod.ext_iff, and_comm]

include hc ha
/-- Own stores write their bytes in turn. -/
theorem State.ownStores_own (h : ∀ x ∈ accs, ∀ d, x.op = .wr d → d ≠ [] ∧ OwnClean s c x.addr d.length) :
    State.ownStores s accs = (none, s.writeAll (accWrites accs)) := by
  induction accs generalizing s with
  | nil => rfl
  | cons x accs ih =>
    have rest := fun x' hx' => h x' (List.mem_cons_of_mem _ hx')
    have first := h x (List.mem_cons_self ..)
    rw [State.ownStores, accWrites, List.filterMap_cons]
    cases hop : x.op with
    | wr d =>
      obtain ⟨hne, hclean⟩ := first d hop
      dsimp only
      rw [OwnClean.writeMem hc ha hclean hne]
      exact ih (s := s.setBytes x.addr d) hc ha fun x' hx' d' hd' =>
        ⟨(rest x' hx' d' hd').1, (rest x' hx' d' hd').2.setBytes ..⟩
    | _ => exact ih hc ha rest

/-- The thread after loads of lanes of V register `rd`. -/
def Thread.loads (s : State) (rd : Nat) (th : Thread) (accs : List Acc) : Thread :=
  accs.foldl (fun u x => u.putV rd (coversLane x.off x.len x.also) (laneWord x.off x.also (s.bytes x.addr x.len))) th

omit hc ha
theorem Thread.loads_cons (s : State) (rd : Nat) (th : Thread) (x : Acc) (accs : List Acc) :
    th.loads s rd (x :: accs) =
      (th.putV rd (coversLane x.off x.len x.also) (laneWord x.off x.also (s.bytes x.addr x.len))).loads s rd accs :=
  List.foldl_cons ..

include hc ha h
/-- Own loads put the bytes read in the lanes of the thread. -/
theorem State.ownLoads_own (rd : Nat) (th : Thread) : State.ownLoads c t rd (s.setThread c t th) accs =
    (none, s.setThread c t (th.loads s rd accs)) := by
  induction accs generalizing th with
  | nil => rfl
  | cons x accs ih =>
    obtain ⟨hpos, hclean⟩ := h x (List.mem_cons_self ..)
    rw [State.ownLoads, (hclean.setThread c t th).readMem hc ha hpos]
    dsimp only
    rw [State.modThread_eq, State.thread_setThread, State.setThread_setThread, Thread.loads_cons]
    exact ih (fun x' hx' => h x' (List.mem_cons_of_mem _ hx')) _

end

/-! ## What loads change of a thread -/

theorem Thread.onlyV_loads (s : State) (rd : Nat) (th : Thread) (accs : List Acc) :
    Thread.OnlyV rd th (th.loads s rd accs) := by
  induction accs generalizing th with
  | nil => exact ⟨rfl, rfl, rfl, rfl, fun _ _ => rfl⟩
  | cons x accs ih =>
    rw [Thread.loads_cons]
    exact (th.onlyV_putV ..).trans (ih _)

/-- A lane after loads that agree on it. -/
theorem Thread.lane_loads {s : State} {rd : Nat} {th : Thread} {accs : List Acc} {i : Nat} (hi : i < 64) {x : BitVec 32}
    (h : ∀ y ∈ accs, coversLane y.off y.len y.also i = true → laneWord y.off y.also (s.bytes y.addr y.len) i = x) :
    lane ((th.loads s rd accs).regs.getV rd) i =
      if accs.any (fun y => coversLane y.off y.len y.also i) then x else lane (th.regs.getV rd) i := by
  induction accs generalizing th with
  | nil => rfl
  | cons y accs ih =>
    have first := h y (List.mem_cons_self ..)
    rw [Thread.loads_cons, ih fun y' hy' => h y' (List.mem_cons_of_mem _ hy'), Thread.lane_putV _ _ _ _ hi, List.any_cons]
    cases hy : coversLane y.off y.len y.also i with
    | true => rw [first hy, if_pos rfl, ite_self, Bool.true_or, if_pos rfl]
    | false => rw [Bool.false_or, if_neg Bool.false_ne_true]

end Sys2Proof.Machine
end

section
/-! SUPPORT. The accesses of LDV and STV, of GATHER, and of SCATTER (04 R103, R123; 08 R238). -/

namespace Sys2Proof.Machine

variable {s : State} {c t : Nat} {w : BitVec 64}

theorem coversLane_iff (off len : Nat) (also : List Nat) (i : Nat) :
    coversLane off len also i = true ↔ (off ≤ 4 * i ∧ 4 * i < off + len) ∨ i ∈ also := by
  rw [coversLane, Bool.or_eq_true, Bool.and_eq_true, decide_eq_true_eq, decide_eq_true_eq, List.contains_iff_mem]

/-- The exceptions of accesses to the own window: none where their addresses are aligned (R106). -/
theorem State.addrCheck_eq_none {n : Nat} {acc as : List Nat} (hphys : ∀ a ∈ acc, physAddr a = false)
    (has : ∀ a ∈ as, a < 2 ^ 48 ∧ a % n = 0) : s.addrCheck c n acc as = none := by
  rw [State.addrCheck, if_neg, if_neg, if_neg]
  · simpa using fun a ha => (has a ha).2
  · simpa using fun a ha => (has a ha).1
  · simp only [Bool.and_eq_true, List.any_eq_true, not_and, not_exists]
    exact fun _ a ha hp => Bool.false_ne_true ((hphys a ha).symm.trans hp)

section
variable {accs : List Acc} {rd : Nat} {f : Nat → BitVec 32} {body : Thread → State → Eff} {op : Nat} {i : Instr}
  (h : Acts op 0 c t w s) (hexec : exec i s = issue op 0 c t w s body)
include h hexec

/-- A vector load whose accesses are clean, and agree on what each guarded lane takes, has gone through. -/
theorem issue_ownLoads (hbody : body (s.thread c t) (s.advance c t) =
      (s.advance c t).vectorAccess c t (s.thread c t).pc rd true accs) (ho : OwnAccs s c accs)
    (hl : ∀ i < 64, (s.thread c t).laneGuard w i = accs.any fun y => coversLane y.off y.len y.also i)
    (hf : ∀ i < 64, ∀ y ∈ accs, coversLane y.off y.len y.also i = true →
      laneWord y.off y.also (s.bytes y.addr y.len) i = f i) :
    ∃ u, exec i s = .next u ∧ VecDone c t w s u rd f := by
  have ho' : OwnAccs (s.advance c t) c accs := fun x hx => ⟨(ho x hx).1, (ho x hx).2.advance c t⟩
  have loads := State.ownLoads_own (t := t) h.core h.awake ho rd (s.thread c t).stepped
  refine ⟨_, hexec.trans (issue_done h (hbody.trans (State.vectorAccess_own (s := s.advance c t) h.core h.awake ho' _ _ _
    loads))), .of_onlyV (Thread.onlyV_loads s rd _ accs) fun i hi => ?_⟩
  rw [hl i hi]
  exact Thread.lane_loads hi (hf i hi)

/-- A vector store whose accesses are clean writes their bytes in turn. -/
theorem issue_ownStores {v : State} (hbody : body (s.thread c t) (s.advance c t) =
      v.vectorAccess c t (s.thread c t).pc rd false accs) (hc : c < v.lcores) (ha : v.awake c = true)
    (ho : OwnAccs v c accs) (hop : ∀ x ∈ accs, ∃ d, x.op = .wr d ∧ d.length = x.len) :
    exec i s = .next (v.writeAll (accWrites accs)) := by
  refine hexec.trans (issue_done h (hbody.trans (State.vectorAccess_own hc ha ho _ _ _ ?_)))
  refine State.ownStores_own hc ha fun x hx d hd => ?_
  obtain ⟨d', hd', hlen⟩ := hop x hx
  obtain ⟨hpos, hclean⟩ := ho x hx
  obtain rfl := PartOp.wr.inj (hd.symm.trans hd')
  exact ⟨List.ne_nil_of_length_pos (hlen ▸ hpos), hlen ▸ hclean⟩

end

end Sys2Proof.Machine
end

section
/-! SUPPORT. Runs of guarded lanes as accesses: LDV and STV (04 R103). -/

namespace Sys2Proof.Machine

variable {s : State} {c : Nat} {th : Thread} {w : BitVec 64} {base : Nat} {op : Nat → Nat → PartOp}

/-- The words of guarded lanes, side by side from `base`, are clean. -/
def CleanRun (s : State) (c : Nat) (th : Thread) (w : BitVec 64) (base : Nat) : Prop :=
  ∀ i < 64, th.laneGuard w i = true → OwnClean s c (base + 4 * i) 4

/-- Every run of guarded lanes lies in clean bytes. -/
theorem ownAccs_runAccs (h : CleanRun s c th w base) : OwnAccs s c (runAccs base op (th.lanes w)) := by
  intro x hx
  obtain ⟨r, hr, rfl⟩ := List.mem_map.1 hx
  have hpos := runsOf_pos _ r hr
  refine ⟨by dsimp only; omega, OwnClean.join hpos fun j hj => ?_⟩
  obtain ⟨hi, hg⟩ := Thread.mem_lanes.1 ((mem_iff_runsOf _ (r.1 + j)).2 ⟨r, hr, by omega, by omega⟩)
  have := h _ hi hg
  rwa [Nat.mul_add, ← Nat.add_assoc] at this

/-- A run covers the lanes that it holds. -/
theorem coversLane_run (r : Nat × Nat) (i : Nat) :
    coversLane (4 * r.1) (4 * r.2) [] i = true ↔ r.1 ≤ i ∧ i < r.1 + r.2 := by
  rw [coversLane_iff, or_iff_left (List.not_mem_nil)]
  omega

/-- The runs cover the guarded lanes. -/
theorem any_coversLane_runAccs {i : Nat} (hi : i < 64) :
    th.laneGuard w i = (runAccs base op (th.lanes w)).any fun y => coversLane y.off y.len y.also i := by
  rw [Bool.eq_iff_iff, runAccs, List.any_map, List.any_eq_true]
  simp only [Function.comp_apply, coversLane_run, ← mem_iff_runsOf, Thread.mem_lanes]
  exact (and_iff_right hi).symm

/-- The word of a lane in the bytes of its run. -/
theorem laneWord_run (s : State) (base : Nat) {r : Nat × Nat} {i : Nat} (hlo : r.1 ≤ i) (hhi : i < r.1 + r.2) :
    laneWord (4 * r.1) [] (s.bytes (base + 4 * r.1) (4 * r.2)) i =
      BitVec.ofNat 32 (fromLE (s.bytes (base + 4 * i) 4)) := by
  rw [laneWord, leField, if_neg (by simp), s.slice_bytes (by omega)]
  rw [show base + 4 * r.1 + (4 * i - 4 * r.1) = base + 4 * i by omega]

/-- The exceptions of the runs: none. -/
theorem addrCheck_runAccs (h : CleanRun s c th w base) (hc : c < s.lcores) (hal : base % 4 = 0) :
    s.addrCheck c 4 ((th.lanes w).map (base + 4 * ·)) ((runAccs base op (th.lanes w)).map fun _ => base) = none := by
  refine State.addrCheck_eq_none (fun a ha => ?_) fun a ha => ?_
  · obtain ⟨i, hi, rfl⟩ := List.mem_map.1 ha
    obtain ⟨hi, hg⟩ := Thread.mem_lanes.1 hi
    exact ((h i hi hg).addr (by decide) hc).2.1
  · obtain ⟨x, hx, rfl⟩ := List.mem_map.1 ha
    obtain ⟨hpos, hclean⟩ := ownAccs_runAccs h x hx
    obtain ⟨r, hr, rfl⟩ := List.mem_map.1 hx
    have := (hclean.addr hpos hc).1
    exact ⟨by dsimp only at this; omega, hal⟩

theorem toLE_fromLE (d : Bytes) : toLE d.length (fromLE d) = d := by
  induction d with
  | nil => rfl
  | cons b d ih =>
    have hb : (b.toNat + 256 * fromLE d) % 256 = b.toNat := by have := b.isLt; omega
    have hd : (b.toNat + 256 * fromLE d) / 256 = fromLE d := by have := b.isLt; omega
    rw [List.length_cons, fromLE, toLE, hb, hd, ih, BitVec.ofNat_toNat, BitVec.setWidth_eq]

/-- The word of a lane in the bytes of its run, as stored. -/
theorem slice_laneBytes (v : BitVec 2048) {k n i : Nat} (hlo : k ≤ i) (hhi : i < k + n) :
    slice (laneBytes v k n) (4 * (i - k)) 4 = toLE 4 (lane v i).toNat := by
  have hlen : (slice (laneBytes v k n) (4 * (i - k)) 4).length = 4 := by
    rw [slice, List.length_take, List.length_drop, length_laneBytes]; omega
  have hval := leField_laneBytes v k (n := n) (j := i - k) (by omega)
  rw [leField, Nat.add_sub_cancel' hlo] at hval
  have hbytes := toLE_fromLE (slice (laneBytes v k n) (4 * (i - k)) 4)
  rw [hlen, hval] at hbytes
  exact hbytes.symm

/-- What the stores of the runs leave: each guarded lane's word, and every byte outside those. -/
theorem State.bytes_storeRuns (s : State) (v : BitVec 2048) :
    let u := s.writeAll (accWrites (runAccs base (fun i n => .wr (laneBytes v i n)) (th.lanes w)))
    (∀ x, (∀ i < 64, th.laneGuard w i = true → x < base + 4 * i ∨ base + 4 * i + 4 ≤ x) → u.bytes x 1 = s.bytes x 1) ∧
    ∀ i < 64, th.laneGuard w i = true → u.bytes (base + 4 * i) 4 = toLE 4 (lane v i).toNat := by
  have runs (e : Nat × Bytes) (he : e ∈ accWrites (runAccs base (fun i n => .wr (laneBytes v i n)) (th.lanes w))) :
      ∃ r ∈ runsOf (th.lanes w), e = (base + 4 * r.1, laneBytes v r.1 r.2) := by
    obtain ⟨x, hx, hop, haddr⟩ := mem_accWrites.1 he
    obtain ⟨r, hr, rfl⟩ := List.mem_map.1 hx
    exact ⟨r, hr, Prod.ext haddr.symm (PartOp.wr.inj hop).symm⟩
  have guarded (r : Nat × Nat) (hr : r ∈ runsOf (th.lanes w)) (j : Nat) (hlo : r.1 ≤ j) (hhi : j < r.1 + r.2) :
      j < 64 ∧ th.laneGuard w j = true := Thread.mem_lanes.1 ((mem_iff_runsOf _ j).2 ⟨r, hr, hlo, hhi⟩)
  have putsLane (r : Nat × Nat) (i : Nat) (hlo : r.1 ≤ i) (hhi : i < r.1 + r.2) :
      puts (base + 4 * i) 4 (toLE 4 (lane v i).toNat) (base + 4 * r.1, laneBytes v r.1 r.2) := by
    refine ⟨by dsimp only; omega, by dsimp only; rw [length_laneBytes]; omega, ?_⟩
    rw [← slice_laneBytes v hlo hhi]
    congr 1
    dsimp only
    omega
  refine ⟨fun x hx => s.bytes_writeAll (fun e he => .inr ?_) (.inl rfl), fun i hi hg =>
    s.bytes_writeAll (fun e he => ?_) (.inr ?_)⟩
  · obtain ⟨r, hr, rfl⟩ := runs e he
    rw [misses, length_laneBytes]
    by_contra hover
    dsimp only at hover
    obtain ⟨hj, hgj⟩ := guarded r hr ((x - base) / 4) (by omega) (by omega)
    have := hx _ hj hgj
    omega
  · obtain ⟨r, hr, rfl⟩ := runs e he
    by_cases hin : r.1 ≤ i ∧ i < r.1 + r.2
    · exact .inl (putsLane r i hin.1 hin.2)
    · refine .inr ?_
      rw [misses, length_laneBytes]
      dsimp only
      omega
  · obtain ⟨r, hr, hlo, hhi⟩ := Thread.exists_run hi hg
    exact ⟨_, mem_accWrites.2 ⟨_, List.mem_map_of_mem hr, rfl, rfl⟩, putsLane r i hlo hhi⟩

end Sys2Proof.Machine
end

section
/-! SUPPORT. One access for each word: GATHER and SCATTER (08 R238). -/

namespace Sys2Proof.Machine

variable {s : State} {c : Nat} {addr : Nat → Nat} {lanes : List Nat}

/-- The lanes that name the word of lane `i`. -/
def sameWord (addr : Nat → Nat) (lanes : List Nat) (i : Nat) : List Nat := lanes.filter fun j => addr j == addr i

theorem mem_sameWord {i j : Nat} : j ∈ sameWord addr lanes i ↔ j ∈ lanes ∧ addr j = addr i := by
  rw [sameWord, List.mem_filter, beq_iff_eq]

/-- The first lane that names a word names it for all. -/
theorem exists_firstLane {i : Nat} (hi : i ∈ lanes) : ∃ k ∈ lanes, addr k = addr i ∧
    (sameWord addr lanes k).head? = some k := by
  cases hs : sameWord addr lanes i with
  | nil => exact absurd (mem_sameWord.2 ⟨hi, rfl⟩) (by rw [hs]; exact List.not_mem_nil)
  | cons k l =>
    obtain ⟨hk, haddr⟩ := mem_sameWord.1 (hs ▸ List.mem_cons_self .. : k ∈ sameWord addr lanes i)
    refine ⟨k, hk, haddr, ?_⟩
    rw [sameWord, haddr, ← sameWord, hs]
    rfl

/-- An access of GATHER is that of a word's first lane. -/
theorem mem_gatherAccs {x : Acc} : x ∈ gatherAccs addr lanes ↔ ∃ i ∈ lanes, (sameWord addr lanes i).head? = some i ∧
    x = ⟨addr i, 4, 4 * i, .rd, (sameWord addr lanes i).drop 1⟩ := by
  simp only [gatherAccs, List.mem_filterMap, Option.ite_none_right_eq_some, Option.some.injEq, eq_comm (b := x)]
  exact Iff.rfl

/-- It covers the lanes that name its word. -/
theorem coversLane_gather {i j : Nat} (hi : (sameWord addr lanes i).head? = some i) :
    coversLane (4 * i) 4 ((sameWord addr lanes i).drop 1) j = true ↔ j ∈ sameWord addr lanes i := by
  obtain ⟨l, hl⟩ : ∃ l, sameWord addr lanes i = i :: l := by
    cases h : sameWord addr lanes i with
    | nil => rw [h] at hi; cases hi
    | cons k l => rw [h] at hi; exact ⟨l, by rw [Option.some.inj hi]⟩
  rw [coversLane_iff, hl, List.mem_cons, List.drop_one, List.tail_cons]
  refine or_congr ?_ Iff.rfl
  omega

/-- The word that it gives each of them. -/
theorem laneWord_gather {i j : Nat} {also : List Nat} (s : State) (hj : addr j = addr i) (h : j ∈ also ∨ j = i) :
    laneWord (4 * i) also (s.bytes (addr i) 4) j = BitVec.ofNat 32 (fromLE (s.bytes (addr j) 4)) := by
  have hzero : (if also.contains j = true then 0 else 4 * j - 4 * i) = 0 := by
    split
    · rfl
    · next hn => rw [h.resolve_left (by simpa using hn)]; omega
  rw [laneWord, leField, hzero, s.slice_bytes (by omega), hj, Nat.add_zero]

/-- The data that SCATTER stores for lanes `same`, which name the word of lane `i`. -/
def scatterData (v : BitVec 2048) (same : List Nat) (i : Nat) (s : State) : Bytes × State :=
  if same.all fun j => lane v j == lane v i then (laneBytes v i 1, s)
  else (toLE 4 ((Config.freeWord s.takeFree.1).toNat % 2 ^ 32), s.takeFree.2)

/-- Four bytes: the word of the lanes where they agree, and a free value, which is consumed, where not. -/
theorem scatterData_cases (v : BitVec 2048) (same : List Nat) (i : Nat) (s : State) :
    ∃ d k, scatterData v same i s = (d, { s with freeCtr := k }) ∧ d.length = 4 ∧
      ((∀ j ∈ same, lane v j = lane v i) → d = toLE 4 (lane v i).toNat) := by
  by_cases h : ∀ j ∈ same, lane v j = lane v i
  · refine ⟨laneBytes v i 1, s.freeCtr, if_pos (by simpa using h), length_laneBytes .., fun _ => ?_⟩
    simp [laneBytes]
  · exact ⟨_, _, if_neg (by simpa using h), length_toLE .., fun h' => absurd h' h⟩

theorem scatterAccs_cons (v : BitVec 2048) (i : Nat) (l all : List Nat) (s : State) :
    scatterAccs v addr (i :: l) all s = if (sameWord addr all i).head? = some i then
      let r := scatterData v (sameWord addr all i) i s
      (⟨addr i, 4, 4 * i, .wr r.1, []⟩ :: (scatterAccs v addr l all r.2).1, (scatterAccs v addr l all r.2).2)
    else scatterAccs v addr l all s := by
  rw [scatterAccs]
  exact ite_not ..

/-- An access of SCATTER: to the word of its lane; where the lanes that name the word agree, with their data. -/
def ScatterAcc (v : BitVec 2048) (addr : Nat → Nat) (all : List Nat) (i : Nat) (x : Acc) : Prop :=
  x.addr = addr i ∧ x.len = 4 ∧ ∃ d, x.op = .wr d ∧ d.length = 4 ∧
    ((∀ j ∈ all, addr j = addr i → lane v j = lane v i) → d = toLE 4 (lane v i).toNat)

/-- SCATTER makes such accesses only, one at least for each word. -/
theorem scatterAccs_cases (v : BitVec 2048) (l all : List Nat) (s : State) :
    (∃ k, (scatterAccs v addr l all s).2 = { s with freeCtr := k }) ∧
    (∀ x ∈ (scatterAccs v addr l all s).1, ∃ i ∈ l, ScatterAcc v addr all i x) ∧
    ∀ i ∈ l, (sameWord addr all i).head? = some i → ∃ x ∈ (scatterAccs v addr l all s).1, x.addr = addr i := by
  induction l generalizing s with
  | nil => exact ⟨⟨s.freeCtr, rfl⟩, by simp [scatterAccs], by simp⟩
  | cons i l ih =>
    rw [scatterAccs_cons]
    by_cases hhead : (sameWord addr all i).head? = some i
    · obtain ⟨d, k, hdata, hlen, hval⟩ := scatterData_cases v (sameWord addr all i) i s
      rw [if_pos hhead, hdata]
      obtain ⟨⟨k', hfree⟩, hmem, hall⟩ := ih { s with freeCtr := k }
      refine ⟨⟨k', hfree⟩, fun x hx => ?_, fun j hj hj' => ?_⟩
      · rcases List.mem_cons.1 hx with rfl | hx
        · exact ⟨i, List.mem_cons_self .., rfl, rfl, d, rfl, hlen, fun h => hval fun j hj =>
            h j (mem_sameWord.1 hj).1 (mem_sameWord.1 hj).2⟩
        · obtain ⟨j, hj, h⟩ := hmem x hx
          exact ⟨j, List.mem_cons_of_mem _ hj, h⟩
      · rcases List.mem_cons.1 hj with rfl | hj
        · exact ⟨_, List.mem_cons_self .., rfl⟩
        · obtain ⟨x, hx, h⟩ := hall j hj hj'
          exact ⟨x, List.mem_cons_of_mem _ hx, h⟩
    · rw [if_neg hhead]
      obtain ⟨hfree, hmem, hall⟩ := ih s
      refine ⟨hfree, fun x hx => ?_, fun j hj hj' => ?_⟩
      · obtain ⟨j, hj, h⟩ := hmem x hx
        exact ⟨j, List.mem_cons_of_mem _ hj, h⟩
      · rcases List.mem_cons.1 hj with rfl | hj
        · exact absurd hj' hhead
        · exact hall j hj hj'

/-- What the stores of SCATTER leave: every byte outside the words, and each word whose lanes agree. -/
theorem State.bytes_scatter (s : State) (v : BitVec 2048) {accs : List Acc}
    (halign : ∀ i ∈ lanes, addr i % 4 = 0) (hmem : ∀ x ∈ accs, ∃ i ∈ lanes, ScatterAcc v addr lanes i x)
    (hall : ∀ i ∈ lanes, (sameWord addr lanes i).head? = some i → ∃ x ∈ accs, x.addr = addr i) :
    let u := s.writeAll (accWrites accs)
    (∀ x, (∀ i ∈ lanes, x < addr i ∨ addr i + 4 ≤ x) → u.bytes x 1 = s.bytes x 1) ∧
    ∀ i ∈ lanes, (∀ j ∈ lanes, addr j = addr i → lane v j = lane v i) → u.bytes (addr i) 4 = toLE 4 (lane v i).toNat := by
  have writes (e : Nat × Bytes) (he : e ∈ accWrites accs) : ∃ i ∈ lanes, e.1 = addr i ∧ e.2.length = 4 ∧
      ((∀ j ∈ lanes, addr j = addr i → lane v j = lane v i) → e.2 = toLE 4 (lane v i).toNat) := by
    obtain ⟨x, hx, hop, haddr⟩ := mem_accWrites.1 he
    obtain ⟨i, hi, hx, -, d, hd, hlen, hval⟩ := hmem x hx
    obtain rfl := PartOp.wr.inj (hop.symm.trans hd)
    exact ⟨i, hi, haddr.symm.trans hx, hlen, hval⟩
  have putsWord (i : Nat) (hi : i ∈ lanes) (hagree : ∀ j ∈ lanes, addr j = addr i → lane v j = lane v i)
      (e : Nat × Bytes) (he : e ∈ accWrites accs) (haddr : e.1 = addr i) :
      puts (addr i) 4 (toLE 4 (lane v i).toNat) e := by
    obtain ⟨j, hj, hej, hlen, hval⟩ := writes e he
    have hji : addr j = addr i := hej.symm.trans haddr
    have hdata := hval fun k hk hkj => (hagree k hk (hkj.trans hji)).trans (hagree j hj hji).symm
    rw [hagree j hj hji] at hdata
    refine ⟨haddr.le, by omega, ?_⟩
    rw [haddr, Nat.sub_self, slice, List.drop_zero, List.take_of_length_le hlen.le, hdata]
  refine ⟨fun x hx => s.bytes_writeAll (fun e he => .inr ?_) (.inl rfl), fun i hi hagree =>
    s.bytes_writeAll (fun e he => ?_) (.inr ?_)⟩
  · obtain ⟨i, hi, hei, hlen, -⟩ := writes e he
    have := hx i hi
    rw [misses]
    omega
  · obtain ⟨j, hj, hej, hlen, -⟩ := writes e he
    by_cases hji : addr j = addr i
    · exact .inl (putsWord i hi hagree e he (hej.trans hji))
    · have := halign i hi
      have := halign j hj
      refine .inr ?_
      rw [misses]
      omega
  · obtain ⟨k, hk, hki, hfirst⟩ := exists_firstLane hi
    obtain ⟨x, hx, hxk⟩ := hall k hk hfirst
    obtain ⟨j, -, -, -, d, hd, -⟩ := hmem x hx
    have he : (x.addr, d) ∈ accWrites accs := mem_accWrites.2 ⟨x, hx, hd, rfl⟩
    exact ⟨_, he, putsWord i hi hagree _ he (hxk.trans hki)⟩

end Sys2Proof.Machine
end

section
/-! SUPPORT. The statement about vector loads and stores. -/

namespace Sys2Proof.Machine

variable {s : State} {c t : Nat} {w : BitVec 64}

/-- An access list without accesses does nothing. -/
theorem State.vectorAccess_nil (s : State) (c t : Nat) (pc : BitVec 64) (rd : Nat) (load : Bool) :
    s.vectorAccess c t pc rd load [] = .done s := by
  cases load <;> rfl

/-- Without a guarded lane there is no access. -/
theorem lanes_eq_nil {th : Thread} (h : ∀ i < 64, th.laneGuard w i = false) : th.lanes w = [] := by
  rw [List.eq_nil_iff_forall_not_mem]
  intro i hi
  obtain ⟨hi, hg⟩ := Thread.mem_lanes.1 hi
  rw [h i hi] at hg
  exact Bool.false_ne_true hg

theorem State.addrCheck_nil (s : State) (c n : Nat) : s.addrCheck c n [] [] = none :=
  State.addrCheck_eq_none (by simp) (by simp)

/-- A lane address in the own window has not wrapped. -/
theorem laneAddr_eq {base : Nat} {i : Nat} (hbase : mAddr (s.thread c t) w = base)
    (h : OwnClean s c (base + 4 * (lane ((s.thread c t).regs.getV (iRb w)) i).toNat) 4) (hc : c < s.lcores) :
    laneAddr (s.thread c t) w i = base + 4 * (lane ((s.thread c t).regs.getV (iRb w)) i).toNat := by
  have := (h.addr (by decide) hc).1
  rw [laneAddr, hbase, Nat.mod_eq_of_lt (by omega)]

/-- The words of an indexed access are clean and aligned. -/
theorem addrCheck_lanes {addr : Nat → Nat} {lanes : List Nat} (hc : c < s.lcores)
    (h : ∀ i ∈ lanes, addr i % 4 = 0 ∧ OwnClean s c (addr i) 4) :
    s.addrCheck c 4 (lanes.map addr) (lanes.map addr) = none := by
  refine State.addrCheck_eq_none ?_ ?_ <;> rw [List.forall_mem_map] <;> intro i hi
  · exact ((h i hi).2.addr (by decide) hc).2.1
  · exact ⟨((h i hi).2.addr (by decide) hc).1, (h i hi).1⟩

/-- Settles O19: LDV and STV are one access for each run of guarded lanes, GATHER and SCATTER one for each word. -/
theorem vectorMemory : Obligations.VectorMemory := by
  unfold Obligations.VectorMemory
  intro c t w s th g base run idx src clean stored
  have hbase : mAddr (s.thread c t) w = base := mAddr_eq ..
  have word (i : Nat) : fromLE (toLE 4 (src i).toNat) = (src i).toNat := by
    rw [fromLE_toLE]; exact Nat.mod_eq_of_lt (src i).isLt
  have indexed (hclean : clean idx) (hc : c < s.lcores) (i : Nat) (hi : i ∈ th.lanes w) :
      laneAddr (s.thread c t) w i = idx i ∧ idx i % 4 = 0 ∧ OwnClean s c (idx i) 4 := by
    obtain ⟨hi, hg⟩ := Thread.mem_lanes.1 hi
    have h := hclean.2 i hi hg
    refine ⟨laneAddr_eq hbase h hc, ?_, h⟩
    have := hclean.1
    dsimp only [idx]
    omega
  refine ⟨fun h hclean => ?_, fun h hclean => ?_, fun h hclean => ?_, fun h hclean => ?_, fun hnone => ?_⟩
  · have hrun : CleanRun s c th w base := hclean.2
    have hcheck := addrCheck_runAccs (op := fun _ _ => .rd) hrun h.core hclean.1
    refine issue_ownLoads h rfl (accs := runAccs base (fun _ _ => .rd) (th.lanes w)) ?_ (ownAccs_runAccs hrun)
      (fun i hi => any_coversLane_runAccs hi) fun i hi y hy hcov => ?_
    · simp only [hbase, State.addrCheck_advance, th, hcheck]
    · obtain ⟨r, hr, rfl⟩ := List.mem_map.1 hy
      obtain ⟨hlo, hhi⟩ := (coversLane_run r i).1 hcov
      exact laneWord_run s base hlo hhi
  · have haddr := indexed hclean h.core
    have hcheck := addrCheck_lanes (addr := laneAddr (s.thread c t) w) h.core fun i hi =>
      (haddr i hi).1 ▸ (haddr i hi).2
    refine issue_ownLoads h rfl (accs := gatherAccs (laneAddr (s.thread c t) w) (th.lanes w)) ?_ (fun x hx => ?_)
      (fun i hi => ?_) fun i hi y hy hcov => ?_
    · simp only [State.addrCheck_advance, th, hcheck]
    · obtain ⟨i, hi, -, rfl⟩ := mem_gatherAccs.1 hx
      obtain ⟨heq, -, hown⟩ := haddr i hi
      exact ⟨Nat.succ_pos 3, heq ▸ hown⟩
    · rw [Bool.eq_iff_iff, List.any_eq_true]
      refine ⟨fun hg => ?_, fun ⟨y, hy, hcov⟩ => ?_⟩
      · obtain ⟨k, hk, hki, hfirst⟩ := exists_firstLane (addr := laneAddr (s.thread c t) w)
          (Thread.mem_lanes.2 ⟨hi, hg⟩)
        exact ⟨_, mem_gatherAccs.2 ⟨k, hk, hfirst, rfl⟩,
          (coversLane_gather hfirst).2 (mem_sameWord.2 ⟨Thread.mem_lanes.2 ⟨hi, hg⟩, hki.symm⟩)⟩
      · obtain ⟨k, hk, hfirst, rfl⟩ := mem_gatherAccs.1 hy
        exact (Thread.mem_lanes.1 (mem_sameWord.1 ((coversLane_gather hfirst).1 hcov)).1).2
    · obtain ⟨k, hk, hfirst, rfl⟩ := mem_gatherAccs.1 hy
      obtain ⟨hlane, hki⟩ := mem_sameWord.1 ((coversLane_gather hfirst).1 hcov)
      rw [← (haddr i hlane).1]
      refine laneWord_gather s hki ?_
      rcases (coversLane_iff ..).1 hcov with hin | hin
      · dsimp only at hin
        exact .inr (by omega)
      · exact .inl hin
  · have hrun : CleanRun s c th w base := hclean.2
    have hcheck := addrCheck_runAccs (op := fun i n => .wr (laneBytes (th.regs.getV (iRd w)) i n)) hrun h.core hclean.1
    have hown : OwnAccs (s.advance c t) c (runAccs base (fun i n => .wr (laneBytes (th.regs.getV (iRd w)) i n))
        (th.lanes w)) := ownAccs_runAccs fun i hi hg => (hrun i hi hg).advance c t
    obtain ⟨hout, hin⟩ := (s.advance c t).bytes_storeRuns (th := th) (w := w) (base := base) (th.regs.getV (iRd w))
    refine ⟨_, issue_ownStores h rfl (rd := iRd w) (v := s.advance c t) ?_ h.core h.awake hown fun x hx => ?_, ?_, hout, fun i hi hg _ => ?_⟩
    · simp only [hbase, State.addrCheck_advance, th, hcheck]
    · obtain ⟨r, hr, rfl⟩ := List.mem_map.1 hx
      exact ⟨_, rfl, length_laneBytes ..⟩
    · exact (State.writeAll_thread ..).trans (State.thread_advance ..)
    · rw [hin i hi hg]
      exact word i
  · have haddr := indexed hclean h.core
    have hcheck := addrCheck_lanes (addr := laneAddr (s.thread c t) w) h.core fun i hi =>
      (haddr i hi).1 ▸ (haddr i hi).2
    obtain ⟨⟨k, hk⟩, hmem, hall⟩ := scatterAccs_cases (addr := laneAddr (s.thread c t) w) (th.regs.getV (iRd w))
      (th.lanes w) (th.lanes w) (s.advance c t)
    generalize hr : scatterAccs (th.regs.getV (iRd w)) (laneAddr (s.thread c t) w) (th.lanes w) (th.lanes w)
      (s.advance c t) = r at hk hmem hall
    have hown : OwnAccs r.2 c r.1 := fun x hx => by
      obtain ⟨i, hi, hx, hlen, -⟩ := hmem x hx
      obtain ⟨heq, -, hown⟩ := haddr i hi
      rw [hk, hx, hlen, heq]
      exact ⟨by decide, hown.window, hown.live, hown.quiet, hown.clean, hown.free⟩
    have hbytes : ∀ a n, r.2.bytes a n = s.bytes a n := fun a n => by rw [hk]; rfl
    obtain ⟨hout, hin⟩ := r.2.bytes_scatter (th.regs.getV (iRd w))
      (fun i hi => (haddr i hi).1 ▸ (haddr i hi).2.1) hmem hall
    refine ⟨_, issue_ownStores h rfl (rd := iRd w) (v := r.2) ?_ (by rw [hk]; exact h.core) (by rw [hk]; exact h.awake)
      hown (fun x hx => ?_), ?_, fun x hx => ?_, fun i hi hg hagree => ?_⟩
    · simp only [State.addrCheck_advance, th, hcheck, ← hr]
    · obtain ⟨i, -, -, hlen, d, hd, hd4, -⟩ := hmem x hx
      exact ⟨d, hd, hd4.trans hlen.symm⟩
    · have : r.2.thread c t = (s.advance c t).thread c t := by rw [hk]; rfl
      exact (State.writeAll_thread ..).trans (this.trans (State.thread_advance ..))
    · rw [hout x fun i hi => ?_, hbytes]
      obtain ⟨hi', hg⟩ := Thread.mem_lanes.1 hi
      rw [(haddr i hi).1]
      exact hx i hi' hg
    · have hi' : i ∈ th.lanes w := Thread.mem_lanes.2 ⟨hi, hg⟩
      rw [← (haddr i hi').1, hin i hi' fun j hj hji => ?_]
      · exact word i
      · obtain ⟨hj', hgj⟩ := Thread.mem_lanes.1 hj
        refine hagree j hj' hgj ?_
        rw [← (haddr j hj).1, ← (haddr i hi').1, hji]
  · have hlanes : (s.thread c t).lanes w = [] := lanes_eq_nil hnone
    refine ⟨fun h => issue_done h ?_, fun h => issue_done h ?_, fun h => issue_done h ?_, fun h => issue_done h ?_⟩
    all_goals simp only [hlanes, List.map_nil, runAccs, runsOf, gatherAccs, scatterAccs, List.filterMap_nil,
      State.addrCheck_nil, State.vectorAccess_nil]

end Sys2Proof.Machine
end

section
/-! SUPPORT. The registers of a thread context: CTX_CTL and CTX_MODE (03 R60, R64, R65, R99, R100; 04 R108). -/

namespace Sys2Proof.Machine

variable {s : State} {c t : Nat}

/-! ## START -/

/-- ARG0 to ARG3 stand in S1 to S4 of a started context, and every other register is 0. -/
theorem Thread.getS_launchRegs (th : Thread) (n : Nat) :
    th.launchRegs.getS n = if n ∈ [1, 2, 3, 4] then Tab.get 0 th.args (n - 1) else 0 := by
  simp only [Thread.launchRegs, Regs.getS_setS, List.mem_cons, List.not_mem_nil, or_false]
  by_cases h4 : n = 4
  · simp [h4]
  by_cases h3 : n = 3
  · simp [h3]
  by_cases h2 : n = 2
  · simp [h2]
  by_cases h1 : n = 1
  · simp [h1]
  simp [h4, h3, h2, h1, Regs.getS, Tab.get]

theorem exec_ctxCtlStart (hc : c < s.lcores) (ht : t < 32) : exec (.ctxCtlStart c t) s = .next (s.ctxStart c t) :=
  if_pos ⟨hc, ht⟩

theorem exec_ctxCtlStop (hc : c < s.lcores) (ht : t < 32) : exec (.ctxCtlStop c t) s = .next (s.ctxStop c t) :=
  if_pos ⟨hc, ht⟩

theorem exec_ctxCtlClear (hc : c < s.lcores) (ht : t < 32) : exec (.ctxCtlClear c t) s = .next (s.ctxClear c t) :=
  if_pos ⟨hc, ht⟩

/-! ## STOP -/

/-- A stopping thread is stopped once nothing is outstanding (R60). -/
theorem Thread.stopTo_stopped {th : Thread} (h : th.stopping = none) : th.stopTo .stopped =
    if th.reqs = [] ∧ th.msgs = [] then { th with state := .stopped, wait := none }
    else { th with stopping := some .stopped } := by
  rw [Thread.stopTo, Thread.settle]
  simp only [Bool.and_eq_true, List.isEmpty_iff]
  split
  · simp [h]
  · rfl

/-- A STOP of a thread that runs or waits: its stop begins, and the waits of the core are as without it. -/
theorem State.ctxStop_of_running (hrun : (s.thread c t).state ∉ TState.fenced :: [.free, .done, .stopped, .faulted])
    (hstop : (s.thread c t).stopping = none) : s.ctxStop c t =
      if (s.thread c t).state = .waitSync then (s.setThread c t ((s.thread c t).stopTo .stopped)).leaveWait c t
      else (s.setThread c t ((s.thread c t).stopTo .stopped)).modCore c fun k => k.dropWaiter t := by
  rw [State.ctxStop]
  have hcond : ([TState.free, .done, .stopped, .faulted, .fenced].contains (s.thread c t).state ||
      (s.thread c t).stopping.isSome) = false := by
    rw [hstop]
    revert hrun
    cases (s.thread c t).state <;> simp
  rw [if_neg (by rw [hcond]; exact Bool.false_ne_true)]

theorem State.ctxStop_of_still (hstill : (s.thread c t).state ∈ TState.fenced :: [.free, .done, .stopped, .faulted]) :
    s.ctxStop c t = s := by
  rw [State.ctxStop, if_pos]
  revert hstill
  cases (s.thread c t).state <;> simp

@[simp] theorem State.mem_leaveWait (s : State) (c t : Nat) : (s.leaveWait c t).mem = s.mem := by
  obtain ⟨ts, k, h⟩ := s.leaveWait_cases c t
  rw [h]

theorem State.mem_ctxStop_of_running (hrun : (s.thread c t).state ∉ TState.fenced :: [.free, .done, .stopped, .faulted])
    (hstop : (s.thread c t).stopping = none) :
    (s.ctxStop c t).mem = s.mem ∧ (s.ctxStop c t).thread c t = (s.thread c t).stopTo .stopped := by
  rw [State.ctxStop_of_running hrun hstop]
  split
  · exact ⟨State.mem_leaveWait .., by rw [State.thread_leaveWait, State.thread_setThread]⟩
  · exact ⟨rfl, by rw [State.modCore_eq, State.setCore_thread, State.thread_setThread]⟩

/-- The waiters behind a thread that leaves its wait are served from the value of its semaphore (R84, R87). -/
theorem State.leaveWait_of_found {sem n : Nat}
    (h : (s.core c).waiters.find? (fun w => w.2.1 == t) = some (sem, t, n)) :
    s.leaveWait c t = (s.setCore c ((s.core c).dropWaiter t)).semPut c sem (Tab.get 0 (s.core c).sems sem).toNat := by
  rw [State.leaveWait, h]

theorem State.core_semPut (s : State) (c sem v : Nat) : (s.semPut c sem v).core c =
    { s.core c with
      sems := Tab.set 0 (s.core c).sems sem (BitVec.ofNat 16 (serveWaiters sem (s.core c).waiters v).2.1)
      waiters := (serveWaiters sem (s.core c).waiters v).1 } := by
  rw [State.semPut, State.core_wakeAll, State.core_setCore]

/-- Every thread of the list that waits and does not stop becomes READY, however often it is listed. -/
theorem State.state_wakeAll {ts : List Nat} {t : Nat} (hin : t ∈ ts ∧ (s.thread c t).state = .waitSync ∨
      (s.thread c t).state = .ready) (hstop : (s.thread c t).stopping = none) :
    ((s.wakeAll c ts).thread c t).state = .ready := by
  induction ts generalizing s with
  | nil => exact hin.resolve_left fun h => List.not_mem_nil h.1
  | cons a ts ih =>
    rw [State.wakeAll, List.foldl_cons]
    by_cases ha : a = t
    · subst ha
      refine ih ?_ ?_ <;> rw [State.modThread_eq, State.thread_setThread, Thread.wake]
      · rcases hin with ⟨-, hw⟩ | hr
        · rw [if_pos hw, Thread.settle]
          exact .inr (by simp [hstop])
        · rw [if_neg (by rw [hr]; decide)]
          exact .inr hr
      · split
        · simp [Thread.settle, hstop]
        · exact hstop
    · have hth : (s.modThread c a Thread.wake).thread c t = s.thread c t := State.thread_setThread_ne _ _ _ _ (by omega)
      refine ih ?_ (hth ▸ hstop)
      rw [hth]
      exact hin.imp_left fun h => ⟨(List.mem_cons.1 h.1).resolve_left (Ne.symm ha), h.2⟩

theorem State.state_semPut {sem v : Nat} {t : Nat} (hin : t ∈ (serveWaiters sem (s.core c).waiters v).2.2)
    (hw : (s.thread c t).state = .waitSync) (hstop : (s.thread c t).stopping = none) :
    ((s.semPut c sem v).thread c t).state = .ready :=
  State.state_wakeAll (s := s.setCore c _) (.inl ⟨hin, hw⟩) hstop

/-! ## MODESET -/

@[simp] theorem Thread.mode_settle (th : Thread) : th.settle.mode = th.mode := by
  obtain ⟨st, f, w, h⟩ := th.settle_cases
  rw [h]

@[simp] theorem Thread.mode_record (th : Thread) (cause unit dest pc) : (th.record cause unit dest pc).mode = th.mode := by
  rw [Thread.record]
  split <;> rfl

@[simp] theorem State.mode_except (s : State) (c t : Nat) (cause unit) :
    ((s.except c t cause unit).thread c t).mode = (s.thread c t).mode := by
  rw [State.except, State.modThread_eq, State.thread_setThread, Thread.except, Thread.stopTo, Thread.mode_settle]
  exact Thread.mode_record ..

@[simp] theorem State.mode_exceptAt (s : State) (c t : Nat) (cause unit) :
    ((s.exceptAt c t cause unit).thread c t).mode = (s.thread c t).mode := by
  cases unit with
  | none => exact State.mode_except ..
  | some unit => exact State.mode_except ..

/-- What every effect of the body keeps of CTX_MODE, the issue of the instruction keeps. -/
theorem mode_issueState {P : CtxMode → Prop} {w : BitVec 64} {body : Thread → State → Eff}
    (h : P (s.thread c t).mode)
    (hbody : P ((s.effect c t (unitOf (iOp w)) (body (s.thread c t) (s.advance c t))).thread c t).mode) :
    P ((issueState c t w s body).thread c t).mode := by
  simp only [issueState]
  split
  · exact h
  split
  · rwa [State.mode_except]
  split
  · rwa [State.mode_except]
  split
  · rwa [State.mode_exceptAt]
  split
  · exact h
  split
  · rwa [State.thread_advance]
  · exact hbody

/-- A PL1 context in the compatibility mode. -/
def CtxMode.held (m : CtxMode) : Prop := m.sfuCompat = true ∧ m.pl1 = true

/-- Neither PL1 nor, in a PL1 context, SFU_COMPAT falls (R99). -/
theorem CtxMode.held_compatWrite {m : CtxMode} (h : m.held) (b : Bool) : (m.compatWrite b).held :=
  ⟨by simp [CtxMode.compatWrite, h.1, h.2], h.2⟩

theorem held_modeset {w : BitVec 64} {u : State} (hm : (s.thread c t).mode.held)
    (he : exec (.modeset c t w) s = .next u) : (u.thread c t).mode.held := by
  change execModeset c t w s = _ at he
  rw [execModeset] at he
  rcases issue_cases 0x07 0 c t w s _ with h | h
  · rw [h, Host.Outcome.next.injEq] at he
    rw [← he]
    refine mode_issueState hm ?_
    dsimp only
    split
    · rwa [State.effect, State.mode_exceptAt]
    · rw [effThread, State.effect, State.modThread_eq, State.thread_setThread, State.thread_advance]
      split
      · exact CtxMode.held_compatWrite hm _
      · exact hm
  · rw [h] at he
    cases he

/-! ## The statement -/

/-- Settles O31: a case for each form of the write of CTX_CTL, then CTX_MODE and MODESET. -/
theorem contextControl : Obligations.ContextControl := by
  unfold Obligations.ContextControl
  refine ⟨fun c t s hc ht => ?_, fun c t w s hc ht hd => ?_, fun c t w s u hpl hco he => held_modeset ⟨hco, hpl⟩ he⟩
  · intro th busy still
    rw [exec_ctxCtlStart hc ht, exec_ctxCtlStop hc ht, exec_ctxCtlClear hc ht]
    refine ⟨fun htaken => ?_, fun htaken hre hawake => ?_, fun hrun hstop => ?_, fun sem n hw hstop hfind => ?_,
      fun hstill => ?_, fun hun => ?_, fun hstill hun => ?_, fun hrun hun => ?_⟩
    · rw [State.ctxStart, if_pos htaken]
      rfl
    · refine ⟨th.launchRegs, ?_, th.getS_launchRegs, fun _ => rfl, fun _ => rfl, fun n hn => if_neg hn⟩
      rw [State.ctxStart, if_neg (by simp [htaken]), if_neg (by simp [hre, hawake])]
      rfl
    · obtain ⟨hmem, hth⟩ := State.mem_ctxStop_of_running hrun hstop
      refine ⟨_, rfl, hmem, ?_⟩
      rw [hth, Thread.stopTo_stopped hstop]
      split
      · rfl
      · rfl
    · have hrun : th.state ∉ TState.fenced :: still := by rw [hw]; decide
      have heq := State.ctxStop_of_running hrun hstop
      rw [if_pos hw] at heq
      rw [heq, State.leaveWait_of_found (s := s.setThread c t _) hfind]
      refine ⟨_, rfl, ?_, ?_, fun t' ht' hw' hstop' => ?_⟩
      · rw [State.core_semPut, State.core_setCore]
        rfl
      · rw [State.core_semPut, State.core_setCore]
        exact Tab.get_set_self ..
      · obtain ⟨x, hx, rfl⟩ := mem_of_served t' ht'
        have hne : x.2.1 ≠ t := by simpa using (List.mem_filter.1 hx).2
        have hth := (s.setThread c t (th.stopTo .stopped)).setCore_thread c ((s.core c).dropWaiter t) c x.2.1
        rw [State.thread_setThread_ne _ _ _ _ (by omega)] at hth
        refine State.state_semPut ?_ (hth ▸ hw') (hth ▸ hstop')
        rw [State.core_setCore]
        exact ht'
    · rw [State.ctxStop_of_still hstill]
    · rw [State.ctxClear, if_pos hun]
      rfl
    · have hcl : s.ctxClear c t = s.setThread c t (th.cleared s.compat t) := by
        rw [State.ctxClear, if_neg (by simp [hun]), if_pos (by simpa using hstill)]
      rw [hcl]
      refine ⟨_, rfl, ?_⟩
      rw [State.thread_setThread]
      exact ⟨rfl, rfl, rfl, rfl, rfl, rfl⟩
    · rw [State.ctxClear, if_neg (by simp [hun]), if_neg (by simpa using hrun)]
  · rw [show exec (.ctxModeWrite c t w) s = .next (s.writeCtxMode c t w) from if_pos ⟨hc, ht⟩, State.writeCtxMode,
      if_neg (by simp [hd])]
    rfl

end Sys2Proof.Machine
end

section
/-! SUPPORT. Requests that the fabric endpoint accepts and sends, one by one: which of them change, and that nothing else
of the module does but links, the entries of PERTURB_ENT, the counter of free values and what has left the module (11
R348 to R356). -/

namespace Sys2Proof.Machine

theorem FabReq.Marked.id {q q' : FabReq} (h : q.Marked q') : q'.id = q.id := by
  obtain ⟨_, _, _, rfl⟩ := h
  rfl

/-- `u` follows `s` by marking requests whose number satisfies `P`, and by what links send. -/
structure State.MarkStep (P : Nat → Prop) (s u : State) : Prop where
  rest : ∃ ls e f o fab, u = { s with links := ls, err := { s.err with ents := e }, freeCtr := f, out := o, fab := fab }
  fab : u.fab = { s.fab with reqs := u.fab.reqs, dead := u.fab.dead, e2e := u.fab.e2e }
  marks : ∃ g : FabReq → FabReq, (∀ q, FabReq.Marked q (g q)) ∧ (∀ q, ¬ P q.id → g q = q) ∧
    u.fab.reqs = s.fab.reqs.map g

namespace State.MarkStep

variable {P : Nat → Prop} {s u v : State}

theorem refl (s : State) : s.MarkStep P s :=
  ⟨⟨s.links, s.err.ents, s.freeCtr, s.out, s.fab, rfl⟩, rfl, id, .refl, fun _ _ => rfl, (List.map_id _).symm⟩

theorem trans (h : s.MarkStep P u) (h' : u.MarkStep P v) : s.MarkStep P v where
  rest := by
    obtain ⟨_, _, _, _, _, rfl⟩ := h.rest
    obtain ⟨ls, e, f, o, fab, rfl⟩ := h'.rest
    exact ⟨ls, e, f, o, fab, rfl⟩
  fab := by rw [h'.fab, h.fab]
  marks := by
    obtain ⟨g, hg, hfix, hr⟩ := h.marks
    obtain ⟨g', hg', hfix', hr'⟩ := h'.marks
    exact ⟨fun q => g' (g q), fun q => (hg q).trans (hg' _), fun q hq => (congrArg g' (hfix q hq)).trans (hfix' q hq),
      by rw [hr', hr, List.map_map]; rfl⟩

theorem of_linkStep (h : s.LinkStep u) : s.MarkStep P u := by
  obtain ⟨ls, e, f, o, rfl⟩ := h
  exact ⟨⟨ls, e, f, o, s.fab, rfl⟩, rfl, id, .refl, fun _ _ => rfl, (List.map_id _).symm⟩

theorem of_marks {f : Fab → Fab} {g : FabReq → FabReq} (hg : ∀ q : FabReq, q.Marked (g q))
    (hfix : ∀ q : FabReq, ¬ P q.id → g q = q)
    (hf : f s.fab = { s.fab with reqs := (f s.fab).reqs, dead := (f s.fab).dead, e2e := (f s.fab).e2e })
    (hr : (f s.fab).reqs = s.fab.reqs.map g) : s.MarkStep P (s.modFab f) :=
  ⟨⟨s.links, s.err.ents, s.freeCtr, s.out, _, rfl⟩, hf, g, hg, hfix, hr⟩

theorem mem (h : s.MarkStep P u) : u.mem = s.mem := by
  obtain ⟨_, _, _, _, _, rfl⟩ := h.rest; rfl

theorem thread (h : s.MarkStep P u) (c t : Nat) : u.thread c t = s.thread c t := by
  obtain ⟨_, _, _, _, _, rfl⟩ := h.rest; rfl

theorem onWay (h : s.MarkStep P u) {n : BitVec 16} : u.onWay n ↔ s.onWay n := by
  have hroute : u.routeOf n = s.routeOf n := by rw [State.routeOf, h.fab]; rfl
  rw [State.onWay, State.onWay, hroute, h.fab]

/-- A property of requests that marks keep. -/
theorem forall_reqs {Q : FabReq → Prop} (h : s.MarkStep P u) (hQ : ∀ q q' : FabReq, q.Marked q' → Q q → Q q')
    (hs : ∀ q ∈ s.fab.reqs, Q q) : ∀ q ∈ u.fab.reqs, Q q := by
  obtain ⟨g, hg, -, hr⟩ := h.marks
  rw [hr]
  intro q hq
  obtain ⟨r, hr, rfl⟩ := List.mem_map.1 hq
  exact hQ r _ (hg r) (hs r hr)

end State.MarkStep

variable {P : Nat → Prop} {s : State}

/-- A waiting request whose packet finds a way is sent or stays; no other request changes. -/
theorem State.markStep_trySend (earlier : List FabReq) {q : FabReq} (hq : s.onWay q.node) (hP : P q.id) :
    s.MarkStep P (s.trySend earlier q) := by
  have lost : ¬ ((!(q.node == s.fab.nodeId) && !(s.routeOf q.node).inForce) = true) := by
    simpa [State.onWay, or_iff_not_imp_left] using hq
  unfold State.trySend
  dsimp only
  rw [if_neg lost]
  generalize (if (q.node == s.fab.nodeId) = true then 48 else _) = l
  generalize (if (q.node == s.fab.nodeId) = true then 0 else portOf l) = port
  split
  · exact .refl s
  split
  · exact .refl s
  split
  · exact .refl s
  next tag _ _ =>
  have perturbed := (State.MarkStep.of_linkStep (P := P) (s.linkStep_perturbBy 6 1 (· == port % 2 ^ 16))).trans
    (.of_linkStep (State.linkStep_perturbBy _ 6 4 (· == port % 2 ^ 16)))
  refine (perturbed.trans (.of_marks (f := fun f => { f with
      dead := f.dead.filter (· != port * 4096 + tag)
      reqs := f.reqs.map fun x => if x.id = q.id then
        { x with sent := true, tag := BitVec.ofNat 15 (port * 4096 + tag) } else x }) ?_ ?_ rfl rfl)).trans ?_
  · exact fun x => by
      split
      · exact ⟨BitVec.ofNat 15 (port * 4096 + tag), false, true, by simp⟩
      · exact .refl x
  · exact fun x hx => if_neg fun h : x.id = q.id => hx (h ▸ hP)
  split
  · exact .of_marks (g := id) .refl (fun _ _ => rfl) rfl (List.map_id _).symm
  split
  · exact .of_linkStep (State.linkStep_linkPut ..)
  · exact .of_linkStep ((State.linkStep_perturbBy ..).trans (State.linkStep_linkPut ..))

theorem State.markStep_kickFrom (done qs : List FabReq)
    (hqs : ∀ q ∈ qs, q.sent = true ∨ s.onWay q.node ∧ P q.id) : s.MarkStep P (s.kickFrom done qs) := by
  induction qs generalizing s done with
  | nil => exact .refl s
  | cons q qs ih =>
    rw [State.kickFrom]
    have step : s.MarkStep P (if q.sent then s else
        s.trySend (s.fab.reqs.filter fun r => done.any fun d => d.id == r.id) q) := by
      split
      · exact .refl s
      · next hs =>
        obtain ⟨hway, hP⟩ := (hqs q (List.mem_cons_self ..)).resolve_left hs
        exact State.markStep_trySend _ hway hP
    exact step.trans (ih _ fun r hr => (hqs r (List.mem_cons_of_mem _ hr)).imp id (.imp step.onWay.2 id))

/-- The requests that the hub accepts are marked as such. -/
theorem State.markStep_accept (hP : ∀ q ∈ s.fab.reqs, q.atHub = true ∨ P q.id) :
    s.MarkStep P (s.modFab fun f => { f with reqs := f.reqs.map fun q =>
      if ((s.fab.reqs.filter fun q => !q.atHub && s.pilUp (s.reqDie q)).map FabReq.id).contains q.id then
        { q with atHub := true } else q }) := by
  refine .of_marks (fun x => ?_) (fun x hx => if_neg fun h => hx ?_) rfl rfl
  · split
    · exact ⟨x.tag, true, false, by simp⟩
    · exact .refl x
  · obtain ⟨q, hq, hid⟩ := List.mem_map.1 (List.contains_iff_mem.1 h)
    obtain ⟨hq, hhub⟩ := List.mem_filter.1 hq
    exact hid ▸ (hP q hq).resolve_left (by rw [Bool.and_eq_true, Bool.not_eq_true'] at hhub; rw [hhub.1]; decide)

/-- Requests of no message free no slot when the hub accepts them. -/
theorem State.foldl_freeSlot {l : List FabReq} (h : ∀ q ∈ l, ∀ c t, q.owner ≠ .msg c t) (s : State) :
    l.foldl State.freeSlot s = s := by
  induction l with
  | nil => rfl
  | cons q l ih =>
    have hq : s.freeSlot q = s := by
      rw [State.freeSlot]
      split
      · next c t ho => exact absurd ho (h q (List.mem_cons_self ..) c t)
      · rfl
    rw [List.foldl_cons, hq]
    exact ih fun r hr => h r (List.mem_cons_of_mem _ hr)

/-- Where no request that waits for the hub belongs to a message, acceptance only marks. -/
theorem State.markStep_hubAccept (hmsg : ∀ q ∈ s.fab.reqs, q.atHub = true ∨ ∀ c t, q.owner ≠ .msg c t)
    (hP : ∀ q ∈ s.fab.reqs, q.atHub = true ∨ P q.id) : s.MarkStep P s.hubAccept := by
  unfold State.hubAccept
  dsimp only
  split
  · exact .refl s
  · rw [State.foldl_freeSlot]
    · exact State.markStep_accept hP
    · intro q hq
      obtain ⟨hq, hhub⟩ := List.mem_filter.1 hq
      exact (hmsg q hq).resolve_left (by rw [Bool.and_eq_true, Bool.not_eq_true'] at hhub; rw [hhub.1]; decide)

/-- Sending after acceptance. -/
theorem State.kick_eq (s : State) :
    s.kick = if s.hubAccept.fab.go then s.hubAccept.kickFrom [] s.hubAccept.fab.reqs else s.hubAccept := rfl

end Sys2Proof.Machine
end

section
/-! SUPPORT. RATOMN and PUTS: a message of a thread and its request, and a broadcast (04 R125, R126; 11 R352, R357). -/

namespace Sys2Proof.Machine

variable {s : State} {c t : Nat} {node : BitVec 16}

/-! ## The hub accepts the newest request -/

theorem State.mem_freeSlot (s : State) (q : FabReq) : (s.freeSlot q).mem = s.mem := by
  rw [State.freeSlot]
  split
  · split
    · exact State.mem_releaseMem ..
    · rfl
  · rfl

theorem State.fab_freeSlot (s : State) (q : FabReq) : (s.freeSlot q).fab = s.fab := by
  rw [State.freeSlot]
  split
  · next c t _ =>
    split
    · obtain ⟨⟨ts, h⟩, -⟩ := State.releaseMem_cases (s.modThread c t fun th =>
        { th with msgs := th.msgs.map fun m => if m.id = q.id then { m with slot := false } else m }) c t
      rw [h]; rfl
    · rfl
  · rfl

/-- The slot of a RATOMN is free once the hub has accepted it; a PUTS keeps its own (R126). -/
theorem State.thread_freeSlot {q : FabReq} {ms : List Msg} {m : Msg} (ho : q.owner = .msg c t)
    (hms : (s.thread c t).msgs = ms ++ [m]) (hid : m.id = q.id) (hold : ∀ x ∈ ms, x.id ≠ q.id)
    (hst : (s.thread c t).state ≠ .waitMem) : (s.freeSlot q).thread c t =
      { s.thread c t with msgs := ms ++ [{ m with slot := !(q.type == 5) && m.slot }] } := by
  rw [State.freeSlot, ho]
  dsimp only
  by_cases h5 : q.type = 5
  · have hmap : (ms ++ [m]).map (fun m => if m.id = q.id then { m with slot := false } else m) =
        ms ++ [{ m with slot := false }] := by
      rw [List.map_append, List.map_singleton, if_pos hid, List.map_congr_left (g := id), List.map_id]
      exact fun x hx => if_neg (hold x hx)
    have hth : (s.modThread c t fun th => { th with msgs := th.msgs.map fun m =>
        if m.id = q.id then { m with slot := false } else m }).thread c t =
        { s.thread c t with msgs := ms ++ [{ m with slot := false }] } := by
      rw [State.modThread_eq, State.thread_setThread, hms, hmap]
    rw [if_pos h5, (State.roused_releaseMem ..).eq_of_ne (by rw [hth]; exact hst), hth, h5]
    rfl
  · rw [if_neg h5, beq_eq_false_iff_ne.2 h5, Bool.not_false, Bool.true_and, ← hms]

/-- Acceptance where only the newest request waits for the hub. -/
theorem State.hubAccept_last {rs : List FabReq} {q : FabReq} (hr : s.fab.reqs = rs ++ [q])
    (hold : ∀ r ∈ rs, r.atHub = true) (hq : q.atHub = false) : s.hubAccept =
      if s.pilUp (s.reqDie q) then (s.modFab fun f => { f with reqs := f.reqs.map fun q =>
        if ((s.fab.reqs.filter fun q => !q.atHub && s.pilUp (s.reqDie q)).map FabReq.id).contains q.id then
          { q with atHub := true } else q }).freeSlot q
      else s := by
  have hnew : s.fab.reqs.filter (fun q => !q.atHub && s.pilUp (s.reqDie q)) =
      if s.pilUp (s.reqDie q) then [q] else [] := by
    rw [hr, List.filter_append, List.filter_eq_nil_iff.2 fun r hr => by simp [hold r hr], List.nil_append,
      List.filter_singleton, hq, Bool.not_false, Bool.true_and, Bool.cond_eq_ite]
  rw [State.hubAccept, hnew]
  by_cases hup : s.pilUp (s.reqDie q) = true
  · simp only [hup, if_true, List.isEmpty_cons, Bool.false_eq_true, if_false, List.foldl_cons, List.foldl_nil]
  · simp only [hup, if_false, List.isEmpty_nil, if_true, Bool.false_eq_true]

/-! ## A message -/

/-- The request of a message as it enters the fabric endpoint. -/
def msgReq (id c t : Nat) (type : Nat) (node : BitVec 16) (addr len : Nat) (body : Bytes) : FabReq where
  id := id
  owner := .msg c t
  eng := threadEng c t
  type := type
  node := node
  addr := addr
  len := len
  tag := 0
  body := body
  atHub := false
  sent := false

/-- A new request of a message, all others sent: it alone changes. -/
theorem State.kick_newest {q : FabReq} {rs : List FabReq} (hr : s.fab.reqs = rs ++ [q])
    (hold : ∀ r ∈ rs, r.atHub = true ∧ r.sent = true ∧ r.id ≠ q.id) (hq : q.atHub = false) (hway : s.onWay q.node) :
    s.kick.mem = s.mem ∧ (∃ q', q.Marked q' ∧ s.kick.fab.reqs = rs ++ [q']) ∧
    ∃ v : State, v.thread c t = s.thread c t ∧
      s.kick.thread c t = if s.pilUp (s.reqDie q) then (v.freeSlot q).thread c t else s.thread c t := by
  have accept := State.markStep_accept (P := (· = q.id)) (s := s) fun r hr' => by
    rw [hr, List.mem_append, List.mem_singleton] at hr'
    exact hr'.imp (fun h => (hold r h).1) (congrArg _)
  have hlast := State.hubAccept_last hr (fun r hr => (hold r hr).1) hq
  generalize hv : (s.modFab fun f => { f with reqs := f.reqs.map fun q =>
    if ((s.fab.reqs.filter fun q => !q.atHub && s.pilUp (s.reqDie q)).map FabReq.id).contains q.id then
      { q with atHub := true } else q }) = v at accept hlast
  -- whatever the hub accepts, the list of requests is that of a state that only marks the newest
  have haccepted : ∃ x, State.MarkStep (· = q.id) s x ∧ s.hubAccept.fab = x.fab ∧ s.hubAccept.mem = s.mem ∧
      s.hubAccept.thread c t = if s.pilUp (s.reqDie q) then (v.freeSlot q).thread c t else s.thread c t := by
    rw [hlast]
    split
    · exact ⟨v, accept, State.fab_freeSlot .., (State.mem_freeSlot ..).trans accept.mem, rfl⟩
    · exact ⟨s, .refl s, rfl, rfl, rfl⟩
  obtain ⟨x, hx, hfab, hmem, hth⟩ := haccepted
  obtain ⟨g, hg, hfix, hreqs⟩ := hx.marks
  have hrs : s.hubAccept.fab.reqs = rs ++ [g q] := by
    rw [hfab, hreqs, hr, List.map_append, List.map_singleton, List.map_congr_left (g := id), List.map_id]
    exact fun r hr => hfix r (hold r hr).2.2
  have hkick : State.MarkStep (· = q.id) s.hubAccept s.kick := by
    rw [State.kick_eq]
    split
    · refine State.markStep_kickFrom _ _ fun r hr' => ?_
      rw [hrs, List.mem_append, List.mem_singleton] at hr'
      rcases hr' with h | rfl
      · exact .inl (hold r h).2.1
      · have hway' : s.hubAccept.onWay (g q).node := by
          rw [State.onWay, State.routeOf, hfab, (hg q).keeps.2.1]
          exact hx.onWay.2 hway
        exact .inr ⟨hway', (hg q).id⟩
    · exact .refl _
  obtain ⟨g', hg', hfix', hreqs'⟩ := hkick.marks
  refine ⟨hkick.mem.trans hmem, ⟨g' (g q), (hg q).trans (hg' _), ?_⟩, v, accept.thread c t, (hkick.thread c t).trans hth⟩
  rw [hreqs', hrs, List.map_append, List.map_singleton, List.map_congr_left (g := id), List.map_id]
  exact fun r hr => hfix' r (hold r hr).2.2

/-- A message to a routed node, with slots free: its request and the thread's record of it. -/
theorem State.message_done (hsent : s.fabricSent) (hroute : s.reachable node true = true)
    (hs : (s.thread c t).slots < 8) (hu : s.slotsUsed c < 256) (hids : ∀ m ∈ (s.thread c t).msgs, m.id < s.nextId)
    (hst : (s.thread c t).state ≠ .waitMem) (pc : BitVec 64) (type addr len : Nat) (body : Bytes) :
    ∃ u q, s.message c t pc type node addr len body = .done u ∧ u.mem = s.mem ∧
      u.thread c t = { s.thread c t with
        msgs := (s.thread c t).msgs ++ [⟨s.nextId, pc, !(type == 5) || !s.pilUp (s.dieOf c)⟩] } ∧
      u.fab.reqs = s.fab.reqs ++ [q] ∧ (msgReq s.nextId c t type node addr len body).Marked q := by
  rw [State.message, if_neg (by omega), if_neg (by simp [hroute])]
  let m : Msg := ⟨s.nextId, pc, true⟩
  let q := msgReq s.nextId c t type node addr len body
  let v : State := (s.modThread c t fun th => { th with msgs := th.msgs ++ [m] }).fresh.2.modFab fun f =>
    { f with reqs := f.reqs ++ [q] }
  have hv : v.thread c t = { s.thread c t with msgs := (s.thread c t).msgs ++ [m] } :=
    s.thread_setThread c t { s.thread c t with msgs := (s.thread c t).msgs ++ [m] }
  have hway : v.onWay q.node := by
    have : s.onWay node := by
      simp only [State.reachable, State.routed, if_true, Bool.and_eq_true, Bool.or_eq_true, beq_iff_eq] at hroute
      exact hroute.2
    exact this
  obtain ⟨hmem, ⟨q', hq', hreqs⟩, x, hx, hth⟩ := State.kick_newest (s := v) (c := c) (t := t) (q := q) rfl
    (fun r hr => ⟨(hsent r hr).1, (hsent r hr).2.1, (hsent r hr).2.2.ne⟩) rfl hway
  refine ⟨_, q', rfl, hmem, ?_, hreqs, hq'⟩
  refine hth.trans ?_
  have hdie : v.pilUp (v.reqDie q) = s.pilUp (s.dieOf c) := rfl
  rw [hdie]
  by_cases hup : s.pilUp (s.dieOf c) = true
  · rw [if_pos hup, State.thread_freeSlot (q := q) (ms := (s.thread c t).msgs) (m := m) rfl (by rw [hx, hv]) rfl
      (fun x hx => (hids x hx).ne) (by rw [hx, hv]; exact hst), hx, hv, hup, Bool.and_true, Bool.not_true, Bool.or_false]
    rfl
  · rw [if_neg hup, hv, Bool.eq_false_iff.2 hup, Bool.not_false, Bool.or_true]

/-- A node that is not routed ends the message with NODE_UNREACH. -/
theorem State.message_unreachable (hroute : s.reachable node true = false) (hs : (s.thread c t).slots < 8)
    (hu : s.slotsUsed c < 256) (pc : BitVec 64) (type addr len : Nat) (body : Bytes) :
    s.message c t pc type node addr len body = .done (s.threadError c t cUnreach 3 4 pc) := by
  rw [State.message, if_neg (by omega), if_pos (by simp [hroute])]

theorem State.message_full (hs : 8 ≤ (s.thread c t).slots) (pc : BitVec 64) (type addr len : Nat) (body : Bytes) :
    s.message c t pc type node addr len body = .slots 1 := by
  rw [State.message, if_pos (.inl hs)]

/-! ## A broadcast -/

/-- What links send changes neither threads nor the requests of the module. -/
theorem State.LinkStep.threads {u : State} (h : s.LinkStep u) : u.threads = s.threads ∧ u.fab = s.fab := by
  obtain ⟨_, _, _, _, rfl⟩ := h
  exact ⟨rfl, rfl⟩

theorem State.linkStep_bcastSend (s : State) (l : Nat) (p : Pkt) : s.LinkStep (s.bcastSend l p) :=
  .foldl _ (fun _ _ => State.linkStep_linkPut ..) _ s

end Sys2Proof.Machine
end

section
/-! SUPPORT. Sending on a link changes no other link; the statement about messages. -/

namespace Sys2Proof.Machine

/-- Every link but `l` is as before. -/
structure State.LinksBut (l : Nat) (s u : State) : Prop where
  link : ∀ k, k ≠ l → u.link k = s.link k

variable {l : Nat}

theorem State.LinksBut.refl (s : State) : s.LinksBut l s := ⟨fun _ _ => rfl⟩

theorem State.LinksBut.trans {s u v : State} (h : State.LinksBut l s u) (h' : State.LinksBut l u v) :
    State.LinksBut l s v := ⟨fun k hk => (h'.link k hk).trans (h.link k hk)⟩

theorem State.LinksBut.ite {s u v : State} {p : Prop} [Decidable p] (h : State.LinksBut l s u)
    (h' : State.LinksBut l s v) : State.LinksBut l s (if p then u else v) := by split <;> assumption

variable (s : State)

theorem State.linksBut_setLink (x) : s.LinksBut l (s.setLink l x) :=
  ⟨fun _ hk => State.link_setLink_ne _ _ _ hk⟩

theorem State.linksBut_modLink (f) : s.LinksBut l (s.modLink l f) := s.linksBut_setLink _

theorem State.linksBut_putFlit (seq type crvc crcnt d) : s.LinksBut l (s.putFlit l seq type crvc crcnt d) := by
  unfold State.putFlit
  exact ⟨(s.linksBut_setLink _).link⟩

theorem State.linksBut_sendFlit (type d ps) : s.LinksBut l (s.sendFlit l type d ps) := by
  unfold State.sendFlit
  exact (s.linksBut_putFlit ..).trans (State.linksBut_modLink ..)

theorem State.linksBut_startLane : s.LinksBut l (s.startLane l).2 := by
  unfold State.startLane
  split <;> exact ⟨fun _ _ => rfl⟩

theorem State.linksBut_sendAlign : s.LinksBut l (s.sendAlign l) :=
  s.linksBut_startLane.trans (State.linksBut_sendFlit ..)

theorem State.linksBut_sendNew (type d ps) : s.LinksBut l (s.sendNew l type d ps) :=
  (State.LinksBut.ite s.linksBut_sendAlign (.refl s)).trans (State.linksBut_sendFlit ..)

theorem State.linksBut_perturbBy (tgt action place) : s.LinksBut l (s.perturbBy tgt action place).2 := by
  obtain ⟨e, h⟩ := s.perturbBy_cases tgt action place
  rw [h]
  exact ⟨fun _ _ => rfl⟩

theorem State.linksBut_takeFree : s.LinksBut l s.takeFree.2 := ⟨fun _ _ => rfl⟩

theorem State.linksBut_sendPacket (vc d) : s.LinksBut l (s.sendPacket l vc d) := by
  have h := ((s.linksBut_perturbBy (l := l) 5 1 (linkPlace l 0 vc)).trans (State.linksBut_modLink _ fun k =>
    { k with spent := Tab.set 0 k.spent vc (Tab.get 0 k.spent vc + unitsOf d) })).trans (State.linksBut_takeFree _)
  unfold State.sendPacket
  exact .ite (h.trans (State.linksBut_sendNew ..))
    ((h.trans (State.linksBut_sendNew ..)).trans (State.linksBut_sendNew ..))

theorem State.linksBut_drainQueue (blocked : List Nat) (q : List (Nat × Bytes)) :
    s.LinksBut l (State.drainQueue l s blocked q).2 := by
  induction q generalizing s blocked with
  | nil => exact .refl s
  | cons p q ih =>
    unfold State.drainQueue
    rw [apply_ite Prod.snd]
    exact .ite ((s.linksBut_sendPacket ..).trans (ih ..)) (ih ..)

theorem State.linksBut_drainSideband (fuel : Nat) : s.LinksBut l (State.drainSideband l fuel s) := by
  induction fuel generalizing s with
  | zero => exact .refl s
  | succ n ih =>
    unfold State.drainSideband
    exact .ite (.refl s) (((s.linksBut_setLink _).trans (State.linksBut_sendNew ..)).trans (ih _))

theorem State.linksBut_flush : s.LinksBut l (s.flush l) := by
  have h := s.linksBut_drainSideband (l := l) (s.link l).sideband.length
  unfold State.flush
  exact .ite h (((h.trans (State.linksBut_modLink ..)).trans (State.linksBut_drainQueue ..)).trans
    (State.linksBut_modLink ..))

theorem State.linksBut_linkPut (vc d) : s.LinksBut l (s.linkPut l vc d) := by
  have h := s.linksBut_modLink (l := l) fun k => { k with queue := k.queue ++ [(vc, d)] }
  unfold State.linkPut
  exact .ite (h.trans (State.linksBut_flush _)) h

/-- The turn-around of the hub switch has no flits: what is put there waits there (R351). -/
theorem State.link_linkPut_turnAround (vc : Nat) (d : Bytes) :
    (s.linkPut 48 vc d).link 48 = { s.link 48 with queue := (s.link 48).queue ++ [(vc, d)] } := by
  rw [State.linkPut, if_neg (by decide)]
  exact State.link_setLink ..

/-- A broadcast goes on links of the tree, none of which is the turn-around. -/
theorem State.link_bcastSend (p : Pkt) : (s.bcastSend 48 p).link 48 = s.link 48 := by
  unfold State.bcastSend
  have hlinks : ∀ l ∈ s.bcastLinks 48, l ≠ 48 := fun l hl => by
    have := List.mem_range.1 (List.mem_filter.1 hl).1
    omega
  generalize s.bcastLinks 48 = ls at hlinks
  induction ls generalizing s with
  | nil => rfl
  | cons l ls ih =>
    rw [List.foldl_cons, ih _ fun x hx => hlinks x (List.mem_cons_of_mem _ hx)]
    exact (State.linksBut_linkPut ..).link 48 (hlinks l (List.mem_cons_self ..)).symm

/-- A broadcast of this module goes to itself and on the tree, and nothing else changes but links and what they send. -/
theorem State.broadcast_cases (eng : BitVec 16) (body : Bytes) : ∃ p : Pkt,
    s.LinkStep (s.broadcast eng body) ∧ ((s.broadcast eng body).link 48).queue =
      (s.link 48).queue ++ [(0, p.bytes)] ∧ p.dst = 0xFFFF ∧ p.src = s.fab.nodeId ∧ p.type = 3 ∧ p.body = body := by
  refine ⟨{ dst := 0xFFFF, src := s.fab.nodeId, eng := eng, vc := 0, type := 3, ttl := 63, tag := 0, status := 0,
            body := body }, (s.linkStep_linkPut ..).trans (State.linkStep_bcastSend ..), ?_, rfl, rfl, rfl, rfl⟩
  rw [State.broadcast, State.link_bcastSend, State.link_linkPut_turnAround]

/-! ## The instructions -/

variable {s} {c t : Nat} {w : BitVec 64}

/-- A remote access to aligned addresses that the core may name, to a node that its instruction may name, raises no
exception. -/
theorem State.remoteCheck_none {node : BitVec 16} {b : Bool} {n a : Nat}
    (hphys : (s.core c).unlocked = true ∨ physAddr a = false) (hnode : node = 0xFFFF → b = true) (halign : a % n = 0) :
    s.remoteCheck c node b n [a] = none := by
  have h1 : (!(s.core c).unlocked && [a].any physAddr) = false := by rcases hphys with h | h <;> simp [h]
  have h2 : (node == 0xFFFF && !b) = false := by simpa using hnode
  rw [State.remoteCheck, h1, h2]
  simp [halign]

/-- Only a broadcast may name node 0xFFFF. -/
theorem State.remoteCheck_broadcast {n a : Nat} (hphys : (s.core c).unlocked = true ∨ physAddr a = false) :
    s.remoteCheck c 0xFFFF false n [a] = some cAddrForm := by
  have h1 : (!(s.core c).unlocked && [a].any physAddr) = false := by rcases hphys with h | h <;> simp [h]
  rw [State.remoteCheck, h1]
  rfl

/-- An instruction whose body sends a message: sent, to no routed node, and without a thread slot. -/
theorem issue_message {opc type addr len : Nat} {node : BitVec 16} {d : Bytes} {i : Instr}
    {body : Thread → State → Eff} (h : Acts opc 0 c t w s) (hexec : exec i s = issue opc 0 c t w s body)
    (hbody : body (s.thread c t) (s.advance c t) =
      (s.advance c t).message c t (s.thread c t).pc type node addr len d) :
    (s.reachable node true = true → (s.thread c t).slots < 8 ∧ s.slotsUsed c < 256 → s.fabricSent →
      (∀ m ∈ (s.thread c t).msgs, m.id < s.nextId) → ∃ u q, exec i s = .next u ∧ u.mem = s.mem ∧
        u.thread c t = { (s.thread c t).stepped with
          msgs := (s.thread c t).msgs ++ [⟨s.nextId, (s.thread c t).pc, !(type == 5) || !s.pilUp (s.dieOf c)⟩] } ∧
        u.fab.reqs = s.fab.reqs ++ [q] ∧ q.id = s.nextId ∧ q.owner = .msg c t ∧ q.type = type ∧ q.node = node ∧
        q.addr = addr ∧ q.len = len ∧ q.body = d) ∧
    (s.reachable node true = false → (s.thread c t).slots < 8 ∧ s.slotsUsed c < 256 → ∃ u, exec i s = .next u ∧
      u.mem = s.mem ∧ u.thread c t =
        ((s.thread c t).stepped.record cUnreach 3 4 (s.thread c t).pc).stopTo .faulted) ∧
    (8 ≤ (s.thread c t).slots → exec i s = .next (s.setThread c t { s.thread c t with state := .waitMem, memNeed := 1 })) := by
  have hth : (s.advance c t).thread c t = (s.thread c t).stepped := State.thread_advance ..
  have hready : (s.thread c t).stepped.state = .ready := rfl
  refine ⟨fun hroute ⟨hs, hu⟩ hsent hids => ?_, fun hroute ⟨hs, hu⟩ => ?_, fun hs => ?_⟩
  · have hsent' : (s.advance c t).fabricSent := hsent
    obtain ⟨u, q, heff, hmem, hth', hreqs, hq⟩ := State.message_done (s := s.advance c t) (c := c) (t := t) hsent' hroute
      (by rw [hth]; exact hs) (by rw [State.slotsUsed_advance]; exact hu) (by rw [hth]; exact hids)
      (by rw [hth, hready]; decide) (s.thread c t).pc type addr len d
    rw [hth] at hth'
    obtain ⟨howner, hnode, haddr, hlen, htype, hdata⟩ := hq.keeps
    exact ⟨u, q, hexec.trans (issue_done h (hbody.trans heff)), hmem, hth', hreqs, hq.id, howner, htype, hnode, haddr,
      hlen, hdata⟩
  · have heff := State.message_unreachable (s := s.advance c t) (c := c) (t := t) hroute (by rw [hth]; exact hs)
      (by rw [State.slotsUsed_advance]; exact hu) (s.thread c t).pc type addr len d
    refine ⟨_, hexec.trans (issue_done h (hbody.trans heff)), State.mem_threadError .., ?_⟩
    rw [State.thread_threadError, hth, Thread.errorStatus_of_not_settled]
    rw [Thread.settled, hready]
    decide
  · exact hexec.trans (issue_slots h (hbody.trans (State.message_full (by rw [hth]; exact hs) ..)))

/-- Settles O21: RATOMN and PUTS as messages, then the two at node 0xFFFF. -/
theorem messageIssue : Obligations.MessageIssue := by
  unfold Obligations.MessageIssue
  intro c t w s th node a x n up data ops room hphys halign
  have ha : gAddr (s.thread c t) w = a := gAddr_eq ..
  have hnode' : gNode (s.thread c t) w = node := rfl
  have hwidth : widthBytes w = n := rfl
  refine ⟨fun k hk hacts hnode => ?_, fun hacts hnode => ?_, fun hacts hnode hfab hroom => ?_⟩
  · have hcheck (b : Bool) : s.remoteCheck c node b n [a] = none :=
      State.remoteCheck_none hphys (fun h => absurd h hnode) halign
    simp only [List.mem_cons, List.not_mem_nil, or_false] at hk
    obtain rfl | rfl := hk
    · refine issue_message (type := 5) (addr := a) (len := n) (node := node) (d := ops) hacts rfl ?_
      simp only [ha, hwidth, hnode', State.remoteCheck_advance, hcheck]
      rfl
    · refine issue_message (type := 3) (addr := a) (len := n) (node := node) (d := data) hacts rfl ?_
      simp only [ha, hwidth, hnode', State.remoteCheck_advance, hcheck, hnode, if_false]
      rfl
  · refine issue_exc hacts rfl ?_
    simp only [ha, hwidth, hnode', State.remoteCheck_advance, hnode, State.remoteCheck_broadcast hphys]
  · have hcheck : s.remoteCheck c node true n [a] = none := State.remoteCheck_none hphys (fun _ => rfl) halign
    have hth : (s.advance c t).thread c t = (s.thread c t).stepped := State.thread_advance ..
    have hslots : ¬ (8 ≤ (s.thread c t).stepped.slots ∨ 256 < s.slotsUsed c + 1) := by
      have h8 : (s.thread c t).stepped.slots = th.slots := rfl
      omega
    refine ⟨fun hup => ?_, fun hup => ?_⟩
    · obtain ⟨p, hstep, hlink, hdst, hsrc, htype, hbody⟩ := (s.advance c t).broadcast_cases (threadEng c t) data
      refine ⟨_, p, issue_done hacts ?_, hstep.mem, hstep.threads.1, congrArg _ hstep.threads.2, hlink, hdst, hsrc, htype,
        hbody⟩
      have hup' : (s.advance c t).pilUp ((s.advance c t).dieOf c) = true := hup
      have hfab' : (s.advance c t).fab.node ≠ 0xFFFF := hfab
      simp only [ha, hwidth, hnode', State.remoteCheck_advance, hcheck, if_pos hnode, hth, State.slotsUsed_advance,
        if_neg hslots, if_neg hfab', if_pos hup']
      rfl
    · have hup' : (s.advance c t).pilUp ((s.advance c t).dieOf c) = false := hup
      have hfab' : (s.advance c t).fab.node ≠ 0xFFFF := hfab
      refine issue_hold hacts ?_
      simp only [ha, hwidth, hnode', State.remoteCheck_advance, hcheck, if_pos hnode, hth, State.slotsUsed_advance,
        if_neg hslots, if_neg hfab', hup', Bool.false_eq_true, if_false]

end Sys2Proof.Machine
end

section
/-! SUPPORT. What the memory accesses of a unit can change, said once, and that reads change no byte: memory, the ECC
counts of cores and dies, the error block but not PERTURB_CTL.GO, and what notifications change. `T` says that threads
may change too, `W` that bytes of memory may. -/

namespace Sys2Proof.Machine

/-- `u` follows `s` by what a unit does to memory. -/
structure State.UnitStep (T W : Prop) (s u : State) : Prop where
  rest : ∃ m ts cs ds e p mm o f, u = { s with
    mem := m, threads := ts, cores := cs, dies := ds, err := e, pcie := p, mmc := mm, out := o, freeCtr := f }
  host : u.mem.host = s.mem.host
  cells : W ∨ u.mem.cells = s.mem.cells
  threads : T ∨ u.threads = s.threads
  quiet : u.err.perturbGo = s.err.perturbGo
  core : ∀ c, ∃ a b l v, u.core c = { s.core c with spdCorr := a, spdUncorr := b, spdLastUe := l, spdUeValid := v }
  die : ∀ d, ∃ l, u.die d = { s.die d with lpd := l }

namespace State.UnitStep

variable {T W : Prop} {s u v : State}

theorem refl (s : State) : s.UnitStep T W s :=
  ⟨⟨s.mem, s.threads, s.cores, s.dies, s.err, s.pcie, s.mmc, s.out, s.freeCtr, rfl⟩, rfl, .inr rfl, .inr rfl, rfl,
    fun _ => ⟨_, _, _, _, rfl⟩, fun _ => ⟨_, rfl⟩⟩

theorem trans (h : s.UnitStep T W u) (h' : u.UnitStep T W v) : s.UnitStep T W v where
  rest := by
    obtain ⟨_, _, _, _, _, _, _, _, _, rfl⟩ := h.rest
    obtain ⟨m, ts, cs, ds, e, p, mm, o, f, rfl⟩ := h'.rest
    exact ⟨m, ts, cs, ds, e, p, mm, o, f, rfl⟩
  host := h'.host.trans h.host
  cells := h'.cells.elim .inl fun e' => h.cells.imp id fun e => e'.trans e
  threads := h'.threads.elim .inl fun e' => h.threads.imp id fun e => e'.trans e
  quiet := h'.quiet.trans h.quiet
  core c := by
    obtain ⟨_, _, _, _, hc⟩ := h.core c
    obtain ⟨a, b, l, x, hc'⟩ := h'.core c
    exact ⟨a, b, l, x, by rw [hc', hc]⟩
  die d := by
    obtain ⟨_, hd⟩ := h.die d
    obtain ⟨l, hd'⟩ := h'.die d
    exact ⟨l, by rw [hd', hd]⟩

theorem mono {T' W' : Prop} (h : s.UnitStep T W u) (hT : T → T') (hW : W → W') : s.UnitStep T' W' u :=
  ⟨h.rest, h.host, h.cells.imp hW id, h.threads.imp hT id, h.quiet, h.core, h.die⟩

theorem ite {p : Prop} [Decidable p] (h : s.UnitStep T W u) (h' : s.UnitStep T W v) :
    s.UnitStep T W (if p then u else v) := by split <;> assumption

theorem foldl {α : Type} (f : State → α → State) (hf : ∀ s a, State.UnitStep T W s (f s a)) (l : List α) (s : State) :
    s.UnitStep T W (l.foldl f s) := by
  induction l generalizing s with
  | nil => exact .refl s
  | cons a l ih => exact (hf s a).trans (ih _)

/-- What every such step keeps. -/
theorem fuses (h : s.UnitStep T W u) : u.fuses = s.fuses := by
  obtain ⟨_, _, _, _, _, _, _, _, _, rfl⟩ := h.rest; rfl

theorem fab (h : s.UnitStep T W u) : u.fab = s.fab := by
  obtain ⟨_, _, _, _, _, _, _, _, _, rfl⟩ := h.rest; rfl

theorem ops (h : s.UnitStep T W u) : u.ops = s.ops := by
  obtain ⟨_, _, _, _, _, _, _, _, _, rfl⟩ := h.rest; rfl

theorem op? (h : s.UnitStep T W u) (id : Nat) : u.op? id = s.op? id := by rw [State.op?, h.ops]; rfl

theorem arr (h : s.UnitStep T W u) (c a : Nat) : u.arr c a = s.arr c a := by
  obtain ⟨_, _, _, _, _, _, _, _, _, rfl⟩ := h.rest; rfl

theorem pumps (h : s.UnitStep T W u) : u.pumps = s.pumps := by
  obtain ⟨_, _, _, _, _, _, _, _, _, rfl⟩ := h.rest; rfl

theorem pilUp (h : s.UnitStep T W u) (d : Nat) : u.pilUp d = s.pilUp d := by
  obtain ⟨_, _, _, _, _, _, _, _, _, rfl⟩ := h.rest; rfl

theorem dieOf (h : s.UnitStep T W u) (c : Nat) : u.dieOf c = s.dieOf c := by
  obtain ⟨_, _, _, _, _, _, _, _, _, rfl⟩ := h.rest; rfl

theorem lcores (h : s.UnitStep T W u) : u.lcores = s.lcores := by rw [State.lcores, State.perDie, h.fuses]; rfl

theorem awake (h : s.UnitStep T W u) (c : Nat) : u.awake c = s.awake c := by
  obtain ⟨l, hd⟩ := h.die (s.dieOf c)
  rw [State.awake, h.dieOf, hd, State.awake]

theorem thread (h : s.UnitStep False W u) (c t : Nat) : u.thread c t = s.thread c t := by
  obtain ⟨_, _, _, _, _, _, _, _, _, rfl⟩ := h.rest
  rw [State.thread, h.threads.resolve_left id, State.thread]

theorem sameCells (h : s.UnitStep T False u) : u.mem.cells = s.mem.cells := h.cells.resolve_left id

end State.UnitStep

variable {T W : Prop} (s : State)

/-! ## Single changes -/

theorem State.unitStep_takeFree : s.UnitStep T W s.takeFree.2 :=
  ⟨⟨s.mem, s.threads, s.cores, s.dies, s.err, s.pcie, s.mmc, s.out, _, rfl⟩, rfl, .inr rfl, .inr rfl, rfl,
    fun _ => ⟨_, _, _, _, rfl⟩, fun _ => ⟨_, rfl⟩⟩

theorem State.unitStep_err (e : Err) (h : e.perturbGo = s.err.perturbGo) : s.UnitStep T W { s with err := e } :=
  ⟨⟨s.mem, s.threads, s.cores, s.dies, e, s.pcie, s.mmc, s.out, s.freeCtr, rfl⟩, rfl, .inr rfl, .inr rfl, h,
    fun _ => ⟨_, _, _, _, rfl⟩, fun _ => ⟨_, rfl⟩⟩

theorem State.unitStep_perturb (tgt action place) : s.UnitStep T W (s.perturb tgt action place).2 := by
  obtain ⟨e, h⟩ := s.perturb_cases tgt action place
  rw [h]
  exact s.unitStep_err _ rfl

/-- A notification leaves PERTURB_CTL.GO. -/
theorem State.perturbGo_notify (kind inj place code detail) :
    (s.notify kind inj place code detail).err.perturbGo = s.err.perturbGo := by
  unfold State.notify
  dsimp only
  split
  · obtain ⟨p, o, h⟩ := State.msixSend_cases { s with err := _ } s.dev.notifyVec.toNat
    rw [h]; rfl
  · rfl

theorem State.unitStep_notify (kind inj place code detail) :
    s.UnitStep T W (s.notify kind inj place code detail) := by
  have hgo := s.perturbGo_notify kind inj place code detail
  obtain ⟨e, p, m, o, h⟩ := s.notify_cases kind inj place code detail
  rw [h] at hgo ⊢
  exact ⟨⟨s.mem, s.threads, s.cores, s.dies, e, p, m, o, s.freeCtr, rfl⟩, rfl, .inr rfl, .inr rfl, hgo,
    fun _ => ⟨_, _, _, _, rfl⟩, fun _ => ⟨_, rfl⟩⟩

/-- The ECC registers of a core count. -/
theorem State.unitStep_counts (c : Nat) (f : Core → Core)
    (hf : ∀ k, ∃ a b l v, f k = { k with spdCorr := a, spdUncorr := b, spdLastUe := l, spdUeValid := v }) :
    s.UnitStep T W (s.modCore c f) := by
  refine ⟨⟨s.mem, s.threads, _, s.dies, s.err, s.pcie, s.mmc, s.out, s.freeCtr, rfl⟩, rfl, .inr rfl, .inr rfl, rfl,
    fun c' => ?_, fun _ => ⟨_, rfl⟩⟩
  by_cases h : c' = c
  · rw [h, State.modCore_eq, State.core_setCore]
    exact hf _
  · rw [State.modCore_eq, State.core_setCore_ne _ _ _ h]
    exact ⟨_, _, _, _, rfl⟩

theorem State.unitStep_modLpd (d : Nat) (f : Lpd → Lpd) : s.UnitStep T W (s.modLpd d f) := by
  refine ⟨⟨s.mem, s.threads, s.cores, _, s.err, s.pcie, s.mmc, s.out, s.freeCtr, rfl⟩, rfl, .inr rfl, .inr rfl, rfl,
    fun _ => ⟨_, _, _, _, rfl⟩, fun d' => ?_⟩
  by_cases h : d' = d
  · rw [h]
    exact ⟨_, State.die_setDie ..⟩
  · exact ⟨_, State.die_setDie_ne _ _ _ h⟩

/-- A change of marks. -/
theorem State.unitStep_marks (m : Mem) (hc : m.cells = s.mem.cells) (hh : m.host = s.mem.host) :
    s.UnitStep T W { s with mem := m } :=
  ⟨⟨m, s.threads, s.cores, s.dies, s.err, s.pcie, s.mmc, s.out, s.freeCtr, rfl⟩, hh, .inr hc, .inr rfl, rfl,
    fun _ => ⟨_, _, _, _, rfl⟩, fun _ => ⟨_, rfl⟩⟩

theorem State.unitStep_setWordMark (w v) : s.UnitStep T W (s.setWordMark w v) := s.unitStep_marks _ rfl rfl

theorem State.unitStep_lpdMarks (sec grp) :
    s.UnitStep T W { s with mem := { s.mem with secErr := sec, grpErr := grp } } := s.unitStep_marks _ rfl rfl

theorem State.unitStep_clearSector (sec) : s.UnitStep T W (s.clearSector sec) := s.unitStep_lpdMarks ..

theorem State.unitStep_setBytes (k d) : s.UnitStep T True (s.setBytes k d) :=
  ⟨⟨_, s.threads, s.cores, s.dies, s.err, s.pcie, s.mmc, s.out, s.freeCtr, rfl⟩, rfl, .inl trivial, .inr rfl, rfl,
    fun _ => ⟨_, _, _, _, rfl⟩, fun _ => ⟨_, rfl⟩⟩

theorem State.unitStep_modThread (c t f) : s.UnitStep True W (s.modThread c t f) :=
  ⟨⟨s.mem, _, s.cores, s.dies, s.err, s.pcie, s.mmc, s.out, s.freeCtr, rfl⟩, rfl, .inr rfl, .inl trivial, rfl,
    fun _ => ⟨_, _, _, _, rfl⟩, fun _ => ⟨_, rfl⟩⟩

theorem State.unitStep_opFlags (o f) : s.UnitStep True W (s.opFlags o f) := by
  unfold State.opFlags
  exact .ite (.refl s) (s.unitStep_modThread ..)

theorem State.unitStep_destVal (c a) : s.UnitStep T W (s.destVal c a).2 := by
  unfold State.destVal
  split
  · exact .refl s
  · exact s.unitStep_takeFree

/-! ## Scratchpads -/

theorem State.unitStep_countCorr (c n) : s.UnitStep T W (s.countCorr c n) := by
  unfold State.countCorr
  split
  · exact .refl s
  · exact s.unitStep_counts c _ fun _ => ⟨_, _, _, _, rfl⟩

theorem State.unitStep_countUe (c w inj) : s.UnitStep T W (s.countUe c w inj) :=
  (s.unitStep_counts c _ fun _ => ⟨_, _, _, _, rfl⟩).trans (State.unitStep_notify ..)

theorem State.unitStep_readSpad (c off n) : s.UnitStep T W (s.readSpad c off n).2 := by
  unfold State.readSpad
  dsimp only
  rw [apply_ite Prod.snd, ite_self]
  have h2 := (s.unitStep_perturb (T := T) (W := W) 1 1 c).trans (State.unitStep_perturb _ 1 6 c)
  generalize ((s.perturb 1 1 c).2.perturb 1 6 c).2 = s2 at h2 ⊢
  have h3 := fun l l' k => ((h2.trans (.foldl _ (fun s w => s.unitStep_setWordMark w 2) l s2)).trans
    (State.unitStep_countCorr _ c k)).trans (.foldl _ (fun s w => s.unitStep_countUe c (w - spadAddr c 0 / 8) false) l' _)
  exact .ite ((h3 ..).trans (State.unitStep_countUe ..)) (h3 ..)

theorem State.unitStep_writeSpad (c off d) : s.UnitStep T True (s.writeSpad c off d).2 := by
  unfold State.writeSpad
  dsimp only
  split
  · exact ((s.unitStep_countCorr ..).trans (.foldl _ (fun s w => s.unitStep_setWordMark w 0) _ _)).trans
      (State.unitStep_setBytes ..)
  · exact (s.unitStep_countCorr ..).trans (.foldl _ (fun s w => s.unitStep_countUe c _ false) _ _)

/-! ## LPDDR -/

theorem State.unitStep_remapFull (d ch) : s.UnitStep T W (s.remapFull d ch) := by
  unfold State.remapFull
  exact .ite ((s.unitStep_modLpd ..).trans (State.unitStep_notify ..)) (.refl s)

theorem State.unitStep_remapRow (d ch row count) : s.UnitStep T W (s.remapRow d ch row count) := by
  unfold State.remapRow
  dsimp only
  split
  · exact .refl s
  split
  · exact s.unitStep_remapFull ..
  · exact (s.unitStep_modLpd ..).trans (State.unitStep_remapFull ..)

theorem State.unitStep_remapDue (d ch) : s.UnitStep T W (s.remapDue d ch) := by
  unfold State.remapDue
  exact .ite (.foldl _ (fun s t => s.unitStep_remapRow ..) _ s) (.refl s)

theorem State.unitStep_trackRow (d ch row) : s.UnitStep T W (s.trackRow d ch row) :=
  (s.unitStep_modLpd ..).trans (State.unitStep_remapDue ..)

theorem State.unitStep_lpdUe (sec a b cls inj) : s.UnitStep T W (s.lpdUe sec a b cls inj) :=
  (s.unitStep_modLpd ..).trans (State.unitStep_notify ..)

theorem State.unitStep_lpdCe (sec wb) : s.UnitStep T W (s.lpdCe sec wb) := by
  unfold State.lpdCe
  dsimp only
  exact (State.UnitStep.ite ((s.unitStep_modLpd ..).trans (State.unitStep_lpdMarks ..)) (s.unitStep_modLpd ..)).trans
    (State.unitStep_trackRow ..)

theorem State.unitStep_checkSector (sec cls) : s.UnitStep T W (s.checkSector sec cls).2 := by
  unfold State.checkSector
  dsimp only
  have h2 := (s.unitStep_perturb (T := T) (W := W) 2 3
    (lpdPlace (s.lpdLoc (sec * 32)).die (s.lpdLoc (sec * 32)).chan)).trans
    (State.unitStep_perturb _ 2 6 (lpdPlace (s.lpdLoc (sec * 32)).die (s.lpdLoc (sec * 32)).chan))
  simp only [apply_ite Prod.snd]
  exact .ite (h2.trans (State.unitStep_lpdUe ..)) (.ite (h2.trans (State.unitStep_lpdUe ..))
    (.ite (h2.trans (State.unitStep_lpdUe ..)) (.ite (h2.trans (State.unitStep_lpdUe ..))
      (.ite (h2.trans (State.unitStep_lpdCe ..)) h2))))

theorem State.unitStep_checkSectors (n : Nat) (sec cls) : s.UnitStep T W (State.checkSectors n s sec cls).2 := by
  induction n generalizing s sec with
  | zero => exact .refl s
  | succ n ih =>
    unfold State.checkSectors
    dsimp only
    split
    · exact (s.unitStep_checkSector ..).trans (ih ..)
    · exact s.unitStep_checkSector ..

theorem State.unitStep_readLpd (u n cls) : s.UnitStep T W (s.readLpd u n cls).2 := by
  unfold State.readLpd
  dsimp only
  split <;> exact s.unitStep_checkSectors ..

theorem State.unitStep_writeSector (u d cls) : s.UnitStep T True (s.writeSector u d cls).2 := by
  unfold State.writeSector
  dsimp only
  split
  · split
    · exact s.unitStep_lpdUe ..
    · exact ((s.unitStep_lpdMarks ..).trans (State.unitStep_clearSector ..)).trans (State.unitStep_setBytes ..)
  · split
    · exact (((s.unitStep_checkSector ..).trans (State.unitStep_lpdMarks ..)).trans
        (State.unitStep_clearSector ..)).trans (State.unitStep_setBytes ..)
    · exact s.unitStep_checkSector ..

theorem State.unitStep_writeLpd (fuel : Nat) (u d cls) : s.UnitStep T True (State.writeLpd fuel s u d cls).2 := by
  induction fuel generalizing s u d with
  | zero => exact .refl s
  | succ n ih =>
    unfold State.writeLpd
    dsimp only
    split
    · exact .refl s
    split
    · exact ((s.unitStep_lpdMarks ..).trans (State.unitStep_setBytes ..)).trans (ih ..)
    split
    · exact (s.unitStep_writeSector ..).trans (ih ..)
    · exact s.unitStep_writeSector ..

/-! ## Any place -/

theorem State.unitStep_readPlace (p n cls) : s.UnitStep T W (s.readPlace p n cls).2 := by
  cases p with
  | spad c off => exact s.unitStep_readSpad ..
  | lpd u => exact s.unitStep_readLpd ..
  | cis a => unfold State.readPlace; dsimp only; split <;> exact .refl s
  | reg off => exact .refl s

theorem State.unitStep_writePlace (p d cls) : s.UnitStep T True (s.writePlace p d cls).2 := by
  cases p with
  | spad c off => exact s.unitStep_writeSpad ..
  | lpd u => exact s.unitStep_writeLpd ..
  | cis a =>
    exact State.UnitStep.trans (.foldl _ (fun s w => s.unitStep_setWordMark w 0) _ s) (State.unitStep_setBytes ..)
  | reg off => exact .refl s

theorem State.unitStep_readMem (a n cls) : s.UnitStep T W (s.readMem a n cls).2 := by
  unfold State.readMem
  split
  · exact .refl s
  split
  · exact .refl s
  · exact s.unitStep_readPlace ..

theorem State.unitStep_writeMem (a d cls) : s.UnitStep T True (s.writeMem a d cls).2 := by
  unfold State.writeMem
  split
  · exact .refl s
  split
  · exact .refl s
  · exact s.unitStep_writePlace ..

theorem State.unitStep_writeOuts (ws : List OutW) (cls : Nat) : s.UnitStep T True (State.writeOuts s ws cls).2 := by
  induction ws generalizing s with
  | nil => exact .refl s
  | cons w ws ih =>
    have h := s.unitStep_writeMem (T := T) w.addr w.data cls
    unfold State.writeOuts
    split <;> rename_i h' <;> rw [h'] at h
    · exact h.trans (ih _)
    · exact h

/-! ## Registers that a pump reads (13 R416, R464) -/

theorem State.unitStep_readWord (o : Nat) : s.UnitStep T W (s.readWord o).2 := by
  unfold State.readWord
  split
  · exact .refl s
  split
  · unfold State.dbgRead
    dsimp only
    split
    · exact .refl s
    · exact s.unitStep_err _ rfl
  split
  · exact s.unitStep_takeFree
  · exact .refl s

theorem State.unitStep_readWords (k o : Nat) : s.UnitStep T W (State.readWords k s o).2 := by
  induction k generalizing s o with
  | zero => exact .refl s
  | succ k ih => exact (s.unitStep_readWord o).trans (ih ..)

theorem State.unitStep_readAny (a n cls : Nat) : s.UnitStep T W (s.readAny a n cls).2 := by
  unfold State.readAny
  split
  · exact s.unitStep_readWords ..
  · exact s.unitStep_readMem ..

theorem State.unitStep_readSegs (cls : Nat) (l : List (Nat × Nat)) :
    s.UnitStep T W (State.readSegs State.readAny cls s l).2.2 := by
  induction l generalizing s with
  | nil => exact .refl s
  | cons e l ih =>
    have h := s.unitStep_readAny (T := T) (W := W) e.1 e.2 cls
    unfold State.readSegs
    split <;> rename_i h' <;> rw [h'] at h
    · exact h
    · exact h.trans (ih _)

theorem State.unitStep_failAt (c : Nat) (x : Option (Nat × BitVec 8)) : s.UnitStep T W (s.failAt c x).2 := by
  unfold State.failAt
  split
  · exact .refl s
  · exact s.unitStep_destVal ..

end Sys2Proof.Machine
end

section
/-! SUPPORT. What the computation of a unit keeps while it runs: reading tiles changes no byte and no thread; of the
instructions, ATTEND writes its cache before it is done, and outputs may be partly written where an error stops one
(05 R147, R542; 06 R177, R188; 07 R204). -/

namespace Sys2Proof.Machine

variable {T W : Prop}

/-- A computation that ends without an exception has changed no thread, and no byte of memory unless `W`; one that an
exception stops may have changed threads and bytes only if `T`. -/
structure Run.Keeps {α : Type} (T W : Prop) (s : State) (r : Run α) : Prop where
  ok : ∀ x, r.1 = .ok x → s.UnitStep False W r.2
  all : s.UnitStep T (W ∨ T) r.2

namespace Run.Keeps

variable {α β : Type} {s : State}

theorem of_step {r : Run α} (h : s.UnitStep False W r.2) : Run.Keeps T W s r :=
  ⟨fun _ _ => h, h.mono False.elim .inl⟩

theorem refl (x : Except (BitVec 8 × BitVec 4) α) (s : State) : Run.Keeps T W s (x, s) := of_step (.refl s)

theorem stop (cause : BitVec 8) (s : State) : Run.Keeps T W s (Run.stop (α := α) cause s) := refl _ s

theorem andThen {r : Run α} {f : α → State → Run β} (h : Run.Keeps T W s r) (hf : ∀ a u, Run.Keeps T W u (f a u)) :
    Run.Keeps T W s (r.andThen f) := by
  obtain ⟨x, u⟩ := r
  cases x with
  | error e => exact ⟨fun _ hx => (nomatch hx), h.all⟩
  | ok a =>
    have hu : s.UnitStep False W u := h.ok a rfl
    exact ⟨fun x hx => hu.trans ((hf a u).ok x hx), (hu.mono False.elim .inl).trans (hf a u).all⟩

theorem mapList {f : α → State → Run β} (hf : ∀ a u, Run.Keeps T W u (f a u)) (l : List α) (s : State) :
    Run.Keeps T W s (Run.mapList f l s) := by
  induction l generalizing s with
  | nil => exact refl _ s
  | cons a l ih =>
    have h : Run.mapList f (a :: l) s =
        (f a s).andThen fun b s => (Run.mapList f l s).andThen fun bs s => (.ok (b :: bs), s) := by
      rw [Run.mapList]
      rcases f a s with ⟨_ | b, u⟩
      · rfl
      · simp only [Run.andThen]
        rcases Run.mapList f l u with ⟨_ | bs, v⟩ <;> rfl
    rw [h]
    exact (hf a s).andThen fun b u => (ih u).andThen fun bs v => refl _ v

theorem foldList {f : β → α → State → Run β} (hf : ∀ b a u, Run.Keeps T W u (f b a u)) (b : β) (l : List α) (s : State) :
    Run.Keeps T W s (Run.foldList f b l s) := by
  induction l generalizing b s with
  | nil => exact refl _ s
  | cons a l ih =>
    have h : Run.foldList f b (a :: l) s = (f b a s).andThen fun b s => Run.foldList f b l s := by
      rw [Run.foldList]
      rcases f b a s with ⟨_ | b, u⟩ <;> rfl
    rw [h]
    exact (hf b a s).andThen fun b u => ih b u

/-- What is done where an error stops a computation. -/
theorem onStop {r : Run α} {f : State → State} (h : Run.Keeps T W s r) (hf : ∀ u : State, u.UnitStep T (W ∨ T) (f u)) :
    Run.Keeps T W s (r.onStop f) := by
  obtain ⟨x, u⟩ := r
  cases x with
  | error e => exact ⟨fun _ hx => (nomatch (hx : Except.error e = .ok _)), h.all.trans (hf u)⟩
  | ok a => exact h

theorem ite {p : Prop} [Decidable p] {r r' : Run α} (h : Run.Keeps T W s r) (h' : Run.Keeps T W s r') :
    Run.Keeps T W s (if p then r else r') := by split <;> assumption

/-- A free value taken first. -/
theorem of_takeFree {r : Run α} (h : Run.Keeps T W s.takeFree.2 r) : Run.Keeps T W s r :=
  ⟨fun x hx => s.unitStep_takeFree.trans (h.ok x hx), s.unitStep_takeFree.trans h.all⟩

end Run.Keeps

variable (s : State)

/-! ## Tiles -/

theorem State.keeps_unitRead (c a n : Nat) : Run.Keeps T W s (s.unitRead c a n) := by
  have h := s.unitStep_readMem (T := False) (W := W) a n 0
  unfold State.unitRead
  split <;> rename_i h' <;> rw [h'] at h
  · exact .of_step h
  · exact .of_step (h.trans (State.unitStep_destVal ..))

theorem State.keeps_readRow (c : Nat) (d : Desc) (p r : Nat) : Run.Keeps T W s (s.readRow c d p r) := by
  unfold State.readRow
  refine (s.keeps_unitRead ..).andThen fun b s => ?_
  split
  · exact (s.keeps_unitRead ..).andThen fun _ s => .refl _ s
  · exact .refl _ s

theorem State.keeps_readPart (c : Nat) (d : Desc) (p r lo hi : Nat) : Run.Keeps T W s (s.readPart c d p r lo hi) := by
  unfold State.readPart
  refine (s.keeps_unitRead ..).andThen fun b s => ?_
  split
  · exact (s.keeps_unitRead ..).andThen fun _ s => .refl _ s
  · exact .refl _ s

theorem State.keeps_readRows (c : Nat) (d : Desc) : Run.Keeps T W s (s.readRows c d) := by
  unfold State.readRows
  exact .mapList (fun r s => s.keeps_readRow ..) _ s

/-! ## MATMUL, CONV and ACCOP -/

theorem State.keeps_convA (c : Nat) (d : Desc) (v : Win) (ws : Bool) (kt : Nat) :
    Run.Keeps T W s (s.convA c d v ws kt) := by
  unfold State.convA
  refine Run.Keeps.andThen (.mapList (fun r s => ?_) _ s) fun l s => .refl _ s
  refine Run.Keeps.andThen ?_ fun x s => .refl _ s
  unfold State.tapRow
  exact .ite (s.keeps_readPart ..) (.refl _ s)

theorem State.keeps_startMatmul (o : AsyncOp) (conv : Bool) : Run.Keeps T W s (s.startMatmul o conv) := by
  unfold State.startMatmul
  refine .of_takeFree (.ite (.stop _ _) ?_)
  exact (Run.Keeps.ite (State.keeps_convA ..) (State.keeps_readRows ..)).andThen fun a s =>
    (s.keeps_readRows ..).andThen fun b s => .refl _ s

theorem State.keeps_startAccop (o : AsyncOp) : Run.Keeps T W s (s.startAccop o) := by
  unfold State.startAccop
  exact .of_takeFree (.ite (.stop _ _) (.refl _ _))

/-! ## The instructions of the SFU queue -/

theorem State.unitStep_unitWrites (c : Nat) (l : List OutW) : s.UnitStep T True (s.unitWrites c l).2 := by
  have h := s.unitStep_writeOuts (T := T) l 0
  unfold State.unitWrites
  split <;> rename_i h' <;> rw [h'] at h
  · exact h
  · exact h.trans (State.unitStep_destVal ..)

theorem State.unitStep_partialWrites (o : AsyncOp) (l : List OutW) (fl : BitVec 4) :
    s.UnitStep True True (s.partialWrites o l fl) :=
  (s.unitStep_takeFree.trans (State.unitStep_takeFree _)).trans
    ((State.unitStep_unitWrites ..).trans (State.unitStep_opFlags ..))

theorem State.unitStep_overlapFree (unit : Nat) (ds : List Desc) (ws : List OutW) :
    s.UnitStep T W (s.overlapFree unit ds ws).2 := by
  unfold State.overlapFree
  split
  · exact .refl s
  · exact s.unitStep_takeFree

theorem State.unitStep_stopOuts (o : AsyncOp) (unit : Nat) (bad : List Desc) (acc : SfuOut) :
    s.UnitStep True True (State.stopOuts o unit bad acc s) :=
  (s.unitStep_overlapFree ..).trans (State.unitStep_partialWrites ..)

theorem State.keeps_overlapFree (unit : Nat) (ds : List Desc) (r : SfuOut) :
    Run.Keeps T W s ((.ok ((s.overlapFree unit ds r.1).1, r.2), (s.overlapFree unit ds r.1).2) : Run SfuOut) :=
  .of_step (s.unitStep_overlapFree ..)

theorem State.keeps_auxRow (c : Nat) (d : Desc) (used percol : Bool) (p r : Nat) :
    Run.Keeps T W s (s.auxRow c d used percol p r) := by
  unfold State.auxRow
  exact .ite (.refl _ s) ((Run.Keeps.ite (s.keeps_readRow ..) (s.keeps_readRow ..)).andThen fun x s => .refl _ s)

/-- Outputs so far may be written where an error stops the instruction. -/
theorem State.stops (o : AsyncOp) (unit : Nat) (bad : List Desc) (acc : SfuOut) (u : State) :
    u.UnitStep True (W ∨ True) (State.stopOuts o unit bad acc u) :=
  (u.unitStep_stopOuts ..).mono id fun _ => .inr trivial

theorem State.keeps_startSfu (o : AsyncOp) : Run.Keeps True W s (s.startSfu o) := by
  unfold State.startSfu
  refine Run.Keeps.andThen (.foldList (fun acc x s => .onStop ?_ (State.stops _ _ _ _)) _ _ s) fun r s =>
    s.keeps_overlapFree ..
  exact (s.keeps_readRow ..).andThen fun row s => (s.keeps_auxRow ..).andThen fun bs s =>
    (s.keeps_auxRow ..).andThen fun cs s => .refl _ s

theorem State.keeps_startRowstat (o : AsyncOp) : Run.Keeps True W s (s.startRowstat o) := by
  unfold State.startRowstat
  refine Run.Keeps.andThen (.foldList (fun acc x s => .onStop ?_ (State.stops _ _ _ _)) _ _ s) fun r s =>
    s.keeps_overlapFree ..
  exact (s.keeps_readRow ..).andThen fun row s => .ite (.refl _ s) (.refl _ s)

theorem State.keeps_startVerify (o : AsyncOp) : Run.Keeps T W s (s.startVerify o) := by
  unfold State.startVerify
  exact (s.keeps_unitRead ..).andThen fun b s => .ite (.stop _ s) ((s.keeps_readRows ..).andThen fun rows s => .refl _ s)

theorem State.keeps_readHeader (c : Nat) (d : Desc) : Run.Keeps T W s (s.readHeader c d) := by
  unfold State.readHeader
  exact (s.keeps_unitRead ..).andThen fun b s => .ite (.stop _ s) ((s.keeps_unitRead ..).andThen fun r s =>
    .ite (.stop _ s) (.refl _ s))

theorem State.keeps_startCommit (o : AsyncOp) : Run.Keeps T W s (s.startCommit o) := by
  unfold State.startCommit
  exact (s.keeps_readHeader ..).andThen fun h s => (s.keeps_unitRead ..).andThen fun b s =>
    .ite (.stop _ s) (.refl _ s)

theorem State.keeps_startSample (o : AsyncOp) : Run.Keeps T W s (s.startSample o) := by
  unfold State.startSample
  refine (s.keeps_unitRead ..).andThen fun b s => .ite (.stop _ s) (.ite (.stop _ s) (.foldList (fun acc r s => ?_) _ _ s))
  exact (s.keeps_readRow ..).andThen fun row s => (Run.Keeps.ite (.refl _ s) (s.keeps_unitRead ..)).andThen fun pb s =>
    .refl _ s

theorem State.keeps_startRoute (o : AsyncOp) : Run.Keeps T W s (s.startRoute o) := by
  unfold State.startRoute
  refine (s.keeps_unitRead ..).andThen fun b s => .ite (.stop _ s) (.ite (.stop _ s) (.ite (.stop _ s) ?_))
  refine (Run.Keeps.ite (.refl _ s) (s.keeps_unitRead ..)).andThen fun bb s => ?_
  exact Run.Keeps.andThen (.foldList (fun acc t s => (s.keeps_readRow ..).andThen fun row s => .refl _ s) _ _ s)
    fun r s => .refl _ s

/-- An instruction of the SFU queue has read its operands when it begins; its outputs are written at its end. -/
theorem State.keeps_sfuExec (o : AsyncOp) : Run.Keeps True W s (s.sfuExec o) := by
  unfold State.sfuExec
  split
  · exact s.keeps_startRowstat o
  · exact s.keeps_startSfu o
  · exact s.keeps_startVerify o
  · exact s.keeps_startCommit o
  · exact s.keeps_startSample o
  · exact s.keeps_startRoute o

/-! ## ATTEND -/

theorem State.keeps_unitWrite (c a : Nat) (d : Bytes) : Run.Keeps T True s (s.unitWrite c a d) := by
  have h := s.unitStep_writeMem (T := False) a d 0
  unfold State.unitWrite
  split <;> rename_i h' <;> rw [h'] at h
  · exact .of_step h
  · exact .of_step (h.trans (State.unitStep_destVal ..))

theorem State.keeps_readEntries (c : Nat) (d : Desc) (btlen : Nat) (pos : List Nat) :
    Run.Keeps T W s (s.readEntries c d btlen pos) := by
  unfold State.readEntries
  exact .mapList (fun e s => .ite (.stop _ s) ((s.keeps_unitRead ..).andThen fun b s => .ite (.stop _ s) (.refl _ s))) _ s

theorem State.keeps_rotRow (c : Nat) (prm : AttPrm) (p : Nat) : Run.Keeps T W s (s.rotRow c prm p) := by
  unfold State.rotRow
  exact .ite (s.keeps_unitRead ..) (.refl _ s)

theorem State.keeps_relocate (c : Nat) (d : Desc) (ents mv : List (Nat × Nat)) :
    Run.Keeps T True s (s.relocate c d ents mv) := by
  unfold State.relocate
  exact .foldList (fun _ x s => .ite (.refl _ s) (.foldList (fun _ hv s =>
    (s.keeps_unitRead ..).andThen fun b s => s.keeps_unitWrite ..) _ _ s)) _ _ s

theorem State.keeps_appendRows (c : Nat) (d : Desc) (prm : AttPrm) (ents : List (Nat × Nat)) (clen : Nat)
    (lp : Nat → Nat) : Run.Keeps T True s (s.appendRows c d prm ents clen lp) := by
  unfold State.appendRows
  exact .foldList (fun fl x s => (s.keeps_unitRead ..).andThen fun b s =>
    (Run.Keeps.ite (s.keeps_rotRow ..) (.refl _ s)).andThen fun tab s => (s.keeps_unitWrite ..).andThen fun _ s =>
      .refl _ s) _ _ s

theorem State.keeps_readBlock (c : Nat) (d : Desc) (ents : List (Nat × Nat)) (h : Nat) (rows : List (Nat × Nat)) :
    Run.Keeps T W s (s.readBlock c d ents h rows) := by
  unfold State.readBlock
  exact Run.Keeps.andThen (.mapList (fun p s => (s.keeps_unitRead ..).andThen fun kb s =>
    (s.keeps_unitRead ..).andThen fun vb s => .refl _ s) _ s) fun l s => .refl _ s

theorem State.keeps_attendRow (o : AsyncOp) (prm : AttPrm) (ents : List (Nat × Nat)) (row p : Nat)
    (blocks : List (Nat × List (Nat × Nat))) : Run.Keeps T W s (s.attendRow o prm ents row p blocks) := by
  unfold State.attendRow
  refine (s.keeps_readRow ..).andThen fun x s => (s.keeps_rotRow ..).andThen fun tab s => ?_
  exact Run.Keeps.andThen (.foldList (fun st b s => (s.keeps_readBlock ..).andThen fun kv s => .refl _ s) _ _ s)
    fun st s => .refl _ s

theorem State.keeps_startAttend (o : AsyncOp) : Run.Keeps True True s (s.startAttend o) := by
  unfold State.startAttend
  refine (s.keeps_unitRead ..).andThen fun pb s => .ite (.stop _ s) (.ite (.stop _ s) ?_)
  refine (Run.Keeps.ite (s.keeps_unitRead ..) (.refl _ s)).andThen fun mb s => .ite (.stop _ s) ?_
  refine (s.keeps_readHeader ..).andThen fun hd s => .ite (.stop _ s) (.ite (.stop _ s) ?_)
  refine (Run.Keeps.ite (s.keeps_unitRead ..) (.refl _ s)).andThen fun ms s => ?_
  refine (s.keeps_readEntries ..).andThen fun ents s => ?_
  refine (Run.Keeps.ite ((s.keeps_relocate ..).andThen fun _ s => s.keeps_unitWrite ..) (.refl _ s)).andThen fun _ s => ?_
  refine (Run.Keeps.ite (s.keeps_appendRows ..) (.refl _ s)).andThen fun fl s => ?_
  refine Run.Keeps.andThen (.foldList (fun acc row s => .onStop ?_ fun u => ?_) _ _ s) fun r s => .refl _ s
  · exact (s.keeps_attendRow ..).andThen fun r s => .refl _ s
  · exact (u.unitStep_partialWrites ..).mono id fun _ => .inl trivial

/-- What an array instruction computes at its start; only ATTEND writes memory. -/
theorem State.keeps_arrRun (o : AsyncOp) (h : iOp o.word ≠ 0x72) : Run.Keeps T W s (s.arrRun o) := by
  unfold State.arrRun
  split
  · exact s.keeps_startMatmul o false
  · exact s.keeps_startMatmul o true
  · next h' => exact absurd h' h
  · exact s.keeps_startAccop o

theorem State.keeps_arrRun_any (o : AsyncOp) : Run.Keeps True True s (s.arrRun o) := by
  by_cases h : iOp o.word = 0x72
  · have h' : s.arrRun o = s.startAttend o := by
      unfold State.arrRun
      rw [h]
      rfl
    rw [h']
    exact s.keeps_startAttend o
  · exact s.keeps_arrRun o h

end Sys2Proof.Machine
end

section
/-! SUPPORT. Outputs to clean bytes of the own scratchpad: they can be reached, and every one is written (01 R14; 05 R147;
08 R240; 11 R367). -/

namespace Sys2Proof.Machine

variable {s u : State} {c : Nat} {l : List OutW}

/-! ## What makes bytes clean -/

/-- Nothing that clean bytes depend on differs between two states. -/
structure State.AlikeOn (c : Nat) (s u : State) : Prop where
  lcores : u.lcores = s.lcores
  dieOf : u.dieOf c = s.dieOf c
  awake : u.awake c = s.awake c
  diked : (u.core c).diked = (s.core c).diked
  quiet : u.err.perturbGo = s.err.perturbGo
  marks : u.mem.wordErr = s.mem.wordErr
  lines : u.fab.lines = s.fab.lines

theorem OwnClean.alike {a n : Nat} (h : OwnClean s c a n) (hu : s.AlikeOn c u) : OwnClean u c a n :=
  ⟨h.window, hu.diked.trans h.live, hu.quiet.trans h.quiet, hu.marks.trans h.clean,
    by rw [State.lineAt, hu.lines]; exact h.free⟩

theorem OutsClean.alike (h : OutsClean s c l) (hu : s.AlikeOn c u) : OutsClean u c l :=
  fun w hw => ⟨(h w hw).1, (h w hw).2.alike hu⟩

/-! ## Reaching them -/

theorem OwnClean.place {a n i : Nat} (h : OwnClean s c a n) (hc : c < s.lcores) (ha : s.awake c = true) (hi : i < n) :
    ∃ off, s.place (a + i) = .ok (.spad c off) := by
  obtain ⟨off, rfl, ho⟩ := h.window
  refine ⟨off + i, ?_⟩
  rw [show spadAddr c off + i = spadAddr c (off + i) from Nat.add_assoc ..]
  exact State.place_spadAddr hc ha h.live (by omega)

/-- A unit of the core's die reaches them, and so does one of the hub while the bundle of that die is up. -/
theorem OwnClean.up {a n i : Nat} (h : OwnClean s c a n) (hc : c < s.lcores) (ha : s.awake c = true) (hi : i < n) :
    s.pathUp (s.dieOf c) (a + i) = true ∧ (s.pilUp (s.dieOf c) = true → s.hubPath (a + i) = true) := by
  obtain ⟨off, hp⟩ := h.place hc ha hi
  refine ⟨?_, fun hup => ?_⟩
  · rw [State.pathUp, hp]
    simp
  · rw [State.hubPath, hp]
    exact hup

theorem segsLine_clean {segs : List (Nat × Nat)} (hc : c < s.lcores) (ha : s.awake c = true)
    (h : ∀ e ∈ segs, 0 < e.2 ∧ OwnClean s c e.1 e.2) : s.segsLine segs = none := by
  rw [State.segsLine, List.findSome?_eq_none_iff]
  intro e he
  obtain ⟨hn, hclean⟩ := h e he
  rw [hclean.canon hc ha hn]
  exact hclean.free

/-- Pieces of clean bytes as a unit of the die, or one of the hub, sees them. -/
theorem reaches_clean {segs : List (Nat × Nat)} {d : Option Nat} (hc : c < s.lcores) (ha : s.awake c = true)
    (h : ∀ e ∈ segs, 0 < e.2 ∧ OwnClean s c e.1 e.2)
    (hd : d = some (s.dieOf c) ∨ d = none ∧ s.pilUp (s.dieOf c) = true) : s.reaches d segs := by
  refine ⟨?_, segsLine_clean hc ha h⟩
  rw [State.segsUp, List.all_eq_true]
  intro e he
  obtain ⟨hn, hclean⟩ := h e he
  have first := hclean.up hc ha (i := 0) hn
  have last := hclean.up hc ha (i := e.2 - 1) (by omega)
  rw [Nat.add_zero] at first
  rcases hd with rfl | ⟨rfl, hup⟩
  · simp [first.1, last.1]
  · simp [first.2 hup, last.2 hup]

theorem State.ifReach_of_reaches {segs : List (Nat × Nat)} {d : Option Nat} (h : s.reaches d segs) (f : State → State) :
    s.ifReach d segs f = f s := by
  obtain ⟨hup, hline⟩ := h
  rw [State.ifReach, hup, hline]
  rfl

theorem OutsClean.segs (h : OutsClean s c l) : ∀ e ∈ outSegs l, 0 < e.2 ∧ OwnClean s c e.1 e.2 := by
  intro e he
  obtain ⟨w, hw, rfl⟩ := List.mem_map.1 he
  exact ⟨List.length_pos_of_ne_nil (h w hw).1, (h w hw).2⟩

/-! ## Writing them -/

/-- The state with every output of a list written, in order. -/
def State.putOuts (s : State) (l : List OutW) : State := l.foldl (fun s w => s.setBytes w.addr w.data) s

theorem State.putOuts_eq (s : State) (l : List OutW) : s.putOuts l = { s with mem := s.written l } := by
  induction l generalizing s with
  | nil => rfl
  | cons w l ih => exact ih _

/-- What is written depends on memory alone. -/
theorem State.written_congr (h : u.mem = s.mem) (l : List OutW) : u.written l = s.written l := by
  induction l generalizing s u with
  | nil => exact h
  | cons w l ih =>
    refine ih (s := s.setBytes w.addr w.data) (u := u.setBytes w.addr w.data) ?_
    rw [State.setBytes, State.setBytes, h]

theorem State.wordErr_written (s : State) (l : List OutW) :
    (s.written l).wordErr = s.mem.wordErr ∧ (s.written l).host = s.mem.host := by
  induction l generalizing s with
  | nil => exact ⟨rfl, rfl⟩
  | cons w l ih => exact ih (s.setBytes w.addr w.data)

/-- Every output to clean bytes is written. -/
theorem State.writeOuts_clean (hc : c < s.lcores) (ha : s.awake c = true) (h : OutsClean s c l) (cls : Nat) :
    s.writeOuts l cls = (none, s.putOuts l) := by
  induction l generalizing s with
  | nil => rfl
  | cons w l ih =>
    obtain ⟨hne, hclean⟩ := h w (List.mem_cons_self ..)
    rw [State.writeOuts, hclean.writeMem hc ha hne]
    exact ih (s := s.setBytes w.addr w.data) hc ha fun x hx =>
      ⟨(h x (List.mem_cons_of_mem _ hx)).1, (h x (List.mem_cons_of_mem _ hx)).2.setBytes ..⟩

theorem State.unitWrites_clean (hc : c < s.lcores) (ha : s.awake c = true) (h : OutsClean s c l) (c' : Nat) :
    s.unitWrites c' l = (.ok (), s.putOuts l) := by
  rw [State.unitWrites, State.writeOuts_clean hc ha h]

/-! ## Reading and writing them by a pump -/

theorem OwnClean.regAt {a n : Nat} (h : OwnClean s c a n) (hc : c < s.lcores) (ha : s.awake c = true) (hn : 0 < n) :
    s.regAt a n = none := by
  obtain ⟨off, -, hp⟩ := h.placeOf hc ha hn
  rw [State.regAt, if_neg hn.ne', hp]

/-- A pump's pieces of LPDDR join; those of a scratchpad do not (08 R246, R255). -/
theorem State.joinOuts_clean (h : OutsClean s c l) : s.joinOuts l = l := by
  induction l with
  | nil => rfl
  | cons w l ih =>
    have hl : OutsClean s c l := fun x hx => h x (List.mem_cons_of_mem _ hx)
    rw [State.joinOuts, ih hl]
    cases l with
    | nil => rfl
    | cons x r =>
      obtain ⟨off, haddr, -⟩ := (hl x (List.mem_cons_self ..)).2.window
      have htop := s.lpdTop_le
      have hbeyond : ¬ (w.addr + w.data.length = x.addr ∧ x.addr + x.data.length ≤ s.lpdTop) := by
        rw [haddr, spadAddr, windowBase]
        omega
      exact if_neg hbeyond

theorem State.pumpWrites_clean (hc : c < s.lcores) (ha : s.awake c = true) (h : OutsClean s c l) (muted : Bool)
    (cls : Nat) : State.pumpWrites State.writeAny muted cls s l = (none, s.putOuts l) := by
  induction l generalizing s with
  | nil => rfl
  | cons w l ih =>
    obtain ⟨hne, hclean⟩ := h w (List.mem_cons_self ..)
    rw [State.pumpWrites, State.writeAny, hclean.regAt hc ha (List.length_pos_of_ne_nil hne)]
    dsimp only
    rw [hclean.writeMem hc ha hne]
    exact ih (s := s.setBytes w.addr w.data) hc ha fun x hx =>
      ⟨(h x (List.mem_cons_of_mem _ hx)).1, (h x (List.mem_cons_of_mem _ hx)).2.setBytes ..⟩

/-- Pieces of clean bytes are read as they are. -/
theorem State.readSegs_clean {segs : List (Nat × Nat)} (hc : c < s.lcores) (ha : s.awake c = true)
    (h : ∀ e ∈ segs, 0 < e.2 ∧ OwnClean s c e.1 e.2) (cls : Nat) :
    State.readSegs State.readAny cls s segs = (segs.map fun e => s.bytes e.1 e.2, none, s) := by
  induction segs with
  | nil => rfl
  | cons e segs ih =>
    obtain ⟨hn, hclean⟩ := h e (List.mem_cons_self ..)
    rw [State.readSegs, State.readAny, hclean.regAt hc ha hn]
    dsimp only
    rw [hclean.readMem hc ha hn]
    dsimp only
    rw [ih fun x hx => h x (List.mem_cons_of_mem _ hx)]
    rfl

end Sys2Proof.Machine
end

section
/-! SUPPORT. An operation completes: what its thread, its semaphore and the list of operations are then (04 R128 to R130).
-/

namespace Sys2Proof.Machine

/-! ## The record and the flags of a thread -/

/-- CTX_FAULT and CTX_FPSTAT. -/
def Thread.status (th : Thread) : FaultRec × BitVec 4 := (th.fault, th.fpstat)

/-- Two defaults that `g` does not tell apart give what it does not tell apart. -/
theorem Tab.apply_get_congr {α β : Type} {g : α → β} {d d' : α} (hd : g d = g d') (m : Tab α) (k : Nat) :
    g (Tab.get d m k) = g (Tab.get d' m k) := by
  induction m with
  | nil => exact hd
  | cons e m ih =>
    rw [Tab.get, Tab.get]
    split
    · rfl
    · exact ih

theorem Thread.status_init (compat : Bool) (t t' : Nat) :
    (Thread.init compat t).status = (Thread.init compat t').status := rfl

variable {s v : State}

/-- A thread that takes a value of the same status leaves the status of every thread number. -/
theorem State.status_setThread {c t : Nat} {x : Thread} (h : x.status = (s.thread c t).status) (c' t' : Nat) :
    ((s.setThread c t x).thread c' t').status = (s.thread c' t').status := by
  by_cases hk : c' * 32 + t' = c * 32 + t
  · have hget (u : State) : (u.thread c' t').status = (Tab.get (Thread.init u.compat t) u.threads (c * 32 + t)).status := by
      rw [State.thread, hk]
      exact Tab.apply_get_congr (Thread.status_init ..) _ _
    rw [hget, hget s]
    exact (congrArg Thread.status (s.thread_setThread c t x)).trans h
  · rw [State.thread_setThread_ne _ _ _ _ hk]

theorem Thread.status_settle (th : Thread) : th.settle.status = th.status := by
  obtain ⟨st, f, w, h⟩ := th.settle_cases
  rw [h]; rfl

theorem Thread.status_wake (th : Thread) : th.wake.status = th.status := by
  rw [Thread.wake]
  split
  · exact Thread.status_settle _
  · rfl

theorem State.status_wakeAll (s : State) (c : Nat) (ts : List Nat) (c' t' : Nat) :
    ((s.wakeAll c ts).thread c' t').status = (s.thread c' t').status := by
  induction ts generalizing s with
  | nil => rfl
  | cons a ts ih => exact (ih _).trans (State.status_setThread (Thread.status_wake _) ..)

theorem State.status_releaseMem (s : State) (c c' t' : Nat) :
    ((s.releaseMem c).thread c' t').status = (s.thread c' t').status := by
  unfold State.releaseMem
  dsimp only
  generalize s.slotsUsed c = used
  generalize List.range 32 = l
  induction l generalizing s with
  | nil => rfl
  | cons a l ih =>
    rw [List.foldl_cons]
    split
    · exact (ih _).trans (State.status_setThread (x := { s.thread c a with state := .ready, memNeed := 0 }) rfl ..)
    · exact ih s

theorem State.status_semAdd (s : State) (c sem n c' t' : Nat) :
    ((s.semAdd c sem n).thread c' t').status = (s.thread c' t').status := by
  unfold State.semAdd
  dsimp only
  split
  · rfl
  split
  · exact State.status_wakeAll ..
  · exact State.status_wakeAll ..

theorem State.status_opComplete (s : State) (o : AsyncOp) (c' t' : Nat) :
    ((s.opComplete o).thread c' t').status = (s.thread c' t').status := by
  unfold State.opComplete
  dsimp only
  split
  · rfl
  split
  · exact State.status_semAdd ..
  · rfl

theorem State.status_opFlags (s : State) {o : AsyncOp} (hm : o.mute = false) (f : BitVec 4) :
    ((s.opFlags o f).thread o.core o.thread).status =
      ((s.thread o.core o.thread).fault, (s.thread o.core o.thread).fpstat ||| f) := by
  rw [State.opFlags, hm]
  exact congrArg Thread.status (State.thread_setThread ..)

/-! ## Completion -/

/-- What a completion looks at in the core of its operation is as before. -/
structure Core.SameSems (k k' : Core) : Prop where
  sems : k'.sems = k.sems
  waiters : k'.waiters = k.waiters
  diked : k'.diked = k.diked

theorem Core.SameSems.refl (k : Core) : k.SameSems k := ⟨rfl, rfl, rfl⟩

theorem State.UnitStep.sameSems {T W : Prop} {u : State} (h : s.UnitStep T W u) (c : Nat) :
    (s.core c).SameSems (u.core c) := by
  obtain ⟨_, _, _, _, hc⟩ := h.core c
  rw [hc]
  exact ⟨rfl, rfl, rfl⟩

/-- An operation that completes has left, has signalled, and its thread has what was recorded before. -/
theorem State.completed_opComplete {o : AsyncOp} {fl : BitVec 4} (hm : o.mute = false)
    (hk : (s.core o.core).SameSems (v.core o.core)) (hth : (v.thread o.core o.thread).status =
      ((s.thread o.core o.thread).fault, (s.thread o.core o.thread).fpstat ||| fl)) :
    Completed o fl s (v.opComplete o) := by
  have hstatus := (v.status_opComplete o o.core o.thread).trans hth
  refine ⟨?_, congrArg Prod.fst hstatus, congrArg Prod.snd hstatus, fun sem hsem hd hw => ?_⟩
  · obtain ⟨ts, k, h⟩ := v.opComplete_cases o
    rw [h]
    exact v.op?_dropOp o.id
  · have hcore : (v.dropOp o.id).core o.core = v.core o.core := rfl
    rw [State.opComplete, hm, hsem]
    dsimp only
    rw [if_neg Bool.false_ne_true, State.semAdd_of_not_waited (by rw [hcore, hk.diked]; exact hd)
      (by rw [hcore, hk.waiters]; exact hw) Nat.one_ne_zero, State.core_setCore, hcore, hk.sems]
    exact Tab.get_set_self ..

@[simp] theorem State.mem_opComplete (s : State) (o : AsyncOp) : (s.opComplete o).mem = s.mem := by
  obtain ⟨ts, k, h⟩ := s.opComplete_cases o
  rw [h]; rfl

@[simp] theorem State.arr_opComplete (s : State) (o : AsyncOp) (c a : Nat) : (s.opComplete o).arr c a = s.arr c a := by
  obtain ⟨ts, k, h⟩ := s.opComplete_cases o
  rw [h]; rfl

@[simp] theorem State.pumps_opComplete (s : State) (o : AsyncOp) : (s.opComplete o).pumps = s.pumps := by
  obtain ⟨ts, k, h⟩ := s.opComplete_cases o
  rw [h]; rfl

@[simp] theorem State.mem_opFlags (s : State) (o : AsyncOp) (f : BitVec 4) : (s.opFlags o f).mem = s.mem := by
  obtain ⟨ts, h⟩ := s.opFlags_cases o f
  rw [h]

@[simp] theorem State.arr_opFlags (s : State) (o : AsyncOp) (f : BitVec 4) (c a : Nat) :
    (s.opFlags o f).arr c a = s.arr c a := by
  obtain ⟨ts, h⟩ := s.opFlags_cases o f
  rw [h]; rfl

@[simp] theorem State.core_opFlags (s : State) (o : AsyncOp) (f : BitVec 4) (c : Nat) :
    (s.opFlags o f).core c = s.core c := by
  obtain ⟨ts, h⟩ := s.opFlags_cases o f
  rw [h]; rfl

/-! ## What signals and error statuses leave of a core -/

/-- Only semaphores, their overflow bits and their waiters differ. -/
def Core.Signalled (k k' : Core) : Prop :=
  ∃ sems ovf ws, k' = { k with sems := sems, semOvf := ovf, waiters := ws }

theorem Core.Signalled.refl (k : Core) : k.Signalled k := ⟨_, _, _, rfl⟩

theorem Core.Signalled.trans {k x y : Core} (h : k.Signalled x) (h' : x.Signalled y) : k.Signalled y := by
  obtain ⟨_, _, _, rfl⟩ := h
  obtain ⟨sems, ovf, ws, rfl⟩ := h'
  exact ⟨sems, ovf, ws, rfl⟩

theorem State.signalled_setCore {c : Nat} {x : Core} (h : (s.core c).Signalled x) (c' : Nat) :
    (s.core c').Signalled ((s.setCore c x).core c') := by
  by_cases hc : c' = c
  · rw [hc, State.core_setCore]
    exact h
  · rw [State.core_setCore_ne _ _ _ hc]
    exact .refl _

theorem State.signalled_semPut (s : State) (c sem v c' : Nat) : (s.core c').Signalled ((s.semPut c sem v).core c') := by
  rw [State.semPut, State.core_wakeAll]
  exact State.signalled_setCore ⟨_, _, _, rfl⟩ c'

theorem State.signalled_semAdd (s : State) (c sem n c' : Nat) : (s.core c').Signalled ((s.semAdd c sem n).core c') := by
  unfold State.semAdd
  dsimp only
  split
  · exact .refl _
  split
  · exact (State.signalled_setCore (s := s) ⟨_, _, _, rfl⟩ c').trans (State.signalled_semPut ..)
  · exact s.signalled_semPut ..

theorem State.signalled_leaveWait (s : State) (c t c' : Nat) : (s.core c').Signalled ((s.leaveWait c t).core c') := by
  have dropped : (s.core c').Signalled ((s.setCore c ((s.core c).dropWaiter t)).core c') :=
    State.signalled_setCore ⟨_, _, _, rfl⟩ c'
  unfold State.leaveWait
  dsimp only
  split
  · exact dropped.trans (State.signalled_semPut ..)
  · exact dropped

theorem State.signalled_threadError (s : State) (c t : Nat) (cause unit dest pc) (c' : Nat) :
    (s.core c').Signalled ((s.threadError c t cause unit dest pc).core c') := by
  unfold State.threadError
  dsimp only
  split
  · exact .refl _
  split
  · exact (s.setThread c t _).signalled_leaveWait c t c'
  · exact State.signalled_setCore (s := s.setThread c t _) ⟨_, _, _, rfl⟩ c'

theorem State.signalled_opComplete (s : State) (o : AsyncOp) (c : Nat) :
    (s.core c).Signalled ((s.opComplete o).core c) := by
  unfold State.opComplete
  dsimp only
  split
  · exact .refl _
  split
  · exact (s.dropOp o.id).signalled_semAdd ..
  · exact .refl _

theorem State.signalled_opFail (s : State) (o : AsyncOp) (cause dest) (c : Nat) :
    (s.core c).Signalled ((s.opFail o cause dest).core c) := by
  unfold State.opFail
  dsimp only
  split
  · exact .refl _
  · exact (s.dropOp o.id).signalled_threadError ..

theorem State.sfuRun_opComplete (s : State) (o : AsyncOp) (c : Nat) :
    ((s.opComplete o).core c).sfuRun = (s.core c).sfuRun := by
  obtain ⟨_, _, _, h⟩ := s.signalled_opComplete o c
  rw [h]

/-! ## The end of an array instruction -/

variable {c a : Nat}

/-- The checks of a run that pass with nothing perturbed (R152). -/
theorem State.compareChecks_pass (hq : s.err.perturbGo = false) {ks : List Check} {bad : Option Nat} {i : Nat}
    (h : ∀ j k, ks[j]? = some k → k.differs = false ∧ (bad = some (i + j) → k.live = false)) :
    State.compareChecks s c a i bad ks = (none, s) := by
  induction ks generalizing i with
  | nil => rfl
  | cons k ks ih =>
    obtain ⟨hdiff, hlive⟩ := h 0 k rfl
    have hlive' : (k.live && bad == some i) = false := by
      by_cases hb : bad = some i
      · rw [hlive hb]; rfl
      · simp [hb]
    rw [State.compareChecks, s.perturb_off hq, hdiff, hlive']
    exact ih fun j x hj => by
      rw [Nat.add_right_comm, Nat.add_assoc]
      exact h (j + 1) x hj

theorem State.setArr_setArr (s : State) (c a : Nat) (x y : Arr) : (s.setArr c a x).setArr c a y = s.setArr c a y := by
  simp [State.setArr]

/-- The oldest instruction has left its array: the array otherwise changes for its self-test alone, and threads may leave
WAIT_MEM. -/
theorem State.arrLeave_cases (s : State) (c a : Nat) : ∃ ts w b, s.arrLeave c a = { s.setArr c a
    { s.arr c a with run := (s.arr c a).run.drop 1, stestWait := w, stestBusy := b } with threads := ts } := by
  rw [State.arrLeave, State.stestBegin, State.modArr_eq]
  dsimp only
  split
  · obtain ⟨⟨ts, h⟩, -⟩ := State.releaseMem_cases ((s.setArr c a
      { s.arr c a with run := (s.arr c a).run.drop 1 }).setArr c a
        { (s.setArr c a { s.arr c a with run := (s.arr c a).run.drop 1 }).arr c a with
          stestWait := false, stestBusy := true }) c 0
    rw [h, State.arr_setArr]
    refine ⟨ts, false, true, ?_⟩
    rw [State.setArr_setArr]
  · obtain ⟨⟨ts, h⟩, -⟩ := State.releaseMem_cases (s.setArr c a { s.arr c a with run := (s.arr c a).run.drop 1 }) c 0
    exact ⟨ts, _, _, h⟩

theorem State.status_arrLeave (s : State) (c a c' t' : Nat) :
    ((s.arrLeave c a).thread c' t').status = (s.thread c' t').status := by
  rw [State.arrLeave, State.status_releaseMem, State.stestBegin]
  split <;> rfl

end Sys2Proof.Machine
end

section
/-! SUPPORT. The statement about completions. -/

namespace Sys2Proof.Machine

variable {s : State} {c a : Nat} {o : AsyncOp}

theorem State.arr_putOuts (s : State) (l : List OutW) (c a : Nat) : (s.putOuts l).arr c a = s.arr c a := by
  rw [State.putOuts_eq]; rfl

theorem State.core_putOuts (s : State) (l : List OutW) (c : Nat) : (s.putOuts l).core c = s.core c := by
  rw [State.putOuts_eq]; rfl

theorem State.thread_putOuts (s : State) (l : List OutW) (c t : Nat) : (s.putOuts l).thread c t = s.thread c t := by
  rw [State.putOuts_eq]; rfl

theorem State.AlikeOn.trans {u v : State} (h : s.AlikeOn c u) (h' : u.AlikeOn c v) : s.AlikeOn c v :=
  ⟨h'.lcores.trans h.lcores, h'.dieOf.trans h.dieOf, h'.awake.trans h.awake, h'.diked.trans h.diked,
    h'.quiet.trans h.quiet, h'.marks.trans h.marks, h'.lines.trans h.lines⟩

/-! ## An array -/

theorem State.mem_arrLeave (s : State) (c a : Nat) : (s.arrLeave c a).mem = s.mem := by
  obtain ⟨ts, w, b, h⟩ := s.arrLeave_cases c a
  rw [h]; rfl

theorem State.arr_arrLeave (s : State) (c a : Nat) : ∃ w b, (s.arrLeave c a).arr c a =
    { s.arr c a with run := (s.arr c a).run.drop 1, stestWait := w, stestBusy := b } := by
  obtain ⟨ts, w, b, h⟩ := s.arrLeave_cases c a
  rw [h]
  exact ⟨w, b, State.arr_setArr ..⟩

theorem State.alikeOn_arrLeave (s : State) (c a c' : Nat) : s.AlikeOn c' (s.arrLeave c a) := by
  obtain ⟨ts, w, b, h⟩ := s.arrLeave_cases c a
  rw [h]
  exact ⟨rfl, rfl, rfl, rfl, rfl, rfl, rfl⟩

theorem State.core_arrLeave (s : State) (c a c' : Nat) : (s.arrLeave c a).core c' = s.core c' := by
  obtain ⟨ts, w, b, h⟩ := s.arrLeave_cases c a
  rw [h]; rfl

theorem State.op?_arrLeave (s : State) (c a id : Nat) : (s.arrLeave c a).op? id = s.op? id := by
  obtain ⟨ts, w, b, h⟩ := s.arrLeave_cases c a
  rw [h]; rfl

/-- Only a counted instruction adds to MA_OPS. -/
theorem Arr.ops_count (x : Arr) (armed : Bool) : (x.count armed).ops = x.ops + 1 := by
  unfold Arr.count
  dsimp only
  split <;> rfl

/-- The state of an array that has counted an instruction, or has not. -/
def State.counted (s : State) (c a : Nat) (n : Bool) : State :=
  if n then s.modArr c a fun x => x.count x.armed else s

/-- Counting changes the array only. -/
theorem State.counted_rest (s : State) (c a : Nat) (n : Bool) : (s.counted c a n).mem = s.mem ∧
    (∀ c', (s.counted c a n).core c' = s.core c') ∧ (∀ c' t', (s.counted c a n).thread c' t' = s.thread c' t') ∧
    ∀ c', s.AlikeOn c' (s.counted c a n) := by
  cases n
  · exact ⟨rfl, fun _ => rfl, fun _ _ => rfl, fun _ => ⟨rfl, rfl, rfl, rfl, rfl, rfl, rfl⟩⟩
  · exact ⟨rfl, fun _ => rfl, fun _ _ => rfl, fun _ => ⟨rfl, rfl, rfl, rfl, rfl, rfl, rfl⟩⟩

theorem State.arr_counted (s : State) (c a : Nat) (n : Bool) : ((s.counted c a n).arr c a).run = (s.arr c a).run ∧
    ((s.counted c a n).arr c a).ops = (s.arr c a).ops + if n then 1 else 0 := by
  cases n
  · exact ⟨rfl, (BitVec.add_zero _).symm⟩
  · have h : (s.counted c a true).arr c a = (s.arr c a).count (s.arr c a).armed := State.arr_setArr ..
    rw [h]
    exact ⟨Arr.run_count .., Arr.ops_count ..⟩

theorem State.arrEnd_of_left {r : ArrRun} {bad : Option Nat} {n : Nat} {v x : State} (hv : s.arrLeave c a = v)
    (hop : v.op? r.op = some o) (hchecks : State.compareChecks v c a 0 bad r.checks = (none, v))
    (hwrites : (v.counted c a r.counted).unitWrites c r.writes = (.ok (), x)) :
    s.arrEnd c a r bad n = (x.opFlags o r.flags).opComplete o := by
  unfold State.counted at hwrites
  unfold State.arrEnd
  dsimp only
  rw [hv, hop]
  dsimp only
  rw [hchecks]
  dsimp only
  rw [hwrites]

/-- The end of a run whose checks pass and whose outputs go to clean bytes. -/
theorem State.arrEnd_clean {r : ArrRun} {bad : Option Nat} {n : Nat} (hc : c < s.lcores) (ha : s.awake c = true)
    (hop : s.op? r.op = some o) (hq : s.err.perturbGo = false) (hout : OutsClean s c r.writes)
    (hpass : ∀ (i : Nat) (k : Check), r.checks[i]? = some k → k.differs = false ∧ (bad = some i → k.live = false)) :
    s.arrEnd c a r bad n =
      (State.opFlags (((s.arrLeave c a).counted c a r.counted).putOuts r.writes) o r.flags).opComplete o := by
  have left := s.alikeOn_arrLeave c a c
  obtain ⟨-, -, -, hcount⟩ := (s.arrLeave c a).counted_rest c a r.counted
  have halike := left.trans (hcount c)
  have hchecks : State.compareChecks (s.arrLeave c a) c a 0 bad r.checks = (none, s.arrLeave c a) :=
    State.compareChecks_pass (left.quiet.trans hq) (by simpa only [Nat.zero_add] using hpass)
  have hlcores : c < ((s.arrLeave c a).counted c a r.counted).lcores := by rw [halike.lcores]; exact hc
  have hwrites := State.unitWrites_clean hlcores (halike.awake.trans ha) (hout.alike halike) c
  exact State.arrEnd_of_left rfl ((s.op?_arrLeave c a r.op).trans hop) hchecks hwrites

/-- What it leaves: the run gone, MA_OPS counted, its outputs in memory, the operation complete. -/
theorem State.arrEnd_spec {r : ArrRun} (s : State) (c a : Nat) (hm : o.mute = false) :
    let u := (State.opFlags (((s.arrLeave c a).counted c a r.counted).putOuts r.writes) o r.flags).opComplete o
    (u.arr c a).run = (s.arr c a).run.drop 1 ∧ (u.arr c a).ops = (s.arr c a).ops + (if r.counted then 1 else 0) ∧
      u.mem = s.written r.writes ∧ Completed o r.flags s u := by
  obtain ⟨w, b, harr⟩ := s.arr_arrLeave c a
  obtain ⟨hrun, hops⟩ := (s.arrLeave c a).arr_counted c a r.counted
  obtain ⟨hmem, hcore, hthread, -⟩ := (s.arrLeave c a).counted_rest c a r.counted
  rw [harr] at hrun hops
  refine ⟨?_, ?_, ?_, State.completed_opComplete hm ?_ ?_⟩
  · rw [State.arr_opComplete, State.arr_opFlags, State.arr_putOuts, hrun]
  · rw [State.arr_opComplete, State.arr_opFlags, State.arr_putOuts, hops]
  · rw [State.mem_opComplete, State.mem_opFlags, State.putOuts_eq]
    exact State.written_congr (hmem.trans (s.mem_arrLeave c a)) _
  · rw [State.core_opFlags, State.core_putOuts, hcore, s.core_arrLeave]
    exact .refl _
  · rw [State.status_opFlags _ hm, State.thread_putOuts, hthread]
    obtain ⟨hfault, hflags⟩ := Prod.mk.inj (s.status_arrLeave c a o.core o.thread)
    rw [hfault, hflags]

/-! ## The SFU -/

/-- The end of an instruction of the SFU whose outputs go to clean bytes. -/
theorem State.sfuEnd_clean {r : SfuRun} (hc : c < s.lcores) (ha : s.awake c = true) (hop : s.op? r.op = some o)
    (hout : OutsClean s c r.writes) : s.sfuEnd c r = (State.opFlags (State.putOuts
      (s.modCore c fun k => { k with sfuRun := none }) r.writes) o r.flags).opComplete o := by
  have halike : s.AlikeOn c (s.modCore c fun k => { k with sfuRun := none }) :=
    ⟨rfl, rfl, rfl, by rw [State.modCore_eq, State.core_setCore], rfl, rfl, rfl⟩
  have hop' : (s.modCore c fun k => { k with sfuRun := none }).op? r.op = some o := hop
  rw [State.sfuEnd, hop']
  dsimp only
  rw [State.unitWrites_clean (s := s.modCore c fun k => { k with sfuRun := none }) hc ha (hout.alike halike)]

/-- A core whose SFU is free again has the semaphores it had. -/
theorem State.sameSems_modCore {f : Core → Core} (hf : ∀ k : Core, k.SameSems (f k)) (s : State) (c c' : Nat) :
    (s.core c').SameSems ((s.modCore c f).core c') := by
  by_cases h : c' = c
  · rw [h, State.modCore_eq, State.core_setCore]
    exact hf _
  · rw [State.modCore_eq, State.core_setCore_ne _ _ _ h]
    exact .refl _

theorem State.sfuEnd_spec {r : SfuRun} (s : State) (c : Nat) (hm : o.mute = false) :
    let u := (State.opFlags (State.putOuts (s.modCore c fun k => { k with sfuRun := none }) r.writes) o
      r.flags).opComplete o
    (u.core c).sfuRun = none ∧ u.mem = s.written r.writes ∧ Completed o r.flags s u := by
  refine ⟨?_, ?_, State.completed_opComplete hm ?_ ?_⟩
  · rw [State.sfuRun_opComplete, State.core_opFlags, State.core_putOuts]
    exact congrArg Core.sfuRun (s.core_setCore c { s.core c with sfuRun := none })
  · rw [State.mem_opComplete, State.mem_opFlags, State.putOuts_eq]
    exact State.written_congr (s := s) (u := s.modCore c fun k => { k with sfuRun := none }) rfl _
  · rw [State.core_opFlags, State.core_putOuts]
    exact State.sameSems_modCore (f := fun k => { k with sfuRun := none }) (fun _ => ⟨rfl, rfl, rfl⟩) ..
  · rw [State.status_opFlags _ hm, State.thread_putOuts]
    rfl

/-! ## A pump -/

/-- Bytes of host memory written in turn. -/
def State.putHost (s : State) (l : List OutW) : State := l.foldl (fun s w => s.setHostBytes w.addr w.data) s

theorem State.putHost_fold (s : State) (l : List OutW) :
    l.foldl (fun s w => s.setHostBytes w.addr w.data) s = s.putHost l := rfl

theorem State.putHost_eq (s : State) (l : List OutW) :
    s.putHost l = { s with mem := { s.mem with host := (s.putHost l).mem.host } } := by
  induction l generalizing s with
  | nil => rfl
  | cons w l ih => exact (ih (s.setHostBytes w.addr w.data)).trans rfl

/-- What is written to host memory depends on host memory alone. -/
theorem State.putHost_congr {u : State} (h : u.mem.host = s.mem.host) (l : List OutW) :
    (u.putHost l).mem.host = (s.putHost l).mem.host := by
  induction l generalizing s u with
  | nil => exact h
  | cons w l ih =>
    refine ih (s := s.setHostBytes w.addr w.data) (u := u.setHostBytes w.addr w.data) ?_
    simp only [State.setHostBytes, h]

theorem State.cells_written_congr {u : State} (h : u.mem.cells = s.mem.cells) (l : List OutW) :
    (u.written l).cells = (s.written l).cells := by
  induction l generalizing s u with
  | nil => exact h
  | cons w l ih =>
    refine ih (s := s.setBytes w.addr w.data) (u := u.setBytes w.addr w.data) ?_
    simp only [State.setBytes, h]

/-- The end of a transfer without an error, its outputs to clean bytes. -/
theorem State.endRun_clean {r : PumpRun} (hc : c < s.lcores) (ha : s.awake c = true) (hop : r.op = some o.id)
    (ho : s.op? o.id = some o) (hcmd : r.cmd = none) (herr : r.err = none) (hout : OutsClean s c r.writes) :
    s.endRun State.writeAny r = (((s.leavePump r).putHost r.hostWrites).putOuts r.writes).opComplete o := by
  have hput := (s.leavePump r).putHost_eq r.hostWrites
  have halike : s.AlikeOn c ((s.leavePump r).putHost r.hostWrites) := by
    rw [hput]
    exact ⟨rfl, rfl, rfl, rfl, rfl, rfl, rfl⟩
  have hout' := hout.alike halike
  have ho' : (s.leavePump r).op? o.id = some o := ho
  have hwrites : (if r.host = true then r.writes else State.joinOuts ((s.leavePump r).putHost r.hostWrites) r.writes) =
      r.writes := by
    rw [State.joinOuts_clean hout', ite_self]
  rw [State.endRun]
  simp only [← State.leavePump_eq, hop, Option.bind_some, ho', State.putHost_fold, hwrites,
    State.pumpWrites_clean (halike.lcores.symm ▸ hc) (halike.awake.trans ha) hout', State.failAt, hcmd, herr]

theorem State.endRun_spec {r : PumpRun} (s : State) (hm : o.mute = false) :
    let u := (((s.leavePump r).putHost r.hostWrites).putOuts r.writes).opComplete o
    r ∉ u.pumps ∧ u.mem.cells = (s.written r.writes).cells ∧
      u.mem.host = (s.putHost r.hostWrites).mem.host ∧ Completed o 0 s u := by
  have hput := (s.leavePump r).putHost_eq r.hostWrites
  refine ⟨?_, ?_, ?_, State.completed_opComplete hm ?_ ?_⟩
  · rw [State.pumps_opComplete, State.putOuts_eq, hput]
    exact s.not_mem_pumps_leavePump r
  · rw [State.mem_opComplete, State.putOuts_eq]
    refine State.cells_written_congr ?_ _
    rw [hput]
    rfl
  · rw [State.mem_opComplete, State.putOuts_eq, (State.wordErr_written ..).2]
    exact State.putHost_congr (s := s) (u := s.leavePump r) rfl _
  · rw [State.putOuts_eq, hput]
    exact Core.SameSems.refl _
  · rw [State.putOuts_eq, hput]
    exact Prod.ext rfl (BitVec.or_zero).symm

/-! ## The statement -/

/-- Settles O35: the ends of an array's oldest run, of the SFU's instruction and of a transfer, outputs to clean bytes. -/
theorem unitCompletions : Obligations.UnitCompletions := by
  unfold Obligations.UnitCompletions
  refine ⟨fun c a id r rs bad n o s hc ha hawake hrun hid hop hm hq hout hpass => ?_,
    fun c r o s hc hawake hrun hop hm hout => ?_,
    fun host p c id o r s hp hc hawake hfind hwait hid hcmd herr hop hm hout hside => ?_⟩
  · have hreach := State.ifReach_of_reaches (reaches_clean (d := some (s.dieOf c)) hc hawake hout.segs (.inl rfl))
      fun s => s.arrEnd c a r bad n
    obtain ⟨hruns, hops, hmem, hdone⟩ := s.arrEnd_spec (r := r) c a hm
    rw [hrun] at hruns
    refine ⟨_, ?_, hruns, hops, hmem, hdone⟩
    rw [← State.arrEnd_clean hc hawake (hid.symm ▸ hop) hq hout hpass, ← hreach]
    exact (if_pos ⟨hc, ha⟩).trans (by rw [hrun, hawake])
  · have hreach := State.ifReach_of_reaches (reaches_clean (d := some (s.dieOf c)) hc hawake hout.segs (.inl rfl))
      fun s => s.sfuEnd c r
    obtain ⟨hfree, hmem, hdone⟩ := s.sfuEnd_spec (r := r) c hm
    refine ⟨_, ?_, hfree, hmem, hdone⟩
    rw [← State.sfuEnd_clean hc hawake hop hout, ← hreach]
    exact (if_pos hc).trans (by rw [hrun, hawake])
  · have hidle : o.id = id := State.id_of_op? hop
    have hhost : r.host = host := by
      have := List.find?_some hfind
      rw [Bool.and_eq_true, beq_iff_eq] at this
      exact this.1
    have hreach := State.ifReach_of_reaches (d := r.side) (reaches_clean hc hawake hout.segs (by
      rw [PumpRun.side, hhost]
      cases host
      · exact .inl (congrArg some hside)
      · exact .inr ⟨rfl, hside⟩)) fun s => s.endRun State.writeAny r
    obtain ⟨hleft, hcells, hhosts, hdone⟩ := s.endRun_spec (r := r) hm
    refine ⟨_, ?_, hleft, hcells, hhosts, hdone⟩
    rw [← State.endRun_clean hc hawake (hidle ▸ hid) (hidle ▸ hop) hcmd herr hout, ← hreach]
    refine (if_pos hp).trans ?_
    rw [hfind]
    dsimp only
    rw [hwait]
    rfl

end Sys2Proof.Machine
end

section
/-! SUPPORT. An array and the SFU begin the operation at the head of their queue (05 R145; 07 R200, R204). -/

namespace Sys2Proof.Machine

variable {s : State} {c a : Nat} {o : AsyncOp}

/-! ## An array -/

/-- The state in which an array computes what it begins. -/
def State.arrPrep (s : State) (c a : Nat) (o : AsyncOp) : State :=
  let s := s.modArr c a fun x => { x with queue := x.queue.drop 1 }
  let s := (s.perturb 0 1 (arrPlace c a)).2
  if iOp o.word = 0x72 ∧ (s.core c).sfuRun.isSome = true then s.freeGrants c else s

theorem State.arrPrep_cases (s : State) (c a : Nat) (o : AsyncOp) : ∃ e k f, s.arrPrep c a o =
    { s.setArr c a { s.arr c a with queue := (s.arr c a).queue.drop 1 } with err := e, cores := k, freeCtr := f } := by
  obtain ⟨e, h⟩ := (s.modArr c a fun x => { x with queue := x.queue.drop 1 }).perturb_cases 0 1 (arrPlace c a)
  unfold State.arrPrep
  dsimp only
  rw [h]
  split <;> exact ⟨_, _, _, rfl⟩

theorem State.arr_arrPrep (s : State) (c a : Nat) (o : AsyncOp) :
    (s.arrPrep c a o).arr c a = { s.arr c a with queue := (s.arr c a).queue.drop 1 } := by
  obtain ⟨e, k, f, h⟩ := s.arrPrep_cases c a o
  rw [h]
  exact State.arr_setArr ..

/-- With no perturbation and an idle SFU only the queue differs. -/
theorem State.arrPrep_quiet (hq : s.err.perturbGo = false) (hr : (s.core c).sfuRun = none) :
    s.arrPrep c a o = s.setArr c a { s.arr c a with queue := (s.arr c a).queue.drop 1 } := by
  have hq' : (s.modArr c a fun x => { x with queue := x.queue.drop 1 }).err.perturbGo = false := hq
  have hr' : ((s.modArr c a fun x => { x with queue := x.queue.drop 1 }).core c).sfuRun = none := hr
  unfold State.arrPrep
  dsimp only
  rw [State.perturb_off _ hq']
  exact if_neg fun h => absurd h.2 (by rw [hr']; exact Bool.false_ne_true)

/-- An array has begun `o`, computed as `r` in state `y`: the run waits in it, its bank has its contents. -/
structure State.ArrBegun (y : State) (c a : Nat) (o : AsyncOp) (r : ArrOut) (u : State) (x : ArrRun) : Prop where
  rest : ∃ bs f as, u = { y with banks := bs, freeCtr := f, arrs := as }
  queue : (u.arr c a).queue = (y.arr c a).queue
  run : (u.arr c a).run = (y.arr c a).run ++ [x]
  op : x.op = o.id
  writes : x.writes = r.writes
  flags : x.flags = r.flags
  checks : x.checks = r.checks
  bank : ∀ b v, r.bank = some (b, v) → u.bank c a b = v

theorem State.takeSlots_cases (s : State) (o : AsyncOp) : ∃ f, (s.takeSlots o).2 = { s with freeCtr := f } := by
  unfold State.takeSlots
  split
  · exact ⟨_, rfl⟩
  · exact ⟨s.freeCtr, rfl⟩

theorem Arr.queue_count (x : Arr) (armed : Bool) : (x.count armed).queue = x.queue := by
  unfold Arr.count
  dsimp only
  split <;> rfl

/-- The banks once the computed one, where there is one, has its contents. -/
def State.withBank (y : State) (c a : Nat) : Option (Nat × Bank) → Tab Bank
  | some (b, v) => (y.setBank c a b v).banks
  | none => y.banks

/-- A run that joins an array whose bank has the computed contents. -/
theorem State.ArrBegun.of_modArr {r : ArrOut} {x : ArrRun} {f : Arr → Arr} {y v : State} {bs : Tab Bank}
    (hv : v = { y with banks := bs }) (hbank : ∀ b z, r.bank = some (b, z) → v.bank c a b = z)
    (hf : ∀ q, (f q).queue = q.queue ∧ (f q).run = q.run ++ [x])
    (hx : x.op = o.id ∧ x.writes = r.writes ∧ x.flags = r.flags ∧ x.checks = r.checks) :
    State.ArrBegun y c a o r ((v.takeSlots o).2.modArr c a f) x := by
  obtain ⟨hop, hwrites, hflags, hchecks⟩ := hx
  obtain ⟨n, hslots⟩ := v.takeSlots_cases o
  rw [hslots, State.modArr_eq, hv]
  rw [hv] at hbank
  exact ⟨⟨_, _, _, rfl⟩, (congrArg Arr.queue (State.arr_setArr ..)).trans (hf _).1,
    (congrArg Arr.run (State.arr_setArr ..)).trans (hf _).2, hop, hwrites, hflags, hchecks, hbank⟩

theorem State.arrBegin_ok {r : ArrOut} {y : State} (h : (s.arrPrep c a o).arrRun o = (.ok r, y)) :
    ∃ x, State.ArrBegun y c a o r (s.arrBegin c a o) x := by
  unfold State.arrPrep at h
  unfold State.arrBegin
  dsimp only at h ⊢
  rw [h]
  dsimp only
  refine ⟨_, .of_modArr (bs := y.withBank c a r.bank) ?_ ?_ (fun _ => ⟨rfl, rfl⟩) ⟨rfl, rfl, rfl, rfl⟩⟩
  · rcases r.bank with _ | ⟨b, v⟩ <;> rfl
  · intro b z hb
    rw [hb]
    exact State.bank_setBank ..

/-- An array instruction that an exception ends at its start: its operation fails, the array runs what it ran. -/
theorem State.arrBegin_error {cause : BitVec 8} {dest : BitVec 4} {y : State}
    (h : (s.arrPrep c a o).arrRun o = (.error (cause, dest), y)) : ∃ bs f as,
    s.arrBegin c a o = ({ y with banks := bs, freeCtr := f, arrs := as } : State).opFail o cause dest ∧
    (Tab.get Arr.init as (c * 4 + a)).queue = (y.arr c a).queue ∧
    (Tab.get Arr.init as (c * 4 + a)).run = (y.arr c a).run := by
  have counted (v : State) (hv : v.arr c a = y.arr c a) : ∃ as,
      (if isCounted (iOp o.word) then v.modArr c a fun x => x.count x.armed else v) = { v with arrs := as } ∧
      (Tab.get Arr.init as (c * 4 + a)).queue = (y.arr c a).queue ∧
      (Tab.get Arr.init as (c * 4 + a)).run = (y.arr c a).run := by
    split
    · refine ⟨_, rfl, ?_, ?_⟩
      · rw [Tab.get_set_self, Arr.queue_count, hv]
      · rw [Tab.get_set_self, Arr.run_count, hv]
    · exact ⟨v.arrs, rfl, congrArg Arr.queue hv, congrArg Arr.run hv⟩
  unfold State.arrPrep at h
  unfold State.arrBegin
  dsimp only at h ⊢
  rw [h]
  dsimp only
  cases o.lostBank cause with
  | none =>
    obtain ⟨as, has, hkept⟩ := counted y rfl
    exact ⟨y.banks, y.freeCtr, as, congrArg (State.opFail · o cause dest) has, hkept⟩
  | some b =>
    obtain ⟨as, has, hkept⟩ := counted (y.freeBank c a b) rfl
    exact ⟨_, _, as, congrArg (State.opFail · o cause dest) has, hkept⟩

/-- ACCOP CLR has no exception and writes nothing. -/
theorem State.arrRun_clear (s : State) (h : iOp o.word = 0x79) (hsub : iSubT o.word = 0) :
    ∃ r y, s.arrRun o = (.ok r, y) ∧ r.bank = some (iBank o.word, Bank.clear) ∧ r.writes = [] := by
  unfold State.arrRun
  rw [h]
  show ∃ r y, s.startAccop o = (.ok r, y) ∧ _
  unfold State.startAccop
  simp only [hsub, ne_eq, not_true_eq_false, false_and, if_false, if_true]
  rw [if_neg (by decide)]
  exact ⟨_, _, rfl, rfl, rfl⟩

theorem exec_arrayInstructionStart {id : Nat} {rest : List Nat} (hc : c < s.lcores) (ha : a < 4)
    (hqueue : (s.arr c a).queue = id :: rest) (hop : s.op? id = some o) (hawake : s.awake c = true)
    (hgo : (s.arr c a).go = true) (hheld : (s.arr c a).held = false) (hbusy : (s.arr c a).stestBusy = false)
    (hwait : (s.arr c a).stestWait = false) (hrun : (s.arr c a).run = [])
    (hslots : o.fetchesOut s = true → s.slotsUsed c < 256) (hreach : s.reaches (some (s.dieOf c)) o.spans) :
    exec (.arrayInstructionStart c a) s = .next (s.arrBegin c a o) := by
  have hfree : (!o.fetchesOut s || decide (s.slotsUsed c < 256)) = true := by
    rcases hf : o.fetchesOut s with _ | _
    · rfl
    · simpa using hslots hf
  refine (if_pos ⟨hc, ha⟩).trans ?_
  rw [hqueue]
  dsimp only
  rw [hop]
  dsimp only
  rw [State.ifReach_of_reaches hreach, if_pos (by rw [hawake, hgo, hheld, hbusy, hwait, hrun, hfree]; rfl)]

/-! ## The SFU -/

/-- The state in which the SFU computes what it begins. -/
def State.sfuPrep (s : State) (c : Nat) : State :=
  let s := s.modCore c fun k => { k with sfuQ := k.sfuQ.drop 1 }
  if s.attending c then s.freeGrants c else s

theorem State.freeGrants_cases (s : State) (c : Nat) : ∃ g f, s.freeGrants c =
    { s.setCore c { s.core c with sfuGrants := g } with freeCtr := f } := ⟨_, _, rfl⟩

theorem State.sfuPrep_cases (s : State) (c : Nat) : ∃ k f, s.sfuPrep c = { s with cores := k, freeCtr := f } ∧
    (Tab.get Core.init k c).sfuQ = (s.core c).sfuQ.drop 1 ∧ (Tab.get Core.init k c).sfuRun = (s.core c).sfuRun := by
  have hdrop := s.core_setCore c { s.core c with sfuQ := (s.core c).sfuQ.drop 1 }
  unfold State.sfuPrep
  dsimp only
  rw [State.modCore_eq]
  split
  · obtain ⟨g, f, h⟩ := (s.setCore c { s.core c with sfuQ := (s.core c).sfuQ.drop 1 }).freeGrants_cases c
    rw [h, hdrop]
    have hcore := (s.setCore c { s.core c with sfuQ := (s.core c).sfuQ.drop 1 }).core_setCore c
      { s.core c with sfuQ := (s.core c).sfuQ.drop 1, sfuGrants := g }
    exact ⟨_, f, rfl, (congrArg Core.sfuQ hcore :), (congrArg Core.sfuRun hcore :)⟩
  · exact ⟨_, s.freeCtr, rfl, (congrArg Core.sfuQ hdrop :), (congrArg Core.sfuRun hdrop :)⟩

/-- With no ATTEND executing only the queue differs. -/
theorem State.sfuPrep_idle (h : s.attending c = false) :
    s.sfuPrep c = s.setCore c { s.core c with sfuQ := (s.core c).sfuQ.drop 1 } := by
  have h' : (s.modCore c fun k => { k with sfuQ := k.sfuQ.drop 1 }).attending c = false := h
  unfold State.sfuPrep
  dsimp only
  rw [h']
  rfl

theorem State.sfuBegin_ok {ws : List OutW} {fl : BitVec 4} {y : State} (h : (s.sfuPrep c).sfuExec o = (.ok (ws, fl), y)) :
    s.sfuBegin c o = y.setCore c { y.core c with sfuRun := some ⟨o.id, ws, fl⟩ } := by
  unfold State.sfuPrep at h
  unfold State.sfuBegin
  dsimp only at h ⊢
  rw [h]
  rfl

theorem State.sfuBegin_error {cause : BitVec 8} {dest : BitVec 4} {y : State}
    (h : (s.sfuPrep c).sfuExec o = (.error (cause, dest), y)) : s.sfuBegin c o = y.opFail o cause dest := by
  unfold State.sfuPrep at h
  unfold State.sfuBegin
  dsimp only at h ⊢
  rw [h]

theorem exec_sfuInstructionStart {id : Nat} {rest : List Nat} (hc : c < s.lcores)
    (hqueue : (s.core c).sfuQ = id :: rest) (hop : s.op? id = some o) (hawake : s.awake c = true)
    (hrun : (s.core c).sfuRun = none) (hreach : s.reaches (some (s.dieOf c)) o.spans) :
    exec (.sfuInstructionStart c) s = .next (s.sfuBegin c o) := by
  refine (if_pos hc).trans ?_
  rw [hawake, hqueue, hrun]
  dsimp only [Bool.not_true, Bool.false_eq_true, if_false]
  rw [hop]
  dsimp only
  rw [State.ifReach_of_reaches hreach]
  rfl

/-! ## What either leaves -/

/-- An array that was idle runs what it took, or its operation is gone; only ATTEND writes memory meanwhile. -/
theorem State.arrBegin_spec {id : Nat} {rest : List Nat} (hqueue : (s.arr c a).queue = id :: rest)
    (hop : s.op? id = some o) (hrun : (s.arr c a).run = []) : ((s.arrBegin c a o).arr c a).queue = rest ∧
    (iOp o.word ≠ 0x72 → (s.arrBegin c a o).mem.cells = s.mem.cells) ∧
    ((∃ r, ((s.arrBegin c a o).arr c a).run = [r] ∧ r.op = o.id ∧ (s.arrBegin c a o).op? id = some o) ∨
      (((s.arrBegin c a o).arr c a).run = [] ∧ (s.arrBegin c a o).op? id = none)) := by
  have hid := State.id_of_op? hop
  have harr := s.arr_arrPrep c a o
  have hcells : (s.arrPrep c a o).mem.cells = s.mem.cells := by
    obtain ⟨e, k, f, h⟩ := s.arrPrep_cases c a o
    rw [h]; rfl
  have hops : (s.arrPrep c a o).op? id = some o := by
    obtain ⟨e, k, f, h⟩ := s.arrPrep_cases c a o
    rw [h]; exact hop
  rw [hqueue, List.drop_one, List.tail_cons] at harr
  have hall := (s.arrPrep c a o).keeps_arrRun_any o
  have hquiet := fun h => (s.arrPrep c a o).keeps_arrRun (T := False) (W := False) o h
  rcases h : (s.arrPrep c a o).arrRun o with ⟨⟨cause, dest⟩ | r, y⟩ <;> rw [h] at hall hquiet
  · obtain ⟨bs, f, as, hbegin, hq, hr⟩ := State.arrBegin_error h
    have hy := hall.all.arr c a
    rw [hbegin]
    obtain ⟨ts, k, hfail⟩ := State.opFail_cases { y with banks := bs, freeCtr := f, arrs := as } o cause dest
    refine ⟨?_, fun hne => ?_, .inr ⟨?_, hid ▸ State.op?_opFail ..⟩⟩
    · rw [hfail]
      exact hq.trans (by rw [hy, harr])
    · rw [State.mem_opFail]
      exact ((hquiet hne).all.cells.elim (fun x => x.elim False.elim False.elim) fun x => x).trans hcells
    · rw [hfail]
      exact hr.trans (by rw [hy, harr, hrun])
  · obtain ⟨x, hx⟩ := State.arrBegin_ok h
    have hy := (hall.ok r rfl).arr c a
    refine ⟨?_, fun hne => ?_, .inl ⟨x, ?_, hx.op, ?_⟩⟩
    · rw [hx.queue, hy, harr]
    · obtain ⟨_, _, _, hrest⟩ := hx.rest
      rw [hrest]
      exact ((hquiet hne).ok r rfl).sameCells.trans hcells
    · rw [hx.run, hy, harr, hrun]
      rfl
    · obtain ⟨_, _, _, hrest⟩ := hx.rest
      rw [hrest]
      exact ((hall.ok r rfl).op? id).trans hops

/-- ACCOP CLR leaves its bank clear, with nothing to write. -/
theorem State.arrBegin_clear (hrun : (s.arr c a).run = []) (hword : iOp o.word = 0x79) (hsub : iSubT o.word = 0) :
    (s.arrBegin c a o).bank c a (iBank o.word) = Bank.clear ∧
      ∃ r, ((s.arrBegin c a o).arr c a).run = [r] ∧ r.writes = [] := by
  obtain ⟨r, y, h, hbank, hwrites⟩ := (s.arrPrep c a o).arrRun_clear hword hsub
  obtain ⟨x, hx⟩ := State.arrBegin_ok h
  have hy := ((s.arrPrep c a o).keeps_arrRun_any o).all.arr c a
  rw [h, s.arr_arrPrep] at hy
  refine ⟨hx.bank _ _ hbank, x, ?_, hx.writes.trans hwrites⟩
  rw [hx.run, hy, hrun]
  rfl

/-- An SFU that was free executes what it took, no byte changed, or its operation is gone. -/
theorem State.sfuBegin_spec {id : Nat} {rest : List Nat} (hqueue : (s.core c).sfuQ = id :: rest)
    (hop : s.op? id = some o) (hrun : (s.core c).sfuRun = none) : ((s.sfuBegin c o).core c).sfuQ = rest ∧
    ((∃ r, ((s.sfuBegin c o).core c).sfuRun = some r ∧ r.op = o.id ∧ (s.sfuBegin c o).op? id = some o ∧
      (s.sfuBegin c o).mem.cells = s.mem.cells) ∨
    (((s.sfuBegin c o).core c).sfuRun = none ∧ (s.sfuBegin c o).op? id = none)) := by
  have hid := State.id_of_op? hop
  obtain ⟨k, f, hprep, hdrop, hidle⟩ := s.sfuPrep_cases c
  rw [hqueue, List.drop_one, List.tail_cons] at hdrop
  rw [hrun] at hidle
  have hkeeps := (s.sfuPrep c).keeps_sfuExec (W := False) o
  rcases h : (s.sfuPrep c).sfuExec o with ⟨⟨cause, dest⟩ | ⟨ws, fl⟩, y⟩ <;> rw [h] at hkeeps
  · have hstep := hkeeps.all
    rw [State.sfuBegin_error h]
    obtain ⟨_, _, _, hfail⟩ := y.signalled_opFail o cause dest c
    obtain ⟨_, _, _, _, hcore⟩ := hstep.core c
    rw [hprep] at hcore
    refine ⟨?_, .inr ⟨?_, hid ▸ State.op?_opFail ..⟩⟩ <;> rw [hfail, hcore]
    · exact hdrop
    · exact hidle
  · have hstep := hkeeps.ok _ rfl
    rw [State.sfuBegin_ok h]
    obtain ⟨_, _, _, _, hcore⟩ := hstep.core c
    rw [hprep] at hcore hstep
    refine ⟨?_, .inl ⟨⟨o.id, ws, fl⟩, ?_, rfl, (hstep.op? id).trans hop, hstep.sameCells⟩⟩
    · rw [State.core_setCore, hcore]
      exact hdrop
    · rw [State.core_setCore]

end Sys2Proof.Machine
end

section
/-! SUPPORT. The requests of a transfer: each packet becomes a request of the fabric endpoint, whose number the transfer
waits for (04 R127; 11 R348 to R356). -/

namespace Sys2Proof.Machine

/-- A packet of a transfer, and where the data of its response goes. -/
structure PumpPkt where
  type : Nat
  node : BitVec 16
  addr : Nat
  len : Nat
  body : Bytes
  back : Nat

/-- The request of stream pump `x` that a packet becomes, as it enters the fabric endpoint. -/
def PumpPkt.req (k : PumpPkt) (x id : Nat) : FabReq where
  id := id
  owner := .pump x
  eng := pumpEng x
  type := k.type
  node := k.node
  addr := k.addr
  len := k.len
  tag := 0
  body := k.body
  atHub := false
  sent := false

/-- Sends packets of stream pump `x` in order. -/
def State.pumpPackets (s : State) (x : Nat) (l : List PumpPkt) : State :=
  l.foldl (fun s k => s.pumpRequest x k.type k.node k.addr k.len k.body k.back) s

/-- The transfer in stream pump `x` waits for more requests; any other run is as it was. -/
def PumpRun.waitFor (x : Nat) (ws : List (Nat × Nat)) (r : PumpRun) : PumpRun :=
  if !r.host && r.die * 8 + r.pump == x then { r with waiting := r.waiting ++ ws } else r

theorem PumpRun.waitFor_waitFor (x : Nat) (ws vs : List (Nat × Nat)) (r : PumpRun) :
    (r.waitFor x ws).waitFor x vs = r.waitFor x (ws ++ vs) := by
  unfold PumpRun.waitFor
  by_cases h : (!r.host && r.die * 8 + r.pump == x) = true
  · simp [h]
  · simp [h]

/-- No request is lost, and none frees a slot of a thread, when it is next tried: each is sent already, or a transfer's
whose packet finds a way. -/
def State.pumpClear (s : State) : Prop :=
  ∀ q ∈ s.fab.reqs, (q.atHub = true ∧ q.sent = true) ∨ (∃ x, q.owner = .pump x) ∧ s.onWay q.node

theorem State.fabricSent.pumpClear {s : State} (h : s.fabricSent) : s.pumpClear :=
  fun q hq => .inl ⟨(h q hq).1, (h q hq).2.1⟩

theorem State.onWay_of_routed {s : State} {n : BitVec 16} (h : s.reachable n true = true) : s.onWay n := by
  simp only [State.reachable, State.routed, if_true, Bool.and_eq_true, Bool.or_eq_true, beq_iff_eq] at h
  exact h.2

/-- `u` follows `s` by sending requests for which the transfer in stream pump `x` waits. -/
structure State.PumpStep (x : Nat) (ws : List (Nat × Nat)) (s u : State) : Prop where
  rest : ∃ ls e f o fab n ps, u = { s with
    links := ls, err := { s.err with ents := e }, freeCtr := f, out := o, fab := fab, nextId := n, pumps := ps }
  fab : u.fab = { s.fab with reqs := u.fab.reqs, dead := u.fab.dead, e2e := u.fab.e2e }
  kept : ∀ q ∈ s.fab.reqs, ∃ q' ∈ u.fab.reqs, q.Marked q'
  clear : u.pumpClear
  pumps : u.pumps = s.pumps.map (PumpRun.waitFor x ws)

namespace State.PumpStep

variable {x : Nat} {ws vs : List (Nat × Nat)} {s u v : State}

theorem refl (h : s.pumpClear) : s.PumpStep x [] s where
  rest := ⟨s.links, s.err.ents, s.freeCtr, s.out, s.fab, s.nextId, s.pumps, rfl⟩
  fab := rfl
  kept q hq := ⟨q, hq, .refl q⟩
  clear := h
  pumps := by
    rw [List.map_congr_left (g := id), List.map_id]
    intro r _
    simp [PumpRun.waitFor]

theorem trans (h : s.PumpStep x ws u) (h' : u.PumpStep x vs v) : s.PumpStep x (ws ++ vs) v where
  rest := by
    obtain ⟨_, _, _, _, _, _, _, rfl⟩ := h.rest
    obtain ⟨ls, e, f, o, fab, n, ps, rfl⟩ := h'.rest
    exact ⟨ls, e, f, o, fab, n, ps, rfl⟩
  fab := by rw [h'.fab, h.fab]
  kept q hq := by
    obtain ⟨r, hr, hqr⟩ := h.kept q hq
    obtain ⟨q', hq', hrq⟩ := h'.kept r hr
    exact ⟨q', hq', hqr.trans hrq⟩
  clear := h'.clear
  pumps := by
    rw [h'.pumps, h.pumps, List.map_map]
    exact List.map_congr_left fun r _ => r.waitFor_waitFor x ws vs

theorem routeOf (h : s.PumpStep x ws u) (n : BitVec 16) : u.routeOf n = s.routeOf n := by
  rw [State.routeOf, h.fab]; rfl

theorem onWay (h : s.PumpStep x ws u) {n : BitVec 16} : u.onWay n ↔ s.onWay n := by
  rw [State.onWay, State.onWay, h.routeOf, h.fab]

theorem replicaOf (h : s.PumpStep x ws u) (n : BitVec 16) (a : Nat) : u.replicaOf n a = s.replicaOf n a := by
  have hrepl : u.fab.repl = s.fab.repl := by rw [h.fab]
  have hid : u.fab.nodeId = s.fab.nodeId := by rw [h.fab]
  simp only [State.replicaOf, State.inPolder, h.routeOf, hrepl, hid]
  rfl

theorem mem (h : s.PumpStep x ws u) : u.mem = s.mem := by
  obtain ⟨_, _, _, _, _, _, _, rfl⟩ := h.rest; rfl

theorem core (h : s.PumpStep x ws u) (c : Nat) : u.core c = s.core c := by
  obtain ⟨_, _, _, _, _, _, _, rfl⟩ := h.rest; rfl

end State.PumpStep

variable {s : State} {x : Nat}

/-- Acceptance and sending mark requests. -/
theorem State.markStep_kick (h : s.pumpClear) : State.MarkStep (fun _ => True) s s.kick := by
  have accepted : State.MarkStep (fun _ => True) s s.hubAccept :=
    State.markStep_hubAccept (fun q hq => (h q hq).imp And.left fun ⟨⟨x, ho⟩, _⟩ c t => by
      rw [ho]
      exact Owner.noConfusion) fun _ _ => .inr trivial
  rw [State.kick_eq]
  split
  · refine accepted.trans (State.markStep_kickFrom _ _ (accepted.forall_reqs (fun q q' hq hs => ?_) fun q hq => ?_))
    · obtain ⟨_, _, b, rfl⟩ := hq
      exact hs.imp (fun h => by simp [h]) id
    · exact (h q hq).imp And.right fun h => ⟨accepted.onWay.2 h.2, trivial⟩
  · exact accepted

/-- A packet that finds a way becomes a request of its transfer. -/
theorem State.pumpStep_request (h : s.pumpClear) {k : PumpPkt} (hk : s.onWay k.node) :
    s.PumpStep x [(s.nextId, k.back)] (s.pumpRequest x k.type k.node k.addr k.len k.body k.back) ∧
    ∃ f ∈ (s.pumpRequest x k.type k.node k.addr k.len k.body k.back).fab.reqs, (k.req x s.nextId).Marked f := by
  let v : State := { s with pumps := s.pumps.map (PumpRun.waitFor x [(s.nextId, k.back)]), nextId := s.nextId + 1,
                            fab := { s.fab with reqs := s.fab.reqs ++ [k.req x s.nextId] } }
  have hv : s.pumpRequest x k.type k.node k.addr k.len k.body k.back = v.kick := rfl
  have hclear : v.pumpClear := fun q hq => by
    rcases List.mem_append.1 hq with hq | hq
    · exact h q hq
    · rw [List.mem_singleton.1 hq]
      exact .inr ⟨⟨x, rfl⟩, hk⟩
  have kicked := State.markStep_kick hclear
  obtain ⟨g, hg, -, hreqs⟩ := kicked.marks
  have kept (q) (hq : q ∈ v.fab.reqs) : g q ∈ v.kick.fab.reqs := hreqs ▸ List.mem_map_of_mem hq
  rw [hv]
  refine ⟨⟨?_, ?_, fun q hq => ⟨g q, kept q (List.mem_append_left _ hq), hg q⟩, ?_, ?_⟩, g _,
    kept _ (List.mem_append_right _ (List.mem_singleton_self _)), hg _⟩
  · obtain ⟨ls, e, f, o, fab, hrest⟩ := kicked.rest
    rw [hrest]
    exact ⟨ls, e, f, o, fab, _, _, rfl⟩
  · rw [kicked.fab]
  · refine kicked.forall_reqs (fun q q' hq hs => ?_) (Q := fun q => (q.atHub = true ∧ q.sent = true) ∨
      (∃ x, q.owner = .pump x) ∧ v.kick.onWay q.node) fun q hq => (hclear q hq).imp id fun h => ⟨h.1, kicked.onWay.2 h.2⟩
    obtain ⟨_, a, b, rfl⟩ := hq
    exact hs.imp (fun ⟨ha, hb⟩ => by simp [ha, hb]) id
  · obtain ⟨ls, e, f, o, fab, hrest⟩ := kicked.rest
    rw [hrest]

/-- Packets that find a way become requests of their transfer, for each of which it waits. -/
theorem State.pumpStep_packets (h : s.pumpClear) {l : List PumpPkt} (hl : ∀ k ∈ l, s.onWay k.node) :
    ∃ ws, ws.length = l.length ∧ s.PumpStep x ws (s.pumpPackets x l) ∧
      ∀ k ∈ l, ∃ f ∈ (s.pumpPackets x l).fab.reqs, (f.id, k.back) ∈ ws ∧ ∃ i, (k.req x i).Marked f := by
  induction l generalizing s with
  | nil => exact ⟨[], rfl, .refl h, fun k hk => nomatch hk⟩
  | cons k l ih =>
    obtain ⟨first, f, hf, hmark⟩ := State.pumpStep_request (x := x) h (hl k (List.mem_cons_self ..))
    obtain ⟨ws, hlen, others, hreqs⟩ := ih first.clear fun k' hk' => first.onWay.2 (hl k' (List.mem_cons_of_mem _ hk'))
    refine ⟨(s.nextId, k.back) :: ws, congrArg (· + 1) hlen, first.trans others, fun k' hk' => ?_⟩
    rcases List.mem_cons.1 hk' with rfl | hk'
    · obtain ⟨f', hf', hmark'⟩ := others.kept f hf
      have hid : f'.id = s.nextId := (hmark.trans hmark').id
      exact ⟨f', hf', hid ▸ List.mem_cons_self .., _, hmark.trans hmark'⟩
    · obtain ⟨f', hf', hw, hmark'⟩ := hreqs k' hk'
      exact ⟨f', hf', List.mem_cons_of_mem _ hw, hmark'⟩

/-- Where the pump was free only the new run waits. -/
theorem State.map_waitFor_free {d p : Nat} (hp : p < 8) (hfree : s.pumpFree false d p = true)
    (hlow : ∀ q ∈ s.pumps, q.host = false → q.pump < 8) (ws : List (Nat × Nat)) (r : PumpRun)
    (hr : r.host = false ∧ r.die = d ∧ r.pump = p ∧ r.waiting = []) :
    (s.pumps ++ [r]).map (PumpRun.waitFor (d * 8 + p) ws) = s.pumps ++ [{ r with waiting := ws }] := by
  obtain ⟨hhost, hdie, hpump, hwait⟩ := hr
  rw [List.map_append, List.map_congr_left (g := id), List.map_id, List.map_singleton]
  · simp [PumpRun.waitFor, hhost, hdie, hpump, hwait]
  · intro q hq
    refine if_neg fun h => ?_
    rw [Bool.and_eq_true, Bool.not_eq_true', beq_iff_eq] at h
    have hqp := hlow q hq h.1
    have hother : ¬ (q.die = d ∧ q.pump = p) := fun hsame => by
      simp only [State.pumpFree, Bool.false_or, Bool.not_eq_true', List.any_eq_false] at hfree
      exact hfree q hq (by simp [h.1, hsame.1, hsame.2])
    omega

/-! ## The packets of a PUT -/

/-- The packets of a write: 248 bytes each, but for the last (R127). -/
theorem mem_packetsOf {fuel : Nat} {a : Acc} {d : Bytes} (hop : a.op = .wr d) (hfuel : d.length < fuel) {i : Nat}
    (hi : 248 * i < d.length) :
    ∃ b ∈ packetsOf fuel a, b.addr = a.addr + 248 * i ∧ b.op = .wr ((d.drop (248 * i)).take 248) := by
  induction fuel generalizing a d i with
  | zero => omega
  | succ n ih =>
    rw [packetsOf, hop]
    dsimp only
    split
    · obtain rfl : i = 0 := by omega
      exact ⟨a, List.mem_singleton_self a, rfl, by rw [hop, Nat.mul_zero, List.drop_zero, List.take_of_length_le ‹_›]⟩
    · cases i with
      | zero => exact ⟨_, List.mem_cons_self .., rfl, rfl⟩
      | succ i =>
        obtain ⟨b, hb, haddr, hbop⟩ := ih (a := ⟨a.addr + 248, a.len - 248, a.off + 248, .wr (d.drop 248), []⟩)
          (d := d.drop 248) (i := i) rfl (by rw [List.length_drop]; omega) (by rw [List.length_drop]; omega)
        refine ⟨b, List.mem_cons_of_mem _ hb, haddr.trans (by dsimp only; omega), ?_⟩
        rw [hbop, List.drop_drop, show 248 + 248 * i = 248 * (i + 1) by omega]

theorem packetsOf_wr {fuel : Nat} {a : Acc} {d : Bytes} (hop : a.op = .wr d) :
    ∀ b ∈ packetsOf fuel a, ∃ e, b.op = .wr e := by
  induction fuel generalizing a d with
  | zero => exact fun b hb => nomatch hb
  | succ n ih =>
    rw [packetsOf, hop]
    dsimp only
    intro b hb
    split at hb
    · rw [List.mem_singleton.1 hb]
      exact ⟨d, hop⟩
    · rcases List.mem_cons.1 hb with rfl | hb
      · exact ⟨_, rfl⟩
      · exact ih rfl b hb

end Sys2Proof.Machine
end

section
/-! SUPPORT. Pumps take the head of a queue (04 R127; 13 R423, R435). The statement about the starts of units. -/

namespace Sys2Proof.Machine

variable {s v : State} {c d p : Nat} {o : AsyncOp} {node : BitVec 16}

/-- The run of a transfer to the module's memory. -/
def copyRun (host : Bool) (d p : Nat) (o : AsyncOp) (ws : List OutW) (e : Option (BitVec 8 × BitVec 4)) (n : Nat) :
    PumpRun := { newRun host d p (some o.id) none with writes := ws, err := e, moved := n }

/-- The run of a transfer to host memory. -/
def toHostRun (p : Nat) (o : AsyncOp) (data : Bytes) (e : Option (BitVec 8 × BitVec 4)) : PumpRun :=
  { newRun true 0 p (some o.id) none with hostWrites := [⟨o.ra.toNat, data⟩], moved := data.length, err := e }

/-- The bytes of a transfer's source, packed. -/
def State.sourceBytes (s : State) (o : AsyncOp) : Bytes :=
  ((descAt o.d (iDa o.word)).segs.map fun e => s.bytes e.1 e.2).flatten

/-- Those bytes cut into the pieces of its destination. -/
def State.rows (s : State) (o : AsyncOp) : List OutW :=
  cutSegs ((descAt o.d (iDd o.word)).segs.take (descAt o.d (iDa o.word)).segs.length) (s.sourceBytes o)

/-- The source lies in clean bytes of core `c`. -/
def State.sourceClean (s : State) (c : Nat) (o : AsyncOp) : Prop :=
  ∀ e ∈ (descAt o.d (iDa o.word)).segs, 0 < e.2 ∧ OwnClean s c e.1 e.2

/-! ## COPY -/

/-- A COPY runs with what it has read; reading changes no byte. -/
theorem State.startStream_copy (v : State) (d p : Nat) (h : iSubP o.word = 0) :
    ∃ u ws e, State.UnitStep False False v u ∧ v.startStream o d p = u.addRun (copyRun false d p o ws e 0) := by
  have reads := v.unitStep_readSegs (T := False) (W := False) 1 (descAt o.d (iDa o.word)).segs
  have starts : v.startStream o d p = _ := if_pos h
  generalize State.readSegs State.readAny 1 v (descAt o.d (iDa o.word)).segs = r at reads starts
  exact ⟨(r.2.2.failAt o.core r.2.1).2, _, _, reads.trans (State.unitStep_failAt ..), starts⟩

theorem State.startStream_copy_clean (hc : c < v.lcores) (ha : v.awake c = true) (hclean : v.sourceClean c o)
    (h : iSubP o.word = 0) : v.startStream o d p = v.addRun (copyRun false d p o (v.rows o) none 0) := by
  unfold State.startStream
  refine (if_pos h).trans ?_
  rw [State.readSegs_clean hc ha hclean, State.rows, State.sourceBytes]
  dsimp only
  rw [List.length_map]
  rfl

/-! ## PUT -/

/-- The bytes of a write. -/
def Acc.written (a : Acc) : Bytes :=
  match a.op with
  | .wr b => b
  | _ => []

def Acc.putPkt (node : BitVec 16) (a : Acc) : PumpPkt := ⟨3, node, a.addr, a.len, wrBody node a.addr a.written, 0⟩

/-- The packets of a PUT of rows (R127, R357). -/
def putPkts (node : BitVec 16) (rows : List OutW) : List PumpPkt :=
  (rows.flatMap fun w => packetsOf (w.data.length + 1) ⟨w.addr, w.data.length, 0, .wr w.data, []⟩).map (Acc.putPkt node)

theorem mem_putPkts {rows : List OutW} {w : OutW} (hw : w ∈ rows) {i : Nat} (hi : 248 * i < w.data.length) :
    ∃ k ∈ putPkts node rows, k.type = 3 ∧ k.node = node ∧ k.addr = w.addr + 248 * i ∧
      k.body = globalBytes node (w.addr + 248 * i) ++ (w.data.drop (248 * i)).take 248 := by
  obtain ⟨b, hb, haddr, hop⟩ := mem_packetsOf (a := ⟨w.addr, w.data.length, 0, .wr w.data, []⟩) rfl
    (Nat.lt_succ_self _) hi
  refine ⟨b.putPkt node, List.mem_map_of_mem (List.mem_flatMap.2 ⟨w, hw, hb⟩), rfl, rfl, haddr, ?_⟩
  rw [Acc.putPkt, Acc.written, hop, haddr]
  rfl

theorem node_of_mem_putPkts {rows : List OutW} {k : PumpPkt} (hk : k ∈ putPkts node rows) : k.node = node := by
  obtain ⟨a, -, rfl⟩ := List.mem_map.1 hk
  rfl

/-- Sending each write of a list. -/
theorem State.foldl_put {x : Nat} {f : State → Acc → State} (hf : ∀ (s : State) (a : Acc) (b : Bytes), a.op = .wr b →
    f s a = s.pumpRequest x 3 node a.addr a.len (wrBody node a.addr b) 0) {l : List Acc}
    (hl : ∀ a ∈ l, ∃ b, a.op = .wr b) (s : State) : l.foldl f s = s.pumpPackets x (l.map (Acc.putPkt node)) := by
  induction l generalizing s with
  | nil => rfl
  | cons a l ih =>
    obtain ⟨b, hb⟩ := hl a (List.mem_cons_self ..)
    have hw : a.written = b := by rw [Acc.written, hb]
    rw [List.foldl_cons, hf s a b hb, ih fun a ha => hl a (List.mem_cons_of_mem _ ha), ← hw]
    rfl

/-- A PUT from clean bytes sends the packets of its rows. -/
theorem State.startStream_put_clean (hc : c < v.lcores) (ha : v.awake c = true) (hclean : v.sourceClean c o)
    (h : iSubP o.word = 3) (hroute : v.reachable (o.ra.extractLsb' 0 16) true = true) :
    v.startStream o d p = (v.addRun (copyRun false d p o [] none 0)).pumpPackets (d * 8 + p)
      (putPkts (o.ra.extractLsb' 0 16) (v.rows o)) := by
  have hnode : o.ra.extractLsb' 0 16 ≠ 0xFFFF := fun h => by
    simp [State.reachable, h] at hroute
  have h0 : iSubP o.word ≠ 0 := by rw [h]; decide
  unfold State.startStream
  refine (if_neg h0).trans ((if_pos h).trans ((if_pos (by rw [hroute]; rfl)).trans ?_))
  unfold State.startPut
  dsimp only
  rw [State.readSegs_clean hc ha hclean]
  dsimp only [State.failAt]
  rw [List.length_map]
  refine State.foldl_put (fun s a b hb => by rw [hb]; exact if_neg hnode) (fun a ha => ?_) _
  obtain ⟨w, -, ha⟩ := List.mem_flatMap.1 ha
  exact packetsOf_wr rfl a ha

/-! ## GET -/

/-- The packets of a GET, as state `s` sends them (R127, R370). -/
def State.getPkts (s : State) (node : BitVec 16) (l : List (Nat × Nat × Nat)) : List PumpPkt :=
  l.map fun k => ⟨1, s.replicaOf node k.1, k.1, k.2.2, rdBody node k.1 k.2.2, k.2.1⟩

/-- Sending changes no replica, so every read goes to the replica it had at first. -/
theorem State.foldl_get {x : Nat} {l : List (Nat × Nat × Nat)} (h : s.pumpClear)
    (hway : ∀ k ∈ l, s.onWay (s.replicaOf node k.1)) : l.foldl (fun s k =>
      s.pumpRequest x 1 (s.replicaOf node k.1) k.1 k.2.2 (rdBody node k.1 k.2.2) k.2.1) s =
      s.pumpPackets x (s.getPkts node l) := by
  induction l generalizing s with
  | nil => rfl
  | cons k l ih =>
    obtain ⟨first, -⟩ := State.pumpStep_request (x := x)
      (k := ⟨1, s.replicaOf node k.1, k.1, k.2.2, rdBody node k.1 k.2.2, k.2.1⟩) h (hway k (List.mem_cons_self ..))
    rw [List.foldl_cons, ih first.clear fun k' hk' => by
      rw [first.replicaOf]
      exact first.onWay.2 (hway k' (List.mem_cons_of_mem _ hk'))]
    simp only [State.getPkts, first.replicaOf]
    rfl

theorem State.startStream_get (h : iSubP o.word = 4) (hsent : v.fabricSent)
    (hroute : ∀ k ∈ remoteChunks 256 (descAt o.d (iDa o.word)).segs (descAt o.d (iDd o.word)).segs,
      v.reachable (v.replicaOf (o.ra.extractLsb' 0 16) k.1) false = true) :
    v.startStream o d p = (v.addRun (copyRun false d p o [] none 0)).pumpPackets (d * 8 + p)
      (v.getPkts (o.ra.extractLsb' 0 16)
        (remoteChunks 256 (descAt o.d (iDa o.word)).segs (descAt o.d (iDd o.word)).segs)) := by
  unfold State.startStream
  refine (if_neg (by rw [h]; decide)).trans ((if_neg (by rw [h]; decide)).trans
    ((if_pos (List.all_eq_true.2 hroute)).trans ?_))
  exact State.foldl_get (s := v.addRun (copyRun false d p o [] none 0)) hsent.pumpClear
    fun k hk => State.onWay_of_reachable (hroute k hk)

/-- What a transfer that sends packets leaves. -/
theorem State.packets_spec {l : List PumpPkt} (hsent : v.fabricSent) (hl : ∀ k ∈ l, v.onWay k.node) (hp : p < 8)
    (hfree : v.pumpFree false d p = true) (hlow : ∀ q ∈ v.pumps, q.host = false → q.pump < 8) :
    ∃ r ws, r = { copyRun false d p o [] none 0 with waiting := ws } ∧ ws.length = l.length ∧
      let u := (v.addRun (copyRun false d p o [] none 0)).pumpPackets (d * 8 + p) l
      u.pumps = v.pumps ++ [r] ∧ u.mem = v.mem ∧ (∀ c, u.core c = v.core c) ∧
      ∀ k ∈ l, ∃ f ∈ u.fab.reqs, (f.id, k.back) ∈ ws ∧ f.owner = .pump (d * 8 + p) ∧ f.type = k.type ∧
        f.node = k.node ∧ f.addr = k.addr ∧ f.len = k.len ∧ f.body = k.body := by
  obtain ⟨ws, hlen, step, hreqs⟩ := State.pumpStep_packets (s := v.addRun (copyRun false d p o [] none 0))
    (x := d * 8 + p) hsent.pumpClear (l := l) hl
  refine ⟨_, ws, rfl, hlen, ?_, step.mem, step.core, fun k hk => ?_⟩
  · exact step.pumps.trans (State.map_waitFor_free hp hfree hlow ws _ ⟨rfl, rfl, rfl, rfl⟩)
  · obtain ⟨f, hf, hw, i, hmark⟩ := hreqs k hk
    obtain ⟨howner, hnode, haddr, hlen, htype, hbody⟩ := hmark.keeps
    exact ⟨f, hf, hw, howner, htype, hnode, haddr, hlen, hbody⟩

end Sys2Proof.Machine
end

section
/-! SUPPORT. The head of a queue goes to its pump (04 R127; 13 R423, R435). The statement about the starts of units. -/

namespace Sys2Proof.Machine

variable {s v : State} {c p id : Nat} {rest : List Nat} {o : AsyncOp}

/-! ## The head leaves its queue -/

def State.popStream (s : State) (c : Nat) : State :=
  (s.syncHeads.modCore c fun k => { k with pumpQ := k.pumpQ.drop 1 }).syncHeads

def State.popHost (s : State) (c : Nat) : State := s.modCore c fun k => { k with hostQ := k.hostQ.drop 1 }

theorem State.popStream_eq (s : State) (c : Nat) : ∃ hs, s.popStream c =
    { s.setCore c { s.core c with pumpQ := (s.core c).pumpQ.drop 1 } with pumpHeads := hs } := ⟨_, rfl⟩

theorem State.core_popStream (s : State) (c : Nat) :
    (s.popStream c).core c = { s.core c with pumpQ := (s.core c).pumpQ.drop 1 } := by
  obtain ⟨hs, h⟩ := s.popStream_eq c
  rw [h]
  exact State.core_setCore ..

theorem State.core_popHost (s : State) (c : Nat) :
    (s.popHost c).core c = { s.core c with hostQ := (s.core c).hostQ.drop 1 } := State.core_setCore ..

/-- What a start looks at besides the queue is as before. -/
theorem State.alikeOn_popStream (s : State) (c : Nat) : s.AlikeOn c (s.popStream c) :=
  ⟨rfl, rfl, rfl, (congrArg Core.diked (s.core_popStream c) :), rfl, rfl, rfl⟩

theorem State.alikeOn_popHost (s : State) (c : Nat) : s.AlikeOn c (s.popHost c) :=
  ⟨rfl, rfl, rfl, (congrArg Core.diked (s.core_popHost c) :), rfl, rfl, rfl⟩

theorem State.sourceClean.alike (h : s.sourceClean c o) (hv : s.AlikeOn c v) : v.sourceClean c o :=
  fun e he => ⟨(h e he).1, (h e he).2.alike hv⟩

theorem exec_pumpTransferStart_stream (hc : c < s.lcores) (hp : p < 8) (ha : s.awake c = true)
    (hq : (s.core c).pumpQ = id :: rest) (hop : s.op? id = some o) (hfree : s.pumpFree false (s.dieOf c) p = true)
    (hsuits : iPsel o.word = 0 ∨ iPsel o.word = p + 8) (hearly : s.syncHeads.earlierHead c o.id = false)
    (hreach : s.reaches (some (s.dieOf c)) o.reads) :
    exec (.pumpTransferStart c false p) s = .next ((s.popStream c).startStream o (s.dieOf c) p) := by
  have hfree' : s.syncHeads.pumpFree false (s.syncHeads.dieOf c) p = true := hfree
  have hreach' : s.syncHeads.reaches (some (s.syncHeads.dieOf c)) o.reads := hreach
  have hsuits' : o.suits p = true := by simpa [AsyncOp.suits] using hsuits
  refine (if_pos ⟨hc, hp⟩).trans ?_
  simp only [ha, hq, hop, Bool.not_true, Bool.false_eq_true, if_false]
  rw [State.takeStream, hfree', hsuits', hearly, State.ifReach_of_reaches hreach']
  rfl

theorem exec_pumpTransferStart_host (hc : c < s.lcores) (hp : p < 16) (ha : s.awake c = true)
    (hq : (s.core c).hostQ = id :: rest) (hop : s.op? id = some o) (hgo : s.dev.go = true)
    (hfree : s.threadHostPump = some p) (hearly : s.earlierHost o.id = false) (hreach : s.reaches none o.reads) :
    exec (.pumpTransferStart c true p) s = .next ((s.popHost c).startHost o p) := by
  refine (if_pos ⟨hc, hp⟩).trans ?_
  simp only [ha, hq, hop, Bool.not_true, Bool.false_eq_true, if_false, if_true]
  rw [State.takeHost, hgo]
  refine congrArg Host.Outcome.next ((if_neg (by decide)).trans ((if_pos ⟨hfree, hearly⟩).trans ?_))
  exact State.ifReach_of_reaches hreach _

/-- While DEV_CTL.GO is 0 (R423). -/
theorem exec_pumpTransferStart_stopped (hc : c < s.lcores) (hp : p < 16) (ha : s.awake c = true)
    (hq : (s.core c).hostQ = id :: rest) (hop : s.op? id = some o) (hgo : s.dev.go = false) :
    exec (.pumpTransferStart c true p) s = .next ((s.popHost c).opFail o cHostAbort 5) := by
  refine (if_pos ⟨hc, hp⟩).trans ?_
  simp only [ha, hq, hop, Bool.not_true, Bool.false_eq_true, if_false, if_true]
  rw [State.takeHost, hgo]
  rfl

/-! ## A host pump -/

/-- A host pump runs with what it has read; reading changes no byte. -/
theorem State.startHost_cases (hq : v.err.perturbGo = false) (o : AsyncOp) (p : Nat) :
    ∃ u r, State.UnitStep False False v u ∧ v.startHost o p = u.addRun r ∧ r.host = true ∧ r.pump = p ∧
      r.op = some o.id := by
  have reads := v.unitStep_readSegs (T := False) (W := False) 2 (descAt o.d (iDa o.word)).segs
  unfold State.startHost
  dsimp only
  rw [v.perturb_off hq]
  split
  · generalize State.readSegs State.readAny 2 v (descAt o.d (iDa o.word)).segs = r at reads
    exact ⟨(r.2.2.failAt o.core r.2.1).2, _, reads.trans (State.unitStep_failAt ..), rfl, rfl, rfl, rfl⟩
  · exact ⟨v, _, .refl v, rfl, rfl, rfl, rfl⟩

theorem State.startHost_toHost (hc : c < v.lcores) (ha : v.awake c = true) (hq : v.err.perturbGo = false)
    (hclean : v.sourceClean c o) (h : iSubP o.word = 1) :
    v.startHost o p = v.addRun (toHostRun p o (v.sourceBytes o) none) := by
  unfold State.startHost
  dsimp only
  rw [v.perturb_off hq]
  refine (if_pos h).trans ?_
  dsimp only
  rw [State.readSegs_clean hc ha hclean]
  rfl

/-- The bytes of a FROM_HOST, cut into the pieces of its destination. -/
def State.hostRows (s : State) (o : AsyncOp) : List OutW :=
  cutSegs (descAt o.d (iDd o.word)).segs (s.hostBytes o.ra.toNat ((descAt o.d (iDd o.word)).segs.map Prod.snd).sum)

theorem State.startHost_fromHost (hq : v.err.perturbGo = false) (h : iSubP o.word = 2) :
    v.startHost o p = v.addRun (copyRun true 0 p o (v.hostRows o) none
      ((descAt o.d (iDd o.word)).segs.map Prod.snd).sum) := by
  unfold State.startHost
  dsimp only
  rw [v.perturb_off hq]
  exact if_neg (by rw [h]; decide)

/-! ## What a stream pump has taken -/

/-- Stream pump `p` has taken operation `o` from the head of its queue as run `r`; no byte of memory changed. -/
structure State.Took (s : State) (c p : Nat) (rest : List Nat) (o : AsyncOp) (u : State) (r : PumpRun) : Prop where
  queue : (u.core c).pumpQ = rest
  cells : u.mem.cells = s.mem.cells
  pumps : u.pumps = s.pumps ++ [r]
  host : r.host = false
  die : r.die = s.dieOf c
  pump : r.pump = p
  op : r.op = some o.id

theorem State.pumpQ_popStream (hq : (s.core c).pumpQ = id :: rest) : ((s.popStream c).core c).pumpQ = rest := by
  rw [s.core_popStream c, hq]
  rfl

theorem State.took_copy {u : State} (hq : (s.core c).pumpQ = id :: rest)
    (hu : State.UnitStep False False (s.popStream c) u) (ws : List OutW) (e : Option (BitVec 8 × BitVec 4)) :
    s.Took c p rest o (u.addRun (copyRun false (s.dieOf c) p o ws e 0)) (copyRun false (s.dieOf c) p o ws e 0) := by
  obtain ⟨_, _, _, _, hcore⟩ := hu.core c
  refine ⟨?_, hu.sameCells, congrArg (· ++ [copyRun false (s.dieOf c) p o ws e 0]) hu.pumps, rfl, rfl, rfl, rfl⟩
  have hq' := State.pumpQ_popStream hq
  rw [show (u.addRun (copyRun false (s.dieOf c) p o ws e 0)).core c = u.core c from rfl, hcore]
  exact hq'

/-- A transfer that sends packets: its run, and the request of each packet. -/
theorem State.took_packets {l : List PumpPkt} (hq : (s.core c).pumpQ = id :: rest) (hsent : s.fabricSent)
    (hl : ∀ k ∈ l, s.onWay k.node) (hp : p < 8) (hfree : s.pumpFree false (s.dieOf c) p = true)
    (hlow : ∀ q ∈ s.pumps, q.host = false → q.pump < 8) :
    ∃ r ws, r = { copyRun false (s.dieOf c) p o [] none 0 with waiting := ws } ∧ ws.length = l.length ∧
      let u := ((s.popStream c).addRun (copyRun false (s.dieOf c) p o [] none 0)).pumpPackets (s.dieOf c * 8 + p) l
      s.Took c p rest o u r ∧ ∀ k ∈ l, ∃ f ∈ u.fab.reqs, (f.id, k.back) ∈ ws ∧
        f.owner = .pump (s.dieOf c * 8 + p) ∧ f.type = k.type ∧ f.node = k.node ∧ f.addr = k.addr ∧ f.len = k.len ∧
        f.body = k.body := by
  obtain ⟨r, ws, hr, hlen, hpumps, hmem, hcore, hreqs⟩ := State.packets_spec (v := s.popStream c) (o := o) hsent hl hp
    hfree hlow
  refine ⟨r, ws, hr, hlen, ⟨?_, congrArg Mem.cells hmem, hpumps, ?_, ?_, ?_, ?_⟩, hreqs⟩
  · rw [hcore]
    exact State.pumpQ_popStream hq
  all_goals rw [hr]; rfl

/-- Host pump `p` has taken operation `o` from the head of its queue as run `r`; no byte of memory changed. -/
structure State.TookHost (s : State) (c p : Nat) (rest : List Nat) (o : AsyncOp) (u : State) (r : PumpRun) : Prop where
  queue : (u.core c).hostQ = rest
  pumps : u.pumps = s.pumps ++ [r]
  host : r.host = true
  pump : r.pump = p
  op : r.op = some o.id
  cells : u.mem.cells = s.mem.cells
  hostMem : u.mem.host = s.mem.host

theorem State.took_host {u : State} {r : PumpRun} (hq : (s.core c).hostQ = id :: rest)
    (hu : State.UnitStep False False (s.popHost c) u) (hr : r.host = true ∧ r.pump = p ∧ r.op = some o.id) :
    s.TookHost c p rest o (u.addRun r) r := by
  obtain ⟨hhost, hpump, hop⟩ := hr
  obtain ⟨_, _, _, _, hcore⟩ := hu.core c
  have hq' : ((s.popHost c).core c).hostQ = rest := by rw [s.core_popHost c, hq]; rfl
  refine ⟨?_, congrArg (· ++ [r]) hu.pumps, hhost, hpump, hop, hu.sameCells, hu.host⟩
  rw [show (u.addRun r).core c = u.core c from rfl, hcore]
  exact hq'

theorem State.startHost_took (hc : c < s.lcores) (ha : s.awake c = true) (hq : (s.core c).hostQ = id :: rest)
    (hquiet : s.err.perturbGo = false) (o : AsyncOp) (p : Nat) :
    ∃ r, s.TookHost c p rest o ((s.popHost c).startHost o p) r ∧
      (iSubP o.word = 1 → s.sourceClean c o → r = toHostRun p o (s.sourceBytes o) none) ∧
      (iSubP o.word = 2 → r.hostWrites = [] ∧ r.writes = s.hostRows o) := by
  by_cases h1 : iSubP o.word = 1 ∧ s.sourceClean c o
  · obtain ⟨hsub, hclean⟩ := h1
    have hrun := State.startHost_toHost (v := s.popHost c) (p := p) hc ha hquiet
      (hclean.alike (s.alikeOn_popHost c)) hsub
    exact ⟨_, hrun ▸ State.took_host hq (.refl _) ⟨rfl, rfl, rfl⟩, fun _ _ => rfl,
      fun h2 => absurd (hsub.symm.trans h2) (by decide)⟩
  by_cases h2 : iSubP o.word = 2
  · have hrun := State.startHost_fromHost (v := s.popHost c) (p := p) hquiet h2
    exact ⟨_, hrun ▸ State.took_host hq (.refl _) ⟨rfl, rfl, rfl⟩, fun h hclean => absurd ⟨h, hclean⟩ h1,
      fun _ => ⟨rfl, rfl⟩⟩
  · obtain ⟨u, r, step, hrun, hr⟩ := State.startHost_cases (v := s.popHost c) hquiet o p
    exact ⟨r, hrun ▸ State.took_host hq step hr, fun h hclean => absurd ⟨h, hclean⟩ h1, fun h => absurd h h2⟩

/-! ## The statement -/

/-- Settles O36: each unit begins the head of its queue, the state it computes from being the one before the start but
for that queue. -/
theorem unitStarts : Obligations.UnitStarts := by
  unfold Obligations.UnitStarts
  refine ⟨⟨fun c a id rest o s hc ha => ?_, fun c id rest o s hc hq hop hawake hrun hreach => ?_⟩,
    fun c p id rest o s hc hp hawake hq hop hfree hsuits hearly hreach => ?_,
    fun c p id rest o s hc hp hawake hq hop hgo hfree hearly hreach hquiet => ?_,
    fun c p id rest o s hc hp hawake hq hop hgo hm hcore => ?_⟩
  · intro x hq hop hawake hgo hheld hbusy hwait hrun hslots hreach
    obtain ⟨hqueue, hcells, hcase⟩ := State.arrBegin_spec hq hop hrun
    refine ⟨_, exec_arrayInstructionStart hc ha hq hop hawake hgo hheld hbusy hwait hrun hslots hreach, hqueue, hcells,
      hcase, fun hword hsub => ?_⟩
    obtain ⟨hbank, hclear⟩ := State.arrBegin_clear (c := c) (a := a) hrun hword hsub
    exact ⟨congrArg Bank.kind hbank, congrArg Bank.elems hbank, hclear⟩
  · obtain ⟨hqueue, hcase⟩ := State.sfuBegin_spec hq hop hrun
    refine ⟨_, exec_sfuInstructionStart hc hq hop hawake hrun hreach, hqueue, hcase, fun ws fl v hidle hexec => ?_⟩
    have hprep := State.sfuPrep_idle hidle
    rw [hq, List.drop_one, List.tail_cons] at hprep
    rw [State.sfuBegin_ok (hprep ▸ hexec), State.core_setCore]
  · have hexec := exec_pumpTransferStart_stream hc hp hawake hq hop hfree hsuits hearly hreach
    have halike := s.alikeOn_popStream c
    refine ⟨fun hsub => ?_, fun hsub hroute hsent hlow hclean => ?_, fun hsub hsent hlow hroute => ?_⟩
    · by_cases hclean : s.sourceClean c o
      · have hrun := State.startStream_copy_clean (v := s.popStream c) (d := s.dieOf c) (p := p) hc hawake
          (hclean.alike halike) hsub
        have took := State.took_copy (p := p) (o := o) hq (.refl _) ((s.popStream c).rows o) none
        rw [hrun] at hexec
        exact ⟨_, _, ⟨hexec, took.queue, took.cells, took.pumps, rfl, rfl, rfl, rfl⟩, rfl, fun _ => ⟨rfl, rfl⟩⟩
      · obtain ⟨u, ws, e, step, hrun⟩ := (s.popStream c).startStream_copy (s.dieOf c) p hsub
        have took := State.took_copy (p := p) (o := o) hq step ws e
        rw [hrun] at hexec
        exact ⟨_, _, ⟨hexec, took.queue, took.cells, took.pumps, rfl, rfl, rfl, rfl⟩, rfl, fun h => absurd h hclean⟩
    · have hrun := State.startStream_put_clean (v := s.popStream c) (d := s.dieOf c) (p := p) hc hawake
        (State.sourceClean.alike hclean halike) hsub hroute
      obtain ⟨r, ws, rfl, -, took, hreqs⟩ := State.took_packets (o := o) (l := putPkts (o.ra.extractLsb' 0 16) (s.rows o))
        hq hsent (fun k hk => node_of_mem_putPkts hk ▸ State.onWay_of_routed hroute) hp hfree hlow
      rw [hrun] at hexec
      refine ⟨_, _, ⟨hexec, took.queue, took.cells, took.pumps, rfl, rfl, rfl, rfl⟩, rfl, rfl, fun w hw _ i hi => ?_⟩
      obtain ⟨k, hk, htype, hnode, haddr, hbody⟩ := mem_putPkts hw hi
      obtain ⟨f, hf, -, howner, htype', hnode', haddr', -, hbody'⟩ := hreqs k hk
      exact ⟨f, hf, howner, htype'.trans htype, hnode'.trans hnode, haddr'.trans haddr, hbody'.trans hbody⟩
    · have hrun := State.startStream_get (v := s.popStream c) (d := s.dieOf c) (p := p) hsub hsent hroute
      obtain ⟨r, ws, rfl, hlen, took, hreqs⟩ := State.took_packets (o := o)
        (l := s.getPkts (o.ra.extractLsb' 0 16)
          (remoteChunks 256 (descAt o.d (iDa o.word)).segs (descAt o.d (iDd o.word)).segs)) hq hsent
        (fun k hk => by
          obtain ⟨e, he, rfl⟩ := List.mem_map.1 hk
          exact State.onWay_of_reachable (hroute e he)) hp hfree hlow
      rw [hrun] at hexec
      refine ⟨_, _, ⟨hexec, took.queue, took.cells, took.pumps, rfl, rfl, rfl, rfl⟩, rfl, rfl,
        hlen.trans (List.length_map ..), fun k hk => ?_⟩
      obtain ⟨f, hf, hw, howner, htype, hnode, haddr, hflen, -⟩ := hreqs _ (List.mem_map_of_mem hk)
      exact ⟨f, hf, howner, htype, hnode, haddr, hflen, hw⟩
  · have hexec := exec_pumpTransferStart_host hc hp hawake hq hop hgo hfree hearly hreach
    obtain ⟨r, took, htoHost, hfromHost⟩ := State.startHost_took hc hawake hq hquiet o p
    refine ⟨_, r, hexec, took.queue, took.pumps, took.host, took.pump, took.op, took.cells, took.hostMem,
      fun hsub hclean => ?_, hfromHost⟩
    rw [htoHost hsub hclean]
    exact ⟨rfl, rfl, rfl⟩
  · have hpop : ((s.popHost c).core c).hostQ = rest := by rw [s.core_popHost c, hq]; rfl
    obtain ⟨_, _, _, hfail⟩ := (s.popHost c).signalled_opFail o cHostAbort 5 c
    refine ⟨_, exec_pumpTransferStart_stopped hc hp hawake hq hop hgo, ?_, State.op?_opFail .., State.mem_opFail .., ?_⟩
    · rw [hfail]
      exact hpop
    · rw [← hcore]
      exact State.thread_opFail _ hm

end Sys2Proof.Machine
end

section
/-! SUPPORT. The issue of an instruction that enters a unit queue, and what its operation finds there (04 R107, R112, R136).
-/

namespace Sys2Proof.Machine

variable {s u : State} {c t op sub : Nat} {w ra rb : BitVec 64} {q : UnitQ}

/-- The operation that the instruction becomes. -/
def State.issuedOp (s : State) (c t : Nat) (w ra rb : BitVec 64) : AsyncOp := mkOp s.nextId c t (s.thread c t) w ra rb

/-- The thread has stepped and the operation exists. -/
def State.withOp (s : State) (c t : Nat) (w ra rb : BitVec 64) : State :=
  { s.advance c t with nextId := s.nextId + 1, ops := s.ops ++ [s.issuedOp c t w ra rb] }

/-- … and is the last of its queue: the state after the issue. -/
def State.submitted (s : State) (c t : Nat) (w ra rb : BitVec 64) (q : UnitQ) : State :=
  (s.withOp c t w ra rb).setUnitQ c q (s.unitQ c q ++ [s.nextId])

theorem State.unitQ_advance (s : State) (c t c' : Nat) (q : UnitQ) : (s.advance c t).unitQ c' q = s.unitQ c' q := by
  cases q <;> rfl

theorem State.enqueue_advance (s : State) (c t : Nat) (w ra rb : BitVec 64) (q : UnitQ) (bad : Option (BitVec 8)) :
    (s.advance c t).enqueue c t (s.thread c t) w ra rb q bad =
      if q.depth ≤ (s.unitQ c q).length then .hold
      else match bad with
        | some e => .exc e
        | none => .done (s.submitted c t w ra rb q) := by
  have hq (n : Nat) (l : List AsyncOp) : ({ s.advance c t with nextId := n, ops := l } : State).unitQ c q = s.unitQ c q := by
    cases q <;> rfl
  unfold State.enqueue
  rw [State.unitQ_advance]
  split
  · rfl
  · cases bad with
    | some e => rfl
    | none => exact congrArg Eff.done (congrArg _ (congrArg (· ++ [s.nextId]) (hq ..)))

/-- An instruction whose body enters a queue: with a place and no failed check it becomes an operation there; a failed
check raises its cause; a full queue holds it. -/
theorem exec_enqueue {i : Instr} {body : Thread → State → Eff} {unit : BitVec 3} {bad : Option (BitVec 8)}
    (h : Acts op sub c t w s) (hexec : exec i s = issue op sub c t w s body)
    (hbody : body (s.thread c t) (s.advance c t) = (s.advance c t).enqueue c t (s.thread c t) w ra rb q bad)
    (hu : unitOf op = some unit) :
    ((s.unitQ c q).length < q.depth → bad = none → exec i s = .next (s.submitted c t w ra rb q)) ∧
    (∀ e, (s.unitQ c q).length < q.depth → bad = some e →
      exec i s = .next (s.setThread c t (Thread.except { s.thread c t with state := .ready } e unit 0))) ∧
    (q.depth ≤ (s.unitQ c q).length → exec i s = .next s) := by
  rw [State.enqueue_advance] at hbody
  refine ⟨fun hlen hbad => ?_, fun e hlen hbad => ?_, fun hlen => ?_⟩
  · rw [if_neg (Nat.not_le.2 hlen), hbad] at hbody
    exact hexec.trans (issue_done h hbody)
  · rw [if_neg (Nat.not_le.2 hlen), hbad] at hbody
    exact hexec.trans (issue_exc h hu hbody)
  · rw [if_pos hlen] at hbody
    exact hexec.trans (issue_hold h hbody)

/-! ## What the issue leaves -/

theorem State.unitQ_setUnitQ (s : State) (c : Nat) (q : UnitQ) (l : List Nat) : (s.setUnitQ c q l).unitQ c q = l := by
  cases q with
  | array a => exact congrArg Arr.queue (s.arr_setArr c a { s.arr c a with queue := l })
  | sfu => exact congrArg Core.sfuQ (s.core_setCore c { s.core c with sfuQ := l })
  | pump => exact congrArg Core.pumpQ (s.core_setCore c { s.core c with pumpQ := l })
  | host => exact congrArg Core.hostQ (s.core_setCore c { s.core c with hostQ := l })
  | col => exact congrArg Core.colQ (s.core_setCore c { s.core c with colQ := l })

/-- A queue of a unit is in its array or its core; the order of the stream queues' heads may follow. -/
theorem State.setUnitQ_cases (s : State) (c : Nat) (q : UnitQ) (l : List Nat) : ∃ cs as hs,
    s.setUnitQ c q l = { s with cores := cs, arrs := as, pumpHeads := hs } ∧
    ∀ c', (s.core c').SameSems (Tab.get Core.init cs c') := by
  cases q with
  | array a => exact ⟨s.cores, _, s.pumpHeads, rfl, fun _ => .refl _⟩
  | sfu => exact ⟨_, s.arrs, s.pumpHeads, rfl,
      s.sameSems_modCore (f := fun k => { k with sfuQ := l }) (fun _ => ⟨rfl, rfl, rfl⟩) c⟩
  | pump => exact ⟨_, s.arrs, _, rfl, s.sameSems_modCore (f := fun k => { k with pumpQ := l }) (fun _ => ⟨rfl, rfl, rfl⟩) c⟩
  | host => exact ⟨_, s.arrs, s.pumpHeads, rfl,
      s.sameSems_modCore (f := fun k => { k with hostQ := l }) (fun _ => ⟨rfl, rfl, rfl⟩) c⟩
  | col => exact ⟨_, s.arrs, s.pumpHeads, rfl,
      s.sameSems_modCore (f := fun k => { k with colQ := l }) (fun _ => ⟨rfl, rfl, rfl⟩) c⟩

theorem State.thread_setUnitQ (s : State) (c : Nat) (q : UnitQ) (l : List Nat) (c' t' : Nat) :
    (s.setUnitQ c q l).thread c' t' = s.thread c' t' := by
  cases q <;> rfl

/-- The operation is the last of its queue, with the operands of its issue. -/
theorem State.queuedAs_submitted (s : State) (c t : Nat) (w ra rb : BitVec 64) (q : UnitQ) :
    QueuedAs (s.issuedOp c t w ra rb) c t w ra rb s (s.submitted c t w ra rb q) fun u => u.unitQ c q := by
  obtain ⟨_, _, _, h, -⟩ := (s.withOp c t w ra rb).setUnitQ_cases c q (s.unitQ c q ++ [s.nextId])
  have hmem : (s.submitted c t w ra rb q).mem = s.mem := by rw [State.submitted, h]; rfl
  have hops : (s.submitted c t w ra rb q).ops = s.ops ++ [s.issuedOp c t w ra rb] := by rw [State.submitted, h]; rfl
  have hth : (s.withOp c t w ra rb).thread c t = (s.thread c t).stepped := s.thread_advance c t
  exact ⟨hops, State.unitQ_setUnitQ .., rfl, rfl, rfl, rfl, rfl, rfl, rfl, rfl, rfl, rfl, rfl,
    (State.thread_setUnitQ ..).trans hth, hmem⟩

/-- A completion seen from an earlier state in which the semaphores and the record of its thread were the same. -/
theorem Completed.of_alike {o : AsyncOp} {fl : BitVec 4} {z : State} (hz : Completed o fl u z)
    (hk : (s.core o.core).SameSems (u.core o.core))
    (hth : (u.thread o.core o.thread).status = (s.thread o.core o.thread).status) : Completed o fl s z := by
  obtain ⟨hop, hfault, hflags, hsem⟩ := hz
  obtain ⟨hf, hp⟩ := Prod.mk.inj hth
  obtain ⟨hsems, hwait, hdiked⟩ := hk
  rw [hsems, hwait, hdiked] at hsem
  exact ⟨hop, hfault.trans hf, hflags.trans (by rw [hp]), hsem⟩

/-- `u` follows `s` by the issue of operation `o`. -/
structure State.Submits (s : State) (o : AsyncOp) (u : State) : Prop where
  rest : ∃ ts cs as hs, u = { s with
    threads := ts, nextId := s.nextId + 1, ops := s.ops ++ [o], cores := cs, arrs := as, pumpHeads := hs }
  sems : ∀ c, (s.core c).SameSems (u.core c)
  status : ∀ c t, (u.thread c t).status = (s.thread c t).status
  op : s.opsOld → u.op? o.id = some o

theorem State.submits (s : State) (c t : Nat) (w ra rb : BitVec 64) (q : UnitQ) :
    s.Submits (s.issuedOp c t w ra rb) (s.submitted c t w ra rb q) := by
  obtain ⟨cs, as, hs, h, hsems⟩ := (s.withOp c t w ra rb).setUnitQ_cases c q (s.unitQ c q ++ [s.nextId])
  refine ⟨?_, fun c' => ?_, fun c' t' => ?_, fun hold => ?_⟩
  · rw [State.submitted, h]
    exact ⟨_, cs, as, hs, rfl⟩
  · rw [State.submitted, h]
    exact hsems c'
  · rw [State.submitted, State.thread_setUnitQ]
    exact s.status_setThread (x := (s.thread c t).stepped) rfl c' t'
  · have hnone : s.ops.find? (fun o => o.id == s.nextId) = none :=
      List.find?_eq_none.2 fun y hy => by simpa using (hold y hy).ne
    have hops : (s.submitted c t w ra rb q).ops = s.ops ++ [s.issuedOp c t w ra rb] := by rw [State.submitted, h]; rfl
    rw [State.op?, hops, List.find?_append, show (s.issuedOp c t w ra rb).id = s.nextId from rfl, hnone]
    simp [State.issuedOp, mkOp]

namespace State.Submits

variable {o : AsyncOp} (h : s.Submits o u)
include h

theorem alike (c : Nat) : s.AlikeOn c u := by
  have hdiked := (h.sems c).diked
  obtain ⟨_, _, _, _, rfl⟩ := h.rest
  exact ⟨rfl, rfl, rfl, hdiked, rfl, rfl, rfl⟩

theorem place (a : Nat) : u.place a = s.place a := by
  have hdiked (c : Nat) := (h.sems c).diked
  obtain ⟨_, _, _, _, rfl⟩ := h.rest
  unfold State.place
  simp only [hdiked]
  rfl

theorem reaches {d : Option Nat} {segs : List (Nat × Nat)} (hr : s.reaches d segs) : u.reaches d segs := by
  have hplace := h.place
  obtain ⟨_, _, _, _, rfl⟩ := h.rest
  obtain ⟨hup, hline⟩ := hr
  refine ⟨?_, ?_⟩
  · rw [← hup, State.segsUp, State.segsUp]
    simp only [State.pathUp, State.hubPath, hplace]
    rfl
  · rw [← hline, State.segsLine, State.segsLine]
    simp only [State.canon, hplace]
    rfl

/-- A completion after the issue, seen from before it. -/
theorem completed {fl : BitVec 4} {z : State} (hz : Completed o fl u z) : Completed o fl s z :=
  hz.of_alike (h.sems o.core) (h.status o.core o.thread)

end State.Submits

end Sys2Proof.Machine
end

section
/-! SUPPORT. The statements about the instructions of the array queues and of the SFU queue: from their issue to their end.
-/

namespace Sys2Proof.Machine

variable {s : State} {c t a : Nat} {w ra rb : BitVec 64} {o : AsyncOp}

/-! ## An array -/

theorem State.arr_submitted (s : State) (c t : Nat) (w ra rb : BitVec 64) (a : Nat) :
    (s.submitted c t w ra rb (.array a)).arr c a =
      { s.arr c a with queue := (s.arr c a).queue ++ [s.nextId] } := State.arr_setArr ..

/-- An array whose runs stay holds the slots it held. -/
theorem State.slotsUsed_setArr {x : Arr} (h : x.run = (s.arr c a).run) (c' : Nat) :
    (s.setArr c a x).slotsUsed c' = s.slotsUsed c' := by
  have hruns : (List.range 4).map (fun b => (((s.setArr c a x).arr c' b).run.map ArrRun.slots).sum) =
      (List.range 4).map fun b => ((s.arr c' b).run.map ArrRun.slots).sum := by
    refine List.map_congr_left fun b _ => ?_
    by_cases hb : c' * 4 + b = c * 4 + a
    · have hget (u : State) : u.arr c' b = u.arr c a := congrArg (Tab.get Arr.init u.arrs) hb
      rw [hget, hget s, State.arr_setArr, h]
    · rw [State.arr_setArr_ne _ _ _ _ hb]
  rw [State.slotsUsed, State.slotsUsed, hruns]
  rfl

theorem State.slotsUsed_submitted (s : State) (c t : Nat) (w ra rb : BitVec 64) (a : Nat) :
    (s.submitted c t w ra rb (.array a)).slotsUsed c = s.slotsUsed c :=
  (State.slotsUsed_setArr (s := s.withOp c t w ra rb)
    (x := { s.arr c a with queue := (s.arr c a).queue ++ [s.nextId] }) rfl c).trans (s.slotsUsed_advance c t)

/-- The end of the only run of an array, its checks passing and its outputs clean. -/
theorem State.ArrBegun.ends {r : ArrOut} {x : ArrRun} {y v : State} (h : State.ArrBegun y c a o r v x) (hc : c < y.lcores)
    (ha : a < 4) (hawake : y.awake c = true) (hop : y.op? o.id = some o) (hm : o.mute = false)
    (hq : y.err.perturbGo = false) (hrun : (y.arr c a).run = []) (hout : OutsClean v c x.writes)
    (hpass : ∀ d ∈ x.checks, d.differs = false) : ∃ z, exec (.arrayInstructionEnd c a none 0) v = .next z ∧
      (z.arr c a).run = [] ∧ z.mem = v.written x.writes ∧ Completed o x.flags v z := by
  have ended := unitCompletions
  unfold Obligations.UnitCompletions at ended
  have hruns := h.run
  have hxop := h.op
  rw [hrun, List.nil_append] at hruns
  have like : c < v.lcores ∧ v.awake c = true ∧ v.op? o.id = some o ∧ v.err.perturbGo = false := by
    obtain ⟨bs, f, as, rfl⟩ := h.rest
    exact ⟨hc, hawake, hop, hq⟩
  obtain ⟨hc', hawake', hop', hq'⟩ := like
  obtain ⟨z, hz, hleft, -, hmem, hdone⟩ := ended.1 c a o.id x [] none 0 o v hc' ha hawake' hruns hxop hop' hm hq' hout
    fun i k hk => ⟨hpass k (List.mem_of_getElem? hk), fun h => nomatch h⟩
  exact ⟨z, hz, hleft, hmem, hdone⟩

/-- Settles O25: the issue, then the start and the end of the only operation of an array. -/
theorem arrayIssue : Obligations.ArrayIssue := by
  unfold Obligations.ArrayIssue
  intro c t w s th a locked queue x k hk h
  obtain ⟨hexec, hunit⟩ : exec (k.2.2.1 c t w) s = tensorArray k.1 k.2.1 c t w s k.2.2.2 ∧ unitOf k.1 = some 4 := by
    simp only [List.mem_cons, List.not_mem_nil, or_false] at hk
    obtain rfl | rfl | rfl | rfl | rfl | rfl := hk <;> exact ⟨rfl, rfl⟩
  obtain ⟨hdone, hexc, hhold⟩ := exec_enqueue (ra := 0) (rb := 0) (q := .array a) h hexec rfl hunit
  have hqueued := s.queuedAs_submitted c t w 0 0 (.array a)
  refine ⟨fun hlen hbad => ⟨_, hdone hlen hbad, _, hqueued⟩, hexc, hhold,
    fun hbad hempty hrun hgo hheld hbusy hwait hsfu hslots hquiet hold hreach => ?_⟩
  have ha : a < 4 := th.mode.array.isLt
  have hsub := s.submits c t w 0 0 (.array a)
  have harr := s.arr_submitted c t w 0 0 a
  have hu := hdone (by rw [show s.unitQ c (.array a) = [] from hempty]; exact Nat.succ_pos 7) hbad
  have hslots' := s.slotsUsed_submitted c t w 0 0 a
  have hsfu' : ((s.submitted c t w 0 0 (.array a)).core c).sfuRun = none := hsfu
  rw [show (s.arr c a).queue = [] from hempty, List.nil_append] at harr
  generalize s.submitted c t w 0 0 (.array a) = u at *
  generalize s.issuedOp c t w 0 0 = o at *
  have hfields := hqueued
  obtain ⟨-, -, hid, -, -, hword, -, hd, -, -, -, -, hm, -, -⟩ := hfields
  have halike := hsub.alike c
  have hop := hsub.op hold
  have hc : c < u.lcores := by rw [halike.lcores]; exact h.core
  have hawake := halike.awake.trans h.awake
  have hq := halike.quiet.trans hquiet
  have hqueue : (u.arr c a).queue = [o.id] := by rw [harr, hid]
  have hrun' : (u.arr c a).run = [] := by rw [harr]; exact hrun
  have hstart := exec_arrayInstructionStart (o := o) hc ha hqueue hop hawake (by rw [harr]; exact hgo)
    (by rw [harr]; exact hheld) (by rw [harr]; exact hbusy) (by rw [harr]; exact hwait) hrun'
    (fun _ => by rw [hslots']; exact hslots) (halike.dieOf.symm ▸ hsub.reaches (hreach o hword hd))
  refine ⟨o, u, _, hu, hqueued, hstart, (State.arrBegin_spec hqueue hop hrun').1, fun out y hy => ?_⟩
  have hprep : u.arrPrep c a o = u.setArr c a { u.arr c a with queue := [] } := by
    rw [State.arrPrep_quiet hq hsfu', hqueue]
    rfl
  have hstep := ((u.arrPrep c a o).keeps_arrRun_any o).ok
  have hrun'' : ((u.arrPrep c a o).arr c a).run = [] := by rw [State.arr_arrPrep]; exact hrun'
  rw [← hprep] at hy
  obtain ⟨x, hx⟩ := State.arrBegin_ok hy
  rw [hy] at hstep
  have step := hstep out rfl
  have hmem : (u.arrBegin c a o).mem = y.mem := by
    obtain ⟨_, _, _, hrest⟩ := hx.rest
    rw [hrest]
  have hruns := hx.run
  rw [step.arr, hrun'', List.nil_append] at hruns
  rw [hprep] at step
  exact ⟨x, hruns, hx.op, hx.writes, hx.flags, hx.checks, hmem, hx.bank, fun hout hpass =>
    hx.ends (by rw [step.lcores]; exact hc) ha ((step.awake c).trans hawake) ((step.op? o.id).trans hop) hm
      (step.quiet.trans hq) (by rw [step.arr, ← hprep]; exact hrun'') hout hpass⟩

/-! ## The SFU -/

theorem State.core_submitted_sfu (s : State) (c t : Nat) (w ra rb : BitVec 64) :
    (s.submitted c t w ra rb .sfu).core c = { s.core c with sfuQ := (s.core c).sfuQ ++ [s.nextId] } :=
  State.core_setCore ..

/-- A core whose arrays are idle executes no ATTEND. -/
theorem State.attending_idle (h : ∀ a < 4, (s.arr c a).run = []) : s.attending c = false := by
  rw [State.attending, List.any_eq_false]
  intro a ha
  rw [h a (List.mem_range.1 ha), List.any_nil]
  exact Bool.false_ne_true

/-- Settles O26: the issue, then the start and the end of the only operation of the SFU queue. -/
theorem sfuIssue : Obligations.SfuIssue := by
  unfold Obligations.SfuIssue
  intro c t w s th locked queue k hk h
  obtain ⟨hexec, hunit⟩ : exec (k.2.2.1 c t w) s = tensorSfu k.1 k.2.1 c t w s k.2.2.2 ∧ unitOf k.1 = some 4 := by
    simp only [List.mem_cons, List.not_mem_nil, or_false] at hk
    obtain rfl | rfl | rfl | rfl | rfl | rfl | rfl | rfl | rfl := hk <;> exact ⟨rfl, rfl⟩
  obtain ⟨hdone, hexc, hhold⟩ := exec_enqueue (ra := 0) (rb := 0) (q := .sfu) h hexec rfl hunit
  have hqueued := s.queuedAs_submitted c t w 0 0 .sfu
  refine ⟨fun hlen hbad => ⟨_, hdone hlen hbad, _, hqueued⟩, hexc, hhold,
    fun hbad hempty hrun hold hidle hreach => ?_⟩
  have hsub := s.submits c t w 0 0 .sfu
  have hcore := s.core_submitted_sfu c t w 0 0
  have hu := hdone (by rw [show s.unitQ c .sfu = [] from hempty]; exact Nat.succ_pos 7) hbad
  have hidle' : (s.submitted c t w 0 0 .sfu).attending c = false := State.attending_idle hidle
  rw [hempty, List.nil_append] at hcore
  generalize s.submitted c t w 0 0 .sfu = u at *
  generalize s.issuedOp c t w 0 0 = o at *
  have hfields := hqueued
  obtain ⟨-, -, hid, -, -, hword, -, hd, -, -, -, -, hm, -, -⟩ := hfields
  have halike := hsub.alike c
  have hop := hsub.op hold
  have hc : c < u.lcores := by rw [halike.lcores]; exact h.core
  have hawake := halike.awake.trans h.awake
  have hqueue : (u.core c).sfuQ = [o.id] := by rw [hcore, hid]
  have hrun' : (u.core c).sfuRun = none := by rw [hcore]; exact hrun
  have hstart := exec_sfuInstructionStart (o := o) hc hqueue hop hawake hrun'
    (halike.dieOf.symm ▸ hsub.reaches (hreach o hword hd))
  refine ⟨o, u, _, hu, hqueued, hstart, (State.sfuBegin_spec hqueue hop hrun').1, fun ws fl y hy => ?_⟩
  have hprep : u.sfuPrep c = u.setCore c { u.core c with sfuQ := [] } := by
    rw [State.sfuPrep_idle hidle', hqueue]
    rfl
  have hstep := ((u.setCore c { u.core c with sfuQ := [] }).keeps_sfuExec (W := False) o).ok
  rw [hy] at hstep
  have step := hstep (ws, fl) rfl
  rw [← hprep] at hy
  rw [State.sfuBegin_ok hy]
  have hruns := y.core_setCore c { y.core c with sfuRun := some ⟨o.id, ws, fl⟩ }
  refine ⟨congrArg Core.sfuRun hruns, rfl, fun hout => ?_⟩
  have ended := unitCompletions
  unfold Obligations.UnitCompletions at ended
  exact ended.2.1 c ⟨o.id, ws, fl⟩ o _ (step.lcores.symm ▸ hc : c < y.lcores) ((step.awake c).trans hawake)
    (congrArg Core.sfuRun hruns) ((step.op? o.id).trans hop) hm hout

end Sys2Proof.Machine
end

section
/-! SUPPORT. A transfer from its start to its end, where nothing else waits for its pump (04 R127, R128; 13 R423, R435). -/

namespace Sys2Proof.Machine

variable {s u v : State} {c p : Nat} {o : AsyncOp}

/-! ## The end of a transfer -/

theorem State.dieOf_lt (h : c < s.lcores) : s.dieOf c < 4 := Nat.div_lt_of_lt_mul h

/-- The run that was added last is the one of its pump. -/
theorem State.find?_addRun {r : PumpRun} {f : PumpRun → Bool} (hnone : ∀ q ∈ s.pumps, f q = false) (hr : f r = true) :
    (s.addRun r).pumps.find? f = some r := by
  have h : s.pumps.find? f = none := List.find?_eq_none.2 fun q hq => by rw [hnone q hq]; exact Bool.false_ne_true
  rw [State.addRun, List.find?_append, h, Option.none_or, List.find?_singleton, hr]
  rfl

/-- No run is in a stream pump that is free. -/
theorem State.no_stream_run {d : Nat} (hp : p < 8) (hfree : s.pumpFree false d p = true)
    (hlow : ∀ q ∈ s.pumps, q.host = false → q.pump < 8) :
    ∀ q ∈ s.pumps, (q.host == false && (if false = true then q.pump == d * 8 + p else q.die * 8 + q.pump == d * 8 + p)) =
      false := by
  intro q hq
  simp only [State.pumpFree, Bool.false_or, Bool.not_eq_true', List.any_eq_false] at hfree
  have hother := hfree q hq
  have hqp := hlow q hq
  simp only [Bool.and_eq_true, beq_iff_eq, not_and] at hother
  simp only [Bool.false_eq_true, if_false, Bool.and_eq_false_imp, beq_iff_eq, beq_eq_false_iff_ne]
  intro hhost hx
  have := hqp hhost
  exact hother ⟨hhost, by omega⟩ (by omega)

/-- No run is in a host pump of the thread pool that is free. -/
theorem State.no_host_run (hfree : s.threadHostPump = some p) :
    p < 16 ∧ ∀ q ∈ s.pumps, (q.host == true && (if true = true then q.pump == p else q.die * 8 + q.pump == p)) = false := by
  have hmem := List.mem_range.1 (List.mem_of_find?_eq_some hfree)
  have hp := List.find?_some hfree
  simp only [State.pumpFree, Bool.true_or, Bool.and_true, Bool.and_eq_true, Bool.not_eq_true', List.any_eq_false] at hp
  refine ⟨hmem, fun q hq => ?_⟩
  have := hp.2 q hq
  simpa using this

/-- The end of a transfer that has just started, with no error and nothing outstanding. -/
theorem State.transfer_ends {host : Bool} {x : Nat} {r : PumpRun} (hx : x < if host then 16 else 32)
    (hc : c < v.lcores) (ha : v.awake c = true) (hop : v.op? o.id = some o) (hm : o.mute = false)
    (hnone : ∀ q ∈ v.pumps,
      (q.host == host && (if host then q.pump == x else q.die * 8 + q.pump == x)) = false)
    (hr : (r.host == host && (if host then r.pump == x else r.die * 8 + r.pump == x)) = true)
    (hfields : r.waiting = [] ∧ r.op = some o.id ∧ r.cmd = none ∧ r.err = none) (hout : OutsClean v c r.writes)
    (hside : if host then v.pilUp (v.dieOf c) = true else r.die = v.dieOf c) :
    ∃ z, exec (.pumpTransferComplete host x) (v.addRun r) = .next z ∧ z.mem.cells = (v.written r.writes).cells ∧
      z.mem.host = (v.putHost r.hostWrites).mem.host ∧ Completed o 0 v z := by
  have ended := unitCompletions
  unfold Obligations.UnitCompletions at ended
  obtain ⟨hwait, hrop, hcmd, herr⟩ := hfields
  have hout' : OutsClean (v.addRun r) c r.writes := hout.alike ⟨rfl, rfl, rfl, rfl, rfl, rfl, rfl⟩
  obtain ⟨z, hz, -, hcells, hhost, hdone⟩ := ended.2.2 host x c o.id o r (v.addRun r) hx hc ha (State.find?_addRun hnone hr)
    hwait hrop hcmd herr hop hm hout' hside
  exact ⟨z, hz, hcells.trans (congrArg Mem.cells (State.written_congr (s := v) (u := v.addRun r) rfl _)),
    hhost.trans (State.putHost_congr (s := v) (u := v.addRun r) rfl _), hdone⟩

/-! ## COPY, TO_HOST and FROM_HOST -/

theorem State.sameSems_popStream (s : State) (c c' : Nat) : (s.core c').SameSems ((s.popStream c).core c') :=
  State.sameSems_modCore (f := fun k => { k with pumpQ := k.pumpQ.drop 1 }) (fun _ => ⟨rfl, rfl, rfl⟩) s c c'

theorem State.sameSems_popHost (s : State) (c c' : Nat) : (s.core c').SameSems ((s.popHost c).core c') :=
  State.sameSems_modCore (f := fun k => { k with hostQ := k.hostQ.drop 1 }) (fun _ => ⟨rfl, rfl, rfl⟩) s c c'

variable (hc : c < s.lcores) (ha : s.awake c = true) (hop : s.op? o.id = some o) (hm : o.mute = false)
include hc ha hop hm

theorem State.copy_runs (hp : p < 8) (hq : (s.core c).pumpQ = [o.id]) (hfree : s.pumpFree false (s.dieOf c) p = true)
    (hlow : ∀ q ∈ s.pumps, q.host = false → q.pump < 8) (hsuits : iPsel o.word = 0 ∨ iPsel o.word = p + 8)
    (hearly : s.syncHeads.earlierHead c o.id = false) (hreach : s.reaches (some (s.dieOf c)) o.reads)
    (hclean : s.sourceClean c o) (hout : OutsClean s c (s.rows o)) (hsub : iSubP o.word = 0) :
    ∃ v z, exec (.pumpTransferStart c false p) s = .next v ∧
      exec (.pumpTransferComplete false (s.dieOf c * 8 + p)) v = .next z ∧
      z.mem.cells = (s.written (s.rows o)).cells ∧ Completed o 0 s z := by
  have hstart := exec_pumpTransferStart_stream hc hp ha hq hop hfree hsuits hearly hreach
  have halike := s.alikeOn_popStream c
  rw [State.startStream_copy_clean (v := s.popStream c) hc ha (hclean.alike halike) hsub] at hstart
  have hdie := State.dieOf_lt hc
  have hx : s.dieOf c * 8 + p < if false = true then 16 else 32 := by
    rw [if_neg Bool.false_ne_true]
    omega
  obtain ⟨z, hz, hcells, -, hdone⟩ := State.transfer_ends (host := false) (v := s.popStream c)
    (r := copyRun false (s.dieOf c) p o ((s.popStream c).rows o) none 0) hx hc ha hop hm
    (State.no_stream_run hp hfree hlow) (by simp [copyRun, newRun]) ⟨rfl, rfl, rfl, rfl⟩ (hout.alike halike) rfl
  exact ⟨_, z, hstart, hz, hcells.trans (congrArg Mem.cells (State.written_congr (s := s) (u := s.popStream c) rfl _)),
    hdone.of_alike (s.sameSems_popStream c o.core) rfl⟩

theorem State.toHost_runs (hq : (s.core c).hostQ = [o.id]) (hgo : s.dev.go = true) (hfree : s.threadHostPump = some p)
    (hearly : s.earlierHost o.id = false) (hreach : s.reaches none o.reads) (hup : s.pilUp (s.dieOf c) = true)
    (hquiet : s.err.perturbGo = false) (hclean : s.sourceClean c o) (hsub : iSubP o.word = 1) :
    ∃ v z, exec (.pumpTransferStart c true p) s = .next v ∧ exec (.pumpTransferComplete true p) v = .next z ∧
      z.mem.cells = s.mem.cells ∧ z.mem.host = (s.setHostBytes o.ra.toNat (s.sourceBytes o)).mem.host ∧
      Completed o 0 s z := by
  obtain ⟨hp, hnone⟩ := State.no_host_run hfree
  have hstart := exec_pumpTransferStart_host hc hp ha hq hop hgo hfree hearly hreach
  rw [State.startHost_toHost (v := s.popHost c) hc ha hquiet (hclean.alike (s.alikeOn_popHost c)) hsub] at hstart
  obtain ⟨z, hz, hcells, hhost, hdone⟩ := State.transfer_ends (host := true) (v := s.popHost c)
    (r := toHostRun p o ((s.popHost c).sourceBytes o) none) hp hc ha hop hm hnone (by simp [toHostRun, newRun])
    ⟨rfl, rfl, rfl, rfl⟩ (fun _ h => nomatch h) hup
  exact ⟨_, z, hstart, hz, hcells, hhost, hdone.of_alike (s.sameSems_popHost c o.core) rfl⟩

theorem State.fromHost_runs (hq : (s.core c).hostQ = [o.id]) (hgo : s.dev.go = true) (hfree : s.threadHostPump = some p)
    (hearly : s.earlierHost o.id = false) (hup : s.pilUp (s.dieOf c) = true) (hquiet : s.err.perturbGo = false)
    (hout : OutsClean s c (s.hostRows o)) (hsub : iSubP o.word = 2) :
    ∃ v z, exec (.pumpTransferStart c true p) s = .next v ∧ exec (.pumpTransferComplete true p) v = .next z ∧
      z.mem.cells = (s.written (s.hostRows o)).cells ∧ z.mem.host = s.mem.host ∧ Completed o 0 s z := by
  obtain ⟨hp, hnone⟩ := State.no_host_run hfree
  have hreads : o.reads = [] := if_pos (.inl hsub)
  have hstart := exec_pumpTransferStart_host hc hp ha hq hop hgo hfree hearly (by rw [hreads]; exact ⟨rfl, rfl⟩)
  rw [State.startHost_fromHost (v := s.popHost c) hquiet hsub] at hstart
  obtain ⟨z, hz, hcells, hhost, hdone⟩ := State.transfer_ends (host := true) (v := s.popHost c)
    (r := copyRun true 0 p o ((s.popHost c).hostRows o) none ((descAt o.d (iDd o.word)).segs.map Prod.snd).sum) hp hc ha
    hop hm hnone (by simp [copyRun, newRun]) ⟨rfl, rfl, rfl, rfl⟩ (hout.alike (s.alikeOn_popHost c)) hup
  exact ⟨_, z, hstart, hz, hcells.trans (congrArg Mem.cells (State.written_congr (s := s) (u := s.popHost c) rfl _)),
    hhost, hdone.of_alike (s.sameSems_popHost c o.core) rfl⟩

end Sys2Proof.Machine
end

section
/-! SUPPORT. The statement about PUMP and CSUB: from the issue to the end of a transfer, or to its packets. -/

namespace Sys2Proof.Machine

variable {s u : State} {c t sub p : Nat} {w : BitVec 64} {o : AsyncOp} {i : Instr}

/-! ## Heads of queues -/

/-- Every stream head is the head of its core's queue. -/
theorem State.mem_syncHeads {e : Nat × Nat} (he : e ∈ s.syncHeads.pumpHeads) : (s.core e.1).pumpQ.head? = some e.2 := by
  rcases List.mem_append.1 he with he | he
  · exact eq_of_beq (List.mem_filter.1 he).2
  · obtain ⟨c, -, hc⟩ := List.mem_filterMap.1 he
    split at hc
    · next id hhead =>
      split at hc
      · exact nomatch hc
      · cases hc
        exact hhead
    · exact nomatch hc

/-- Where only one core has a stream transfer waiting, none is before it. -/
theorem State.earlierHead_alone {id : Nat} (hq : (s.core c).pumpQ = [id]) (hempty : ∀ c', c' ≠ c → (s.core c').pumpQ = []) :
    s.syncHeads.earlierHead c id = false := by
  have hall : ∀ e ∈ s.syncHeads.pumpHeads, e = (c, id) := fun e he => by
    have hhead := State.mem_syncHeads he
    by_cases hc : e.1 = c
    · rw [hc, hq] at hhead
      exact Prod.ext hc (Option.some.inj hhead).symm
    · rw [hempty _ hc] at hhead
      exact nomatch hhead
  have hnone : s.syncHeads.pumpHeads.takeWhile (· != (c, id)) = [] := by
    cases h : s.syncHeads.pumpHeads with
    | nil => rfl
    | cons e l =>
      rw [h] at hall
      rw [List.takeWhile_cons, hall e (List.mem_cons_self ..), bne_self_eq_false]
      rfl
  rw [State.earlierHead, hnone]
  rfl

theorem State.earlierHost_alone {id : Nat} (hq : (s.core c).hostQ = [id]) (hempty : ∀ c', c' ≠ c → (s.core c').hostQ = []) :
    s.earlierHost id = false := by
  rw [State.earlierHost, List.any_eq_false]
  intro c' _
  by_cases hc : c' = c
  · rw [hc, hq]
    simp
  · rw [hempty c' hc]
    simp

/-! ## PUMP issues -/

theorem pump_issue {q : UnitQ} (h : Acts 0x60 sub c t w s) (hexec : exec i s = pumpIssue sub c t w s)
    (hq : (if sub = 1 ∨ sub = 2 then UnitQ.host else .pump) = q) :
    let ra := (s.thread c t).regs.getS (iRaD w)
    let bad := checkPump (!(s.core c).unlocked) (s.thread c t).regs.d w
    ((s.unitQ c q).length < q.depth → bad = none → exec i s = .next (s.submitted c t w ra 0 q)) ∧
    (∀ e, (s.unitQ c q).length < q.depth → bad = some e →
      exec i s = .next (s.setThread c t (Thread.except { s.thread c t with state := .ready } e 5 0))) ∧
    (q.depth ≤ (s.unitQ c q).length → exec i s = .next s) := by
  subst hq
  exact exec_enqueue h hexec rfl rfl

theorem pump_queues {q : UnitQ} (h : Acts 0x60 sub c t w s) (hexec : exec i s = pumpIssue sub c t w s)
    (hq : (if sub = 1 ∨ sub = 2 then UnitQ.host else .pump) = q) :
    let ra := (s.thread c t).regs.getS (iRaD w)
    let bad := checkPump (!(s.core c).unlocked) (s.thread c t).regs.d w
    ((s.unitQ c q).length < q.depth → bad = none →
      ∃ u, exec i s = .next u ∧ Queued c t w ra 0 s u fun u => u.unitQ c q) ∧
    (∀ e, (s.unitQ c q).length < q.depth → bad = some e →
      exec i s = .next (s.setThread c t (Thread.except { s.thread c t with state := .ready } e 5 0))) ∧
    (q.depth ≤ (s.unitQ c q).length → exec i s = .next s) := by
  obtain ⟨hdone, hexc, hhold⟩ := pump_issue h hexec hq
  exact ⟨fun hlen hbad => ⟨_, hdone hlen hbad, _, s.queuedAs_submitted c t w _ 0 q⟩, hexc, hhold⟩

/-- SUB of a PUMP that issues. -/
theorem Acts.pumpSub (h : Acts 0x60 sub c t w s) : iSubP w = sub := by
  have hrow := h.row
  rw [rowSub, h.opcode] at hrow
  exact hrow

/-- A stream transfer that has issued where no other waits. -/
structure State.StreamIssued (s : State) (c : Nat) (o : AsyncOp) (u : State) : Prop where
  submits : s.Submits o u
  queue : (u.core c).pumpQ = [o.id]
  first : u.syncHeads.earlierHead c o.id = false
  op : u.op? o.id = some o
  core : c < u.lcores
  awake : u.awake c = true

theorem State.streamIssued (h : Acts 0x60 sub c t w s) (hold : s.opsOld) (hempty : ∀ c', (s.core c').pumpQ = [])
    (ra : BitVec 64) : s.StreamIssued c (s.issuedOp c t w ra 0) (s.submitted c t w ra 0 .pump) := by
  have hsub := s.submits c t w ra 0 .pump
  have halike := hsub.alike c
  have hq : ((s.submitted c t w ra 0 .pump).core c).pumpQ = [s.nextId] := by
    have hlast : ((s.submitted c t w ra 0 .pump).core c).pumpQ = (s.core c).pumpQ ++ [s.nextId] :=
      State.unitQ_setUnitQ (s.withOp c t w ra 0) c .pump _
    rw [hlast, hempty]
    rfl
  refine ⟨hsub, hq, State.earlierHead_alone hq fun c' hc => ?_, hsub.op hold, ?_, halike.awake.trans h.awake⟩
  · have hcore : (s.submitted c t w ra 0 .pump).core c' = s.core c' :=
      (s.withOp c t w ra 0).core_setCore_ne c { s.core c with pumpQ := (s.core c).pumpQ ++ [s.nextId] } hc
    rw [hcore, hempty]
  · rw [halike.lcores]
    exact h.core

/-- A host transfer that has issued where no other waits. -/
structure State.HostIssued (s : State) (c : Nat) (o : AsyncOp) (u : State) : Prop where
  submits : s.Submits o u
  queue : (u.core c).hostQ = [o.id]
  first : u.earlierHost o.id = false
  op : u.op? o.id = some o
  core : c < u.lcores
  awake : u.awake c = true

theorem State.hostIssued (h : Acts 0x60 sub c t w s) (hold : s.opsOld) (hempty : ∀ c', (s.core c').hostQ = [])
    (ra : BitVec 64) : s.HostIssued c (s.issuedOp c t w ra 0) (s.submitted c t w ra 0 .host) := by
  have hsub := s.submits c t w ra 0 .host
  have halike := hsub.alike c
  have hq : ((s.submitted c t w ra 0 .host).core c).hostQ = [s.nextId] := by
    have hlast : ((s.submitted c t w ra 0 .host).core c).hostQ = (s.core c).hostQ ++ [s.nextId] :=
      State.unitQ_setUnitQ (s.withOp c t w ra 0) c .host _
    rw [hlast, hempty]
    rfl
  refine ⟨hsub, hq, State.earlierHost_alone hq fun c' hc => ?_, hsub.op hold, ?_, halike.awake.trans h.awake⟩
  · have hcore : (s.submitted c t w ra 0 .host).core c' = s.core c' :=
      (s.withOp c t w ra 0).core_setCore_ne c { s.core c with hostQ := (s.core c).hostQ ++ [s.nextId] } hc
    rw [hcore, hempty]
  · rw [halike.lcores]
    exact h.core

/-! ## What a transfer looks at is as it was before the issue -/

/-- A transfer sees memory, pumps, the fabric, host registers and bundles as before its issue. -/
theorem State.Submits.sees (h : s.Submits o u) : u.mem = s.mem ∧ u.pumps = s.pumps ∧ u.fab = s.fab ∧ u.dev = s.dev ∧
    u.err = s.err ∧ (∀ d, u.pilUp d = s.pilUp d) ∧ (∀ o', u.rows o' = s.rows o') ∧
    (∀ o', u.sourceBytes o' = s.sourceBytes o') ∧ (∀ o', u.hostRows o' = s.hostRows o') := by
  obtain ⟨_, _, _, _, rfl⟩ := h.rest
  exact ⟨rfl, rfl, rfl, rfl, rfl, fun _ => rfl, fun _ => rfl, fun _ => rfl, fun _ => rfl⟩

theorem State.Submits.free (h : s.Submits o u) (b : Bool) (d p : Nat) : u.pumpFree b d p = s.pumpFree b d p := by
  obtain ⟨_, _, _, _, rfl⟩ := h.rest; rfl

theorem State.Submits.hostPump (h : s.Submits o u) : u.threadHostPump = s.threadHostPump := by
  obtain ⟨_, _, _, _, rfl⟩ := h.rest; rfl

theorem State.Submits.replica (h : s.Submits o u) (n : BitVec 16) (a : Nat) : u.replicaOf n a = s.replicaOf n a := by
  obtain ⟨_, _, _, _, rfl⟩ := h.rest; rfl

theorem State.Submits.reachable (h : s.Submits o u) (n : BitVec 16) (b : Bool) : u.reachable n b = s.reachable n b := by
  obtain ⟨_, _, _, _, rfl⟩ := h.rest; rfl

theorem State.Submits.sent (h : s.Submits o u) (hsent : s.fabricSent) : u.fabricSent := by
  obtain ⟨_, _, _, _, rfl⟩ := h.rest
  exact fun r hr => ⟨(hsent r hr).1, (hsent r hr).2.1, Nat.lt_succ_of_lt (hsent r hr).2.2⟩

/-! ## Stream transfers from their issue -/

/-- The operation of a PUMP. -/
def State.pumpOp (s : State) (c t : Nat) (w : BitVec 64) : AsyncOp :=
  s.issuedOp c t w ((s.thread c t).regs.getS (iRaD w)) 0

section
variable (hbad : checkPump (!(s.core c).unlocked) (s.thread c t).regs.d w = none) (hold : s.opsOld)
  (hempty : ∀ c', (s.core c').pumpQ = [])
include hbad hold hempty

/-- A stream transfer issues and is the only one that waits. -/
theorem State.stream_issues (h : Acts 0x60 sub c t w s) (hexec : exec i s = pumpIssue sub c t w s)
    (hq : (if sub = 1 ∨ sub = 2 then UnitQ.host else .pump) = .pump) :
    ∃ u, exec i s = .next u ∧ s.StreamIssued c (s.pumpOp c t w) u :=
  ⟨_, (pump_issue h hexec hq).1 (by rw [show s.unitQ c .pump = [] from hempty c]; decide) hbad,
    State.streamIssued h hold hempty _⟩

variable (hlow : ∀ q ∈ s.pumps, q.host = false → q.pump < 8) (hp : p < 8)
  (hfree : s.pumpFree false (s.dieOf c) p = true) (hsuits : iPsel w = 0 ∨ iPsel w = p + 8)
include hlow hp hfree hsuits

/-- COPY from its issue to its end. -/
theorem State.copy_leads (h : Acts 0x60 0 c t w s)
    (hreach : s.reaches (some (s.dieOf c)) (descAt (s.thread c t).regs.d (iDa w)).segs)
    (hclean : s.sourceClean c (s.pumpOp c t w)) (hout : OutsClean s c (s.rows (s.pumpOp c t w))) :
    ∃ z, Leads [.pumpCopy c t w, .pumpTransferStart c false p, .pumpTransferComplete false (s.dieOf c * 8 + p)] s z ∧
      z.mem.cells = (s.written (s.rows (s.pumpOp c t w))).cells ∧ Completed (s.pumpOp c t w) 0 s z := by
  obtain ⟨u, hu, hi⟩ := State.stream_issues (i := .pumpCopy c t w) hbad hold hempty h rfl rfl
  obtain ⟨hmem, hpumps, -, -, -, -, hrows, -, -⟩ := hi.submits.sees
  have halike := hi.submits.alike c
  have hreads : (s.pumpOp c t w).reads = (descAt (s.thread c t).regs.d (iDa w)).segs :=
    if_neg (by rw [show iSubP (s.pumpOp c t w).word = 0 from h.pumpSub]; decide)
  obtain ⟨v, z, hv, hz, hcells, hdone⟩ := State.copy_runs hi.core hi.awake hi.op rfl hp hi.queue
    (by rw [halike.dieOf, hi.submits.free]; exact hfree) (by rw [hpumps]; exact hlow) hsuits hi.first
    (by rw [halike.dieOf, hreads]; exact hi.submits.reaches hreach) (hclean.alike halike)
    (by rw [hrows]; exact hout.alike halike) h.pumpSub
  rw [halike.dieOf] at hz
  rw [hrows] at hcells
  exact ⟨z, ⟨u, hu, v, hv, z, hz, rfl⟩, hcells.trans (congrArg Mem.cells (State.written_congr hmem _)),
    hi.submits.completed hdone⟩

/-- PUT from its issue to its packets. -/
theorem State.put_leads (h : Acts 0x60 3 c t w s)
    (hreach : s.reaches (some (s.dieOf c)) (descAt (s.thread c t).regs.d (iDa w)).segs)
    (hclean : s.sourceClean c (s.pumpOp c t w)) (hsent : s.fabricSent)
    (hroute : s.reachable ((s.pumpOp c t w).ra.extractLsb' 0 16) true = true) :
    ∃ z, Leads [.pumpPut c t w, .pumpTransferStart c false p] s z ∧ z.mem.cells = s.mem.cells ∧
      ∀ k ∈ putPkts ((s.pumpOp c t w).ra.extractLsb' 0 16) (s.rows (s.pumpOp c t w)), ∃ f ∈ z.fab.reqs,
        f.owner = .pump (s.dieOf c * 8 + p) ∧ f.type = k.type ∧ f.node = k.node ∧ f.addr = k.addr ∧ f.body = k.body := by
  obtain ⟨u, hu, hi⟩ := State.stream_issues (i := .pumpPut c t w) hbad hold hempty h rfl rfl
  obtain ⟨hmem, hpumps, -, -, -, -, hrows, -, -⟩ := hi.submits.sees
  have halike := hi.submits.alike c
  have hfree' : u.pumpFree false (u.dieOf c) p = true := by rw [halike.dieOf, hi.submits.free]; exact hfree
  have hroute' : u.reachable ((s.pumpOp c t w).ra.extractLsb' 0 16) true = true := by
    rw [hi.submits.reachable]; exact hroute
  have hreads : (s.pumpOp c t w).reads = (descAt (s.thread c t).regs.d (iDa w)).segs :=
    if_neg (by rw [show iSubP (s.pumpOp c t w).word = 3 from h.pumpSub]; decide)
  have hstart := exec_pumpTransferStart_stream hi.core hp hi.awake hi.queue hi.op hfree' hsuits hi.first
    (by rw [halike.dieOf, hreads]; exact hi.submits.reaches hreach)
  rw [State.startStream_put_clean (v := u.popStream c) hi.core hi.awake
    ((hclean.alike halike).alike (u.alikeOn_popStream c)) h.pumpSub hroute'] at hstart
  obtain ⟨r, ws, -, -, took, hreqs⟩ := State.took_packets (o := s.pumpOp c t w)
    (l := putPkts ((s.pumpOp c t w).ra.extractLsb' 0 16) (u.rows (s.pumpOp c t w))) hi.queue (hi.submits.sent hsent)
    (fun k hk => node_of_mem_putPkts hk ▸ State.onWay_of_routed hroute') hp hfree' (by rw [hpumps]; exact hlow)
  refine ⟨_, ⟨u, hu, _, hstart, rfl⟩, took.cells.trans (congrArg Mem.cells hmem), fun k hk => ?_⟩
  rw [← hrows] at hk
  obtain ⟨f, hf, -, howner, htype, hnode, haddr, -, hbody⟩ := hreqs k hk
  exact ⟨f, hf, halike.dieOf ▸ howner, htype, hnode, haddr, hbody⟩

/-- GET from its issue to its packets. -/
theorem State.get_leads (h : Acts 0x60 4 c t w s) (hsent : s.fabricSent) {l : List (Nat × Nat × Nat)}
    (hl : remoteChunks 256 (descAt (s.thread c t).regs.d (iDa w)).segs (descAt (s.thread c t).regs.d (iDd w)).segs = l)
    (hroute : ∀ k ∈ l, s.reachable (s.replicaOf ((s.pumpOp c t w).ra.extractLsb' 0 16) k.1) false = true) :
    ∃ z, Leads [.pumpGet c t w, .pumpTransferStart c false p] s z ∧ z.mem.cells = s.mem.cells ∧
      ∀ k ∈ l, ∃ f ∈ z.fab.reqs, f.owner = .pump (s.dieOf c * 8 + p) ∧ f.type = 1 ∧
        f.node = s.replicaOf ((s.pumpOp c t w).ra.extractLsb' 0 16) k.1 ∧ f.addr = k.1 ∧ f.len = k.2.2 := by
  obtain ⟨u, hu, hi⟩ := State.stream_issues (i := .pumpGet c t w) hbad hold hempty h rfl rfl
  have hsub : iSubP (s.pumpOp c t w).word = 4 := h.pumpSub
  have hsuits' : iPsel (s.pumpOp c t w).word = 0 ∨ iPsel (s.pumpOp c t w).word = p + 8 := hsuits
  have hl' : remoteChunks 256 (descAt (s.pumpOp c t w).d (iDa (s.pumpOp c t w).word)).segs
    (descAt (s.pumpOp c t w).d (iDd (s.pumpOp c t w).word)).segs = l := hl
  generalize s.pumpOp c t w = o at *
  obtain ⟨hmem, hpumps, -, -, -, -, -, -, -⟩ := hi.submits.sees
  have halike := hi.submits.alike c
  have hfree' : u.pumpFree false (u.dieOf c) p = true := by rw [halike.dieOf, hi.submits.free]; exact hfree
  have hstart := exec_pumpTransferStart_stream hi.core hp hi.awake hi.queue hi.op hfree' hsuits' hi.first
    (by rw [show o.reads = [] from if_pos (.inr hsub)]; exact ⟨rfl, rfl⟩)
  have hroute' : ∀ k ∈ l, u.reachable (u.replicaOf (o.ra.extractLsb' 0 16) k.1) false = true := by
    intro k hk
    rw [hi.submits.replica, hi.submits.reachable]
    exact hroute k hk
  have hsent' := hi.submits.sent hsent
  have hruns := State.startStream_get (v := u.popStream c) (d := u.dieOf c) (p := p) hsub hsent' (hl'.symm ▸ hroute')
  rw [hruns, hl'] at hstart
  obtain ⟨r, ws, -, -, took, hreqs⟩ := State.took_packets (o := o) (l := u.getPkts (o.ra.extractLsb' 0 16) l) hi.queue
    hsent' (fun k hk => by
      obtain ⟨e, he, rfl⟩ := List.mem_map.1 hk
      exact State.onWay_of_reachable (hroute' e he)) hp hfree' (by rw [hpumps]; exact hlow)
  refine ⟨_, ⟨u, hu, _, hstart, rfl⟩, took.cells.trans (congrArg Mem.cells hmem), fun k hk => ?_⟩
  obtain ⟨f, hf, -, howner, htype, hnode, haddr, hlen, -⟩ := hreqs _ (List.mem_map_of_mem hk)
  exact ⟨f, hf, halike.dieOf ▸ howner, htype, hnode.trans (hi.submits.replica ..), haddr, hlen⟩

end

/-! ## Host transfers from their issue -/

section
variable (hbad : checkPump (!(s.core c).unlocked) (s.thread c t).regs.d w = none) (hold : s.opsOld)
  (hempty : ∀ c', (s.core c').hostQ = [])
include hbad hold hempty

/-- A host transfer issues and is the only one that waits. -/
theorem State.host_issues (h : Acts 0x60 sub c t w s) (hexec : exec i s = pumpIssue sub c t w s)
    (hq : (if sub = 1 ∨ sub = 2 then UnitQ.host else .pump) = .host) :
    ∃ u, exec i s = .next u ∧ s.HostIssued c (s.pumpOp c t w) u :=
  ⟨_, (pump_issue h hexec hq).1 (by rw [show s.unitQ c .host = [] from hempty c]; decide) hbad,
    State.hostIssued h hold hempty _⟩

variable (hgo : s.dev.go = true) (hfree : s.threadHostPump = some p) (hup : s.pilUp (s.dieOf c) = true)
  (hquiet : s.err.perturbGo = false)
include hgo hfree hup hquiet

/-- TO_HOST from its issue to its end. -/
theorem State.toHost_leads (h : Acts 0x60 1 c t w s)
    (hreach : s.reaches none (descAt (s.thread c t).regs.d (iDa w)).segs) (hclean : s.sourceClean c (s.pumpOp c t w)) :
    ∃ z, Leads [.pumpToHost c t w, .pumpTransferStart c true p, .pumpTransferComplete true p] s z ∧
      z.mem.cells = s.mem.cells ∧
      z.mem.host = (s.setHostBytes (s.pumpOp c t w).ra.toNat (s.sourceBytes (s.pumpOp c t w))).mem.host ∧
      Completed (s.pumpOp c t w) 0 s z := by
  obtain ⟨u, hu, hi⟩ := State.host_issues (i := .pumpToHost c t w) hbad hold hempty h rfl rfl
  obtain ⟨hmem, -, -, hdev, herr, hpil, -, hsource, -⟩ := hi.submits.sees
  have halike := hi.submits.alike c
  have hreads : (s.pumpOp c t w).reads = (descAt (s.thread c t).regs.d (iDa w)).segs :=
    if_neg (by rw [show iSubP (s.pumpOp c t w).word = 1 from h.pumpSub]; decide)
  obtain ⟨v, z, hv, hz, hcells, hhost, hdone⟩ := State.toHost_runs hi.core hi.awake hi.op rfl hi.queue
    (by rw [hdev]; exact hgo) (by rw [hi.submits.hostPump]; exact hfree) hi.first
    (by rw [hreads]; exact hi.submits.reaches hreach) (by rw [hpil, halike.dieOf]; exact hup) (by rw [herr]; exact hquiet)
    (hclean.alike halike) h.pumpSub
  rw [hmem] at hcells
  rw [hsource, State.setHostBytes, hmem] at hhost
  exact ⟨z, ⟨u, hu, v, hv, z, hz, rfl⟩, hcells, hhost, hi.submits.completed hdone⟩

/-- FROM_HOST from its issue to its end. -/
theorem State.fromHost_leads (h : Acts 0x60 2 c t w s) (hout : OutsClean s c (s.hostRows (s.pumpOp c t w))) :
    ∃ z, Leads [.pumpFromHost c t w, .pumpTransferStart c true p, .pumpTransferComplete true p] s z ∧
      z.mem.cells = (s.written (s.hostRows (s.pumpOp c t w))).cells ∧ z.mem.host = s.mem.host ∧
      Completed (s.pumpOp c t w) 0 s z := by
  obtain ⟨u, hu, hi⟩ := State.host_issues (i := .pumpFromHost c t w) hbad hold hempty h rfl rfl
  obtain ⟨hmem, -, -, hdev, herr, hpil, -, -, hrows⟩ := hi.submits.sees
  have halike := hi.submits.alike c
  obtain ⟨v, z, hv, hz, hcells, hhost, hdone⟩ := State.fromHost_runs hi.core hi.awake hi.op rfl hi.queue
    (by rw [hdev]; exact hgo) (by rw [hi.submits.hostPump]; exact hfree) hi.first
    (by rw [hpil, halike.dieOf]; exact hup) (by rw [herr]; exact hquiet) (by rw [hrows]; exact hout.alike halike) h.pumpSub
  rw [hmem] at hhost
  rw [hrows] at hcells
  exact ⟨z, ⟨u, hu, v, hv, z, hz, rfl⟩, hcells.trans (congrArg Mem.cells (State.written_congr hmem _)), hhost,
    hi.submits.completed hdone⟩

end

/-! ## CSUB -/

/-- The checks of CSUB in the order of R106. -/
theorem csub_check (ra : BitVec 64) :
    firstCause false false (decide (spadSize < ra.toNat + 64)) (ra.toNat % 64 != 0) false false false =
      if 0x3000000 < ra.toNat + 64 then some cAddrForm else if ra.toNat % 64 ≠ 0 then some cAlign else none := by
  by_cases hform : 0x3000000 < ra.toNat + 64
  · rw [spadSize, decide_eq_true hform, if_pos hform]
    rfl
  · rw [spadSize, decide_eq_false hform, if_neg hform]
    simp [firstCause]

/-- What the hub then takes is the operation that waited alone. -/
theorem exec_collectiveDescriptorAccept {id : Nat} (hc : c < u.lcores) (ha : u.awake c = true)
    (hup : u.pilUp (u.dieOf c) = true) (hq : (u.core c).colQ = [id]) (hop : u.op? id = some o) :
    exec (.collectiveDescriptorAccept c) u =
      .next (State.acceptDesc (u.setCore c { u.core c with colQ := [] }) c o) := by
  have hop' : (u.setCore c { u.core c with colQ := [] }).op? id = some o := hop
  have hdrop : (u.modCore c fun k => { k with colQ := k.colQ.drop 1 }) = u.setCore c { u.core c with colQ := [] } := by
    rw [State.modCore_eq, hq]
    rfl
  refine (if_pos hc).trans ?_
  rw [hq, ha, hup, hdrop]
  simp only [Bool.and_self, hop']

/-! ## The statement -/

/-- Settles O27: the issue; the runs of COPY, TO_HOST and FROM_HOST to their end; the packets of PUT and GET; the
descriptor of CSUB at the hub. -/
theorem pumpAndSubmitIssue : Obligations.PumpAndSubmitIssue := by
  unfold Obligations.PumpAndSubmitIssue
  intro c t w s th bad ra sa form stream host
  refine ⟨fun k hk h => ?_, ?_, fun h => ?_⟩
  · simp only [List.mem_cons, List.not_mem_nil, or_false] at hk
    obtain rfl | rfl | rfl | rfl | rfl := hk
    · exact pump_queues (q := .pump) h rfl rfl
    · exact pump_queues (q := .pump) h rfl rfl
    · exact pump_queues (q := .pump) h rfl rfl
    · exact pump_queues (q := .host) h rfl rfl
    · exact pump_queues (q := .host) h rfl rfl
  · intro da dd node data rows clean pairs ran hbad hold hlow
    refine ⟨fun p hp hempty hfree hsuits => ⟨fun h hreach hclean hout => ?_, fun h hreach hclean hroute hsent => ?_,
      fun h hsent hroute => State.get_leads hbad hold hempty hlow hp hfree hsuits h hsent rfl hroute⟩,
      fun p hempty hgo hfree hup hquiet => ⟨fun h hreach hclean => ?_, fun h hout => ?_⟩⟩
    · obtain ⟨z, hz, hcells, hdone⟩ := State.copy_leads hbad hold hempty hlow hp hfree hsuits h hreach hclean.2 hout
      exact ⟨_, z, hz, rfl, rfl, rfl, rfl, hcells, hdone⟩
    · obtain ⟨z, hz, hcells, hreqs⟩ := State.put_leads hbad hold hempty hlow hp hfree hsuits h hreach hclean.2 hsent hroute
      refine ⟨z, hz, hcells, fun y hy _ i hi => ?_⟩
      obtain ⟨k, hk, htype, hnode, haddr, hbody⟩ := mem_putPkts hy hi
      obtain ⟨f, hf, howner, htype', hnode', haddr', hbody'⟩ := hreqs k hk
      exact ⟨f, hf, howner, htype'.trans htype, hnode'.trans hnode, haddr'.trans haddr, hbody'.trans hbody⟩
    · obtain ⟨z, hz, hcells, hhost, hdone⟩ := State.toHost_leads hbad hold hempty hgo hfree hup hquiet h hreach hclean.2
      exact ⟨_, z, hz, rfl, rfl, rfl, rfl, ⟨hcells, hhost⟩, hdone⟩
    · obtain ⟨z, hz, hcells, hhost, hdone⟩ := State.fromHost_leads hbad hold hempty hgo hfree hup hquiet h hout
      exact ⟨_, z, hz, rfl, rfl, rfl, rfl, ⟨hcells, hhost⟩, hdone⟩
  · have hcheck : _ = form := csub_check sa
    obtain ⟨hdone, hexc, hhold⟩ := exec_enqueue (i := .csub c t w) (ra := sa) (rb := th.regs.getS (iRbC w)) (q := .col)
      (unit := 7) h rfl rfl rfl
    have hqueued := s.queuedAs_submitted c t w sa (th.regs.getS (iRbC w)) .col
    refine ⟨fun hlen hform => ⟨_, hdone hlen (hcheck.trans hform), _, hqueued⟩,
      fun e hlen hform => hexc e hlen (hcheck.trans hform), hhold, fun hempty hform hold hup => ?_⟩
    have hsub := s.submits c t w sa (th.regs.getS (iRbC w)) .col
    have halike := hsub.alike c
    have hq : ((s.submitted c t w sa (th.regs.getS (iRbC w)) .col).core c).colQ = [s.nextId] := by
      have hlast : ((s.submitted c t w sa (th.regs.getS (iRbC w)) .col).core c).colQ = (s.core c).colQ ++ [s.nextId] :=
        State.unitQ_setUnitQ (s.withOp c t w sa (th.regs.getS (iRbC w))) c .col _
      rw [hlast, hempty]
      rfl
    obtain ⟨-, -, -, -, -, hpil, -⟩ := hsub.sees
    exact ⟨_, _, hdone (by rw [show s.unitQ c .col = [] from hempty]; exact Nat.succ_pos 3) (hcheck.trans hform), hqueued,
      exec_collectiveDescriptorAccept (by rw [halike.lcores]; exact h.core) (halike.awake.trans h.awake)
        (by rw [hpil, halike.dieOf]; exact hup) hq (hsub.op hold)⟩

end Sys2Proof.Machine
end

section
/-! SUPPORT. The control register of an array, and the starts of its self-tests (05 R161 to R166). -/

namespace Sys2Proof.Machine

variable {s : State} {c a : Nat} {w : BitVec 32}

theorem exec_maCtlGoSet (hc : c < s.lcores) (ha : a < 4) (hw : w.getLsbD 0 = true) :
    exec (.maCtlGoSet c a w) s = .next (s.writeMaCtl c a w) := if_pos ⟨hc, ha, hw⟩

theorem exec_maCtlGoClear (hc : c < s.lcores) (ha : a < 4) (hw : w.getLsbD 0 = false) :
    exec (.maCtlGoClear c a w) s = .next (s.writeMaCtl c a w) := if_pos ⟨hc, ha, hw⟩

/-! ## MA_CTL -/

/-- While GO is 1 a write reaches GO alone. -/
theorem State.writeMaCtl_of_go (hgo : (s.arr c a).go = true) :
    s.writeMaCtl c a w = s.setArr c a { s.arr c a with go := w.getLsbD 0 } := by
  rw [State.writeMaCtl]
  exact if_pos hgo

/-- GO set with a window of 0 leaves a reason (R164). -/
theorem State.writeMaCtl_of_zero (hw : w.getLsbD 0 = true) (hgo : (s.arr c a).go = false)
    (hd : (s.core c).diked = false) (hzero : w.extractLsb' 16 16 = 0) :
    s.writeMaCtl c a w = s.setArr c a { s.arr c a with
      chkEn := if (s.core c).unlocked then w.getLsbD 1 else (s.arr c a).chkEn
      chkWindow := w.extractLsb' 16 16
      reason := 0x03 } := by
  simp [State.writeMaCtl, hgo, hd, hw, hzero]

/-- GO set on a diked core leaves a reason (R164; assumption 94). -/
theorem State.writeMaCtl_of_diked (hw : w.getLsbD 0 = true) (hgo : (s.arr c a).go = false)
    (hd : (s.core c).diked = true) (hwin : (s.arr c a).chkWindow ≠ 0) :
    s.writeMaCtl c a w = s.setArr c a { s.arr c a with reason := 0x02 } := by
  have hwin' : ¬ (s.arr c a).chkWindow = 0#16 := hwin
  simp [State.writeMaCtl, hgo, hd, hw, hwin']

/-- The array with GO set, the window of the write, and HELD cleared where a passed self-test left it (R166). -/
def Arr.started (x : Arr) (unlocked : Bool) (w : BitVec 32) : Arr := { x with
  go := true
  chkEn := if unlocked then w.getLsbD 1 else x.chkEn
  chkWindow := w.extractLsb' 16 16
  held := x.held && !(x.stestDone && x.stestPass && !x.suspect && !x.stestBusy && !x.stestWait) }

theorem State.writeMaCtl_starts (hw : w.getLsbD 0 = true) (hgo : (s.arr c a).go = false)
    (hd : (s.core c).diked = false) (hwin : w.extractLsb' 16 16 ≠ 0) :
    s.writeMaCtl c a w = s.setArr c a ((s.arr c a).started (s.core c).unlocked w) := by
  have hwin' : ¬ w.extractLsb' 16 16 = 0#16 := hwin
  simp [State.writeMaCtl, Arr.started, hgo, hd, hw, hwin']

/-- While GO is 0 an array starts nothing from its queue. -/
theorem exec_arrayInstructionStart_of_stopped {id : Nat} {rest : List Nat} {o : AsyncOp} (hc : c < s.lcores)
    (ha : a < 4) (hgo : (s.arr c a).go = false) (hq : (s.arr c a).queue = id :: rest) (ho : s.op? id = some o) :
    exec (.arrayInstructionStart c a) s = .next s := by
  refine (if_pos ⟨hc, ha⟩).trans ?_
  simp [hq, ho, hgo]

/-- Settles O34: a case for each form of the write. -/
theorem arrayControl : Obligations.ArrayControl := by
  intro c a s hc ha x k
  refine ⟨fun w hw hgo hd hzero => ?_, fun w hw hgo hd hwin => ?_, fun w hw hgo hd hwin => ?_, fun w hw hgo => ?_,
    fun hgo id rest o hq ho => exec_arrayInstructionStart_of_stopped hc ha hgo hq ho⟩
  · refine ⟨_, exec_maCtlGoSet hc ha hw, ?_⟩
    rw [State.writeMaCtl_of_zero hw hgo hd hzero, State.arr_setArr]
    exact ⟨hgo, rfl, rfl⟩
  · rw [exec_maCtlGoSet hc ha hw, State.writeMaCtl_of_diked hw hgo hd hwin]
  · rw [exec_maCtlGoSet hc ha hw, State.writeMaCtl_starts hw hgo hd hwin]
    rfl
  · rw [exec_maCtlGoClear hc ha hw, State.writeMaCtl_of_go hgo, hw]

end Sys2Proof.Machine
end

section
/-! SUPPORT. Self-tests of arrays: which begin, and what follows their end (05 R161, R162, R166; 14 R545). -/

namespace Sys2Proof.Machine

variable (s : State) (c a : Nat)

/-! ## A test that waits begins -/

/-- A self-test that may begin now, nothing executing: one of firmware only where no other of the core runs. -/
def State.stestFree (s : State) (c a : Nat) : Bool := (s.arr c a).run.isEmpty && !(s.fwTest c a && s.fwTesting c a)

/-- The array with its self-test started, under way where `now` holds. -/
def Arr.testing (x : Arr) (now : Bool) : Arr := { x with
  held := true
  stestBusy := now
  stestWait := !now
  stestDone := false
  stestPass := false
  failcode := 0 }

/-- A start leaves what decides on the tests of firmware: SUSPECT, the retest of the core, and which other arrays are
under test. -/
theorem State.stestFree_setArr {x : Arr} (hrun : x.run = (s.arr c a).run) (hsus : x.suspect = (s.arr c a).suspect) :
    (s.setArr c a x).stestFree c a = s.stestFree c a := by
  have hfw : (s.setArr c a x).fwTest c a = s.fwTest c a := by
    rw [State.fwTest, State.arr_setArr, hsus]
    rfl
  have hother : (s.setArr c a x).fwTesting c a = s.fwTesting c a := by
    refine List.any_congr rfl fun b => ?_
    by_cases hb : b = a
    · simp [hb]
    · have hkeep : (s.setArr c a x).arr c b = s.arr c b := State.arr_setArr_ne _ _ _ _ (by omega)
      simp only [State.fwTest, hkeep, State.setArr_core]
  rw [State.stestFree, hfw, hother, State.arr_setArr, hrun]
  rfl

/-- A test that was just started begins now, or waits. -/
theorem State.stestBegin_setArr {x : Arr} (hwait : x.stestWait = true) (hbusy : x.stestBusy = false)
    (hrun : x.run = (s.arr c a).run) (hsus : x.suspect = (s.arr c a).suspect) : (s.setArr c a x).stestBegin c a =
      s.setArr c a { x with stestBusy := s.stestFree c a, stestWait := !s.stestFree c a } := by
  have hfree := s.stestFree_setArr c a hrun hsus
  rw [State.stestFree, State.arr_setArr] at hfree
  rw [State.stestBegin, State.arr_setArr, hwait, Bool.true_and, hfree, State.setArr_setArr]
  cases s.stestFree c a
  · rw [if_neg Bool.false_ne_true, Bool.not_false, ← hwait, ← hbusy]
  · rw [if_pos rfl, Bool.not_true]

/-- MA_STEST.START holds the array, and its test begins now or waits (R166). -/
theorem State.stestStart_eq (hd : (s.core c).diked = false) (hbusy : (s.arr c a).stestBusy = false)
    (hwait : (s.arr c a).stestWait = false) :
    s.stestStart c a = s.setArr c a ((s.arr c a).testing (s.stestFree c a)) := by
  have hnot : ¬ ((s.arr c a).stestBusy || (s.arr c a).stestWait || (s.core c).diked) = true := by
    simp [hbusy, hwait, hd]
  rw [State.stestStart]
  exact (if_neg hnot).trans (s.stestBegin_setArr c a rfl hbusy rfl rfl)

theorem State.stestBegin_of_not_waiting (h : (s.arr c a).stestWait = false) : s.stestBegin c a = s := by
  rw [State.stestBegin, h]
  rfl

/-- Where a test begins, only its array changes. -/
theorem State.stestBegin_cases : ∃ x, s.stestBegin c a = s ∨ s.stestBegin c a = s.setArr c a x := by
  rw [State.stestBegin]
  split
  · exact ⟨_, .inr rfl⟩
  · exact ⟨(s.arr c a), .inl rfl⟩

/-! ## The tests of a core that can begin do -/

variable {s c a}

theorem State.arr_stestBegin_of_not_waiting (h : (s.arr c a).stestWait = false) (b : Nat) :
    (s.stestBegin c b).arr c a = s.arr c a := by
  by_cases hb : b = a
  · rw [hb, s.stestBegin_of_not_waiting c a h]
  · obtain ⟨x, hx | hx⟩ := s.stestBegin_cases c b
    · rw [hx]
    · rw [hx]
      exact State.arr_setArr_ne _ _ _ _ (by omega)

/-- An array whose test does not wait stays as it is. -/
theorem State.arr_stestNext_of_not_waiting (h : (s.arr c a).stestWait = false) :
    (s.stestNext c).arr c a = s.arr c a := by
  unfold State.stestNext
  generalize List.range 4 = l
  induction l generalizing s with
  | nil => rfl
  | cons b l ih =>
    have hb := State.arr_stestBegin_of_not_waiting h b
    rw [List.foldl_cons, ih (by rw [hb]; exact h), hb]

theorem State.core_stestNext (s : State) (c c' : Nat) : (s.stestNext c).core c' = s.core c' := by
  unfold State.stestNext
  generalize List.range 4 = l
  induction l generalizing s with
  | nil => rfl
  | cons b l ih =>
    rw [List.foldl_cons, ih]
    obtain ⟨x, hx | hx⟩ := s.stestBegin_cases c b
    · rw [hx]
    · rw [hx]
      rfl

/-! ## Every array of a core -/

/-- A walk over the arrays of a core changes each of them once. -/
theorem State.arr_eachArr (s : State) (c : Nat) (f : Arr → Arr) {a : Nat} (ha : a < 4) :
    (s.eachArr c f).arr c a = f (s.arr c a) := by
  have walk (l : List Nat) (hl : l.Nodup) (s : State) :
      (l.foldl (fun s b => s.modArr c b f) s).arr c a = if a ∈ l then f (s.arr c a) else s.arr c a := by
    induction l generalizing s with
    | nil => rfl
    | cons b l ih =>
      obtain ⟨hb, hl⟩ := List.nodup_cons.1 hl
      rw [List.foldl_cons, ih hl, State.modArr_eq]
      by_cases hab : a = b
      · rw [hab, if_neg hb, if_pos (List.mem_cons_self ..), State.arr_setArr]
      · rw [State.arr_setArr_ne _ _ _ _ (by omega)]
        simp [hab]
  exact (walk _ List.nodup_range s).trans (if_pos (List.mem_range.2 ha))

theorem State.eachArr_cases (s : State) (c : Nat) (f : Arr → Arr) : ∃ m, s.eachArr c f = { s with arrs := m } := by
  unfold State.eachArr
  generalize List.range 4 = l
  induction l generalizing s with
  | nil => exact ⟨s.arrs, rfl⟩
  | cons b l ih =>
    obtain ⟨m, h⟩ := ih (s.modArr c b f)
    exact ⟨m, h⟩

/-! ## A test ends -/

/-- The array whose test has ended with a code. -/
def Arr.tested (x : Arr) (code : BitVec 8) : Arr := { x with
  stestBusy := false
  stestDone := true
  stestPass := decide (code = 0)
  failcode := code }

theorem exec_arraySelfTestDone_pass (hc : c < s.lcores) (ha : a < 4) (hup : s.awake c = true)
    (hbusy : (s.arr c a).stestBusy = true) : exec (.arraySelfTestDone c a 0) s =
      .next (((s.setArr c a ((s.arr c a).tested 0)).stestPassed c a).stestNext c) := by
  refine (if_pos ⟨hc, ha, Nat.zero_le 6⟩).trans ?_
  rw [hbusy, hup]
  rfl

theorem exec_arraySelfTestDone_fail {n : BitVec 8} (hn : n ≠ 0) (hle : n.toNat ≤ 6) (hc : c < s.lcores) (ha : a < 4)
    (hup : s.awake c = true) (hbusy : (s.arr c a).stestBusy = true) (hidle : s.hubDike.busy = false) :
    exec (.arraySelfTestDone c a n) s = .next ((s.setArr c a ((s.arr c a).tested n)).stestNext c) := by
  refine (if_pos ⟨hc, ha, hle⟩).trans ?_
  rw [hbusy, hup]
  refine (if_neg Bool.false_ne_true).trans ((if_neg hn).trans (if_neg fun h => ?_))
  exact Bool.false_ne_true (hidle.symm.trans h.1)

/-- What firmware clears after a pass, of a core outside HUB_DIKE (R162, R166). -/
def Arr.passed (x : Arr) (retest : Bool) : Arr :=
  if x.suspect then { x with suspect := false, armed := false, held := false }
  else { x with held := x.held && !retest }

theorem Arr.passed_of_suspect {x : Arr} (h : x.suspect = true) (retest : Bool) :
    x.passed retest = { x with suspect := false, armed := false, held := false } := if_pos h

theorem Arr.passed_of_clear {x : Arr} (h : x.suspect = false) (retest : Bool) :
    x.passed retest = { x with held := x.held && !retest } := if_neg (ne_true_of_eq_false h)

theorem Arr.stestWait_passed (x : Arr) (retest : Bool) : (x.passed retest).stestWait = x.stestWait := by
  rw [Arr.passed]
  split <;> rfl

theorem Arr.stestBusy_passed (x : Arr) (retest : Bool) : (x.passed retest).stestBusy = x.stestBusy := by
  rw [Arr.passed]
  split <;> rfl

theorem State.stestPassed_of_kept (hidle : s.hubDike.busy = false) (hre : (s.core c).retest = false) (x : Arr) :
    (s.setArr c a x).stestPassed c a = s.setArr c a (x.passed false) := by
  simp [State.stestPassed, Arr.passed, State.modArr_eq, State.setArr_setArr, hidle, hre]

/-- The pass that ends the retest of a core starts its arrays (14 R545). -/
theorem State.stestPassed_of_last (hidle : s.hubDike.busy = false) (hre : (s.core c).retest = true) {x : Arr}
    (hlast : ∀ b < 4, ((s.setArr c a (x.passed true)).arr c b).stestBusy = false ∧
      ((s.setArr c a (x.passed true)).arr c b).stestWait = false) :
    (s.setArr c a x).stestPassed c a = ((s.setArr c a (x.passed true)).eachArr c Arr.restart).modCore c
      fun k => { k with retest := false } := by
  have hall : ((List.range 4).all fun b => !((s.setArr c a (x.passed true)).arr c b).stestBusy &&
      !((s.setArr c a (x.passed true)).arr c b).stestWait) = true :=
    List.all_eq_true.2 fun b hb => by
      obtain ⟨hbusy, hwait⟩ := hlast b (List.mem_range.1 hb)
      rw [hbusy, hwait]
      rfl
  unfold State.stestPassed
  dsimp only
  rw [State.modArr_eq, State.setArr_setArr, State.setArr_f_hubDike, State.setArr_core, State.arr_setArr, hidle, hre]
  exact (if_neg Bool.false_ne_true).trans (if_pos hall)

end Sys2Proof.Machine
end

section
/-! SUPPORT. The statement about self-tests. -/

namespace Sys2Proof.Machine

variable {s : State} {c a : Nat}

theorem exec_maStestStart (hc : c < s.lcores) (ha : a < 4) :
    exec (.maStestStart c a) s = .next (s.stestStart c a) := if_pos ⟨hc, ha⟩

/-- The array with its test ended, as the tests that begin next find it. -/
theorem State.arr_stestNext_setArr {x : Arr} (hwait : x.stestWait = false) :
    ((s.setArr c a x).stestNext c).arr c a = x := by
  have hx : (s.setArr c a x).arr c a = x := State.arr_setArr ..
  rw [State.arr_stestNext_of_not_waiting (by rw [hx]; exact hwait), hx]

/-- A pass outside HUB_DIKE and a core reset's retest. -/
theorem arr_after_pass (hc : c < s.lcores) (ha : a < 4) (hup : s.awake c = true)
    (hbusy : (s.arr c a).stestBusy = true) (hwait : (s.arr c a).stestWait = false) (hidle : s.hubDike.busy = false)
    (hre : (s.core c).retest = false) : ∃ u, exec (.arraySelfTestDone c a 0) s = .next u ∧
      u.arr c a = ((s.arr c a).tested 0).passed false := by
  refine ⟨_, exec_arraySelfTestDone_pass hc ha hup hbusy, ?_⟩
  rw [State.stestPassed_of_kept hidle hre]
  exact State.arr_stestNext_setArr ((Arr.stestWait_passed ..).trans hwait)

/-- The pass that ends the retest of a core. -/
theorem arrs_after_retest (hc : c < s.lcores) (ha : a < 4) (hup : s.awake c = true)
    (hbusy : (s.arr c a).stestBusy = true) (hwait : (s.arr c a).stestWait = false) (hidle : s.hubDike.busy = false)
    (hre : (s.core c).retest = true)
    (hothers : ∀ b < 4, b ≠ a → (s.arr c b).stestBusy = false ∧ (s.arr c b).stestWait = false) :
    ∃ u, exec (.arraySelfTestDone c a 0) s = .next u ∧ (u.core c).retest = false ∧
      u.arr c a = (((s.arr c a).tested 0).passed true).restart ∧
      ∀ b < 4, ∃ x : Arr, u.arr c b = x.restart := by
  have hnone (b : Nat) (hb : b < 4) :
      ((s.setArr c a (((s.arr c a).tested 0).passed true)).arr c b).stestBusy = false ∧
        ((s.setArr c a (((s.arr c a).tested 0).passed true)).arr c b).stestWait = false := by
    by_cases hba : b = a
    · rw [hba, State.arr_setArr, Arr.stestBusy_passed, Arr.stestWait_passed]
      exact ⟨rfl, hwait⟩
    · rw [State.arr_setArr_ne _ _ _ _ (by omega)]
      exact hothers b hb hba
  have hnext (b : Nat) (hb : b < 4) : ((State.modCore ((s.setArr c a (((s.arr c a).tested 0).passed true)).eachArr c
      Arr.restart) c fun k => { k with retest := false }).stestNext c).arr c b =
      ((s.setArr c a (((s.arr c a).tested 0).passed true)).arr c b).restart := by
    have heach := (s.setArr c a (((s.arr c a).tested 0).passed true)).arr_eachArr c Arr.restart hb
    rw [State.modCore_eq, State.arr_stestNext_of_not_waiting, State.setCore_arr, heach]
    rw [State.setCore_arr, heach, Arr.restart]
    exact (hnone b hb).2
  refine ⟨_, exec_arraySelfTestDone_pass hc ha hup hbusy, ?_⟩
  rw [State.stestPassed_of_last hidle hre hnone]
  refine ⟨?_, ?_, fun b hb => ⟨_, hnext b hb⟩⟩
  · rw [State.core_stestNext, State.modCore_eq, State.core_setCore]
  · rw [hnext a ha, State.arr_setArr]

theorem arr_after_failure {n : BitVec 8} (hn : n ≠ 0) (hle : n.toNat ≤ 6) (hc : c < s.lcores) (ha : a < 4)
    (hup : s.awake c = true) (hbusy : (s.arr c a).stestBusy = true) (hwait : (s.arr c a).stestWait = false)
    (hidle : s.hubDike.busy = false) :
    ∃ u, exec (.arraySelfTestDone c a n) s = .next u ∧ u.arr c a = (s.arr c a).tested n :=
  ⟨_, exec_arraySelfTestDone_fail hn hle hc ha hup hbusy hidle, State.arr_stestNext_setArr hwait⟩

/-- Settles O37: the start, the four ends of a test, and GO written 0 and then 1. -/
theorem selfTests : Obligations.SelfTests := by
  refine ⟨?_, ?_, ?_⟩
  · intro c a s hc ha hd x fw now hbusy hwait
    rw [exec_maStestStart hc ha, s.stestStart_eq c a hd hbusy hwait]
    rfl
  · intro c a s hc ha hup x hbusy hwait hidle
    refine ⟨fun hre => ⟨fun hsus => ?_, fun hsus => ?_, fun n hn hle => ?_⟩, fun hre hsus hothers => ?_⟩
    · obtain ⟨u, hu, harr⟩ := arr_after_pass hc ha hup hbusy hwait hidle hre
      refine ⟨u, hu, ?_⟩
      rw [harr, Arr.passed_of_clear (x := (s.arr c a).tested 0) hsus]
      exact ⟨rfl, rfl, Bool.and_true _, rfl⟩
    · obtain ⟨u, hu, harr⟩ := arr_after_pass hc ha hup hbusy hwait hidle hre
      refine ⟨u, hu, ?_⟩
      rw [harr, Arr.passed_of_suspect (x := (s.arr c a).tested 0) hsus]
      exact ⟨rfl, rfl, rfl⟩
    · obtain ⟨u, hu, harr⟩ := arr_after_failure hn hle hc ha hup hbusy hwait hidle
      refine ⟨u, hu, ?_⟩
      rw [harr]
      exact ⟨decide_eq_false hn, rfl, rfl, rfl⟩
    · obtain ⟨u, hu, hcore, harr, hstarted⟩ := arrs_after_retest hc ha hup hbusy hwait hidle hre hothers
      refine ⟨u, hu, hcore, ?_, fun b hb => ?_⟩
      · rw [harr, Arr.passed_of_clear (x := (s.arr c a).tested 0) hsus]
        exact Bool.and_false _
      · obtain ⟨y, hy⟩ := hstarted b hb
        rw [hy]
        exact ⟨rfl, rfl, rfl⟩
  · intro c a s u v w w' hc ha hd hdone hpass hsus hbusy hwait hgo hw hw' hwin hu hv
    rw [exec_maCtlGoClear hc ha hw, State.writeMaCtl_of_go hgo] at hu
    cases hu
    have hstopped : ((s.setArr c a { s.arr c a with go := w.getLsbD 0 }).arr c a).go = false := by
      rw [State.arr_setArr, hw]
    rw [exec_maCtlGoSet (s := s.setArr c a _) hc ha hw', State.writeMaCtl_starts hw' hstopped hd hwin] at hv
    cases hv
    rw [State.arr_setArr, State.arr_setArr]
    refine ⟨rfl, ?_⟩
    simp [Arr.started, hdone, hpass, hsus, hbusy, hwait]

end Sys2Proof.Machine
end

section
/-! SUPPORT. The end of an array instruction whose check failed (05 R155, R156, R158; 04 R107). -/

namespace Sys2Proof.Machine

variable {s v : State} {c a : Nat} {o : AsyncOp}

/-! ## Two numbers of one thread -/

/-- A listed entry does not depend on the default it is read with. -/
theorem Tab.get_of_ne_default {α : Type} {d : α} {m : Tab α} {k : Nat} (h : Tab.get d m k ≠ d) (e : α) :
    Tab.get e m k = Tab.get d m k := by
  induction m with
  | nil => exact absurd rfl h
  | cons x m ih =>
    rw [Tab.get, Tab.get]
    rw [Tab.get] at h
    split
    · rfl
    · next hx =>
      rw [if_neg hx] at h
      exact ih h

/-- Two pairs of numbers with one key name one thread, unless it was never started. -/
theorem State.thread_of_key {c t c' t' : Nat} (hk : c' * 32 + t' = c * 32 + t) (h : (s.thread c t).state ≠ .free) :
    s.thread c' t' = s.thread c t := by
  rw [State.thread, hk]
  exact Tab.get_of_ne_default (fun hd => h (by rw [State.thread, hd]; rfl)) _

/-- A thread after another was replaced by one that is not FREE. -/
theorem State.thread_setThread_key {c t c' t' : Nat} {x : Thread} (hk : c' * 32 + t' = c * 32 + t)
    (h : x.state ≠ .free) : (s.setThread c t x).thread c' t' = x := by
  have hx : (s.setThread c t x).thread c t = x := State.thread_setThread ..
  rw [State.thread_of_key hk (by rw [hx]; exact h), hx]

/-- Free slots of a core leave each thread as it is, or end its wait for them. -/
theorem State.roused_releaseMem_any (s : State) (c c' t' : Nat) :
    (s.thread c' t').Roused ((s.releaseMem c).thread c' t') := by
  unfold State.releaseMem
  dsimp only
  generalize s.slotsUsed c = used
  generalize List.range 32 = l
  induction l generalizing s with
  | nil => exact .inl rfl
  | cons b l ih =>
    rw [List.foldl_cons]
    split
    · next h =>
      refine .trans ?_ (ih _)
      by_cases hk : c' * 32 + t' = c * 32 + b
      · have hwait : (s.thread c b).state ≠ .free := by
          rw [h.1]
          decide
        rw [State.thread_setThread_key hk TState.noConfusion, State.thread_of_key hk hwait]
        exact .inr ⟨h.1, rfl⟩
      · rw [State.thread_setThread_ne _ _ _ _ hk]
        exact .inl rfl
    · exact ih s

/-- An instruction that leaves its array ends at most waits for slots. -/
theorem State.roused_arrLeave (s : State) (c a c' t' : Nat) :
    (s.thread c' t').Roused ((s.arrLeave c a).thread c' t') := by
  have hbegin (x : State) : (x.stestBegin c a).thread c' t' = x.thread c' t' := by
    obtain ⟨y, h | h⟩ := x.stestBegin_cases c a
    · rw [h]
    · rw [h]
      rfl
  have h := State.roused_releaseMem_any
    ((s.modArr c a fun x => { x with run := x.run.drop 1 }).stestBegin c a) c c' t'
  rw [hbegin] at h
  exact h

/-! ## The record of the array -/

/-- MA_CHKLOG.KIND of a mismatch is the kind of its check. -/
theorem Arr.kind_mismatch (x : Arr) (kind : BitVec 3) (inj : Bool) (thread : Nat) :
    (x.mismatch kind inj thread).log.extractLsb' 16 3 = kind := by
  have hcount : satAdd (x.log.toNat % 2 ^ 16) 1 0xFFFF ≤ 0xFFFF := Nat.min_le_right ..
  have hinj : b2n inj ≤ 1 := by cases inj <;> decide
  have hkind := kind.isLt
  have hlog : (x.mismatch kind inj thread).log = BitVec.ofNat 32 (satAdd (x.log.toNat % 2 ^ 16) 1 0xFFFF +
      kind.toNat * 2 ^ 16 + b2n inj * 2 ^ 19 + thread % 32 * 2 ^ 20) := by
    unfold Arr.mismatch
    dsimp only
    split <;> rfl
  rw [hlog]
  apply BitVec.eq_of_toNat_eq
  rw [BitVec.extractLsb'_toNat, BitVec.toNat_ofNat, Nat.shiftRight_eq_div_pow]
  omega

theorem Arr.mismatch_of_clear {x : Arr} (h : x.armed = false) (kind : BitVec 3) (inj : Bool) (thread : Nat) :
    ∃ l, x.mismatch kind inj thread = { x with chkFail := true, log := l, armed := true, since := 0 } := by
  rw [Arr.mismatch]
  exact ⟨_, if_neg (ne_true_of_eq_false h)⟩

theorem Arr.mismatch_of_armed {x : Arr} (h : x.armed = true) (kind : BitVec 3) (inj : Bool) (thread : Nat) :
    ∃ l, x.mismatch kind inj thread = { x with chkFail := true, log := l, suspect := true, held := true } := by
  rw [Arr.mismatch]
  exact ⟨_, if_pos h⟩

/-- Counting an operation changes MA_OPS and the window. -/
theorem Arr.count_cases (x : Arr) (wasArmed : Bool) :
    ∃ n b, x.count wasArmed = { x with ops := x.ops + 1, since := n, armed := b } := by
  unfold Arr.count
  dsimp only
  split
  · exact ⟨_, _, rfl⟩
  · exact ⟨_, _, rfl⟩

/-- What a mismatch leaves of an array that was `x`: the operation counted, and the window armed or the array suspect
(R155, R156, R158). -/
structure Arr.Mismatched (x : Arr) (kind : BitVec 3) (y : Arr) : Prop where
  run : y.run = x.run
  chkFail : y.chkFail = true
  ops : y.ops = x.ops + 1
  kind : y.log.extractLsb' 16 3 = kind
  window : if x.armed then y.suspect = true ∧ y.held = true else y.armed = true ∧ y.since = 0 ∧ y.held = x.held

theorem Arr.mismatched_count (x : Arr) (kind : BitVec 3) (inj : Bool) (thread : Nat) :
    x.Mismatched kind ((x.mismatch kind inj thread).count x.armed) := by
  have hkind := x.kind_mismatch kind inj thread
  cases ha : x.armed with
  | false =>
    obtain ⟨l, hl⟩ := Arr.mismatch_of_clear ha kind inj thread
    rw [hl] at hkind ⊢
    exact ⟨rfl, rfl, rfl, hkind, by rw [ha, if_neg Bool.false_ne_true]; exact ⟨rfl, rfl, rfl⟩⟩
  | true =>
    obtain ⟨l, hl⟩ := Arr.mismatch_of_armed ha kind inj thread
    rw [hl] at hkind ⊢
    obtain ⟨n, b, h⟩ := Arr.count_cases { x with chkFail := true, log := l, suspect := true, held := true } true
    rw [h]
    exact ⟨rfl, rfl, rfl, hkind, by rw [ha, if_pos rfl]; exact ⟨rfl, rfl⟩⟩

/-- A mismatch of an array that differs from `x` only in its runs and its self-test. -/
theorem Arr.Mismatched.of_same {x z y : Arr} {kind : BitVec 3} (h : z.Mismatched kind y) (hops : z.ops = x.ops)
    (harmed : z.armed = x.armed) (hheld : z.held = x.held) : y.chkFail = true ∧ y.ops = x.ops + 1 ∧
      y.log.extractLsb' 16 3 = kind ∧
      if x.armed then y.suspect = true ∧ y.held = true else y.armed = true ∧ y.since = 0 ∧ y.held = x.held := by
  refine ⟨h.chkFail, hops ▸ h.ops, h.kind, ?_⟩
  rw [← harmed, ← hheld]
  exact h.window

/-! ## Until the mismatch is recorded -/

/-- An instruction of array `a` of core `c` has left after `n` others: memory and cores are as before, the array but for
its runs and its self-test, and the thread of its operation but for its flags and for a wait that has ended. -/
structure State.RunLeft (s v : State) (c a : Nat) (o : AsyncOp) (n : Nat) : Prop where
  mem : v.mem = s.mem
  core : ∀ c', v.core c' = s.core c'
  thread : ∃ x f, (s.thread o.core o.thread).Roused x ∧ v.thread o.core o.thread = { x with fpstat := f }
  arr : ∃ run w b, run.length = n ∧ v.arr c a = { s.arr c a with run := run, stestWait := w, stestBusy := b }

theorem State.runLeft_arrLeave (s : State) (c a : Nat) (o : AsyncOp) :
    s.RunLeft (s.arrLeave c a) c a o ((s.arr c a).run.drop 1).length := by
  obtain ⟨w, b, harr⟩ := s.arr_arrLeave c a
  have hth := s.roused_arrLeave c a o.core o.thread
  generalize hv : s.arrLeave c a = v at harr hth
  refine ⟨hv ▸ s.mem_arrLeave c a, hv ▸ s.core_arrLeave c a, ?_, _, w, b, rfl, harr⟩
  generalize v.thread o.core o.thread = x at hth
  exact ⟨x, x.fpstat, hth, rfl⟩

theorem State.RunLeft.takeFree {n : Nat} (h : s.RunLeft v c a o n) : s.RunLeft v.takeFree.2 c a o n :=
  ⟨h.mem, h.core, h.thread, h.arr⟩

theorem State.RunLeft.opFlags {n : Nat} (h : s.RunLeft v c a o n) (hm : o.mute = false) (fl : BitVec 4) :
    s.RunLeft (v.opFlags o fl) c a o n := by
  refine ⟨(v.mem_opFlags o fl).trans h.mem, fun c' => (v.core_opFlags o fl c').trans (h.core c'), ?_, ?_⟩
  · obtain ⟨x, f, hx, hth⟩ := h.thread
    refine ⟨x, f ||| fl, hx, ?_⟩
    rw [State.opFlags, hm, if_neg Bool.false_ne_true, State.modThread_eq, State.thread_setThread, hth]
  · obtain ⟨run, w, b, hn, harr⟩ := h.arr
    exact ⟨run, w, b, hn, (v.arr_opFlags o fl c a).trans harr⟩

/-- The bank of an instruction whose check failed holds unspecified values, and so do the outputs of the instructions
that depend on it (R155). -/
def State.spoilBank (s : State) (c a : Nat) (bank : Option Nat) : State :=
  match bank with
  | some b => (s.takeFree.2.freeBank c a b).modArr c a fun x => { x with run := x.run.map (ArrRun.spoil s.takeFree.1 b) }
  | none => s

theorem State.RunLeft.freeBank {n : Nat} (h : s.RunLeft v c a o n) (b : Nat) : s.RunLeft (v.freeBank c a b) c a o n :=
  ⟨h.mem, h.core, h.thread, h.arr⟩

theorem State.RunLeft.mapRun {n : Nat} (h : s.RunLeft v c a o n) (f : ArrRun → ArrRun) :
    s.RunLeft (v.modArr c a fun x => { x with run := x.run.map f }) c a o n := by
  obtain ⟨run, w, t, hn, harr⟩ := h.arr
  refine ⟨h.mem, h.core, h.thread, run.map f, w, t, (List.length_map _).trans hn, ?_⟩
  rw [State.modArr_eq, State.arr_setArr, harr]

theorem State.RunLeft.spoilBank {n : Nat} (h : s.RunLeft v c a o n) (bank : Option Nat) :
    s.RunLeft (v.spoilBank c a bank) c a o n := by
  cases bank with
  | none => exact h
  | some b => exact (h.takeFree.freeBank b).mapRun _

/-! ## The mismatch is recorded -/

/-- A notification is pending from then on. -/
theorem State.pend_notify (s : State) (kind inj place code detail) :
    (s.notify kind inj place code detail).err.pend = s.err.pend ||| (1#14 <<< kind) := by
  unfold State.notify
  dsimp only
  split
  · obtain ⟨p, o, h⟩ := State.msixSend_cases { s with err := _ } s.dev.notifyVec.toNat
    rw [h]
    rfl
  · rfl

/-- The array is suspect: notification ARRAY_SUSPECT (R158). -/
def State.suspected (s : State) (c a : Nat) (inj was : Bool) : State :=
  if was then s.notify 0 inj (arrPlace c a) 0x25 (s.arr c a).log.toNat else s

theorem State.suspected_cases (s : State) (c a : Nat) (inj was : Bool) :
    ∃ e p m x, s.suspected c a inj was = { s with err := e, pcie := p, mmc := m, out := x } ∧
      (was = true → e.pend.getLsbD 0 = true) := by
  cases was with
  | false => exact ⟨s.err, s.pcie, s.mmc, s.out, rfl, nofun⟩
  | true =>
    have hpend := s.pend_notify 0 inj (arrPlace c a) 0x25 (s.arr c a).log.toNat
    obtain ⟨e, p, m, x, h⟩ := s.notify_cases 0 inj (arrPlace c a) 0x25 (s.arr c a).log.toNat
    rw [h] at hpend
    refine ⟨e, p, m, x, h, fun _ => ?_⟩
    rw [show e.pend = _ from hpend]
    simp

/-- The array with a mismatch recorded and its operation counted. -/
def State.recordMismatch (s : State) (c a : Nat) (kind : BitVec 3) (inj : Bool) (thread : Nat) (was : Bool) : State :=
  (s.modArr c a fun x => (x.mismatch kind inj thread).count was).suspected c a inj was

/-- With no output written before the failed check. -/
theorem State.arrMismatch_zero (s : State) (c a : Nat) (r : ArrRun) (o : AsyncOp) (kind : BitVec 3) (inj : Bool) :
    s.arrMismatch c a r o kind inj 0 =
      (State.recordMismatch ((s.takeFree.2.opFlags o
        (r.flags &&& (Config.freeWord s.takeFree.1).extractLsb' 0 4)).spoilBank c a r.bank)
        c a kind inj o.thread (s.arr c a).armed).opFail o cChkFail 0 := rfl

/-- What a failed check leaves: the operation ended without a signal, its thread with the record, and the registers of
the array. -/
structure State.CheckFailed (s u : State) (c a : Nat) (o : AsyncOp) (kind : BitVec 3) (n : Nat) : Prop where
  mem : u.mem = s.mem
  op : u.op? o.id = none
  run : (u.arr c a).run.length = n
  arr : (u.arr c a).chkFail = true ∧ (u.arr c a).ops = (s.arr c a).ops + 1 ∧
    (u.arr c a).log.extractLsb' 16 3 = kind ∧
    if (s.arr c a).armed then (u.arr c a).suspect = true ∧ (u.arr c a).held = true
    else (u.arr c a).armed = true ∧ (u.arr c a).since = 0 ∧ (u.arr c a).held = (s.arr c a).held
  pend : (s.arr c a).armed = true → u.err.pend.getLsbD 0 = true
  sems : ∀ m, (Tab.get 0 (u.core o.core).sems m).toNat ≤ (Tab.get 0 (s.core o.core).sems m).toNat
  kept : (s.thread o.core o.thread).state ≠ .waitSync → (u.core o.core).sems = (s.core o.core).sems
  fault : (u.thread o.core o.thread).fault =
    ((s.thread o.core o.thread).errorStatus cChkFail (opUnit o.word) 0 o.pc).fault

theorem Thread.Roused.state_ne_waitSync {x y : Thread} (h : x.Roused y) (hx : x.state ≠ .waitSync) :
    y.state ≠ .waitSync := by
  rcases h with rfl | ⟨-, rfl⟩
  · exact hx
  · exact TState.noConfusion

theorem State.RunLeft.failed {n : Nat} {was : Bool} (h : s.RunLeft v c a o n) (hm : o.mute = false)
    (hwas : (s.arr c a).armed = was) (kind : BitVec 3) :
    s.CheckFailed ((v.recordMismatch c a kind false o.thread was).opFail o cChkFail 0) c a o kind n := by
  obtain ⟨run, w, b, hn, harr⟩ := h.arr
  obtain ⟨x, f, hx, hth⟩ := h.thread
  have hmis := (v.arr c a).mismatched_count kind false o.thread
  have hvwas : (v.arr c a).armed = was := by rw [harr]; exact hwas
  rw [hvwas] at hmis
  obtain ⟨e, p, m, y, hrec, hpend⟩ := (v.modArr c a fun x => (x.mismatch kind false o.thread).count was).suspected_cases
    c a false was
  have hrec' : v.recordMismatch c a kind false o.thread was = _ := hrec
  generalize v.recordMismatch c a kind false o.thread was = z at hrec'
  have hzmem : z.mem = s.mem := by rw [hrec']; exact h.mem
  have hzcore : z.core o.core = s.core o.core := by rw [hrec']; exact h.core o.core
  have hzth : z.thread o.core o.thread = { x with fpstat := f } := by rw [hrec']; exact hth
  have hzarr : z.arr c a = ((v.arr c a).mismatch kind false o.thread).count was := by
    rw [hrec']
    exact State.arr_setArr ..
  obtain ⟨ws, sems, hcore, hle, hsame⟩ := State.core_opFail (cause := cChkFail) (dest := 0) z hm
  obtain ⟨ts, k, hfail⟩ := z.opFail_cases o cChkFail 0
  have harr' : (z.opFail o cChkFail 0).arr c a = z.arr c a := by rw [hfail]; rfl
  have hsync (hs : (s.thread o.core o.thread).state ≠ .waitSync) : (z.thread o.core o.thread).state ≠ .waitSync := by
    rw [hzth]
    exact hx.state_ne_waitSync hs
  refine ⟨(z.mem_opFail o ..).trans hzmem, State.op?_opFail .., ?_, ?_, fun ha => ?_, fun m => ?_, fun hs => ?_,
    State.fault_opFail hm hx f hzth⟩
  · rw [harr', hzarr, hmis.run, harr]
    exact hn
  · rw [harr', hzarr]
    exact hmis.of_same (by rw [harr]) (by rw [harr]) (by rw [harr])
  · rw [hfail, hrec']
    exact hpend (hwas ▸ ha)
  · rw [hcore, ← hzcore]
    exact hle m
  · rw [hcore, ← hzcore]
    exact hsame (hsync hs)

/-! ## The statement -/

/-- The only check of a run fails, by its sides or by a fault of the cells (R152, R154). -/
theorem State.compareChecks_fail (hq : s.err.perturbGo = false) {k : Check} (hk : k.differs = true ∨ k.live = true) :
    State.compareChecks s c a 0 (some 0) [k] = (some (k.kind, false), s) := by
  have hfails : (k.differs || (k.live && some 0 == some 0)) = true := by
    simpa using hk
  rw [State.compareChecks, s.perturb_off hq]
  exact if_pos hfails

theorem State.arrEnd_of_failed {r : ArrRun} {bad : Option Nat} {n : Nat} {kind : BitVec 3} {inj : Bool} {x : State}
    (hv : s.arrLeave c a = v) (hop : v.op? r.op = some o)
    (hcheck : State.compareChecks v c a 0 bad r.checks = (some (kind, inj), x)) :
    s.arrEnd c a r bad n = x.arrMismatch c a r o kind inj n := by
  unfold State.arrEnd
  dsimp only
  rw [hv, hop]
  dsimp only
  rw [hcheck]

theorem State.arrEnd_fail {k : Check} {r : ArrRun} (hop : s.op? r.op = some o) (hm : o.mute = false)
    (hq : s.err.perturbGo = false) (hr : r.checks = [k]) (hk : k.differs = true ∨ k.live = true) :
    s.CheckFailed (s.arrEnd c a r (some 0) 0) c a o k.kind ((s.arr c a).run.drop 1).length := by
  obtain ⟨w, b, harr⟩ := s.arr_arrLeave c a
  have hleft := s.runLeft_arrLeave c a o
  have hcheck := State.compareChecks_fail (s := s.arrLeave c a) (c := c) (a := a)
    ((s.alikeOn_arrLeave c a c).quiet.trans hq) hk
  rw [State.arrEnd_of_failed rfl ((s.op?_arrLeave c a r.op).trans hop) (hr ▸ hcheck), State.arrMismatch_zero]
  exact ((hleft.takeFree.opFlags hm _).spoilBank r.bank).failed hm (by rw [harr]) k.kind

/-- Settles O38: the instruction leaves, its check fails, the array and the thread record it. -/
theorem mismatch : Obligations.Mismatch := by
  intro c a k r rs o s hc ha hup hq hrun hop hm hr hk hreach hfault hstate
  have hset : ¬ (s.thread o.core o.thread).settled := by
    simpa [Thread.settled] using hstate
  have hexec : exec (.arrayInstructionEnd c a (some 0) 0) s = .next (s.arrEnd c a r (some 0) 0) := by
    rw [← State.ifReach_of_reaches hreach fun s => s.arrEnd c a r (some 0) 0]
    exact (if_pos ⟨hc, ha⟩).trans (by rw [hrun, hup])
  have hfail := State.arrEnd_fail (c := c) (a := a) hop hm hq hr hk
  obtain ⟨hchk, hops, hkind, hwindow⟩ := hfail.arr
  refine ⟨_, hexec, hfail.mem, State.id_of_op? hop ▸ hfail.op, ?_, hchk, hops, hkind, hfail.sems, hfail.kept, ?_, ?_⟩
  · rw [hfail.run, hrun]
    rfl
  · rw [hfail.fault, Thread.fault_errorStatus_of_not_settled _ _ _ _ hset, Thread.record, hfault]
    rfl
  · split
    · next h =>
      rw [if_pos h] at hwindow
      exact ⟨hwindow.1, hwindow.2, hfail.pend h⟩
    · next h =>
      rw [if_neg h] at hwindow
      exact hwindow

end Sys2Proof.Machine
end

section
/-! SUPPORT. Bytes that a write leaves alone, whatever it writes; writes of a unit and the scratchpad of a diked core (01 R18,
R23; 08 R239, R255). -/

namespace Sys2Proof.Machine

variable {s u : State} {x : Nat}

theorem State.UnitStep.bytes {T : Prop} (h : s.UnitStep T False u) (k n : Nat) : u.bytes k n = s.bytes k n := by
  rw [State.bytes, h.sameCells, State.bytes]

/-- The byte at `x` lies outside the `n` bytes from `k`. -/
def Outside (x k n : Nat) : Prop := x < k ∨ k + n ≤ x

theorem State.UnitStep.byte_setBytes {T : Prop} (h : s.UnitStep T False u) {k : Nat} {d : Bytes}
    (hx : Outside x k d.length) : (u.setBytes k d).bytes x 1 = s.bytes x 1 :=
  (u.bytes_setBytes_of_disjoint (n := 1) hx).trans (h.bytes x 1)

variable (s)

theorem State.byte_writeSpad (c off : Nat) (d : Bytes) (hx : Outside x (spadAddr c off) d.length) :
    (s.writeSpad c off d).2.bytes x 1 = s.bytes x 1 := by
  unfold State.writeSpad
  dsimp only
  split
  · refine State.UnitStep.byte_setBytes (T := False) ?_ hx
    exact (s.unitStep_countCorr ..).trans (.foldl _ (fun s w => s.unitStep_setWordMark w 0) _ _)
  · refine State.UnitStep.bytes (T := False) ?_ x 1
    exact (s.unitStep_countCorr ..).trans (.foldl _ (fun s w => s.unitStep_countUe c _ false) _ _)

theorem State.byte_writeSector (u : Nat) (d : Bytes) (cls : Nat) (hx : Outside x u d.length) :
    (s.writeSector u d cls).2.bytes x 1 = s.bytes x 1 := by
  have cleared (v : State) (g : Tab Nat) (sec : Nat) (h : s.UnitStep False False v) :
      ((State.clearSector { v with mem := { v.mem with grpErr := g } } sec).setBytes u d).bytes x 1 = s.bytes x 1 :=
    State.UnitStep.byte_setBytes ((h.trans (State.unitStep_lpdMarks ..)).trans (State.unitStep_clearSector ..)) hx
  unfold State.writeSector
  dsimp only
  split
  · split
    · exact (State.unitStep_lpdUe (T := False) ..).bytes x 1
    · exact cleared s _ _ (.refl s)
  · split
    · exact cleared _ _ _ (s.unitStep_checkSector ..)
    · exact (State.unitStep_checkSector (T := False) ..).bytes x 1

theorem State.byte_writeLpd (fuel u : Nat) (d : Bytes) (cls : Nat) (hx : Outside x u d.length) :
    (State.writeLpd fuel s u d cls).2.bytes x 1 = s.bytes x 1 := by
  induction fuel generalizing s u d with
  | zero => rfl
  | succ n ih =>
    have part (k : Nat) (hk : k ≤ d.length) : Outside x u (d.take k).length ∧ Outside x (u + k) (d.drop k).length := by
      simp only [Outside, List.length_take, List.length_drop] at hx ⊢
      omega
    unfold State.writeLpd
    dsimp only
    split
    · rfl
    split
    · next h =>
      obtain ⟨hfirst, hrest⟩ := part 480 h.2.2
      exact (ih _ _ _ hrest).trans (State.UnitStep.byte_setBytes (s.unitStep_lpdMarks (T := False) ..) hfirst)
    · obtain ⟨hfirst, hrest⟩ := part _ (Nat.min_le_left ..)
      split
      · exact (ih _ _ _ hrest).trans (s.byte_writeSector _ _ _ hfirst)
      · exact s.byte_writeSector _ _ _ hfirst

theorem State.byte_writePlace (p : Place) (d : Bytes) (cls : Nat) (hx : Outside x p.key d.length) :
    (s.writePlace p d cls).2.bytes x 1 = s.bytes x 1 := by
  cases p with
  | spad c off => exact s.byte_writeSpad c off d hx
  | lpd u => exact s.byte_writeLpd _ u d cls hx
  | cis a =>
    exact State.UnitStep.byte_setBytes (T := False) (.foldl _ (fun s w => s.unitStep_setWordMark w 0) _ s) hx
  | reg off => rfl

/-- No address leads into the scratchpad of a diked core: what a place begins lies 16 MiB before its window, or behind
it. -/
theorem State.place_of_diked {c a : Nat} {p : Place} (hc : c < s.lcores) (hd : (s.core c).diked = true)
    (h : s.place a = .ok p) :
    p.key + 0x1000000 ≤ spadAddr c 0 ∨ spadAddr c 0 + 0x4000000 ≤ p.key := by
  have hcores := s.lcores_le
  have htop := s.lpdTop_le
  have other {c' off : Nat} (hlive : (s.core c').diked = false) (hoff : off < spadSize) :
      spadAddr c' off + 0x1000000 ≤ spadAddr c 0 ∨ spadAddr c 0 + 0x4000000 ≤ spadAddr c' off := by
    have hne : c' ≠ c := by
      rintro rfl
      exact Bool.false_ne_true (hlive.symm.trans hd)
    simp only [spadAddr, windowBase, spadSize] at hoff ⊢
    omega
  unfold State.place at h
  dsimp only at h
  split at h
  · split at h
    · cases h
      simp only [Place.key, spadAddr, windowBase]
      omega
    · cases h
  split at h
  · cases h
  split at h
  · split at h
    · split at h
      · cases h
      · next hlive =>
        cases h
        simp only [Bool.or_eq_true, not_or, Bool.not_eq_true, decide_eq_true_eq, Nat.not_le] at hlive
        exact other hlive.1.1 hlive.2
    · cases h
  split at h
  · cases h
  split at h
  · split at h
    · cases h
    · next hoff =>
      split at h
      · cases h
      · next hlive =>
        cases h
        exact other (by simpa using hlive) (Nat.lt_of_not_le fun ho => hoff (.inl ho))
  split at h
  · next hcis =>
    cases h
    simp only [Place.key, spadAddr, windowBase, cisternBase] at hcis ⊢
    omega
  split at h
  · cases h
    simp only [Place.key, spadAddr, windowBase]
    omega
  · cases h

/-- A write of a unit leaves the scratchpad of a diked core. -/
theorem State.byte_writeMem_of_diked {c off : Nat} (hc : c < s.lcores) (hd : (s.core c).diked = true) (a cls : Nat)
    {d : Bytes} (hlen : d.length ≤ 0x1000000) (ho : off < 0x4000000) :
    (s.writeMem a d cls).2.bytes (spadAddr c off) 1 = s.bytes (spadAddr c off) 1 := by
  unfold State.writeMem
  split
  · rfl
  split
  · rfl
  · next p hp =>
    have hplace : s.place a = .ok p := by
      unfold State.placeOf at hp
      split at hp
      · split at hp
        · cases hp
          assumption
        · cases hp
      · cases hp
      · cases hp
    refine s.byte_writePlace p d cls ?_
    have hout := s.place_of_diked hc hd hplace
    simp only [Outside, spadAddr] at hout ⊢
    omega

end Sys2Proof.Machine
end

section
/-! SUPPORT. A core that is gone: what a dike leaves of it, and that the abort of the buckets that depend on it keeps this
(05 R160; 12 R403; 15 R465). -/

namespace Sys2Proof.Machine

variable {s u v : State} {c : Nat}

/-! ## Threads -/

/-- A context that is fenced with nothing outstanding (R61). -/
structure Thread.Fenced (th : Thread) : Prop where
  state : th.state = .fenced
  reqs : th.reqs = []
  msgs : th.msgs = []

theorem Thread.fenced_fence (th : Thread) : th.fence.Fenced := ⟨rfl, rfl, rfl⟩

theorem Thread.Fenced.wake {th : Thread} (h : th.Fenced) : th.wake.Fenced := by
  have hs : ¬ th.state = .waitSync := by
    rw [h.state]
    exact TState.noConfusion
  rw [Thread.wake, if_neg hs]
  exact h

theorem Thread.Fenced.putS {th : Thread} (h : th.Fenced) (n : Nat) (x : BitVec 64) : (th.putS n x).Fenced :=
  ⟨h.state, congrArg (List.map _) h.reqs, h.msgs⟩

theorem Thread.Fenced.fenceDone {th : Thread} (h : th.Fenced) (x : BitVec 64) (rd : Nat) : (th.fenceDone x rd).Fenced := by
  rw [Thread.fenceDone]
  split
  · exact (h.putS rd x).wake
  · exact h.wake

/-- A change of one thread that keeps fenced contexts so keeps them all, whatever number it names. -/
theorem State.fenced_modThread {t c' t' : Nat} {f : Thread → Thread} (hf : ∀ th : Thread, th.Fenced → (f th).Fenced)
    (h : (s.thread c t).Fenced) : ((s.modThread c' t' f).thread c t).Fenced := by
  have hfree {th : Thread} (hth : th.Fenced) : th.state ≠ .free := by
    rw [hth.state]
    exact TState.noConfusion
  rw [State.modThread_eq]
  by_cases hk : c * 32 + t = c' * 32 + t'
  · have hsame : s.thread c' t' = s.thread c t := State.thread_of_key hk.symm (hfree h)
    have hx := hf _ h
    rw [hsame, State.thread_setThread_key hk (hfree hx)]
    exact hx
  · rw [State.thread_setThread_ne _ _ _ _ hk]
    exact h

theorem State.fenced_wakeAll {t : Nat} (c' : Nat) (ts : List Nat) (h : (s.thread c t).Fenced) :
    ((s.wakeAll c' ts).thread c t).Fenced := by
  induction ts generalizing s with
  | nil => exact h
  | cons b ts ih => exact ih (State.fenced_modThread (fun _ => Thread.Fenced.wake) h)

theorem State.fenced_opComplete {t : Nat} (o : AsyncOp) (h : (s.thread c t).Fenced) :
    ((s.opComplete o).thread c t).Fenced := by
  unfold State.opComplete State.semAdd
  dsimp only
  split
  · exact h
  split
  · split
    · exact h
    split
    · exact State.fenced_wakeAll _ _ h
    · exact State.fenced_wakeAll _ _ h
  · exact h

theorem State.fenced_stepRelease {t : Nat} (g : Nat) (p : BitVec 32 → Bool) (x : BitVec 64) (h : (s.thread c t).Fenced) :
    ((s.stepRelease g p x).thread c t).Fenced := by
  rw [State.stepRelease_eq_foldl]
  generalize s.threads = l
  induction l generalizing s with
  | nil => exact h
  | cons e l ih =>
    refine ih ?_
    unfold State.releaseEntry
    cases e.2.wait.bind (Wait.fenceReg g p) with
    | none => exact h
    | some rd => exact State.fenced_modThread (fun _ hth => hth.fenceDone x rd) h

/-! ## What stays of a diked core -/

/-- Core `c` is diked: its contexts are fenced, nothing is queued or executes, and its scratchpad reads 0
(assumption 3). -/
structure State.Gone (c : Nat) (s : State) : Prop where
  core : c < s.lcores
  diked : (s.core c).diked = true
  sfuQ : (s.core c).sfuQ = []
  pumpQ : (s.core c).pumpQ = []
  thread : ∀ t < 32, (s.thread c t).Fenced
  arr : ∀ a < 4, (s.arr c a).queue = [] ∧ (s.arr c a).run = []
  spad : ∀ off < 0x4000000, s.bytes (spadAddr c off) 1 = [0]

/-- `u` follows `s` by what the end of buckets does: the record of dikes, HUB_DIKE and the sites are as before, and a
diked core stays as it is. -/
structure State.GoneStep (c : Nat) (s u : State) : Prop where
  dikes : u.dikes = s.dikes
  hubDike : u.hubDike = s.hubDike
  site : u.siteOf c = s.siteOf c
  gone : s.Gone c → u.Gone c

namespace State.GoneStep

theorem refl (s : State) : s.GoneStep c s := ⟨rfl, rfl, rfl, id⟩

theorem trans (h : s.GoneStep c u) (h' : u.GoneStep c v) : s.GoneStep c v :=
  ⟨h'.dikes.trans h.dikes, h'.hubDike.trans h.hubDike, h'.site.trans h.site, fun hs => h'.gone (h.gone hs)⟩

theorem ite {p : Prop} [Decidable p] (h : s.GoneStep c u) (h' : s.GoneStep c v) :
    s.GoneStep c (if p then u else v) := by split <;> assumption

theorem foldl {α : Type} (f : State → α → State) (hf : ∀ s a, State.GoneStep c s (f s a)) (l : List α) (s : State) :
    s.GoneStep c (l.foldl f s) := by
  induction l generalizing s with
  | nil => exact .refl s
  | cons a l ih => exact (hf s a).trans (ih _)

end State.GoneStep

theorem State.LinkStep.goneStep (h : s.LinkStep u) : s.GoneStep c u := by
  obtain ⟨ls, e, f, o, rfl⟩ := h
  exact ⟨rfl, rfl, rfl, fun ⟨hc, hd, hsfu, hpump, hth, harr, hspad⟩ => ⟨hc, hd, hsfu, hpump, hth, harr, hspad⟩⟩

variable (s)

theorem State.goneStep_modCol (f : Col → Col) : s.GoneStep c (s.modCol f) :=
  ⟨rfl, rfl, rfl, fun ⟨hc, hd, hsfu, hpump, hth, harr, hspad⟩ => ⟨hc, hd, hsfu, hpump, hth, harr, hspad⟩⟩

theorem State.goneStep_stepRelease (g p x) : s.GoneStep c (s.stepRelease g p x) := by
  have hfenced {t : Nat} := State.fenced_stepRelease (s := s) (c := c) (t := t) g p x
  obtain ⟨ts, h⟩ := s.stepRelease_cases g p x
  rw [h] at hfenced ⊢
  exact ⟨rfl, rfl, rfl, fun ⟨hc, hd, hsfu, hpump, hth, harr, hspad⟩ =>
    ⟨hc, hd, hsfu, hpump, fun t ht => hfenced (hth t ht), harr, hspad⟩⟩

theorem State.goneStep_opComplete (o : AsyncOp) : s.GoneStep c (s.opComplete o) := by
  have hfenced {t : Nat} := State.fenced_opComplete (s := s) (c := c) (t := t) o
  obtain ⟨sems, ovf, ws, hcore⟩ := s.signalled_opComplete o c
  obtain ⟨ts, k, h⟩ := s.opComplete_cases o
  rw [h] at hfenced hcore ⊢
  exact ⟨rfl, rfl, rfl, fun ⟨hc, hd, hsfu, hpump, hth, harr, hspad⟩ =>
    ⟨hc, by rw [hcore]; exact hd, by rw [hcore]; exact hsfu, by rw [hcore]; exact hpump,
      fun t ht => hfenced (hth t ht), harr, hspad⟩⟩

theorem State.goneStep_writeMem (a cls : Nat) {d : Bytes} (hlen : d.length ≤ 0x1000000) :
    s.GoneStep c (s.writeMem a d cls).2 := by
  have hbyte {off : Nat} hc hd := s.byte_writeMem_of_diked (c := c) (off := off) hc hd a cls hlen
  have hstep := s.unitStep_writeMem (T := False) a d cls
  generalize (s.writeMem a d cls).2 = u at hbyte hstep
  have hkept : u.dikes = s.dikes ∧ u.hubDike = s.hubDike ∧ u.siteOf c = s.siteOf c := by
    obtain ⟨_, _, _, _, _, _, _, _, _, rfl⟩ := hstep.rest
    exact ⟨rfl, rfl, rfl⟩
  obtain ⟨_, _, _, _, hcore⟩ := hstep.core c
  refine ⟨hkept.1, hkept.2.1, hkept.2.2, fun ⟨hc, hd, hsfu, hpump, hth, harr, hspad⟩ =>
    ⟨hstep.lcores ▸ hc, by rw [hcore]; exact hd, by rw [hcore]; exact hsfu, by rw [hcore]; exact hpump,
      fun t ht => by rw [hstep.thread]; exact hth t ht, fun a ha => by rw [hstep.arr]; exact harr a ha,
      fun off ho => (hbyte hc hd ho).trans (hspad off ho)⟩⟩

/-! ## Buckets that depend on the core -/

theorem Bucket.length_record (b : Bucket) (late : Bool) (x : Contrib) : (b.record late x).length = 64 := by
  simp [Bucket.record, length_toLE]

theorem State.goneStep_endContrib (b late x) : s.GoneStep c (s.endContrib b late x) := by
  have h := (s.goneStep_writeMem (c := c) x.cist 2 (d := b.record late x) (by rw [Bucket.length_record]; decide)).trans
    (State.goneStep_modCol _ fun y => { y with
      digests := Tab.set 0 y.digests y.digestNext.toNat
        (b.digest late ((s.writeMem x.cist (b.record late x) 2).2.dieOf x.core) x)
      digestNext := y.digestNext + 1 })
  unfold State.endContrib
  dsimp only
  split
  · exact h.trans (State.goneStep_opComplete ..)
  · exact h

theorem State.goneStep_endBucket (b late) : s.GoneStep c (s.endBucket b late) := by
  unfold State.endBucket
  exact (s.goneStep_modCol _).trans (.foldl _ (fun s x => s.goneStep_endContrib b late x) _ _)

theorem State.goneStep_abortOne (b) : s.GoneStep c (s.abortOne b) := by
  unfold State.abortOne
  exact .trans (.foldl _ (fun s l => (s.linkStep_sendStep ..).goneStep) _ s) (State.goneStep_endBucket ..)

theorem State.goneStep_stepLate (g k) : s.GoneStep c (s.stepLate g k) :=
  (s.goneStep_modCol _).trans (State.goneStep_stepRelease ..)

theorem State.goneStep_abortBucket (tag) : s.GoneStep c (s.abortBucket tag) := by
  unfold State.abortBucket State.abortStep
  split
  · exact .refl s
  · exact .ite (.trans (.foldl _ (fun s b => s.goneStep_abortOne b) _ s) (State.goneStep_stepLate ..)) (s.goneStep_abortOne _)

/-- The abort of the buckets that depend on a diked core (R403) leaves it as it is. -/
theorem State.goneStep_colDike : s.GoneStep c (s.colDike c) := .foldl _ (fun s tag => s.goneStep_abortBucket tag) _ s

end Sys2Proof.Machine
end

section
/-! SUPPORT. The dike of a core (05 R160; 15 R465). -/

namespace Sys2Proof.Machine

variable (s : State) (c : Nat)

/-- A walk over the contexts of a core changes each of them once. -/
theorem State.thread_eachThread (f : Nat → Thread → Thread) {t : Nat} (ht : t < 32) :
    (s.eachThread c f).thread c t = f t (s.thread c t) := by
  have walk (l : List Nat) (hl : l.Nodup) (s : State) :
      (l.foldl (fun s b => s.modThread c b (f b)) s).thread c t =
        if t ∈ l then f t (s.thread c t) else s.thread c t := by
    induction l generalizing s with
    | nil => rfl
    | cons b l ih =>
      obtain ⟨hb, hl⟩ := List.nodup_cons.1 hl
      rw [List.foldl_cons, ih hl, State.modThread_eq]
      by_cases htb : t = b
      · rw [htb, if_neg hb, if_pos (List.mem_cons_self ..), State.thread_setThread]
      · rw [State.thread_setThread_ne _ _ _ _ (by omega)]
        simp [htb]
  exact (walk _ List.nodup_range s).trans (if_pos (List.mem_range.2 ht))

theorem State.eachThread_cases (f : Nat → Thread → Thread) : ∃ m, s.eachThread c f = { s with threads := m } := by
  unfold State.eachThread
  generalize List.range 32 = l
  induction l generalizing s with
  | nil => exact ⟨s.threads, rfl⟩
  | cons b l ih =>
    obtain ⟨m, h⟩ := ih (s.modThread c b (f b))
    exact ⟨m, h⟩

/-- An entry that was dropped reads as the default. -/
theorem Tab.get_drop_of {α : Type} (d : α) {p : Nat → Bool} {k : Nat} (h : p k = true) (m : Tab α) :
    Tab.get d (Tab.drop p m) k = d := by
  induction m with
  | nil => rfl
  | cons e m ih =>
    rw [Tab.drop, List.filter_cons]
    split
    · next hp =>
      have hne : e.1 ≠ k := by
        rintro rfl
        simp [h] at hp
      rw [Tab.get, if_neg hne]
      exact ih
    · exact ih

/-- A dropped scratchpad reads 0 (assumption 3). -/
theorem State.bytes_dropSpad {off : Nat} (ho : off < 0x4000000) : (s.dropSpad c).bytes (spadAddr c off) 1 = [0] := by
  have hlo : spadAddr c 0 ≤ spadAddr c off := by
    simp only [spadAddr]
    omega
  have hhi : spadAddr c off < spadAddr c 0 + 0x4000000 := by
    simp only [spadAddr]
    omega
  have hdrop := Tab.get_drop_of (0 : Byte)
    (p := fun k => decide (spadAddr c 0 ≤ k) && decide (k < spadAddr c 0 + 0x4000000)) (k := spadAddr c off)
    (by simp only [hlo, hhi, decide_true, Bool.and_self]) s.mem.cells
  rw [State.bytes_one]
  exact congrArg (fun b => [b]) hdrop

/-- The contexts and arrays of a core, emptied (R61, R160). -/
def State.emptyUnits (s : State) (c : Nat) : State :=
  ((s.discardOps c).eachThread c fun _ => Thread.fence).eachArr c Arr.discard

/-- All that a core held is gone, before the buckets that depend on it are aborted. -/
def State.emptied (s : State) (c : Nat) : State :=
  ((s.emptyUnits c).modCore c fun k => { k.discard with diked := true, retest := false }).dropSpad c

theorem State.discardOps_cases : ∃ o, s.discardOps c = { s with ops := o } := ⟨_, rfl⟩

theorem State.emptyUnits_cases : ∃ o m x, s.emptyUnits c = { s with ops := o, threads := m, arrs := x } := by
  obtain ⟨o, ho⟩ := s.discardOps_cases c
  obtain ⟨m, hm⟩ := State.eachThread_cases { s with ops := o } c fun _ => Thread.fence
  obtain ⟨x, hx⟩ := State.eachArr_cases { s with ops := o, threads := m } c Arr.discard
  rw [State.emptyUnits, ho, hm, hx]
  exact ⟨o, m, x, rfl⟩

theorem State.thread_eachArr (f : Arr → Arr) (c' t : Nat) : (s.eachArr c f).thread c' t = s.thread c' t := by
  obtain ⟨x, hx⟩ := s.eachArr_cases c f
  rw [hx]
  rfl

theorem State.thread_emptyUnits {t : Nat} (ht : t < 32) : ((s.emptyUnits c).thread c t).Fenced := by
  rw [State.emptyUnits, State.thread_eachArr, State.thread_eachThread _ _ _ ht]
  exact Thread.fenced_fence _

theorem State.arr_emptyUnits {a : Nat} (ha : a < 4) :
    ((s.emptyUnits c).arr c a).queue = [] ∧ ((s.emptyUnits c).arr c a).run = [] := by
  rw [State.emptyUnits, State.arr_eachArr _ _ _ ha]
  exact ⟨rfl, rfl⟩

theorem State.gone_emptied (hc : c < s.lcores) : (s.emptied c).Gone c := by
  have hthread {t : Nat} (ht : t < 32) := s.thread_emptyUnits c ht
  have harr {a : Nat} (ha : a < 4) := s.arr_emptyUnits c ha
  have hlcores : (s.emptyUnits c).lcores = s.lcores := by
    obtain ⟨o, m, x, h⟩ := s.emptyUnits_cases c
    rw [h]
    rfl
  rw [State.emptied]
  generalize s.emptyUnits c = w at hthread harr hlcores
  have hcore : ((w.modCore c fun k => { k.discard with diked := true, retest := false }).dropSpad c).core c =
      { (w.core c).discard with diked := true, retest := false } := State.core_setCore ..
  exact ⟨hlcores ▸ hc, by rw [hcore], by rw [hcore]; rfl, by rw [hcore]; rfl, fun t ht => hthread ht,
    fun a ha => harr ha, fun off ho => State.bytes_dropSpad _ c ho⟩

/-- The record that a dike leaves (R466). -/
def State.dikeRec (s : State) (c : Nat) (cause : BitVec 8) (detail : Nat) : DikeRec := ⟨s.siteOf c, c, cause, detail⟩

theorem State.dikeCore_eq (cause : BitVec 8) (detail : Nat) :
    s.dikeCore c cause detail = { (s.emptied c).colDike c with
      dikes := ((s.emptied c).colDike c).dikes ++ [((s.emptied c).colDike c).dikeRec c cause detail]
      hubDike := if ((s.emptied c).colDike c).hubDike.busy && ((s.emptied c).colDike c).hubDike.core == c then
        { ((s.emptied c).colDike c).hubDike with busy := false, diked := true } else ((s.emptied c).colDike c).hubDike } :=
  rfl

/-- Diking a core: nothing of it is left, and its site waits for the journal. Outside HUB_DIKE of the core, that register
stays as it is. -/
theorem State.dikeCore_spec (hc : c < s.lcores) (cause : BitVec 8) (detail : Nat) :
    (s.dikeCore c cause detail).Gone c ∧ s.dikeRec c cause detail ∈ (s.dikeCore c cause detail).dikes ∧
      (s.hubDike.busy = false → (s.dikeCore c cause detail).hubDike = s.hubDike) := by
  have hstep := (s.emptied c).goneStep_colDike (c := c)
  have hkept : (s.emptied c).siteOf c = s.siteOf c ∧ (s.emptied c).hubDike = s.hubDike := by
    obtain ⟨o, m, x, h⟩ := s.emptyUnits_cases c
    rw [State.emptied, h]
    exact ⟨rfl, rfl⟩
  obtain ⟨hsite, hhub⟩ := hkept
  have hgone := hstep.gone (s.gone_emptied c hc)
  have hrec : ((s.emptied c).colDike c).dikeRec c cause detail = s.dikeRec c cause detail := by
    rw [State.dikeRec, hstep.site, hsite, State.dikeRec]
  rw [State.dikeCore_eq, hrec, hstep.hubDike, hhub]
  generalize (s.emptied c).colDike c = v at hgone
  obtain ⟨hlt, hd, hsfu, hpump, hth, harr, hspad⟩ := hgone
  refine ⟨⟨hlt, hd, hsfu, hpump, hth, harr, hspad⟩, List.mem_append_right _ (List.mem_singleton_self _), fun hidle => ?_⟩
  exact if_neg (by simp [hidle])

/-! ## The commands -/

variable {s c}

theorem exec_coreDike {a : Nat} (hc : c < s.lcores) (hfail : s.failedArr c = some a) (hd : (s.core c).diked = false) :
    exec (.coreDike c 0x25) s = .next (s.dikeCore c 0x25 (s.arr c a).stestWord) := by
  refine (if_pos ⟨hc, rfl⟩).trans ?_
  rw [hfail]
  exact if_neg (ne_true_of_eq_false hd)

theorem State.hubDikeWrite_of_locked (hlock : s.dev.unlocked = false) (dike : Bool) : s.hubDikeWrite c dike = s :=
  if_pos (by simp [hlock])

theorem State.hubDikeWrite_of_live (hopen : s.dev.unlocked = true) (hidle : s.hubDike.busy = false) (hc : c < s.lcores)
    (hd : (s.core c).diked = false) (dike : Bool) : s.hubDikeWrite c dike =
      if dike then State.dikeCore { s with hubDike := ⟨false, false, true, c, 0⟩ } c 0 0
      else State.stestStart { s with hubDike := ⟨true, false, false, c, 0⟩ } c 0 :=
  if_neg (by simp [hopen, hidle, State.live, hc, hd])

theorem exec_hubDikeDike (hc : c < s.lcores) : exec (.hubDikeDike c) s = .next (s.hubDikeWrite c true) :=
  if_pos (hc.trans_le (s.lcores_le.trans (by decide)))

theorem exec_hubDikeSelfTest (hc : c < s.lcores) : exec (.hubDikeSelfTest c) s = .next (s.hubDikeWrite c false) :=
  if_pos (hc.trans_le (s.lcores_le.trans (by decide)))

/-- The journal takes the site, once, and CORE_DIKED is raised (R466). -/
theorem siteJournalAppend_spec {site : Nat} {d : DikeRec} (hsite : site < 176)
    (hfind : s.dikes.find? (fun e => e.site == site) = some d) : ∃ u, exec (.siteJournalAppend site) s = .next u ∧
      site ∈ u.siteJournal ∧ (∀ e ∈ u.dikes, e.site ≠ site) ∧ u.err.pend.getLsbD 1 = true ∧ u.mem = s.mem := by
  have hlisted : site ∈ if s.siteJournal.contains site then s.siteJournal else s.siteJournal ++ [site] := by
    split
    · next h => exact List.contains_iff_mem.1 h
    · exact List.mem_append_right _ (List.mem_singleton_self _)
  have hgone : ∀ e ∈ s.dikes.filter fun e => e.site != site, e.site ≠ site := fun e he => by
    simpa using (List.mem_filter.1 he).2
  have hexec : exec (.siteJournalAppend site) s = .next (State.notify { s with
      siteJournal := if s.siteJournal.contains site then s.siteJournal else s.siteJournal ++ [site]
      dikes := s.dikes.filter fun e => e.site != site } 1 false (d.core + site * 256) d.cause.toNat d.detail) := by
    refine (if_pos hsite).trans ?_
    rw [hfind]
  generalize hv : ({ s with
    siteJournal := if s.siteJournal.contains site then s.siteJournal else s.siteJournal ++ [site]
    dikes := s.dikes.filter fun e => e.site != site } : State) = v at hexec
  have hpend := v.pend_notify 1 false (d.core + site * 256) d.cause.toNat d.detail
  obtain ⟨e, p, m, o, h⟩ := v.notify_cases 1 false (d.core + site * 256) d.cause.toNat d.detail
  refine ⟨_, hexec, ?_, ?_, by rw [hpend]; simp, ?_⟩
  · rw [h, ← hv]
    exact hlisted
  · rw [h, ← hv]
    exact hgone
  · rw [h, ← hv]

/-- Settles O39: the dike by firmware and by HUB_DIKE, its self-test, a locked hub, and the journal entry. -/
theorem diking : Obligations.Diking := by
  refine ⟨fun c s hc => ?_, fun site d s hsite hfind => siteJournalAppend_spec hsite hfind⟩
  intro gone
  have hgone {v : State} {site : DikeRec} (hv : v.Gone c) (hsite : site ∈ v.dikes) (hrec : site.core = c)
      (hof : site.site = s.siteOf c) : gone v :=
    ⟨hv.diked, fun t ht => ⟨(hv.thread t ht).state, (hv.thread t ht).reqs, (hv.thread t ht).msgs⟩, hv.sfuQ, hv.pumpQ,
      hv.arr, hv.spad, site, hsite, hrec, hof⟩
  refine ⟨fun hd hfail => ?_, fun hopen hidle hd => ⟨?_, fun hbusy hwait => ?_⟩, fun hlock => ⟨?_, ?_⟩⟩
  · obtain ⟨a, ha⟩ := Option.isSome_iff_exists.1 hfail
    obtain ⟨hv, hmem, -⟩ := s.dikeCore_spec c hc 0x25 (s.arr c a).stestWord
    exact ⟨_, exec_coreDike hc ha hd, hgone hv hmem rfl rfl⟩
  · obtain ⟨hv, hmem, hhub⟩ := State.dikeCore_spec { s with hubDike := ⟨false, false, true, c, 0⟩ } c hc 0 0
    refine ⟨_, exec_hubDikeDike hc, ?_⟩
    rw [State.hubDikeWrite_of_live hopen hidle hc hd, if_pos rfl]
    exact ⟨hgone hv hmem rfl rfl, by rw [hhub rfl]⟩
  · refine ⟨_, exec_hubDikeSelfTest hc, ?_⟩
    have hstart := State.stestStart_eq { s with hubDike := ⟨true, false, false, c, 0⟩ } c 0 hd hbusy hwait
    rw [State.hubDikeWrite_of_live hopen hidle hc hd, if_neg Bool.false_ne_true, hstart, State.arr_setArr]
    exact ⟨rfl, rfl, rfl⟩
  · rw [exec_hubDikeDike hc, State.hubDikeWrite_of_locked hlock]
  · rw [exec_hubDikeSelfTest hc, State.hubDikeWrite_of_locked hlock]

end Sys2Proof.Machine
end

section
/-! SUPPORT. Registers of an LPDDR controller: LPD_CTL, remap entries, row trackers, the remap journal; ECC write-backs
(08 R240, R251 to R253, R257 to R259, R263). -/

namespace Sys2Proof.Machine

variable {s : State} {d ch k : Nat}

/-- The controller registers of a die after those of one die were changed. -/
theorem State.lpd_modLpd (s : State) (d k : Nat) (f : Lpd → Lpd) :
    ((s.modLpd d f).die k).lpd = if k = d then f (s.die d).lpd else (s.die k).lpd := by
  rw [State.modLpd, State.modDie_eq]
  split
  · next h => rw [h, State.die_setDie]
  · next h => rw [State.die_setDie_ne _ _ _ h]

theorem State.lpd_modLpd_self (s : State) (d : Nat) (f : Lpd → Lpd) : ((s.modLpd d f).die d).lpd = f (s.die d).lpd :=
  (s.lpd_modLpd d d f).trans (if_pos rfl)

/-! ## LPD_CTL -/

/-- The fields that a write of LPD_CTL sets while GO is 0, whatever its checks find. -/
def Lpd.configured (l : Lpd) (w : BitVec 32) : Lpd := { l with
  rate := if l.unlocked then w.extractLsb' 1 2 else l.rate
  scrubEn := w.getLsbD 3
  scrubHours := w.extractLsb' 8 8
  ageMax := if l.unlocked then w.extractLsb' 16 10 else l.ageMax }

/-- The reason code of the first check of GO that fails (R263, R265; assumption 36). -/
def Lpd.goRefusal (l : Lpd) (w : BitVec 32) : Option (BitVec 8) :=
  if l.trained = false then some 0x11
  else if w.getLsbD 3 = true ∧ w.extractLsb' 8 8 = 0 then some 0x12
  else if (if l.unlocked then w.extractLsb' 16 10 else l.ageMax) = 0 then some 0x13
  else if l.thresh = 0 then some 0x14
  else none

/-- GO set over 0 takes effect where no check fails; otherwise the reason is written. -/
theorem Lpd.writeCtl_goSet {l : Lpd} {w : BitVec 32} (hgo : l.go = false) (hw : w.getLsbD 0 = true) :
    l.writeCtl w = { l.configured w with
      go := (l.goRefusal w).isNone, reason := (l.goRefusal w).getD l.reason } := by
  rw [Lpd.writeCtl, if_neg (ne_true_of_eq_false hgo), hw, Lpd.goRefusal]
  simp only [Bool.not_true, Bool.false_eq_true, if_false, Bool.not_eq_true', Bool.and_eq_true, beq_iff_eq,
    Lpd.configured]
  split_ifs <;> simp_all

/-- Settles O42: `Lpd.goRefusal` asks the checks of the statement in their order. -/
theorem lpdGo : Obligations.LpdGo := by
  intro d w s hd hw hlive l age hgo
  refine ⟨s.modLpd d fun l => l.writeCtl w, (if_pos ⟨hd, hw⟩).trans (if_neg (ne_true_of_eq_false hlive)), rfl, ?_⟩
  rw [State.lpd_modLpd_self, Lpd.writeCtl_goSet hgo hw]
  refine ⟨rfl, rfl, rfl, ?_⟩
  dsimp only [Lpd.goRefusal]
  split_ifs <;> exact ⟨rfl, rfl⟩

/-! ## ECC write-backs -/

theorem exec_spadEccWriteback {c word : Nat} (hc : c < s.lcores) (hword : word < spadSize / 8)
    (hdue : Tab.get 0 s.mem.wordErr (spadAddr c 0 / 8 + word) = 2) :
    exec (.spadEccWriteback c word) s = .next (s.setWordMark (spadAddr c 0 / 8 + word) 0) :=
  (if_pos ⟨hc, hword⟩).trans (if_pos hdue)

variable {sec : Nat}

/-- A write that waits cancels the write-back: its mark goes, the error stays (R253). -/
theorem exec_lpddrEccWriteback_of_queued (hsec : sec < s.lpdTop / 32)
    (hdue : (Tab.get 0 s.mem.secErr sec).testBit 3 = true) (hq : s.writeQueued sec = true) :
    exec (.lpddrEccWriteback sec) s = .next { s with mem := { s.mem with
      secErr := Tab.set 0 s.mem.secErr sec (Tab.get 0 s.mem.secErr sec &&& 7) } } :=
  (if_pos hsec).trans (if_pos (by rw [hdue, hq]; rfl))

/-- The write-back clears the single error of the sector and that of its ECC sector. -/
theorem exec_lpddrEccWriteback_of_free (hsec : sec < s.lpdTop / 32)
    (hdue : (Tab.get 0 s.mem.secErr sec).testBit 3 = true) (hq : s.writeQueued sec = false) :
    exec (.lpddrEccWriteback sec) s = .next { s with mem := { s.mem with
      secErr := Tab.set 0 s.mem.secErr sec (Tab.get 0 s.mem.secErr sec &&& 6)
      grpErr := if Tab.get 0 s.mem.grpErr (sec / 15) = 1 then Tab.set 0 s.mem.grpErr (sec / 15) 0
        else s.mem.grpErr } } :=
  (if_pos hsec).trans ((if_neg (by simp [hq])).trans (if_pos hdue))

/-- A single error of group `k` that is cleared, read at group `j`. -/
theorem Tab.get_clearSingle (m : Tab Nat) (k j : Nat) :
    Tab.get 0 (if Tab.get 0 m k = 1 then Tab.set 0 m k 0 else m) j =
      if j = k ∧ Tab.get 0 m j = 1 then 0 else Tab.get 0 m j := by
  by_cases hj : j = k
  · subst hj
    by_cases h1 : Tab.get 0 m j = 1
    · rw [if_pos h1, if_pos ⟨rfl, h1⟩, Tab.get_set_self]
    · rw [if_neg h1, if_neg (not_and_of_not_right _ h1)]
  · rw [if_neg (not_and_of_not_left _ hj), apply_ite (Tab.get 0 · j), Tab.get_set_ne _ _ _ _ hj, ite_self]

/-! ## Row remapping and the row tracker -/

theorem exec_rowRemapCopyDone (hd : d < 4) (hch : ch < 24) (hk : k < 512)
    (hvalid : ((s.die d).lpd.ent ch k).valid = true) (hcopying : ((s.die d).lpd.ent ch k).st = 0) :
    exec (.rowRemapCopyDone d ch k) s = .next (s.modLpd d fun l => { l with
      remap := Tab.set RemapEnt.init l.remap (ch * 512 + k) { (s.die d).lpd.ent ch k with st := 1 } }) :=
  (if_pos ⟨hd, hch, hk⟩).trans (if_pos (by rw [hvalid, hcopying]; rfl))

/-- The entries of a channel after entry `k` was replaced. -/
theorem Lpd.ent_set (l : Lpd) (ch k j : Nat) (e : RemapEnt) :
    Lpd.ent { l with remap := Tab.set RemapEnt.init l.remap (ch * 512 + k) e } ch j =
      if j = k then e else l.ent ch j := by
  simp only [Lpd.ent, Tab.get_set, Nat.add_left_cancel_iff]

/-- An ACTIVE entry enters the journal, unless its row stands there unrepaired (R259). -/
theorem exec_remapJournalAppend (hd : d < 4) (hch : ch < 24) (hk : k < 512)
    (hvalid : ((s.die d).lpd.ent ch k).valid = true) (hactive : ((s.die d).lpd.ent ch k).st = 1) :
    exec (.remapJournalAppend d ch k) s =
      if s.remapJournal.any (JournalRow.holds d ch ((s.die d).lpd.ent ch k).rowKey) then .next s
      else .next { s with remapJournal := s.remapJournal ++ [⟨d, ch, (s.die d).lpd.ent ch k, .entered⟩] } := by
  refine (if_pos ⟨hd, hch, hk⟩).trans ?_
  rw [hvalid, hactive]
  cases s.remapJournal.any (JournalRow.holds d ch ((s.die d).lpd.ent ch k).rowKey) <;> rfl

theorem JournalRow.holds_entered (d ch : Nat) (e : RemapEnt) :
    JournalRow.holds d ch e.rowKey ⟨d, ch, e, .entered⟩ = true := by
  simp [JournalRow.holds]

theorem exec_rowTrackerDecay (hd : d < 4) (hch : ch < 24) :
    exec (.rowTrackerDecay d ch) s = .next (s.modLpd d fun l => { l with
      tracker := Tab.set [] l.tracker ch ((Tab.get [] l.tracker ch).map fun t => { t with count := t.count - 1 }) }) :=
  if_pos ⟨hd, hch⟩

/-- Settles O41: the write-backs, then the commands of rows, each by what its execution is. -/
theorem memoryMaintenance : Obligations.MemoryMaintenance := by
  refine ⟨⟨fun c word s hc hword => ?_, fun sec s hsec hdue => ⟨?_, fun hq => ?_⟩⟩,
    fun d ch k s hd hch hk => ?_, fun d ch k s hd hch hk => ?_, fun d ch s hd hch => ?_,
    fun d ch s hd hch => if_pos ⟨hd, hch⟩⟩
  · intro key hmark
    exact ⟨_, exec_spadEccWriteback hc hword hmark, rfl, fun j => Tab.get_set 0 s.mem.wordErr key j 0, rfl⟩
  · exact exec_lpddrEccWriteback_of_queued hsec hdue
  · exact ⟨_, exec_lpddrEccWriteback_of_free hsec hdue hq, rfl, rfl, fun j => Tab.get_set ..,
      fun g => Tab.get_clearSingle ..⟩
  · intro e hvalid hcopying
    refine ⟨_, exec_rowRemapCopyDone hd hch hk hvalid hcopying, rfl, ?_, fun j hj => ?_⟩
    · rw [State.lpd_modLpd_self, Lpd.ent_set, if_pos rfl]
    · rw [State.lpd_modLpd_self, Lpd.ent_set, if_neg hj]
  · intro e hvalid hactive
    rw [exec_remapJournalAppend hd hch hk hvalid hactive]
    refine ⟨fun hempty => ?_, fun hmem => if_pos ?_⟩
    · rw [hempty]
      rfl
    · exact List.any_eq_true.2 ⟨_, hmem, JournalRow.holds_entered ..⟩
  · refine ⟨_, exec_rowTrackerDecay hd hch, rfl, ?_⟩
    rw [State.lpd_modLpd_self, Tab.get_set_self]

end Sys2Proof.Machine
end

section
/-! SUPPORT. The order in which a channel of an LPDDR controller takes its requests (08 R249). -/

namespace Sys2Proof.Machine

/-- The requests that may be served: in one of the two queues of 64, and behind no earlier request to their sector. -/
def servable (q : List SecReq) : List SecReq :=
  (q.filter fun x => ((q.filter fun y => !y.write).take 64).contains x ||
    ((q.filter SecReq.write).take 64).contains x).filter fun x =>
      !q.any fun y => decide (y.sid < x.sid) && y.sector == x.sector

/-- The requests of the channel's direction, or all where there are none. -/
def preferred (drain : Bool) (l : List SecReq) : List SecReq :=
  if (l.filter fun x => x.write == drain).isEmpty then l else l.filter fun x => x.write == drain

variable {drain : Bool} {aged hit : SecReq → Bool} {q : List SecReq} {x : SecReq}

/-- An aged request goes first, then a row hit of those preferred, then the oldest of them. -/
theorem pickSector_eq : pickSector drain aged hit q = ((servable q).find? aged).or
    (((preferred drain (servable q)).find? hit).or (preferred drain (servable q)).head?) := by
  unfold pickSector
  dsimp only
  split
  · next x h => rw [show (servable q).find? aged = some x from h, Option.some_or]
  · next h =>
    rw [show (servable q).find? aged = none from h, Option.none_or]
    split
    · next x h => rw [show (preferred drain (servable q)).find? hit = some x from h, Option.some_or]
    · next h => rw [show (preferred drain (servable q)).find? hit = none from h, Option.none_or]; rfl

/-- The request taken is aged, or one that the channel prefers. -/
theorem pickSector_cases (h : pickSector drain aged hit q = some x) :
    (x ∈ servable q ∧ aged x = true) ∨ x ∈ preferred drain (servable q) := by
  rw [pickSector_eq, Option.or_eq_some_iff, Option.or_eq_some_iff] at h
  obtain h | ⟨-, h | ⟨-, h⟩⟩ := h
  · exact .inl ⟨List.mem_of_find?_eq_some h, List.find?_some h⟩
  · exact .inr (List.mem_of_find?_eq_some h)
  · exact .inr (List.mem_of_mem_head? h)

theorem mem_of_mem_preferred {l : List SecReq} (h : x ∈ preferred drain l) : x ∈ l := by
  unfold preferred at h
  split at h
  · exact h
  · exact (List.mem_filter.1 h).1

/-- A request of the other direction is preferred only where there is none of the channel's own. -/
theorem write_ne_of_mem_preferred {l : List SecReq} (h : x ∈ preferred drain l) (hx : x.write ≠ drain) :
    ∀ y ∈ l, y.write ≠ drain := by
  unfold preferred at h
  split at h
  · next hnone => simpa using hnone
  · exact absurd (by simpa using (List.mem_filter.1 h).2) hx

theorem mem_servable : x ∈ servable q ↔ x ∈ q ∧
    (x ∈ (q.filter fun y => !y.write).take 64 ∨ x ∈ (q.filter SecReq.write).take 64) ∧
    ∀ y ∈ q, y.sid < x.sid → y.sector ≠ x.sector := by
  simp only [servable, List.mem_filter, Bool.or_eq_true, List.contains_iff_mem, and_assoc]
  simp

theorem mem_servable_of_pickSector (h : pickSector drain aged hit q = some x) : x ∈ servable q :=
  (pickSector_cases h).elim And.left mem_of_mem_preferred

/-- A write taken while the channel does not drain, with no request aged: every read of the queue stands behind an
earlier request to its sector. -/
theorem reads_wait_of_pickSector (h : pickSector false aged hit q = some x) (haged : ∀ y ∈ q, aged y = false)
    (hx : x.write = true) {y : SecReq} (hy : y ∈ (q.filter fun y => !y.write).take 64) :
    ∃ z ∈ q, z.sid < y.sid ∧ z.sector = y.sector := by
  have hread := List.mem_filter.1 (List.mem_of_mem_take hy)
  obtain ⟨hmem, hage⟩ | hpref := pickSector_cases h
  · rw [haged x (mem_servable.1 hmem).1] at hage
    cases hage
  · by_contra hfree
    refine write_ne_of_mem_preferred hpref (by simp [hx]) y (mem_servable.2 ⟨hread.1, .inl hy, fun z hz hlt heq => ?_⟩)
      (by simpa using hread.2)
    exact hfree ⟨z, hz, hlt, heq⟩

theorem servable_singleton (x : SecReq) : servable [x] = [x] := by
  cases hx : x.write <;> simp [servable, hx]

/-- The only request of a channel is taken. -/
theorem pickSector_singleton (x : SecReq) : pickSector drain aged hit [x] = some x := by
  have hpref : preferred drain [x] = [x] := by
    by_cases hx : x.write = drain <;> simp [preferred, hx]
  rw [pickSector_eq, servable_singleton, hpref]
  cases ha : aged x <;> cases hh : hit x <;> simp [ha, hh]

/-! ## A sector request out of turn -/

variable {s : State} {id c : Nat} {p : Part} {e : EccFind}

/-- A request that no held line stops is served when its channel serves it next (assumption 112). -/
theorem exec_lpddrSectorAccess (hfind : s.openParts.find? (fun x => x.2.sid == id) = some (c, p))
    (hline : s.lineAt p.addr p.len = none) :
    exec (.lpddrSectorAccess id e) s =
      if s.nextSector (s.lpdLoc p.addr).die (s.lpdLoc p.addr).chan = some id then
        .next (((s.openRow (p.addr / 32)).findErr (p.addr / 32) e).serveSid c 0 id)
      else .next s := by
  change execLpddrSectorAccess id e s = _
  rw [execLpddrSectorAccess, hfind]
  dsimp only
  rw [hline]

/-- A request with an earlier one to its sector is not the next. -/
theorem nextSector_ne_of_earlier {d ch sec : Nat} (hsec : ∀ y ∈ s.chanQueue d ch, y.sid = id → y.sector = sec)
    (hearlier : ∃ y ∈ s.chanQueue d ch, y.sid < id ∧ y.sector = sec) : s.nextSector d ch ≠ some id := by
  intro h
  obtain ⟨x, hpick, hid⟩ := Option.map_eq_some_iff.1 h
  obtain ⟨hx, -, hfirst⟩ := mem_servable.1 (mem_servable_of_pickSector hpick)
  obtain ⟨y, hy, hlt, hy'⟩ := hearlier
  exact hfirst y hy (hid ▸ hlt) (hy'.trans (hsec x hx hid).symm)

end Sys2Proof.Machine
end

section
/-! SUPPORT. LPDDR places and the ECC check of a sector; what patrol scrub finds (01 R23; 08 R245, R252, R254, R256). -/

namespace Sys2Proof.Machine

variable {s : State} {sec cls : Nat}

/-! ## Places -/

/-- An address of a die whose controllers are on. -/
theorem State.place_lpd {a : Nat} (ha : a < s.lpdTop) (hgo : (s.die (a / s.lpdZ)).lpd.go = true) :
    s.place a = .ok (.lpd a) := by
  rw [State.place, if_pos ha, if_pos hgo]

/-- The memory of a die is a whole number of sectors, so no sector lies on two dies. -/
theorem State.div_lpdZ_of_sector (s : State) {a b : Nat} (h : a / 32 = b / 32) : a / s.lpdZ = b / s.lpdZ := by
  rw [State.lpdZ]
  split <;> omega

/-- Bytes of one sector lie in one place. -/
theorem State.placeOf_lpd {a n : Nat} (hn : 0 < n) (hsector : a % 32 + n ≤ 32) (htop : a + n ≤ s.lpdTop)
    (hgo : (s.die (a / s.lpdZ)).lpd.go = true) : s.placeOf a n = .ok (.lpd a) := by
  have hdie : (a + (n - 1)) / s.lpdZ = a / s.lpdZ := s.div_lpdZ_of_sector (by omega)
  rw [State.placeOf, State.place_lpd (by omega) hgo, State.place_lpd (by omega) (hdie ▸ hgo)]
  rfl

/-! ## The ECC check -/

/-- Without marks and perturbation the check passes and changes nothing. -/
theorem State.checkSector_clean (hq : s.err.perturbGo = false) (hsec : Tab.get 0 s.mem.secErr sec = 0)
    (hgrp : Tab.get 0 s.mem.grpErr (sec / 15) = 0) : s.checkSector sec cls = (true, s) := by
  simp [State.checkSector, State.perturb_off _ hq, hsec, hgrp]

/-- A double error of the sector alone is an uncorrectable one. -/
theorem State.checkSector_double (hq : s.err.perturbGo = false) (hsec : Tab.get 0 s.mem.secErr sec = 2)
    (hgrp : Tab.get 0 s.mem.grpErr (sec / 15) = 0) :
    s.checkSector sec cls = (false, s.lpdUe sec false false cls false) := by
  simp only [State.checkSector, State.perturb_off _ hq, hsec, hgrp]
  rfl

/-- Without marks and perturbation a sector request reads the sector, and changes nothing. -/
theorem State.readSector_lpd_clean {u hit : Nat} (hq : s.err.perturbGo = false)
    (hsec : Tab.get 0 s.mem.secErr (u / 32) = 0) (hgrp : Tab.get 0 s.mem.grpErr (u / 32 / 15) = 0) :
    s.readSector (.lpd u) hit cls = (.ok (s.bytes (u / 32 * 32) 32, 0), s) := by
  simp only [State.readSector, State.checkSector_clean hq hsec hgrp, if_true]

theorem State.mem_notify (s : State) (kind inj place code detail) :
    (s.notify kind inj place code detail).mem = s.mem := by
  obtain ⟨e, p, m, o, h⟩ := s.notify_cases kind inj place code detail
  rw [h]

theorem State.die_notify (s : State) (kind inj place code detail) (k : Nat) :
    (s.notify kind inj place code detail).die k = s.die k := by
  obtain ⟨e, p, m, o, h⟩ := s.notify_cases kind inj place code detail
  rw [h]
  rfl

/-- The controller of a die after an uncorrectable sector: counted, and logged where no earlier one is (R254). -/
def Lpd.uncorrected (l : Lpd) (e : LpdErr) : Lpd := { l with
  uncorr := BitVec.ofNat 16 (satAdd l.uncorr.toNat 1 0xFFFF)
  err := if l.err.valid then l.err else e }

/-- What an uncorrectable sector changes: the controller of its die, and LPD_UE is raised (R252, R254). -/
theorem State.lpdUe_spec (s : State) (sec : Nat) (eccsec tagerr : Bool) (cls : Nat) (injected : Bool) :
    (s.lpdUe sec eccsec tagerr cls injected).mem = s.mem ∧
      (s.lpdUe sec eccsec tagerr cls injected).err.pend.getLsbD 3 = true ∧
      ((s.lpdUe sec eccsec tagerr cls injected).die (sec * 32 / s.lpdZ)).lpd =
        (s.die (sec * 32 / s.lpdZ)).lpd.uncorrected
          ⟨BitVec.ofNat 43 sec, BitVec.ofNat 5 (s.lpdLoc (sec * 32)).chan, eccsec, tagerr, BitVec.ofNat 3 cls,
            true⟩ := by
  rw [State.lpdUe]
  have hpend (v : State) (place detail : Nat) : (v.notify 3 injected place 0x20 detail).err.pend.getLsbD 3 = true := by
    rw [State.pend_notify]
    simp
  refine ⟨State.mem_notify .., hpend .., ?_⟩
  rw [State.die_notify]
  exact State.lpd_modLpd_self ..

/-! ## Patrol scrub -/

theorem exec_patrolScrub_of_off {e : EccFind} (hsec : sec < s.lpdTop / 32)
    (hoff : (s.die (sec * 32 / s.lpdZ)).lpd.scrubEn = false) : exec (.patrolScrub sec e) s = .next s :=
  (if_pos hsec).trans (if_neg (by simp [hoff]))

theorem exec_patrolScrub {e : EccFind} (hsec : sec < s.lpdTop / 32)
    (hon : (s.die (sec * 32 / s.lpdZ)).lpd.scrubEn = true) (htrained : (s.die (sec * 32 / s.lpdZ)).lpd.trained = true)
    (hlive : (s.die (sec * 32 / s.lpdZ)).inReset = false) :
    exec (.patrolScrub sec e) s = .next ((s.findErr sec e).checkSector sec 3).2 :=
  (if_pos hsec).trans (if_pos (by simp [hon, htrained, hlive]))

/-- A double error that patrol scrub finds is an uncorrectable one of class 3 (R256). -/
theorem exec_patrolScrub_double (hsec : sec < s.lpdTop / 32)
    (hon : (s.die (sec * 32 / s.lpdZ)).lpd.scrubEn = true) (htrained : (s.die (sec * 32 / s.lpdZ)).lpd.trained = true)
    (hlive : (s.die (sec * 32 / s.lpdZ)).inReset = false) (hq : s.err.perturbGo = false)
    (hclean : Tab.get 0 s.mem.secErr sec = 0) (hgrp : Tab.get 0 s.mem.grpErr (sec / 15) = 0) :
    exec (.patrolScrub sec .double) s = .next ((s.findErr sec .double).lpdUe sec false false 3 false) ∧
      Tab.get 0 (s.findErr sec .double).mem.secErr sec = 2 := by
  have hmark : Tab.get 0 (s.findErr sec .double).mem.secErr sec = 2 := by
    simp [State.findErr, hclean]
  refine ⟨?_, hmark⟩
  rw [exec_patrolScrub hsec hon htrained hlive, State.checkSector_double (s := s.findErr sec .double) hq hmark hgrp]

end Sys2Proof.Machine
end

section
/-! SUPPORT. A load that is alone outstanding: its channel serves it next, and it takes its bytes from one read of the
sector (08 R248, R249, R252). -/

namespace Sys2Proof.Machine

variable {s : State} {c t : Nat} {q : Req} {p : Part}

/-- The load `p`, one part of request `q` of thread `t` of core `c`, is all that is outstanding. -/
structure LoneLoad (s : State) (c t : Nat) (q : Req) (p : Part) : Prop where
  thread : t < 32
  threads : s.threads = [(c * 32 + t, s.thread c t)]
  reqs : (s.thread c t).reqs = [q]
  parts : q.parts = [p]
  pending : p.pending = true
  load : p.op = .rd

namespace LoneLoad

variable (h : LoneLoad s c t q p)
include h

theorem reqs_ne {t' : Nat} (ht : t' ≠ t) : (s.thread c t').reqs = [] := by
  rw [State.thread, h.threads, Tab.get, if_neg (by omega)]
  rfl

/-- Any request of the core is `q`. -/
theorem req_eq {t' : Nat} {r : Req} (hr : r ∈ (s.thread c t').reqs) : t' = t ∧ r = q := by
  by_cases ht : t' = t
  · rw [ht, h.reqs] at hr
    exact ⟨ht, List.mem_singleton.1 hr⟩
  · rw [h.reqs_ne ht] at hr
    cases hr

/-- Any outstanding part of the core is `p`. -/
theorem mem_coreParts {y : Part} : y ∈ s.coreParts c ↔ y = p := by
  simp only [State.coreParts, List.mem_flatMap, List.mem_range]
  constructor
  · rintro ⟨t', -, r, hr, hy⟩
    rw [(h.req_eq hr).2, h.parts] at hy
    exact List.mem_singleton.1 hy
  · rintro rfl
    exact ⟨t, h.thread, q, h.reqs ▸ List.mem_singleton_self q, h.parts ▸ List.mem_singleton_self _⟩

theorem openParts (htop : p.addr < s.lpdTop) : s.openParts = [(c, p)] := by
  have hcore : (c * 32 + t) / 32 = c := by have := h.thread; omega
  have hopen : (p.pending && s.inLpd p) = true := by
    rw [h.pending, State.inLpd, decide_eq_true htop]
    rfl
  rw [State.openParts, h.threads]
  simp [h.reqs, h.parts, hcore, hopen]

/-- Nothing earlier of its thread is to be performed first (R77). -/
theorem sidBlocked (sid : Nat) : s.sidBlocked c sid = false := by
  simp only [State.sidBlocked, List.any_eq_false, List.mem_range]
  rintro t' -
  simp only [Bool.not_eq_true, List.any_eq_false]
  intro r hr
  obtain ⟨rfl, rfl⟩ := h.req_eq hr
  simp [State.blocked, h.reqs]

theorem chanQueue (htop : p.addr < s.lpdTop) (hpath : s.pathUp (s.dieOf c) p.addr = true) (hlines : s.fab.lines = []) :
    s.chanQueue (s.lpdLoc p.addr).die (s.lpdLoc p.addr).chan = [⟨p.sid, p.addr / 32, p.op != .rd, p.time⟩] := by
  simp [State.chanQueue, h.openParts htop, hpath, h.sidBlocked, State.lineAt, hlines, List.eraseDups_cons]

theorem nextSector (htop : p.addr < s.lpdTop) (hpath : s.pathUp (s.dieOf c) p.addr = true) (hlines : s.fab.lines = []) :
    s.nextSector (s.lpdLoc p.addr).die (s.lpdLoc p.addr).chan = some p.sid := by
  simp only [State.nextSector, h.chanQueue htop hpath hlines, pickSector_singleton, Option.map_some]

end LoneLoad

/-! ## The read of the sector -/

/-- A pending load of sector request `sid`. -/
def Part.awaits (sid : Nat) (y : Part) : Bool := y.sid == sid && y.pending && y.op == .rd

/-- A part after sector request `sid` returned the sector `x`: a load of it takes its bytes, or fails by a bad word. -/
def Part.delivered (sid : Nat) (x : Bytes × BitVec 4) (dest : BitVec 4) (y : Part) : Part :=
  if y.awaits sid then
    match y.take x with
    | some b => { y with res := some b, snap := some x }
    | none => { y with err := some (cEcc, dest) }
  else y

theorem Part.delivered_of_take {sid : Nat} {x : Bytes × BitVec 4} {b : Bytes} (dest : BitVec 4)
    (hy : p.awaits sid = true) (hb : p.take x = some b) :
    p.delivered sid x dest = { p with res := some b, snap := some x } := by
  rw [Part.delivered, if_pos hy, hb]

/-- A request whose parts are changed one by one. -/
def Req.mapParts (f : Part → Part) (r : Req) : Req := { r with parts := r.parts.map f }

theorem State.thread_mapParts (s : State) (c : Nat) (f : Part → Part) (ht : t < 32) :
    (s.mapParts c f).thread c t = { s.thread c t with reqs := (s.thread c t).reqs.map (Req.mapParts f) } :=
  s.thread_eachThread c (fun _ th => { th with reqs := th.reqs.map (Req.mapParts f) }) ht

theorem State.mem_mapParts (s : State) (c : Nat) (f : Part → Part) : (s.mapParts c f).mem = s.mem := by
  obtain ⟨m, h⟩ := s.eachThread_cases c fun _ th => { th with reqs := th.reqs.map (Req.mapParts f) }
  exact (congrArg State.mem h).trans rfl

/-- The loads of a sector request share one read of the sector (R248). -/
theorem State.serveLoads_of_read {cls sid : Nat} {pl : Place} {x : Bytes × BitVec 4}
    (hfind : (s.coreParts c).find? (Part.awaits sid) = some p) (hplace : s.placeOf p.addr p.len = .ok pl)
    (hread : s.readSector pl (p.addr % 32 / 8) cls = (.ok x, s)) :
    s.serveLoads c cls sid = (s.destVal c p.addr).2.mapParts c (Part.delivered sid x (s.destVal c p.addr).1) := by
  unfold State.serveLoads
  dsimp only
  rw [show (s.coreParts c).find? (fun p => p.sid == sid && p.pending && p.op == .rd) = some p from hfind]
  dsimp only
  rw [hplace]
  dsimp only
  rw [hread]
  rfl

/-- A walk of which every step leaves the start as it is. -/
theorem foldl_eq_self {α β : Type} {f : β → α → β} {b : β} {l : List α} (h : ∀ a ∈ l, f b a = b) : l.foldl f b = b := by
  induction l with
  | nil => rfl
  | cons a l ih => rw [List.foldl_cons, h a (List.mem_cons_self ..), ih fun x hx => h x (List.mem_cons_of_mem _ hx)]

/-- Where no part is pending once the loads are served, that is all. -/
theorem State.serveSid_of_served {cls sid : Nat}
    (h : ∀ t < 32, ∀ r ∈ ((s.serveLoads c cls sid).thread c t).reqs, ∀ y ∈ r.parts, y.pending = false) :
    s.serveSid c cls sid = s.serveLoads c cls sid := by
  refine foldl_eq_self fun t ht => if_neg ?_
  simp only [List.any_eq_true, not_exists, not_and]
  intro r hr y hy
  simp [h t (List.mem_range.1 ht) r hr y hy]

/-- A row that opens, and a drain that begins or ends, leave GO of every die. -/
theorem State.go_openRow (s : State) (sec k : Nat) : ((s.openRow sec).die k).lpd.go = (s.die k).lpd.go := by
  unfold State.openRow
  dsimp only
  rw [State.lpd_modLpd]
  split
  · next h => rw [h]
  · rfl

namespace LoneLoad

variable {cls : Nat} {pl : Place} {x : Bytes × BitVec 4} {b : Bytes}

/-- The part takes its bytes from the sector that was read; memory stays. -/
theorem serveSid (h : LoneLoad s c t q p) (hplace : s.placeOf p.addr p.len = .ok pl)
    (hread : s.readSector pl (p.addr % 32 / 8) cls = (.ok x, s)) (hb : p.take x = some b) :
    (s.serveSid c cls p.sid).mem = s.mem ∧ ((s.serveSid c cls p.sid).thread c t).reqs =
      [{ q with parts := [{ p with res := some b, snap := some x }] }] := by
  have hmine : p.awaits p.sid = true := by simp [Part.awaits, h.pending, h.load]
  have hfind : (s.coreParts c).find? (Part.awaits p.sid) = some p := by
    cases hf : (s.coreParts c).find? (Part.awaits p.sid) with
    | none => exact absurd hmine (List.find?_eq_none.1 hf p (h.mem_coreParts.2 rfl))
    | some y => rw [h.mem_coreParts.1 (List.mem_of_find?_eq_some hf)]
  obtain ⟨f, hdest⟩ := s.destVal_cases c p.addr
  have hloads := State.serveLoads_of_read hfind hplace hread
  have hthread (t' : Nat) : (s.destVal c p.addr).2.thread c t' = s.thread c t' := by rw [hdest]; rfl
  have hreqs {t' : Nat} (ht : t' < 32) : ((s.serveLoads c cls p.sid).thread c t').reqs =
      (s.thread c t').reqs.map (Req.mapParts (Part.delivered p.sid x (s.destVal c p.addr).1)) := by
    rw [hloads, State.thread_mapParts _ _ _ ht, hthread]
  have hq : Req.mapParts (Part.delivered p.sid x (s.destVal c p.addr).1) q =
      { q with parts := [{ p with res := some b, snap := some x }] } := by
    rw [Req.mapParts, h.parts, List.map_singleton, Part.delivered_of_take _ hmine hb]
  rw [State.serveSid_of_served]
  · exact ⟨by rw [hloads, State.mem_mapParts, hdest], by rw [hreqs h.thread, h.reqs, List.map_singleton, hq]⟩
  · intro t' ht r hr y hy
    rw [hreqs ht] at hr
    obtain ⟨r', hr', rfl⟩ := List.mem_map.1 hr
    rw [(h.req_eq hr').2, hq] at hy
    rw [List.mem_singleton.1 hy]
    simp [Part.pending]

/-- A clean load of a clean sector: the part has its bytes, and the sector as it was read. -/
theorem sectorAccess (h : LoneLoad s c t q p) (hn : 0 < p.len) (hsector : p.addr % 32 + p.len ≤ 32)
    (htop : p.addr + p.len ≤ s.lpdTop) (hgo : (s.die (p.addr / s.lpdZ)).lpd.go = true)
    (hpath : s.pathUp (s.dieOf c) p.addr = true) (hlines : s.fab.lines = []) (hq : s.err.perturbGo = false)
    (hsec : Tab.get 0 s.mem.secErr (p.addr / 32) = 0) (hgrp : Tab.get 0 s.mem.grpErr (p.addr / 32 / 15) = 0) :
    ∃ u, exec (.lpddrSectorAccess p.sid .clean) s = .next u ∧ u.mem = s.mem ∧ (u.thread c t).reqs =
      [{ q with parts := [{ p with
        res := some (s.bytes p.addr p.len), snap := some (s.bytes (p.addr / 32 * 32) 32, 0) }] }] := by
  have hbelow : p.addr < s.lpdTop := by omega
  have hfind : s.openParts.find? (fun x => x.2.sid == p.sid) = some (c, p) := by
    rw [h.openParts hbelow]
    simp
  have hline : s.lineAt p.addr p.len = none := by rw [State.lineAt, hlines]; rfl
  have htake : p.take (s.bytes (p.addr / 32 * 32) 32, 0) = some (s.bytes p.addr p.len) := by
    rw [Part.take, if_neg (by simp), State.slice_bytes s hsector, Nat.div_add_mod']
  have hopened : LoneLoad (s.openRow (p.addr / 32)) c t q p :=
    ⟨h.thread, h.threads, h.reqs, h.parts, h.pending, h.load⟩
  have hplace : (s.openRow (p.addr / 32)).placeOf p.addr p.len = .ok (.lpd p.addr) :=
    State.placeOf_lpd hn hsector htop ((State.go_openRow ..).trans hgo)
  rw [exec_lpddrSectorAccess hfind hline, if_pos (h.nextSector hbelow hpath hlines)]
  exact ⟨_, rfl, hopened.serveSid hplace (State.readSector_lpd_clean hq hsec hgrp) htake⟩

end LoneLoad

end Sys2Proof.Machine
end

section
/-! SUPPORT. The statement about sector accesses and patrol scrub. -/

namespace Sys2Proof.Machine

/-- Settles O40: the lone load, the order of a channel, and patrol scrub. -/
theorem sectorAccess : Obligations.SectorAccess := by
  refine ⟨?_, ⟨fun id e s c p hfind hline => ?_, fun drain aged hit q x hpick => ?_⟩, fun sec s hsec => ?_,
    fun sec e s hsec hoff => exec_patrolScrub_of_off hsec hoff⟩
  · intro c t q p s hc ht hthreads hreqs hparts hnode hres herr hop hn hsector htop hgo hpath hlines hq hsec hgrp
    have hpending : p.pending = true := by simp [Part.pending, hnode, hres, herr]
    exact LoneLoad.sectorAccess ⟨ht, hthreads, hreqs, hparts, hpending, hop⟩ hn hsector htop hgo hpath hlines hq hsec
      hgrp
  · intro queue hsame hearlier
    rw [exec_lpddrSectorAccess hfind hline, if_neg (nextSector_ne_of_earlier hsame hearlier)]
  · obtain ⟨hmem, -, hfirst⟩ := mem_servable.1 (mem_servable_of_pickSector hpick)
    refine ⟨hmem, hfirst, fun haged hdrain hwrite y hy => ?_⟩
    subst hdrain
    exact reads_wait_of_pickSector hpick haged hwrite hy
  · intro d l hon htrained hlive hq hclean hgrp
    obtain ⟨hexec, hmark⟩ := exec_patrolScrub_double hsec hon htrained hlive hq hclean hgrp
    obtain ⟨hmem, hpend, hdie⟩ := (s.findErr sec .double).lpdUe_spec sec false false 3 false
    have hctl : ((State.lpdUe (s.findErr sec .double) sec false false 3 false).die d).lpd = l.uncorrected _ := hdie
    refine ⟨_, hexec, by rw [hmem]; rfl, (State.memStep_lpdUe ..).threads, by rw [hmem, hmark], by rw [hctl]; rfl,
      hpend, fun hvalid => ?_⟩
    rw [hctl, Lpd.uncorrected, if_neg (ne_true_of_eq_false hvalid)]
    exact ⟨rfl, rfl, rfl⟩

end Sys2Proof.Machine
end

section
/-! SUPPORT. The bundles of the photonic interposer part by part: what a bundle, a direction and a lane group read after
one of them changes (09 R269 to R283). -/

namespace Sys2Proof.Machine

/-! ## Directions of a bundle -/

section

variable (b : Bundle) (i : Nat) (f : Dir → Dir)

@[simp] theorem Bundle.dir_modDir : (b.modDir i f).dir i = f (b.dir i) := by
  unfold Bundle.modDir Bundle.dir
  split <;> rfl

/-- The other direction stays as it is. -/
theorem Bundle.dir_modDir_other {i : Nat} (hi : i < 2) : (b.modDir (1 - i) f).dir i = b.dir i := by
  unfold Bundle.modDir Bundle.dir
  obtain rfl | rfl : i = 0 ∨ i = 1 := by omega
  · rfl
  · rfl

theorem Bundle.dir_other_modDir {i : Nat} (hi : i < 2) : (b.modDir i f).dir (1 - i) = b.dir (1 - i) := by
  have h := b.dir_modDir_other f (i := 1 - i) (by omega)
  rwa [Nat.sub_sub_self (by omega)] at h

@[simp] theorem Bundle.modDir_modDir (g : Dir → Dir) : (b.modDir i f).modDir i g = b.modDir i fun r => g (f r) := by
  unfold Bundle.modDir
  split <;> rfl

theorem Bundle.modDir_congr {f g : Dir → Dir} (h : f (b.dir i) = g (b.dir i)) : b.modDir i f = b.modDir i g := by
  unfold Bundle.modDir
  unfold Bundle.dir at h
  split
  · next hi => rw [if_pos hi] at h; rw [h]
  · next hi => rw [if_neg hi] at h; rw [h]

theorem Bundle.modDir_id : b.modDir i (fun r => r) = b := by
  unfold Bundle.modDir
  split <;> rfl

/-- The registers of the bundle do not change with a direction. -/
theorem Bundle.modDir_eq : ∃ x y, b.modDir i f = { b with d2h := x, h2d := y } := by
  unfold Bundle.modDir
  split
  · exact ⟨_, b.h2d, rfl⟩
  · exact ⟨b.d2h, _, rfl⟩

@[simp] theorem Bundle.modDir_crcErr : (b.modDir i f).crcErr = b.crcErr := by
  obtain ⟨x, y, h⟩ := b.modDir_eq i f; rw [h]
@[simp] theorem Bundle.modDir_replays : (b.modDir i f).replays = b.replays := by
  obtain ⟨x, y, h⟩ := b.modDir_eq i f; rw [h]
@[simp] theorem Bundle.modDir_swaps : (b.modDir i f).swaps = b.swaps := by
  obtain ⟨x, y, h⟩ := b.modDir_eq i f; rw [h]
@[simp] theorem Bundle.modDir_steps : (b.modDir i f).steps = b.steps := by
  obtain ⟨x, y, h⟩ := b.modDir_eq i f; rw [h]

end

/-! ## Groups of a direction -/

@[simp] theorem Dir.grp_modGrp (r : Dir) (g f) : (r.modGrp g f).grp g = f (r.grp g) := Tab.get_set_self ..

theorem Dir.grp_modGrp_ne (r : Dir) {g k : Nat} (f) (h : k ≠ g) : (r.modGrp g f).grp k = r.grp k :=
  Tab.get_set_ne _ _ _ _ h

/-! ## In the module -/

section

variable (s : State) (d i : Nat) (f : Dir → Dir)

@[simp] theorem State.bundle_modBundle (g : Bundle → Bundle) : (s.modBundle d g).bundle d = g (s.bundle d) :=
  Tab.get_set_self ..
@[simp] theorem State.bundle_modDir : (s.modDir d i f).bundle d = (s.bundle d).modDir i f := Tab.get_set_self ..

theorem State.perturbBy_off (h : s.err.perturbGo = false) (tgt action : Nat) (place : Nat → Bool) :
    s.perturbBy tgt action place = (none, s) := by simp [State.perturbBy, h]

end

end Sys2Proof.Machine
end

section
/-! SUPPORT. Packets that the interposer makes itself: their length and the fields of their header (09 R271, R275,
R276). -/

namespace Sys2Proof.Machine

theorem fromLE_append (x y : Bytes) : fromLE (x ++ y) = fromLE x + 256 ^ x.length * fromLE y := by
  induction x with
  | nil => simp [fromLE]
  | cons b x ih =>
    rw [List.cons_append, fromLE, ih, fromLE, List.length_cons, Nat.pow_succ']
    ring

theorem length_pilPacket (hdr : Nat) {d : Bytes} (h : d.length ≤ 48) : (pilPacket hdr d).length = 64 := by
  simp only [pilPacket, List.length_append, length_toLE, List.length_replicate]
  omega

/-- The first 80 bits of a packet are the header that it was made with; its CRC stands above them. -/
theorem leField_pilPacket {hdr : Nat} (d : Bytes) (h : hdr < 2 ^ 80) :
    ∃ c, leField (pilPacket hdr d) 0 12 = hdr + 2 ^ 80 * c := by
  have head : slice (pilPacket hdr d) 0 12 = toLE 10 hdr ++ toLE 2 (crc16 (toLE 10 hdr)) := by
    simp only [pilPacket, slice, List.drop_zero, List.append_assoc]
    rw [← List.append_assoc, List.take_left' (by simp [length_toLE])]
  refine ⟨crc16 (toLE 10 hdr) % 256 ^ 2, ?_⟩
  rw [leField, head, fromLE_append, fromLE_toLE, fromLE_toLE, length_toLE, show 256 ^ 10 = 2 ^ 80 by rfl,
    Nat.mod_eq_of_lt h]

theorem pilFld_pilPacket {hdr lo n : Nat} (d : Bytes) (h : hdr < 2 ^ 80) (hn : lo + n ≤ 80) :
    pilFld (pilPacket hdr d) lo n = hdr / 2 ^ lo % 2 ^ n := by
  obtain ⟨c, hc⟩ := leField_pilPacket d h
  have split : 2 ^ 80 * c = 2 ^ lo * (2 ^ n * (2 ^ (80 - (lo + n)) * c)) := by
    rw [← mul_assoc, ← mul_assoc, ← pow_add, ← pow_add, Nat.add_sub_cancel' hn]
  rw [pilFld, hc, fieldNat, Nat.shiftRight_eq_div_pow, split, Nat.add_mul_div_left _ _ (Nat.two_pow_pos _),
    Nat.add_mul_mod_self_left]

variable (s : State) (d i : Nat) {g : Nat}

/-- A NAK names the GSEQ that the receiver of the group expects. -/
theorem State.pilSendNak_spec (hg : g < 16) : ∃ p : Bytes,
    s.pilSendNak d i g = s.emit (.pil d (1 - i) (((s.bundle d).dir (1 - i)).via g) p) ∧ p.length = 64 ∧
      pilFld p 25 4 = 9 ∧ pilFld p 23 2 = 3 ∧ pilFld p 58 7 = (((s.bundle d).dir i).grp g).rxNext.toNat ∧
      pilFld p 65 4 = g := by
  refine ⟨_, rfl, length_pilPacket _ (by simp), ?_⟩
  have hb := ((s.bundle d).dir (1 - i)).txB.isLt
  have ht := (((s.bundle d).dir (1 - i)).grp (((s.bundle d).dir (1 - i)).via g)).txNext.isLt
  have hr := (((s.bundle d).dir i).grp g).rxNext.isLt
  have hlt {a b c : Nat} (ha : a < 2 ^ 16) (hb : b < 2 ^ 7) (hc : c < 2 ^ 7) :
      a + b * 2 ^ 16 + (3 * 2 ^ 23 + 9 * 2 ^ 25 + c * 2 ^ 58 + g * 2 ^ 65) < 2 ^ 80 := by omega
  refine ⟨?_, ?_, ?_, ?_⟩ <;> rw [pilFld_pilPacket _ (hlt hb ht hr) (by decide)] <;> omega

/-- An acknowledgement names the GSEQ that the receiver of the group expects. -/
theorem State.pilAck_spec (hg : g < 16) : ∃ k a, s.pilAck d i g = s.emit (.pil d (1 - i) k a) ∧ pilFld a 57 1 = 1 ∧
    pilFld a 58 7 = (((s.bundle d).dir i).grp g).rxNext.toNat ∧ pilFld a 65 4 = g := by
  refine ⟨_, _, rfl, ?_⟩
  have hb := ((s.bundle d).dir (1 - i)).txB.isLt
  have ht := (((s.bundle d).dir (1 - i)).grp (((s.bundle d).dir (1 - i)).via g)).txNext.isLt
  have hr := (((s.bundle d).dir i).grp g).rxNext.isLt
  have hlt {a b c : Nat} (ha : a < 2 ^ 16) (hb : b < 2 ^ 7) (hc : c < 2 ^ 7) :
      a + b * 2 ^ 16 + (2 ^ 57 + c * 2 ^ 58 + g * 2 ^ 65) < 2 ^ 80 := by omega
  refine ⟨?_, ?_, ?_⟩ <;> rw [pilFld_pilPacket _ (hlt hb ht hr) (by decide)] <;> omega

end Sys2Proof.Machine
end

section
/-! SUPPORT. Replay on the interposer: packets sent again on other groups, a group that replays, and the test of a
group's lanes (09 R276, R281). -/

namespace Sys2Proof.Machine

/-- `u` follows `s` by packets of direction `i` of bundle `d` that groups in RUN take for replay: only groups in RUN and
what waits for room change of the direction. -/
structure State.Resends (d i : Nat) (s u : State) : Prop where
  rest : ∃ bs o, u = { s with bundles := bs, out := o }
  bundle : ∃ gs mv, u.bundle d = (s.bundle d).modDir i fun r => { r with groups := gs, moved := mv }
  parked : ∀ g, (((s.bundle d).dir i).grp g).state ≠ .run → ((u.bundle d).dir i).grp g = ((s.bundle d).dir i).grp g

namespace State.Resends

variable {d i : Nat} {s u v : State}

theorem refl (s : State) : s.Resends d i s :=
  ⟨⟨s.bundles, s.out, rfl⟩, ⟨((s.bundle d).dir i).groups, ((s.bundle d).dir i).moved,
    (Bundle.modDir_id ..).symm.trans (Bundle.modDir_congr _ _ rfl)⟩, fun _ _ => rfl⟩

theorem trans (h : s.Resends d i u) (h' : u.Resends d i v) : s.Resends d i v where
  rest := by
    obtain ⟨_, _, rfl⟩ := h.rest
    obtain ⟨bs, o, rfl⟩ := h'.rest
    exact ⟨bs, o, rfl⟩
  bundle := by
    obtain ⟨_, _, hb⟩ := h.bundle
    obtain ⟨gs, mv, hb'⟩ := h'.bundle
    exact ⟨gs, mv, by rw [hb', hb, Bundle.modDir_modDir]⟩
  parked g hg := by
    have hu := h.parked g hg
    exact (h'.parked g (hu ▸ hg)).trans hu

/-- A change of the direction that groups outside RUN do not see. -/
theorem modDir {f : Dir → Dir} (hf : ∀ r, ∃ gs mv, f r = { r with groups := gs, moved := mv })
    (hg : ∀ g, (((s.bundle d).dir i).grp g).state ≠ .run →
      (f ((s.bundle d).dir i)).grp g = ((s.bundle d).dir i).grp g) :
    s.Resends d i (s.modDir d i f) where
  rest := ⟨_, s.out, rfl⟩
  bundle := by
    obtain ⟨gs, mv, h⟩ := hf ((s.bundle d).dir i)
    exact ⟨gs, mv, (s.bundle_modDir ..).trans (Bundle.modDir_congr _ _ h)⟩
  parked g h := by rw [State.bundle_modDir, Bundle.dir_modDir, hg g h]

theorem emit (o : Out) : s.Resends d i (s.emit o) :=
  ⟨⟨s.bundles, _, rfl⟩, (State.Resends.refl s).bundle, fun _ _ => rfl⟩

theorem mem (h : s.Resends d i u) : u.mem = s.mem := by
  obtain ⟨_, _, rfl⟩ := h.rest; rfl

/-- The registers of the bundle do not change. -/
theorem registers (h : s.Resends d i u) : ∃ x y, u.bundle d = { s.bundle d with d2h := x, h2d := y } := by
  obtain ⟨_, _, hb⟩ := h.bundle
  rw [hb]
  exact Bundle.modDir_eq ..

theorem other (h : s.Resends d (1 - i) u) (hi : i < 2) : (u.bundle d).dir i = (s.bundle d).dir i := by
  obtain ⟨_, _, hb⟩ := h.bundle
  rw [hb, Bundle.dir_modDir_other _ _ hi]

theorem dir (h : s.Resends d i u) :
    ∃ gs mv, (u.bundle d).dir i = { (s.bundle d).dir i with groups := gs, moved := mv } := by
  obtain ⟨gs, mv, hb⟩ := h.bundle
  exact ⟨gs, mv, by rw [hb, Bundle.dir_modDir]⟩

end State.Resends

section

variable (s : State) (d i : Nat)

theorem State.resends_moved (f : List Bytes → List Bytes) :
    s.Resends d i (s.modDir d i fun r => { r with moved := f r.moved }) :=
  .modDir (fun r => ⟨r.groups, _, rfl⟩) fun _ _ => rfl

theorem State.resends_hold {k : Nat} (hk : (((s.bundle d).dir i).grp k).state = .run) (q : Bytes) :
    s.Resends d i (s.modDir d i fun r => r.modGrp k fun x => x.hold q) :=
  .modDir (fun r => ⟨_, r.moved, rfl⟩) fun _ hg => Dir.grp_modGrp_ne _ _ fun h => hg (h ▸ hk)

theorem State.resends_pilPlace (ps : List Bytes) : s.Resends d i (State.pilPlace d i s ps) := by
  induction ps generalizing s with
  | nil => exact .refl s
  | cons p ps ih =>
    unfold State.pilPlace
    dsimp only
    split
    · exact s.resends_moved d i (· ++ p :: ps)
    · next k hk =>
      have hrun := List.find?_some hk
      simp only [Bool.and_eq_true, beq_iff_eq] at hrun
      exact ((s.resends_hold d i hrun.1 _).trans (.emit _)).trans (ih _)

theorem State.resends_pilFlush : s.Resends d i (s.pilFlush d i) := by
  unfold State.pilFlush
  dsimp only
  split
  · exact .refl s
  · exact (s.resends_moved d i fun _ => []).trans (State.resends_pilPlace ..)

theorem State.resends_pilMove (ps : List Bytes) : s.Resends d i (s.pilMove d i ps) :=
  (s.resends_moved d i (· ++ ps)).trans (State.resends_pilFlush ..)

/-- With nothing waiting for room there is nothing to resend. -/
theorem State.pilFlush_of_moved (h : ((s.bundle d).dir i).moved = []) : s.pilFlush d i = s := by
  rw [State.pilFlush, h]
  rfl

theorem State.foldl_emit {α : Type} (f : α → Out) (l : List α) :
    l.foldl (fun s a => s.emit (f a)) s = { s with out := s.out ++ l.map f } := by
  induction l generalizing s with
  | nil => rw [List.map_nil, List.append_nil]; rfl
  | cons a l ih => rw [List.foldl_cons, ih]; simp [State.emit]

end

/-! ## A group replays -/

/-- A group that holds `x` may send again: it waits while 64 of its packets are not acknowledged. -/
def Grp.opened (x : Grp) : GState := if 64 ≤ x.held.length then .wait else .run

/-- Group `g` has replayed the packets `ps`, or is under CHECK after more replays in a row than REPLAY_LIMIT (R276). -/
def State.Replayed (s : State) (d i g : Nat) (ps : List Bytes) (u : State) : Prop :=
  let x := ((s.bundle d).dir i).grp g
  let y := ((u.bundle d).dir i).grp g
  y.replays = x.replays + 1 ∧ y.held = x.held ∧ (u.bundle d).replays = satInc16 (s.bundle d).replays ∧
    if x.replays + 1 ≤ (s.bundle d).replayLimit.toNat then y.state = x.opened ∧ u.out = s.out ++ ps.map (.pil d i g)
    else y.state = .check

/-- What a group replays: its held packets, from a GSEQ on when a NAK names one. -/
def Grp.replayed (x : Grp) : Option (BitVec 7) → List Bytes
  | none => x.held
  | some q => x.held.dropWhile fun p => gseqOf p != q

variable {s : State} {d i g : Nat}

theorem State.replayed_pilReplay (q : Option (BitVec 7)) :
    s.Replayed d i g ((((s.bundle d).dir i).grp g).replayed q) (s.pilReplay d i g q) := by
  unfold State.pilReplay
  dsimp only
  generalize hv : s.setBundle d _ = v
  have hb : v.bundle d = ({ s.bundle d with replays := satInc16 (s.bundle d).replays } : Bundle).modDir i fun r =>
      r.modGrp g fun x => { x with replays := x.replays + 1, state := x.opened } := by
    rw [← hv, State.bundle_setBundle]
    rfl
  have hout : v.out = s.out := by rw [← hv]; rfl
  have hx : ((v.bundle d).dir i).grp g = { ((s.bundle d).dir i).grp g with
      replays := (((s.bundle d).dir i).grp g).replays + 1, state := (((s.bundle d).dir i).grp g).opened } := by
    rw [hb, Bundle.dir_modDir, Dir.grp_modGrp]
    rfl
  have hreplays : (v.bundle d).replays = satInc16 (s.bundle d).replays := by rw [hb, Bundle.modDir_replays]
  split
  · next hlimit =>
    generalize hw : v.modDir d i _ = w
    have hw' : w.bundle d = (v.bundle d).modDir i fun r => r.modGrp g fun x => { x with state := .check } := by
      rw [← hw, State.bundle_modDir]
    have hcheck : ((w.bundle d).dir i).grp g = { ((v.bundle d).dir i).grp g with state := .check } := by
      rw [hw', Bundle.dir_modDir, Dir.grp_modGrp]
    have moved := w.resends_pilMove d i (((s.bundle d).dir i).grp g).held
    obtain ⟨_, _, hregs⟩ := moved.registers
    have hgrp := moved.parked g (by rw [hcheck]; exact GState.noConfusion)
    rw [hcheck, hx] at hgrp
    refine ⟨by rw [hgrp], by rw [hgrp], ?_, ?_⟩
    · rw [hregs, hw', Bundle.modDir_replays, hreplays]
    · rw [if_neg (by omega), hgrp]
  · next hlimit =>
    rw [State.foldl_emit]
    have hheld := congrArg Grp.held hx
    refine ⟨congrArg Grp.replays hx, hheld, hreplays, ?_⟩
    rw [if_pos (by omega)]
    refine ⟨congrArg Grp.state hx, ?_⟩
    dsimp only
    rw [hout]
    cases q <;> rfl

end Sys2Proof.Machine
end

section
/-! SUPPORT. A packet arrives on the interposer: the transmitter's side, the receiver's side, and delivery in BSEQ order
(09 R272 to R276). -/

namespace Sys2Proof.Machine

variable (s : State) {d i g : Nat} {p : Bytes}

/-! ## The transmitter -/

/-- `r'` has the receiver's side of `r`: the BSEQ and GSEQs expected, and the packets that have arrived. -/
structure Dir.SameReceiver (r r' : Dir) : Prop where
  rxB : r'.rxB = r.rxB
  reorder : r'.reorder = r.reorder
  queues : r'.queues = r.queues
  rxNext : ∀ g, (r'.grp g).rxNext = (r.grp g).rxNext

theorem Dir.rxNext_hold (r : Dir) (g : Nat) (q : Bytes) (k : Nat) :
    ((r.modGrp g fun x => x.hold q).grp k).rxNext = (r.grp k).rxNext := by
  by_cases hk : k = g
  · rw [hk, Dir.grp_modGrp]
    rfl
  · rw [Dir.grp_modGrp_ne _ _ hk]

/-- A packet that its group takes for replay changes nothing of the receiver. -/
theorem State.pilSent_spec (d i g : Nat) (p : Bytes) : (s.pilSent d i g p).mem = s.mem ∧
    ((s.bundle d).dir i).SameReceiver (((s.pilSent d i g p).bundle d).dir i) := by
  unfold State.pilSent
  dsimp only
  split
  · refine ⟨rfl, ?_⟩
    rw [State.bundle_modDir, Bundle.dir_modDir]
    exact ⟨rfl, rfl, rfl, Dir.rxNext_hold ((s.bundle d).dir i) g p⟩
  · exact ⟨rfl, rfl, rfl, rfl, fun _ => rfl⟩

/-! ## Delivery -/

/-- Packets that leave the reorder buffer go to the ends of the queues; the groups do not change. -/
theorem State.pilDeliver_spec (fuel : Nat) : (State.pilDeliver d i fuel s).mem = s.mem ∧
    (State.pilDeliver d i fuel s).out = s.out ∧
    (∀ g, (((State.pilDeliver d i fuel s).bundle d).dir i).grp g = ((s.bundle d).dir i).grp g) ∧
    ∀ vc, ∃ l, Tab.get [] (((State.pilDeliver d i fuel s).bundle d).dir i).queues vc =
      Tab.get [] ((s.bundle d).dir i).queues vc ++ l := by
  induction fuel generalizing s with
  | zero => exact ⟨rfl, rfl, fun _ => rfl, fun _ => ⟨[], (List.append_nil _).symm⟩⟩
  | succ n ih =>
    unfold State.pilDeliver
    dsimp only
    split
    · exact ⟨rfl, rfl, fun _ => rfl, fun _ => ⟨[], (List.append_nil _).symm⟩⟩
    · next e _ =>
      generalize hv : s.modDir d i _ = v
      have hdir : (v.bundle d).dir i = { (s.bundle d).dir i with
          rxB := ((s.bundle d).dir i).rxB + 1
          reorder := ((s.bundle d).dir i).reorder.filter fun f => f.1 != e.1
          queues := Tab.set [] ((s.bundle d).dir i).queues (pilFld e.2 23 2)
            (Tab.get [] ((s.bundle d).dir i).queues (pilFld e.2 23 2) ++ [e.2]) } := by
        rw [← hv, State.bundle_modDir, Bundle.dir_modDir]
      obtain ⟨hmem, hout, hgrp, hq⟩ := ih v
      refine ⟨hmem.trans (by rw [← hv]; rfl), hout.trans (by rw [← hv]; rfl),
        fun g => (hgrp g).trans (by rw [hdir]; rfl), fun vc => ?_⟩
      obtain ⟨l, hl⟩ := hq vc
      rw [hl, hdir]
      by_cases hvc : vc = pilFld e.2 23 2
      · subst hvc
        exact ⟨e.2 :: l, by rw [Tab.get_set_self, List.append_assoc]; rfl⟩
      · exact ⟨l, by rw [Tab.get_set_ne _ _ _ _ hvc]⟩

/-- The packet whose turn it is goes to the queue of its VC. -/
theorem State.queue_pilDeliver {fuel : Nat} {e : Nat × Bytes}
    (h : (((s.bundle d).dir i).reorder.find? fun e => e.1 == ((s.bundle d).dir i).rxB.toNat) = some e) :
    ∃ l, Tab.get [] (((State.pilDeliver d i (fuel + 1) s).bundle d).dir i).queues (pilFld e.2 23 2) =
      Tab.get [] ((s.bundle d).dir i).queues (pilFld e.2 23 2) ++ e.2 :: l := by
  rw [State.pilDeliver, h]
  dsimp only
  generalize hv : s.modDir d i _ = v
  have hdir : Tab.get [] ((v.bundle d).dir i).queues (pilFld e.2 23 2) =
      Tab.get [] ((s.bundle d).dir i).queues (pilFld e.2 23 2) ++ [e.2] := by
    rw [← hv, State.bundle_modDir, Bundle.dir_modDir, Tab.get_set_self]
  obtain ⟨-, -, -, hq⟩ := v.pilDeliver_spec (d := d) (i := i) fuel
  obtain ⟨l, hl⟩ := hq (pilFld e.2 23 2)
  exact ⟨l, by rw [hl, hdir, List.append_assoc]; rfl⟩

/-! ## The receiver -/

/-- What an expected sequenced packet changes before its own acknowledgement: the GSEQ expected next, and the credits
and the acknowledgement that it brings for the other direction. -/
def State.pilTaken (s : State) (d i g : Nat) (p : Bytes) : State :=
  let s := s.modDir d i fun r => r.modGrp g fun x => { x with rxNext := x.rxNext + 1, nakked := false }
  let s := s.modDir d (1 - i) fun r => { r with
    spent := Tab.set 0 r.spent (pilFld p 69 2) (Tab.get 0 r.spent (pilFld p 69 2) - pilFld p 71 5) }
  if pilFld p 57 1 = 1 then
    (s.modDir d (1 - i) fun r =>
      r.modGrp (pilFld p 65 4) (Grp.acked (BitVec.ofNat 7 (pilFld p 58 7)))).pilFlush d (1 - i)
  else s

/-- The receiver's side of a packet with the expected GSEQ. -/
theorem State.pilTaken_spec (hi : i < 2) : (s.pilTaken d i g p).mem = s.mem ∧
    ((s.pilTaken d i g p).bundle d).dir i = ((s.bundle d).dir i).modGrp g fun x =>
      { x with rxNext := x.rxNext + 1, nakked := false } := by
  unfold State.pilTaken
  dsimp only
  generalize hv : s.modDir d i _ = v
  have hdir : (v.bundle d).dir i = ((s.bundle d).dir i).modGrp g fun x =>
      { x with rxNext := x.rxNext + 1, nakked := false } := by
    rw [← hv, State.bundle_modDir, Bundle.dir_modDir]
  have hmem : v.mem = s.mem := by rw [← hv]; rfl
  have other (u : State) (f : Dir → Dir) : ((u.modDir d (1 - i) f).bundle d).dir i = (u.bundle d).dir i := by
    rw [State.bundle_modDir, Bundle.dir_modDir_other _ _ hi]
  split
  · have flushed := fun u : State => u.resends_pilFlush d (1 - i)
    exact ⟨(flushed _).mem.trans hmem, ((flushed _).other hi).trans ((other ..).trans ((other ..).trans hdir))⟩
  · exact ⟨hmem, (other ..).trans hdir⟩

/-- A sequenced packet with the expected GSEQ is acknowledged; then it is delivered, unless its BSEQ lies outside the
window or is already there. -/
theorem State.pilAccept_of_seq (h : pilSeq p = true) : s.pilAccept d i g p =
    let v := (s.pilTaken d i g p).pilAck d i g
    let r := (v.bundle d).dir i
    if 2048 ≤ (BitVec.ofNat 16 (pilFld p 0 16) - r.rxB).toNat ∨
      (r.reorder.any fun e => e.1 == pilFld p 0 16) = true then v
    else State.pilDeliver d i 2048 (v.modDir d i fun r => { r with reorder := r.reorder ++ [(pilFld p 0 16, p)] }) := by
  have hnak : pilFld p 25 4 ≠ 9 := by
    simp only [pilSeq, Bool.and_eq_true, bne_iff_ne] at h
    exact h.2
  unfold State.pilAccept
  simp only [h, if_true, if_neg hnak, Bool.not_true, Bool.false_eq_true, if_false]
  rfl

/-- A good sequenced packet with the expected GSEQ is acknowledged (R275). -/
theorem State.pilAccept_spec (hi : i < 2) (hg : g < 16) (hseq : pilSeq p = true) :
    let u := s.pilAccept d i g p
    let x := ((s.bundle d).dir i).grp g
    ((u.bundle d).dir i).grp g = { x with rxNext := x.rxNext + 1, nakked := false } ∧ u.mem = s.mem ∧
      ∃ k a, Out.pil d (1 - i) k a ∈ u.out ∧ pilFld a 57 1 = 1 ∧ pilFld a 58 7 = (x.rxNext + 1).toNat ∧
        pilFld a 65 4 = g := by
  obtain ⟨hmem, hdir⟩ := s.pilTaken_spec (d := d) (g := g) (p := p) hi
  obtain ⟨k, a, hack, hbit, hgseq, hgrp⟩ := (s.pilTaken d i g p).pilAck_spec d i hg
  rw [hdir, Dir.grp_modGrp] at hgseq
  rw [s.pilAccept_of_seq hseq, hack]
  dsimp only
  split
  · refine ⟨?_, hmem, k, a, List.mem_append_right _ (List.mem_singleton_self _), hbit, hgseq, hgrp⟩
    rw [State.emit_bundle, hdir, Dir.grp_modGrp]
  · generalize hw : State.modDir _ d i _ = w
    have kept : ((w.bundle d).dir i).grp g = (((s.pilTaken d i g p).bundle d).dir i).grp g := by
      rw [← hw, State.bundle_modDir, Bundle.dir_modDir]
      rfl
    have hout : w.out = (s.pilTaken d i g p).out ++ [.pil d (1 - i) k a] := by rw [← hw]; rfl
    obtain ⟨hmem', hout', hgrp', -⟩ := w.pilDeliver_spec (d := d) (i := i) 2048
    refine ⟨by rw [hgrp', kept, hdir, Dir.grp_modGrp], hmem'.trans (by rw [← hw]; exact hmem), k, a, ?_, hbit, hgseq,
      hgrp⟩
    rw [hout', hout]
    exact List.mem_append_right _ (List.mem_singleton_self _)

/-- A packet whose BSEQ is next in turn goes to the queue of its VC (R272). -/
theorem State.queue_pilAccept (hi : i < 2) (hseq : pilSeq p = true)
    (hturn : pilFld p 0 16 = ((s.bundle d).dir i).rxB.toNat)
    (hnew : ∀ e ∈ ((s.bundle d).dir i).reorder, e.1 ≠ ((s.bundle d).dir i).rxB.toNat) :
    ∃ l, Tab.get [] (((s.pilAccept d i g p).bundle d).dir i).queues (pilFld p 23 2) =
      Tab.get [] ((s.bundle d).dir i).queues (pilFld p 23 2) ++ p :: l := by
  obtain ⟨-, hdir⟩ := s.pilTaken_spec (d := d) (g := g) (p := p) hi
  have hv : (((s.pilTaken d i g p).pilAck d i g).bundle d).dir i = ((s.bundle d).dir i).modGrp g fun x =>
      { x with rxNext := x.rxNext + 1, nakked := false } := hdir
  rw [s.pilAccept_of_seq hseq]
  generalize (s.pilTaken d i g p).pilAck d i g = v at hv
  have hrxB : ((v.bundle d).dir i).rxB = ((s.bundle d).dir i).rxB := by rw [hv]; rfl
  have hreorder : ((v.bundle d).dir i).reorder = ((s.bundle d).dir i).reorder := by rw [hv]; rfl
  have hqueues : ((v.bundle d).dir i).queues = ((s.bundle d).dir i).queues := by rw [hv]; rfl
  have kept : ¬ (2048 ≤ (BitVec.ofNat 16 (pilFld p 0 16) - ((v.bundle d).dir i).rxB).toNat ∨
      (((v.bundle d).dir i).reorder.any fun e => e.1 == pilFld p 0 16) = true) := by
    rw [hrxB, hreorder, hturn]
    rintro (h | h)
    · simp at h
    · obtain ⟨e, he, h⟩ := List.any_eq_true.1 h
      exact hnew e he (by simpa using h)
  dsimp only
  rw [if_neg kept]
  generalize hw : v.modDir d i _ = w
  have hw' : (w.bundle d).dir i = { (v.bundle d).dir i with
      reorder := ((v.bundle d).dir i).reorder ++ [(pilFld p 0 16, p)] } := by
    rw [← hw, State.bundle_modDir, Bundle.dir_modDir]
  have first : ((w.bundle d).dir i).reorder.find? (fun e => e.1 == ((w.bundle d).dir i).rxB.toNat) =
      some (pilFld p 0 16, p) := by
    rw [hw']
    dsimp only
    rw [hreorder, hrxB, hturn, List.find?_append, List.find?_eq_none.2 (by simpa using hnew)]
    simp
  have queued := w.queue_pilDeliver (fuel := 2047) first
  rw [hw'] at queued
  dsimp only at queued
  rwa [hqueues] at queued

end Sys2Proof.Machine
end

section
/-! SUPPORT. The statement about packets, NAKs and replay on the interposer. -/

namespace Sys2Proof.Machine

variable {s : State} {d i g : Nat} {p : Bytes}

/-! ## A packet arrives -/

theorem State.pilHit_off (h : s.err.perturbGo = false) (d i g vc : Nat) : s.pilHit d i g vc = (false, s) := by
  rw [State.pilHit, State.perturbBy_off _ h]
  rfl

/-- A good packet with the expected GSEQ, which the transmitter may send, is accepted. -/
theorem exec_pilPacketReceive_good (hd : d < 4) (hi : i < 2) (hg : g < 16) (hup : s.pilUp d = true)
    (hquiet : s.err.perturbGo = false) (hp : p.length = 64) (hon : (((s.bundle d).dir i).grp g).state ≠ .off)
    (hgood : pilGood p = true) (hgseq : gseqOf p = (((s.bundle d).dir i).grp g).rxNext)
    (hmay : s.pilMaySend d i g p = true) :
    exec (.pilPacketReceive d i g p) s = .next ((s.pilSent d i g p).pilAccept d i g p) := by
  refine (if_pos ⟨hd, hi, hg, hp⟩).trans ?_
  simp [hup, hon, hgood, hgseq, hmay, State.perturbBy_off _ hquiet, State.pilHit_off hquiet]

/-- The receiver of group `g` asks for a replay: it waits for the GSEQ that it expects. -/
def State.pilNakked (s : State) (d i g : Nat) : State :=
  s.modDir d i fun r => r.modGrp g fun y => { y with nakked := true }

/-- A packet that fails its CRC counts, and the first is answered by a NAK. -/
theorem exec_pilPacketReceive_bad (hd : d < 4) (hi : i < 2) (hg : g < 16) (hup : s.pilUp d = true)
    (hquiet : s.err.perturbGo = false) (hp : p.length = 64) (hon : (((s.bundle d).dir i).grp g).state ≠ .off)
    (hbad : pilGood p = false) : exec (.pilPacketReceive d i g p) s =
      let v := s.modBundle d fun b => { b with crcErr := satInc16 b.crcErr }
      .next (if (((s.bundle d).dir i).grp g).nakked then v else (v.pilNakked d i g).pilSendNak d i g) := by
  refine (if_pos ⟨hd, hi, hg, hp⟩).trans ?_
  simp only [hup, beq_eq_false_iff_ne.2 hon, hbad, State.perturbBy_off _ hquiet, State.pilHit_off hquiet, Bool.not_true,
    Bool.not_false, Bool.false_and, Bool.or_self, Bool.false_eq_true, if_false]
  split <;> rfl

/-! ## The clauses -/

/-- `u` follows `s` by a NAK for the GSEQ that the receiver of the group expects. -/
def State.SendsNak (s : State) (d i g : Nat) (u : State) : Prop :=
  ∃ p : Bytes, u.out = s.out ++ [.pil d (1 - i) (((s.bundle d).dir (1 - i)).via g) p] ∧ p.length = 64 ∧
    pilFld p 25 4 = 9 ∧ pilFld p 23 2 = 3 ∧ pilFld p 58 7 = (((s.bundle d).dir i).grp g).rxNext.toNat ∧
    pilFld p 65 4 = g

theorem State.sendsNak_pilSendNak (hg : g < 16) : s.SendsNak d i g (s.pilSendNak d i g) := by
  obtain ⟨p, hsend, hp⟩ := s.pilSendNak_spec d i hg
  exact ⟨p, by rw [hsend]; rfl, hp⟩

/-- A good sequenced packet, from its arrival to its queue. -/
theorem pilPacketReceive_good (hd : d < 4) (hi : i < 2) (hg : g < 16) (hup : s.pilUp d = true)
    (hquiet : s.err.perturbGo = false) (hp : p.length = 64) (hon : (((s.bundle d).dir i).grp g).state ≠ .off)
    (hgood : pilGood p = true) (hseq : pilSeq p = true) (hgseq : gseqOf p = (((s.bundle d).dir i).grp g).rxNext)
    (hmay : s.pilMaySend d i g p = true) :
    let x := ((s.bundle d).dir i).grp g
    let r := (s.bundle d).dir i
    ∃ u, exec (.pilPacketReceive d i g p) s = .next u ∧ (((u.bundle d).dir i).grp g).rxNext = x.rxNext + 1 ∧
      (((u.bundle d).dir i).grp g).nakked = false ∧ u.mem = s.mem ∧
      (∃ k a, Out.pil d (1 - i) k a ∈ u.out ∧ pilFld a 57 1 = 1 ∧ pilFld a 58 7 = (x.rxNext + 1).toNat ∧
        pilFld a 65 4 = g) ∧
      (pilFld p 0 16 = r.rxB.toNat → (∀ e ∈ r.reorder, e.1 ≠ r.rxB.toNat) → ∃ l,
        Tab.get [] ((u.bundle d).dir i).queues (pilFld p 23 2) = Tab.get [] r.queues (pilFld p 23 2) ++ p :: l) := by
  obtain ⟨hmem, hsame⟩ := s.pilSent_spec d i g p
  obtain ⟨hgrp, hmem', hack⟩ := (s.pilSent d i g p).pilAccept_spec (d := d) hi hg hseq
  have hqueue := (s.pilSent d i g p).queue_pilAccept (d := d) (g := g) hi hseq
  rw [hsame.rxNext] at hack
  rw [hsame.rxB, hsame.reorder, hsame.queues] at hqueue
  refine ⟨_, exec_pilPacketReceive_good hd hi hg hup hquiet hp hon hgood hgseq hmay, ?_, by rw [hgrp], hmem'.trans hmem,
    hack, hqueue⟩
  rw [hgrp]
  exact congrArg (· + 1) (hsame.rxNext g)

/-- A packet that fails its CRC. -/
theorem pilPacketReceive_bad (hd : d < 4) (hi : i < 2) (hg : g < 16) (hup : s.pilUp d = true)
    (hquiet : s.err.perturbGo = false) (hp : p.length = 64) (hon : (((s.bundle d).dir i).grp g).state ≠ .off)
    (hbad : pilGood p = false) :
    let x := ((s.bundle d).dir i).grp g
    ∃ u, exec (.pilPacketReceive d i g p) s = .next u ∧ (u.bundle d).crcErr = satInc16 (s.bundle d).crcErr ∧
      ((u.bundle d).dir i).grp g = { x with nakked := true } ∧ (x.nakked = false → s.SendsNak d i g u) ∧
      (x.nakked = true → u.out = s.out) := by
  intro x
  refine ⟨_, exec_pilPacketReceive_bad hd hi hg hup hquiet hp hon hbad, ?_⟩
  generalize hv : s.modBundle d _ = v
  have hcrc : (v.bundle d).crcErr = satInc16 (s.bundle d).crcErr := by rw [← hv, State.bundle_modBundle]
  have hdir (k : Nat) : (v.bundle d).dir k = (s.bundle d).dir k := by rw [← hv, State.bundle_modBundle]; rfl
  have hout : v.out = s.out := by rw [← hv]; rfl
  cases hx : x.nakked with
  | true =>
    rw [if_pos rfl]
    refine ⟨hcrc, by rw [hdir, ← hx], nofun, fun _ => hout⟩
  | false =>
    rw [if_neg Bool.false_ne_true]
    have hb : (v.pilNakked d i g).bundle d = (v.bundle d).modDir i fun r =>
        r.modGrp g fun y => { y with nakked := true } := State.bundle_modDir ..
    have hgrp : (((v.pilNakked d i g).bundle d).dir i).grp g = { x with nakked := true } := by
      rw [hb, Bundle.dir_modDir, Dir.grp_modGrp, hdir]
    refine ⟨?_, hgrp, fun _ => ?_, nofun⟩
    · rw [show ((v.pilNakked d i g).pilSendNak d i g).bundle d = (v.pilNakked d i g).bundle d from rfl, hb,
        Bundle.modDir_crcErr, hcrc]
    · obtain ⟨q, hq, hlen, htype, hvc, hgseq, hg'⟩ := (v.pilNakked d i g).sendsNak_pilSendNak (d := d) (i := i) hg
      rw [hb, Bundle.dir_other_modDir _ _ hi, hdir] at hq
      rw [hgrp] at hgseq
      exact ⟨q, hq.trans (congrArg (· ++ _) hout), hlen, htype, hvc, hgseq, hg'⟩

theorem exec_pilNakRepeat (hd : d < 4) (hi : i < 2) (hg : g < 16) (hup : s.pilUp d = true)
    (hn : (((s.bundle d).dir i).grp g).nakked = true) :
    exec (.pilNakRepeat d i g) s = .next (s.pilSendNak d i g) := by
  refine (if_pos ⟨hd, hi, hg⟩).trans (if_pos ?_)
  rw [hup, hn]
  rfl

theorem exec_pilNak {q : Nat} (hd : d < 4) (hi : i < 2) (hg : g < 16) (hq : q < 128) (hup : s.pilUp d = true)
    (ha : (((s.bundle d).dir i).grp g).alive = true) :
    exec (.pilNak d i g q) s = .next (s.pilReplay d i g (some (BitVec.ofNat 7 q))) := by
  refine (if_pos ⟨hd, hi, hg, hq⟩).trans ((if_pos hup).trans ?_)
  rw [State.pilNak, if_pos ha]

theorem exec_pilReplayWaitTimeout (hd : d < 4) (hi : i < 2) (hg : g < 16) (hup : s.pilUp d = true)
    (hw : (((s.bundle d).dir i).grp g).state = .wait) :
    exec (.pilReplayWaitTimeout d i g) s = .next (s.pilReplay d i g none) := by
  refine (if_pos ⟨hd, hi, hg⟩).trans (if_pos ?_)
  rw [hup, hw]
  rfl

/-- A group whose lanes all pass leaves CHECK; nothing waits for room, so nothing is resent. -/
theorem exec_pilGroupCheckDone (hd : d < 4) (hi : i < 2) (hg : g < 16)
    (hcheck : (((s.bundle d).dir i).grp g).state = .check) (hmoved : ((s.bundle d).dir i).moved = []) :
    exec (.pilGroupCheckDone d i g []) s = .next (s.modDir d i fun r => r.modGrp g fun x =>
      { x with state := if 64 ≤ x.held.length then .wait else .run, replays := 0 }) := by
  refine (if_pos ⟨hd, hi, hg, rfl⟩).trans ((if_neg (not_not.2 hcheck)).trans ?_)
  dsimp only [List.filter_nil, List.foldl_nil]
  rw [State.pilFlush_of_moved]
  rw [State.bundle_modDir, Bundle.dir_modDir]
  exact hmoved

/-- Settles O43: a good packet, a bad one, and the replays. -/
theorem bundlePackets : Obligations.BundlePackets := by
  unfold Obligations.BundlePackets
  intro d i g s hd hi hg hup hquiet
  refine ⟨fun p hp hon hgood hseq hgseq hmay => pilPacketReceive_good hd hi hg hup hquiet hp hon hgood hseq hgseq hmay,
    fun p hp hon hbad => pilPacketReceive_bad hd hi hg hup hquiet hp hon hbad,
    fun hn => ⟨_, exec_pilNakRepeat hd hi hg hup hn, State.sendsNak_pilSendNak hg, rfl⟩,
    fun q hq ha => ⟨_, exec_pilNak hd hi hg hq hup ha, State.replayed_pilReplay _⟩,
    fun hw => ⟨_, exec_pilReplayWaitTimeout hd hi hg hup hw, State.replayed_pilReplay none⟩,
    fun hcheck hmoved => ⟨_, _, exec_pilGroupCheckDone hd hi hg hcheck hmoved, ?_, rfl, rfl⟩⟩
  dsimp only
  rw [State.bundle_modDir, Bundle.dir_modDir, Dir.grp_modGrp]

end Sys2Proof.Machine
end

section
/-! SUPPORT. What the fabric endpoint can change when it sends and loses packets, accepts waiting requests and ends
them, said once: threads, cores, transfers in pumps, links, the entries of PERTURB_ENT, the counter of free values, what
has left the module, and the endpoint itself (11 R348 to R362). -/

namespace Sys2Proof.Machine

/-- `u` follows `s` by what the fabric endpoint does with packets and requests. -/
def State.FabStep (s u : State) : Prop :=
  ∃ ts cs ps ls e f o fab, u = { s with
    threads := ts, cores := cs, pumps := ps, links := ls, err := { s.err with ents := e }, freeCtr := f, out := o,
    fab := fab }

namespace State.FabStep

variable {s u v : State}

theorem refl (s : State) : s.FabStep s :=
  ⟨s.threads, s.cores, s.pumps, s.links, s.err.ents, s.freeCtr, s.out, s.fab, rfl⟩

theorem trans (h : s.FabStep u) (h' : u.FabStep v) : s.FabStep v := by
  obtain ⟨_, _, _, _, _, _, _, _, rfl⟩ := h
  obtain ⟨ts, cs, ps, ls, e, f, o, fab, rfl⟩ := h'
  exact ⟨ts, cs, ps, ls, e, f, o, fab, rfl⟩

theorem ite {p : Prop} [Decidable p] (h : s.FabStep u) (h' : s.FabStep v) : s.FabStep (if p then u else v) := by
  split <;> assumption

theorem foldl {α : Type} (f : State → α → State) (hf : ∀ s a, State.FabStep s (f s a)) (l : List α) (s : State) :
    s.FabStep (l.foldl f s) := by
  induction l generalizing s with
  | nil => exact .refl s
  | cons a l ih => exact (hf s a).trans (ih _)

theorem of_linkStep (h : s.LinkStep u) : s.FabStep u := by
  obtain ⟨ls, e, f, o, rfl⟩ := h
  exact ⟨s.threads, s.cores, s.pumps, ls, e, f, o, s.fab, rfl⟩

theorem mem (h : s.FabStep u) : u.mem = s.mem := by
  obtain ⟨_, _, _, _, _, _, _, _, rfl⟩ := h; rfl

theorem dlu (h : s.FabStep u) : u.dlu = s.dlu := by
  obtain ⟨_, _, _, _, _, _, _, _, rfl⟩ := h; rfl

end State.FabStep

variable (s : State)

theorem State.fabStep_modFab (f : Fab → Fab) : s.FabStep (s.modFab f) :=
  ⟨s.threads, s.cores, s.pumps, s.links, s.err.ents, s.freeCtr, s.out, _, rfl⟩

theorem State.fabStep_threads (ts : Tab Thread) : s.FabStep { s with threads := ts } :=
  ⟨ts, s.cores, s.pumps, s.links, s.err.ents, s.freeCtr, s.out, s.fab, rfl⟩

theorem State.fabStep_setThread (c t x) : s.FabStep (s.setThread c t x) := s.fabStep_threads _

theorem State.fabStep_releaseMem (c) : s.FabStep (s.releaseMem c) := by
  obtain ⟨⟨ts, h⟩, -⟩ := s.releaseMem_cases c 0
  rw [h]
  exact s.fabStep_threads ts

theorem State.fabStep_threadError (c t cause unit dest pc) : s.FabStep (s.threadError c t cause unit dest pc) := by
  obtain ⟨ts, cs, h⟩ := s.threadError_cases c t cause unit dest pc
  rw [h]
  exact ⟨ts, cs, s.pumps, s.links, s.err.ents, s.freeCtr, s.out, s.fab, rfl⟩

theorem State.fabStep_perturb (tgt action place) : s.FabStep (s.perturb tgt action place).2 :=
  .of_linkStep (s.linkStep_perturbBy ..)

theorem State.fabStep_linkPut (l vc d) : s.FabStep (s.linkPut l vc d) := .of_linkStep (s.linkStep_linkPut ..)

/-! ## Requests -/

theorem State.fabStep_endMsg (c t id status) : s.FabStep (s.endMsg c t id status) := by
  unfold State.endMsg
  dsimp only
  split
  · exact .refl s
  · exact (s.fabStep_setThread ..).trans (.trans
      (.ite (State.fabStep_setThread ..) (State.fabStep_threadError ..)) (State.fabStep_releaseMem ..))

/-- The end of a request changes its owner. -/
theorem State.fabStep_endReq (q data status) : s.FabStep (s.endReq q data status) := by
  have h := s.fabStep_modFab fun f => { f with reqs := f.reqs.filter fun r => r.id != q.id }
  unfold State.endReq
  split
  · exact h.trans (State.fabStep_setThread ..)
  · exact h.trans (State.fabStep_endMsg ..)
  · exact h.trans ⟨s.threads, s.cores, _, s.links, s.err.ents, s.freeCtr, s.out, _, rfl⟩

theorem State.fabStep_trySend (earlier q) : s.FabStep (s.trySend earlier q) := by
  unfold State.trySend
  dsimp only
  generalize (if (q.node == s.fab.nodeId) = true then 48 else _) = l
  generalize (if (q.node == s.fab.nodeId) = true then 0 else portOf l) = port
  refine .ite (.refl s) (.ite ((s.fabStep_modFab _).trans (State.fabStep_endReq ..)) ?_)
  split
  · exact .refl s
  · have hit := (s.fabStep_perturb 6 1 port).trans (State.fabStep_perturb _ 6 4 port)
    exact .ite (.refl s) (.ite (hit.trans ((State.fabStep_modFab ..).trans (State.fabStep_modFab ..)))
      (.ite (hit.trans ((State.fabStep_modFab ..).trans (State.fabStep_linkPut ..)))
        (hit.trans ((State.fabStep_modFab ..).trans ((State.fabStep_perturb ..).trans (State.fabStep_linkPut ..))))))

theorem State.fabStep_kickFrom (done qs : List FabReq) : s.FabStep (s.kickFrom done qs) := by
  induction qs generalizing s done with
  | nil => exact .refl s
  | cons q qs ih =>
    rw [State.kickFrom]
    exact (State.FabStep.ite (.refl s) (s.fabStep_trySend ..)).trans (ih ..)

theorem State.fabStep_freeSlot (q) : s.FabStep (s.freeSlot q) := by
  unfold State.freeSlot
  split
  · exact .ite ((s.fabStep_setThread ..).trans (State.fabStep_releaseMem ..)) (.refl s)
  · exact .refl s

theorem State.fabStep_hubAccept : s.FabStep s.hubAccept := by
  unfold State.hubAccept
  exact .ite (.refl s) ((s.fabStep_modFab _).trans (.foldl _ State.fabStep_freeSlot _ _))

theorem State.fabStep_kick : s.FabStep s.kick := by
  rw [State.kick_eq]
  exact .ite (s.fabStep_hubAccept.trans (State.fabStep_kickFrom ..)) s.fabStep_hubAccept

/-! ## Packets that go on, wait, or are lost -/

theorem State.fabStep_sendRsp (p) : s.FabStep (s.sendRsp p) := by
  unfold State.sendRsp
  exact .ite (s.fabStep_linkPut ..) (.ite (s.fabStep_modFab _) (.ite (s.fabStep_modFab _) (s.fabStep_linkPut ..)))

theorem State.fabStep_losePacket (p) : s.FabStep (s.losePacket p) := by
  have counted : s.FabStep s.countDrop := s.fabStep_modFab _
  unfold State.losePacket
  have answered (q) : s.FabStep (s.countDrop.sendRsp q) := counted.trans (State.fabStep_sendRsp ..)
  refine .ite counted (.ite ?_ (.ite (answered _) (answered _)))
  split
  · exact counted.trans ((State.fabStep_modFab ..).trans (State.fabStep_endReq ..))
  · exact counted

theorem State.fabStep_routePacket (src p) : s.FabStep (s.routePacket src p) := by
  unfold State.routePacket
  exact .ite (.ite (.refl s) (s.fabStep_linkPut ..)) (.ite (s.fabStep_modFab _) (.ite (s.fabStep_losePacket p)
    ((s.fabStep_perturb ..).trans (State.fabStep_linkPut ..))))

theorem State.fabStep_loseAll (ps) : s.FabStep (s.loseAll ps) := by
  refine .foldl _ (fun s e => ?_) _ s
  split
  · exact s.fabStep_losePacket _
  · exact s.fabStep_modFab _

theorem State.fabStep_reroute (ps) : s.FabStep (s.reroute ps) := by
  refine .foldl _ (fun s e => ?_) _ s
  split
  · exact .ite (.refl s) (.ite (s.fabStep_modFab _) (s.fabStep_routePacket ..))
  · exact s.fabStep_modFab _

end Sys2Proof.Machine
end

section
/-! SUPPORT. The stop of the module leaves the registers of the bundles (09 R283, R287; 14 R449): what the links that go
dark, the buckets on them and the transfers in host pumps change is neither a bundle nor the DEV block. -/

namespace Sys2Proof.Machine

/-- `u` has the bundles and the DEV block of `s`. -/
structure State.HubKept (s u : State) : Prop where
  bundles : u.bundles = s.bundles
  dev : u.dev = s.dev

namespace State.HubKept

variable {s u v : State}

theorem refl (s : State) : s.HubKept s := ⟨rfl, rfl⟩

theorem trans (h : s.HubKept u) (h' : u.HubKept v) : s.HubKept v := ⟨h'.bundles.trans h.bundles, h'.dev.trans h.dev⟩

theorem ite {p : Prop} [Decidable p] (h : s.HubKept u) (h' : s.HubKept v) : s.HubKept (if p then u else v) := by
  split <;> assumption

theorem foldl {α : Type} (f : State → α → State) (hf : ∀ s a, State.HubKept s (f s a)) (l : List α) (s : State) :
    s.HubKept (l.foldl f s) := by
  induction l generalizing s with
  | nil => exact .refl s
  | cons a l ih => exact (hf s a).trans (ih _)

theorem of_fabStep (h : s.FabStep u) : s.HubKept u := by
  obtain ⟨_, _, _, _, _, _, _, _, rfl⟩ := h; exact ⟨rfl, rfl⟩

theorem of_memStep (h : s.MemStep u) : s.HubKept u := by
  obtain ⟨_, _, _, _, _, _, _, rfl, -⟩ := h; exact ⟨rfl, rfl⟩

end State.HubKept

variable (s : State)

theorem State.hubKept_modFab (f) : s.HubKept (s.modFab f) := .of_fabStep (s.fabStep_modFab f)

theorem State.hubKept_setLink (l x) : s.HubKept (s.setLink l x) := ⟨rfl, rfl⟩

theorem State.hubKept_modCol (f) : s.HubKept (s.modCol f) := ⟨rfl, rfl⟩

theorem State.hubKept_notify (kind inj place code detail) : s.HubKept (s.notify kind inj place code detail) :=
  .of_memStep (s.memStep_notify ..)

theorem State.hubKept_opComplete (o) : s.HubKept (s.opComplete o) := by
  obtain ⟨ts, cs, h⟩ := s.opComplete_cases o
  rw [h]
  exact ⟨rfl, rfl⟩

theorem State.hubKept_opFail (o cause dest) : s.HubKept (s.opFail o cause dest) := by
  obtain ⟨ts, cs, h⟩ := s.opFail_cases o cause dest
  rw [h]
  exact ⟨rfl, rfl⟩

/-! ## Buckets that lose a link (R399, R400) -/

theorem State.hubKept_endContrib (b late x) : s.HubKept (s.endContrib b late x) := by
  have h := (State.HubKept.of_memStep (s.memStep_writeMem x.cist (b.record late x) 2)).trans
    (State.hubKept_modCol _ fun y => { y with
      digests := Tab.set 0 y.digests y.digestNext.toNat
        (b.digest late ((s.writeMem x.cist (b.record late x) 2).2.dieOf x.core) x)
      digestNext := y.digestNext + 1 })
  unfold State.endContrib
  dsimp only
  split
  · exact h.trans (State.hubKept_opComplete ..)
  · exact h

theorem State.hubKept_endBucket (b late) : s.HubKept (s.endBucket b late) := by
  unfold State.endBucket
  exact (s.hubKept_modCol _).trans (.foldl _ (fun s x => s.hubKept_endContrib b late x) _ _)

theorem State.hubKept_abortOne (b) : s.HubKept (s.abortOne b) := by
  unfold State.abortOne
  exact .trans (.foldl _ (fun s l => .of_fabStep (.of_linkStep (s.linkStep_sendStep ..))) _ s)
    (State.hubKept_endBucket ..)

theorem State.hubKept_stepLate (g k) : s.HubKept (s.stepLate g k) := by
  unfold State.stepLate
  dsimp only
  obtain ⟨ts, h⟩ := State.stepRelease_cases (s := s.setGroup g.toNat _) (g := g.toNat) (· == k) 1
  rw [h]
  exact ⟨rfl, rfl⟩

theorem State.hubKept_abortBucket (tag) : s.HubKept (s.abortBucket tag) := by
  unfold State.abortBucket State.abortStep
  split
  · exact .refl s
  · exact .ite (.trans (.foldl _ State.hubKept_abortOne _ s) (State.hubKept_stepLate ..)) (s.hubKept_abortOne _)

/-! ## Links that go dark (R328, R329) -/

theorem State.hubKept_routesWithout (l) : s.HubKept (s.routesWithout l) := by
  unfold State.routesWithout
  exact ((s.hubKept_modFab _).trans (State.hubKept_notify ..)).trans (.of_fabStep (State.fabStep_kick _))

theorem State.hubKept_leaveExch (l) : s.HubKept (s.leaveExch l) := by
  unfold State.leaveExch
  exact .ite (s.hubKept_modFab _) (.refl s)

theorem State.hubKept_colLinkLost (l) : s.HubKept (s.colLinkLost l) := .foldl _ State.hubKept_abortBucket _ s

theorem State.hubKept_linkGone (l x reason) : s.HubKept (s.linkGone l x reason) := by
  unfold State.linkGone
  dsimp only
  refine .trans ?_ (State.hubKept_colLinkLost ..)
  refine .trans ?_ (.of_fabStep
    (((State.fabStep_loseAll ..).trans (State.fabStep_reroute ..)).trans (State.fabStep_kick _)))
  exact ((s.hubKept_leaveExch l).trans (State.hubKept_setLink ..)).trans (State.hubKept_routesWithout ..)

theorem State.hubKept_breach (l reason) : s.HubKept (s.breach l reason) :=
  ((s.hubKept_linkGone ..).trans (State.hubKept_setLink ..)).trans (State.hubKept_notify ..)

/-! ## Transfers in host pumps (13 R423) -/

theorem State.hubKept_pumpWrites (muted : Bool) (cls : Nat) (l : List OutW) :
    s.HubKept (State.pumpWrites State.writeMem muted cls s l).2 := by
  induction l generalizing s with
  | nil => exact .refl s
  | cons w l ih =>
    have written := State.HubKept.of_memStep (s.memStep_writeMem w.addr w.data cls)
    unfold State.pumpWrites
    split <;> rename_i h <;> rw [h] at written
    · exact written.trans (ih _)
    · rw [apply_ite Prod.snd]
      exact .ite (written.trans (ih _)) written

theorem State.hubKept_failAt (c x) : s.HubKept (s.failAt c x).2 := by
  unfold State.failAt
  split
  · exact .refl s
  · next a e =>
    obtain ⟨f, h⟩ := s.destVal_cases c a
    dsimp only
    rw [h]
    exact ⟨rfl, rfl⟩

theorem State.hubKept_endRun (r) : s.HubKept (s.endRun State.writeMem r) := by
  have hosted : s.HubKept ((s.leavePump r).putHost r.hostWrites) := by
    rw [State.putHost_eq]
    exact ⟨rfl, rfl⟩
  rw [State.endRun]
  simp only [← State.leavePump_eq, State.putHost_fold]
  generalize (s.leavePump r).putHost r.hostWrites = u at hosted ⊢
  generalize hw : State.pumpWrites State.writeMem _ _ u _ = w
  generalize hf : w.2.failAt _ w.1 = f
  have failed : s.HubKept f.2 := by
    rw [← hf, ← hw]
    exact hosted.trans ((u.hubKept_pumpWrites ..).trans (State.hubKept_failAt ..))
  have ready (q n st c d) : s.HubKept (f.2.cmdReady q n st c d) := failed.trans ⟨rfl, rfl⟩
  split
  · refine .trans ?_ (State.hubKept_opComplete ..)
    split
    exacts [ready .., ready .., failed]
  · refine .trans ?_ (State.hubKept_opFail ..)
    split
    exacts [ready .., ready .., failed]
  · split
    exacts [ready .., ready .., failed]

theorem State.hubKept_abortRun (r) : s.HubKept (s.abortRun r) :=
  (State.HubKept.of_fabStep (.of_linkStep s.linkStep_takeFree)).trans (State.hubKept_endRun ..)

theorem State.hubKept_abortThreadPumps : s.HubKept s.abortThreadPumps := .foldl _ State.hubKept_abortRun _ s

/-! ## The stop -/

theorem State.hubKept_holdDies : s.HubKept s.holdDies := by
  unfold State.holdDies
  refine .foldl _ (fun _ _ => ?_) _ s
  exact ⟨rfl, rfl⟩

theorem State.stopHub_spec (reason b) :
    (s.stopHub reason b).bundles = s.bundles ∧ (s.stopHub reason b).dev.stopped = true := by
  unfold State.stopHub
  split
  · next h => exact ⟨rfl, h⟩
  · have held (u : State) (d : Nat) : u.HubKept (u.holdDies.notify 6 false 0 reason.toNat d) :=
      u.hubKept_holdDies.trans (State.hubKept_notify ..)
    exact ⟨(held ..).bundles.trans s.hubKept_abortThreadPumps.bundles, congrArg Dev.stopped (held ..).dev⟩

/-- The stop keeps the registers of the bundles. -/
theorem State.stopModule_spec (reason b) :
    (s.stopModule reason b).bundles = s.bundles ∧ (s.stopModule reason b).dev.stopped = true := by
  unfold State.stopModule
  split
  · next h => exact ⟨rfl, h⟩
  · obtain ⟨hbundles, hstopped⟩ := s.stopHub_spec reason b
    have dark : (s.stopHub reason b).HubKept ((List.range 48).foldl
        (fun s l => if (s.link l).state == .breached then s else s.breach l 0x36) (s.stopHub reason b)) :=
      .foldl _ (fun s l => .ite (.refl s) (s.hubKept_breach ..)) _ _
    exact ⟨dark.bundles.trans hbundles, (congrArg Dev.stopped dark.dev).trans hstopped⟩

end Sys2Proof.Machine
end

section
/-! SUPPORT. Lanes of the interposer: failure, retirement, replacement and width steps (09 R278 to R283). -/

namespace Sys2Proof.Machine

variable {s : State} {d i p l : Nat}

/-! ## A lane loses lock -/

/-- A lane of a trained bundle that carries traffic is failed. -/
theorem exec_laneLossOfLock (hd : d < 4) (hi : i < 2) (hp : p < 272) (hl : ((s.bundle d).dir i).laneOn p = some l)
    (ht : (s.bundle d).trained = true) : exec (.laneLossOfLock d i p) s = .next (s.failLane d i p) := by
  refine (if_pos ⟨hd, hi, hp⟩).trans (if_pos ?_)
  rw [ht, hl]
  rfl

/-- During a changeover of the lasers the event waits for its end (R286). -/
theorem State.failLane_of_changing (hf : ((s.bundle d).dir i).isFailed p = false) (hc : s.dlu.changing = true) :
    s.failLane d i p = { s with dlu := { s.dlu with later := s.dlu.later ++ [(d, i, p)] } } := by
  rw [State.failLane, hf, hc]
  rfl

/-- While 192 good lanes remain the lane waits its turn for a replacement or a width step (R282). -/
theorem State.failLane_of_good (hf : ((s.bundle d).dir i).isFailed p = false) (hc : s.dlu.changing = false)
    (hgood : 192 ≤ { (s.bundle d).dir i with failed := Tab.set false ((s.bundle d).dir i).failed p true : Dir }.good)
    (hl : ((s.bundle d).dir i).laneOn p = some l) : s.failLane d i p =
      (s.modDir d i fun r => { r with failed := Tab.set false r.failed p true }).modDir d i fun r =>
        { r with events := (r.events.filter fun e => e.lane != l) ++ [⟨l, true⟩] } := by
  have few : ¬ (((s.modDir d i fun r =>
      { r with failed := Tab.set false r.failed p true }).bundle d).dir i).good < 192 := by
    rw [State.bundle_modDir, Bundle.dir_modDir]
    exact Nat.not_lt.2 hgood
  rw [State.failLane, hf, hc, hl]
  dsimp only
  rw [if_neg Bool.false_ne_true, if_neg Bool.false_ne_true, if_neg few]

theorem laneLossOfLock_good (hd : d < 4) (hi : i < 2) (hp : p < 272) (hl : ((s.bundle d).dir i).laneOn p = some l)
    (ht : (s.bundle d).trained = true) (hf : ((s.bundle d).dir i).isFailed p = false) (hc : s.dlu.changing = false)
    (hgood : 192 ≤ { (s.bundle d).dir i with failed := Tab.set false ((s.bundle d).dir i).failed p true : Dir }.good) :
    ∃ u, exec (.laneLossOfLock d i p) s = .next u ∧ ((u.bundle d).dir i).isFailed p = true ∧ u.mem = s.mem ∧
      ((u.bundle d).dir i).events = (((s.bundle d).dir i).events.filter fun e => e.lane != l) ++ [⟨l, true⟩] := by
  refine ⟨_, exec_laneLossOfLock hd hi hp hl ht, ?_⟩
  rw [State.failLane_of_good hf hc hgood hl, State.bundle_modDir, Bundle.dir_modDir, State.bundle_modDir,
    Bundle.dir_modDir]
  exact ⟨Tab.get_set_self false ((s.bundle d).dir i).failed p true, rfl, rfl⟩

/-! ## Margins and offline retraining -/

/-- A working lane below MARGIN_MIN waits to be retired while a spare exists and no event of it waits yet (R279). -/
theorem exec_laneMarginSample (hd : d < 4) (hi : i < 2) (hp : p < 272)
    (hl : ((s.bundle d).dir i).laneOn p = some l) (ht : (s.bundle d).trained = true) (m : BitVec 7) :
    exec (.laneMarginSample d i p m) s =
      let v := s.modDir d i fun r => { r with margin := Tab.set 0 r.margin p m }
      if m.toNat < (s.bundle d).marginMin.toNat ∧ ((s.bundle d).dir i).spares ≠ [] ∧
          ∀ e ∈ ((s.bundle d).dir i).events, e.lane ≠ l then
        .next (v.modDir d i fun r => { r with events := r.events ++ [⟨l, false⟩] })
      else .next v := by
  have fresh : ((s.bundle d).dir i).events.any (fun e => e.lane == l) = false ↔
      ∀ e ∈ ((s.bundle d).dir i).events, e.lane ≠ l := by simp
  refine (if_pos ⟨hd, hi, hp⟩).trans ?_
  dsimp only
  rw [hl]
  simp only [ht, fresh, true_and]

theorem laneMarginSample_spec (hd : d < 4) (hi : i < 2) (hp : p < 272)
    (hl : ((s.bundle d).dir i).laneOn p = some l) (ht : (s.bundle d).trained = true) (m : BitVec 7) :
    ∃ u, exec (.laneMarginSample d i p m) s = .next u ∧ Tab.get 0 ((u.bundle d).dir i).margin p = m ∧ u.mem = s.mem ∧
      ((u.bundle d).dir i).events =
        if m.toNat < (s.bundle d).marginMin.toNat ∧ ((s.bundle d).dir i).spares ≠ [] ∧
          (∀ e ∈ ((s.bundle d).dir i).events, e.lane ≠ l) then ((s.bundle d).dir i).events ++ [⟨l, false⟩]
        else ((s.bundle d).dir i).events := by
  rw [exec_laneMarginSample hd hi hp hl ht]
  dsimp only
  split
  · refine ⟨_, rfl, ?_, rfl, ?_⟩ <;> rw [State.bundle_modDir, Bundle.dir_modDir, State.bundle_modDir, Bundle.dir_modDir]
    exact Tab.get_set_self ..
  · refine ⟨_, rfl, ?_, rfl, ?_⟩ <;> rw [State.bundle_modDir, Bundle.dir_modDir]
    exact Tab.get_set_self ..

/-- A lane that passes its offline retraining is good again. -/
theorem exec_laneOfflineRetrainDone (hd : d < 4) (hi : i < 2) (hp : p < 272) (hr : p ∈ ((s.bundle d).dir i).retrain) :
    exec (.laneOfflineRetrainDone d i p true) s =
      .next (s.modDir d i fun r => { r with retrain := r.retrain.filter (· != p) }) :=
  (if_pos ⟨hd, hi, hp⟩).trans (if_pos (List.contains_iff_mem.2 hr))

/-! ## Replacement -/

/-- A logical lane switched to physical lane `q` sits there. -/
theorem Dir.phys_map (r : Dir) (l q : Nat) :
    { r with map := Tab.set 0 r.map l (if q = l then 0 else q + 1) : Dir }.phys l = q := by
  unfold Dir.phys
  dsimp only
  rw [Tab.get_set_self]
  by_cases h : q = l
  · rw [if_pos h, h]
  · rw [if_neg h]

/-- The direction after logical lane `l` has moved to spare `q`: a lane that has not failed is retrained offline. -/
def Dir.replace (r : Dir) (e : LaneEv) (rest : List LaneEv) (q : Nat) : Dir := { r with
  events := rest
  map := Tab.set 0 r.map e.lane (if q = e.lane then 0 else q + 1)
  retrain := if e.failed then r.retrain else r.retrain ++ [r.phys e.lane] }

/-- The first event in turn moves its lane to one of the spares (R280, R282). -/
theorem exec_laneReplacement {e : LaneEv} {rest : List LaneEv} (hd : d < 4) (hi : i < 2)
    (he : ((s.bundle d).dir i).events = e :: rest) (hl : e.lane < 256) (hc : s.dlu.changing = false)
    (hs : ((s.bundle d).dir i).spares ≠ []) : ∃ q ∈ ((s.bundle d).dir i).spares, exec (.laneReplacement d i e.lane) s =
      .next ((s.takeFree.2.modDir d i fun r => r.replace e rest q).modBundle d fun b =>
        { b with swaps := satInc b.swaps }) := by
  obtain ⟨p, ps, hps⟩ := List.exists_cons_of_ne_nil hs
  have stays : ¬ (e.lane ≠ e.lane ∨ s.dlu.changing = true) := by simp [hc]
  refine ⟨(p :: ps).getD ((Config.freeWord s.takeFree.1).toNat % (ps.length + 1)) p, ?_, ?_⟩
  · have hlt : (Config.freeWord s.takeFree.1).toNat % (ps.length + 1) < (p :: ps).length :=
      Nat.mod_lt _ (Nat.succ_pos _)
    rw [hps, List.getD_eq_getElem _ _ hlt]
    exact List.getElem_mem hlt
  · refine (if_pos ⟨hd, hi, hl⟩).trans ?_
    dsimp only
    rw [he]
    dsimp only
    rw [if_neg stays, hps]
    rfl

theorem laneReplacement_spec {e : LaneEv} {rest : List LaneEv} (hd : d < 4) (hi : i < 2)
    (he : ((s.bundle d).dir i).events = e :: rest) (hl : e.lane < 256) (hc : s.dlu.changing = false)
    (hs : ((s.bundle d).dir i).spares ≠ []) : ∃ u q, exec (.laneReplacement d i e.lane) s = .next u ∧
      q ∈ ((s.bundle d).dir i).spares ∧ ((u.bundle d).dir i).phys e.lane = q ∧ ((u.bundle d).dir i).events = rest ∧
      (u.bundle d).swaps = satInc (s.bundle d).swaps ∧ ((u.bundle d).dir i).retrain =
        if e.failed then ((s.bundle d).dir i).retrain
        else ((s.bundle d).dir i).retrain ++ [((s.bundle d).dir i).phys e.lane] := by
  obtain ⟨q, hq, hexec⟩ := exec_laneReplacement hd hi he hl hc hs
  refine ⟨_, q, hexec, hq, ?_⟩
  generalize hv : s.takeFree.2.modDir d i _ = v
  have hb : v.bundle d = (s.bundle d).modDir i fun r => r.replace e rest q := by
    rw [← hv]
    exact State.bundle_modDir ..
  have hdir : (v.bundle d).dir i = ((s.bundle d).dir i).replace e rest q := by rw [hb, Bundle.dir_modDir]
  have hswaps : (v.bundle d).swaps = (s.bundle d).swaps := by rw [hb, Bundle.modDir_swaps]
  rw [State.bundle_modBundle]
  exact ⟨(congrArg (Dir.phys · e.lane) hdir).trans (Dir.phys_map ..), congrArg Dir.events hdir, congrArg satInc hswaps,
    congrArg Dir.retrain hdir⟩

/-! ## Width steps -/

/-- The direction without lane group `g`: its group is off and holds nothing, and no event of its lanes waits (R281). -/
def Dir.narrow (r : Dir) (g : Nat) : Dir := { r.modGrp g (fun x => { x with state := .off, held := [] }) with
  off := r.off ||| (1#16 <<< g)
  events := r.events.filter fun e => e.lane / 16 != g }

theorem Dir.grp_narrow (r : Dir) (g : Nat) : (r.narrow g).grp g = { r.grp g with state := .off, held := [] } :=
  r.grp_modGrp g fun x => { x with state := .off, held := [] }

/-- Lane group `g` is removed: the packets that it holds wait for room in others, and the width step counts. -/
def State.narrowed (s : State) (d i g : Nat) : State :=
  ((s.modDir d i fun r => r.narrow g).pilMove d i (((s.bundle d).dir i).grp g).held).modBundle d fun b =>
    { b with steps := satInc b.steps }

theorem exec_widthStep {e : LaneEv} {rest : List LaneEv} (hd : d < 4) (hi : i < 2)
    (he : ((s.bundle d).dir i).events = e :: rest) (hf : e.failed = true) (hc : s.dlu.changing = false)
    (hs : ((s.bundle d).dir i).spares = []) : exec (.widthStep d i) s =
      let v := s.narrowed d i (e.lane / 16)
      .next (v.notify 5 false (d + i * 4) 0 (v.pilStatus d)) := by
  refine (if_pos ⟨hd, hi⟩).trans ?_
  dsimp only
  rw [he]
  dsimp only
  rw [hf, hs, hc]
  rfl

/-- The packets that wait for room change neither the removed group nor the events. -/
theorem State.narrowed_spec (s : State) (d i g : Nat) :
    let u := s.narrowed d i g
    ((u.bundle d).dir i).off = ((s.bundle d).dir i).off ||| (1#16 <<< g) ∧ (((u.bundle d).dir i).grp g).state = .off ∧
      (∀ f ∈ ((u.bundle d).dir i).events, f.lane / 16 ≠ g) ∧ (u.bundle d).steps = satInc (s.bundle d).steps := by
  unfold State.narrowed
  generalize hn : s.modDir d i _ = n
  have hb : n.bundle d = (s.bundle d).modDir i fun r => r.narrow g := by rw [← hn, State.bundle_modDir]
  have hnarrow : (n.bundle d).dir i = ((s.bundle d).dir i).narrow g := by rw [hb, Bundle.dir_modDir]
  have moved := n.resends_pilMove d i (((s.bundle d).dir i).grp g).held
  generalize n.pilMove d i _ = w at moved
  have hgrp := moved.parked g (by rw [hnarrow, Dir.grp_narrow]; exact GState.noConfusion)
  obtain ⟨_, _, hregs⟩ := moved.registers
  obtain ⟨gs, mv, hdir⟩ := moved.dir
  rw [hnarrow] at hdir
  dsimp only
  rw [State.bundle_modBundle]
  have hsteps : (w.bundle d).steps = (s.bundle d).steps := by
    rw [hregs, hb]
    exact Bundle.modDir_steps ..
  refine ⟨congrArg Dir.off hdir, ?_, fun f hmem => ?_, congrArg satInc hsteps⟩
  · exact congrArg Grp.state (hgrp.trans ((congrArg (Dir.grp · g) hnarrow).trans (Dir.grp_narrow ..)))
  · have hmem' : f ∈ ((w.bundle d).dir i).events := hmem
    rw [hdir] at hmem'
    exact bne_iff_ne.1 (List.mem_filter.1 hmem').2

/-- A width step, and its notification. -/
theorem widthStep_spec {e : LaneEv} {rest : List LaneEv} (hd : d < 4) (hi : i < 2)
    (he : ((s.bundle d).dir i).events = e :: rest) (hf : e.failed = true) (hc : s.dlu.changing = false)
    (hs : ((s.bundle d).dir i).spares = []) : ∃ u, exec (.widthStep d i) s = .next u ∧
      ((u.bundle d).dir i).off = ((s.bundle d).dir i).off ||| (1#16 <<< (e.lane / 16)) ∧
      (((u.bundle d).dir i).grp (e.lane / 16)).state = .off ∧
      (∀ f ∈ ((u.bundle d).dir i).events, f.lane / 16 ≠ e.lane / 16) ∧
      (u.bundle d).steps = satInc (s.bundle d).steps ∧ u.err.pend.getLsbD 5 = true := by
  refine ⟨_, exec_widthStep hd hi he hf hc hs, ?_⟩
  obtain ⟨hoff, hgrp, hevents, hsteps⟩ := s.narrowed_spec d i (e.lane / 16)
  have hu : ((s.narrowed d i (e.lane / 16)).notify 5 false (d + i * 4) 0
      ((s.narrowed d i (e.lane / 16)).pilStatus d)).bundle d = (s.narrowed d i (e.lane / 16)).bundle d :=
    congrArg (Tab.get Bundle.init · d) (State.hubKept_notify ..).bundles
  rw [hu]
  refine ⟨hoff, hgrp, hevents, hsteps, ?_⟩
  rw [State.pend_notify, BitVec.getLsbD_or]
  simp

end Sys2Proof.Machine
end

section
/-! SUPPORT. The lasers of the interposer and PIL_CTL (09 R285 to R287, R292), and the statement about the health of
lanes. -/

namespace Sys2Proof.Machine

variable {s : State} {d i : Nat}

/-! ## A changeover of the lasers -/

theorem exec_dluChangeover (hc : s.dlu.changing = false) (hs : s.dlu.spareOk = true)
    (ht : ∃ d < 4, (s.bundle d).trained = true) :
    exec .dluChangeover s = .next { s with dlu := { s.dlu with changing := true } } := by
  have htrained : (List.range 4).any (fun d => (s.bundle d).trained) = true := by
    obtain ⟨d, hd, h⟩ := ht
    exact List.any_eq_true.2 ⟨d, List.mem_range.2 hd, h⟩
  refine if_neg ?_
  rw [hc, hs, htrained]
  decide

/-- What a walk over changes that keep part `π` of the state keeps. -/
theorem State.part_foldl {α β : Type} (π : State → β) {f : State → α → State} (hf : ∀ s a, π (f s a) = π s) (l : List α)
    (s : State) : π (l.foldl f s) = π s := by
  induction l generalizing s with
  | nil => rfl
  | cons a l ih => rw [List.foldl_cons, ih, hf]

/-- Every group of every bundle that can replay sends what it holds again (R285). -/
def State.replayAll (s : State) : State :=
  (List.range 4).foldl (fun s d =>
    (List.range 2).foldl (fun s i => (List.range 16).foldl (fun s g =>
      let x := ((s.bundle d).dir i).grp g
      if x.held.isEmpty || !x.alive then s
      else x.held.foldl (fun s p => s.emit (.pil d i g p))
        (s.modBundle d fun b => { b with replays := satInc16 b.replays })) s)
      (s.modBundle d fun b => { b with dluChg := satInc b.dluChg })) s

theorem State.replayAll_kept (s : State) : (s.replayAll.mem, s.replayAll.dlu) = (s.mem, s.dlu) := by
  refine State.part_foldl (fun s => (s.mem, s.dlu)) (fun s d => ?_) _ s
  refine (State.part_foldl (fun s => (s.mem, s.dlu)) (fun s i => ?_) _ _).trans rfl
  refine State.part_foldl (fun s => (s.mem, s.dlu)) (fun s g => ?_) _ s
  dsimp only
  split
  · rfl
  · rw [State.foldl_emit]
    rfl

/-- At the end of a changeover during which no lane failed the other unit is the active one, and every group replays. -/
theorem exec_dluChangeoverDone (hc : s.dlu.changing = true) (hl : s.dlu.later = []) :
    exec (.dluChangeoverDone []) s = .next ({ s with dlu := s.dlu.swapped } : State).replayAll.kick := by
  change execDluChangeoverDone [] s = _
  rw [execDluChangeoverDone, if_pos List.all_nil, hc, if_neg (by decide), hl]
  dsimp only
  rw [List.append_nil, List.foldl_nil]
  rfl

theorem dluChangeoverDone_spec (hc : s.dlu.changing = true) (hl : s.dlu.later = []) :
    ∃ u, exec (.dluChangeoverDone []) s = .next u ∧ u.dlu.active = (!s.dlu.active) ∧ u.dlu.changing = false ∧
      u.mem = s.mem := by
  obtain ⟨hmem, hdlu⟩ := Prod.mk.inj (State.replayAll_kept { s with dlu := s.dlu.swapped })
  have kicked := ({ s with dlu := s.dlu.swapped } : State).replayAll.fabStep_kick
  have hdlu' := kicked.dlu.trans hdlu
  exact ⟨_, exec_dluChangeoverDone hc hl, by rw [hdlu']; rfl, by rw [hdlu']; rfl, kicked.mem.trans hmem⟩

/-! ## The failure of both units -/

/-- A change of every bundle in a list leaves each of them with what the change brings about. -/
theorem State.bundle_foldl_modBundle {P : Bundle → Prop} {f : Bundle → Bundle} (hf : ∀ b, P (f b)) (l : List Nat)
    (s : State) (h : d ∈ l ∨ P (s.bundle d)) : P ((l.foldl (fun s d => s.modBundle d f) s).bundle d) := by
  induction l generalizing s with
  | nil => exact h.resolve_left (List.not_mem_nil)
  | cons a l ih =>
    refine ih _ ?_
    by_cases ha : d = a
    · right
      rw [ha, State.bundle_modBundle]
      exact hf _
    · refine h.imp (fun hd => (List.mem_cons.1 hd).resolve_left ha) fun hP => ?_
      dsimp only
      rw [State.modBundle_eq, State.bundle_setBundle_ne _ _ _ ha]
      exact hP

/-- The active unit fails and the other is not good: every bundle is unusable and the module stops (R287). -/
theorem dluFailure_spec (hs : s.dlu.spareOk = false) : ∃ u, exec .dluFailure s = .next u ∧ u.dev.stopped = true ∧
    ∀ d < 4, (u.bundle d).unusable = true ∧ (u.bundle d).reason = 0x21 := by
  refine ⟨_, if_neg (by rw [hs]; exact Bool.false_ne_true), ?_⟩
  generalize hv : List.foldl _ _ (List.range 4) = v
  have hfailed (d : Nat) (hd : d < 4) : (v.bundle d).unusable = true ∧ (v.bundle d).reason = 0x21 := by
    rw [← hv]
    exact State.bundle_foldl_modBundle (P := fun b => b.unusable = true ∧ b.reason = 0x21) (fun _ => ⟨rfl, rfl⟩) _ _
      (.inl (List.mem_range.2 hd))
  obtain ⟨hbundles, hstopped⟩ := v.takeFree.2.stopModule_spec 0x21 ((Config.freeWord v.takeFree.1).toNat % 4)
  refine ⟨hstopped, fun d hd => ?_⟩
  rw [show (v.stopModuleAny 0x21).bundle d = v.bundle d from congrArg (Tab.get Bundle.init · d) hbundles]
  exact hfailed d hd

/-! ## PIL_CTL -/

/-- GO set on a bundle whose GO is 0 (R292, R440). -/
theorem Bundle.writeCtl_go {b : Bundle} {w : BitVec 32} (hw : w.getLsbD 0 = true) (hb : b.go = false) : b.writeCtl w =
    let n := w.extractLsb' 8 8
    let m := if b.unlocked then w.extractLsb' 16 8 else b.marginMin
    if n = 0 then { b with replayLimit := n, marginMin := m, reason := 0x23 }
    else if b.trained then { b with replayLimit := n, marginMin := m, go := true }
    else { b with replayLimit := n, marginMin := m, reason := 0x24 } := by
  rw [Bundle.writeCtl, hb, hw]
  dsimp only
  rw [if_neg Bool.false_ne_true, if_neg (by decide)]
  cases b.trained <;> rfl

theorem exec_pilCtlGoSet (hd : d < 4) {w : BitVec 32} (hw : w.getLsbD 0 = true) :
    exec (.pilCtlGoSet d w) s = .next (s.setBundle d ((s.bundle d).writeCtl w)).kick := if_pos ⟨hd, hw⟩

/-! ## The statement -/

/-- Settles O44: losses of lock, margins, retraining, replacements, width steps, the lasers and PIL_CTL.GO. -/
theorem bundleLanes : Obligations.BundleLanes := by
  unfold Obligations.BundleLanes
  refine ⟨fun d i s hd hi => ⟨fun p l hp hl ht => ⟨fun hf hc => ?_, ?_, ?_⟩, fun p hp hr => ?_,
    fun e rest he hl hc => ⟨fun hs => ?_, fun hs hf => ?_⟩, fun w hw hgo => ?_⟩, fun s => ⟨?_, ?_, ?_⟩⟩
  · rw [exec_laneLossOfLock hd hi hp hl ht, State.failLane_of_changing hf hc]
  · exact laneLossOfLock_good hd hi hp hl ht
  · exact laneMarginSample_spec hd hi hp hl ht
  · refine ⟨_, exec_laneOfflineRetrainDone hd hi hp hr, ?_⟩
    dsimp only
    rw [State.bundle_modDir, Bundle.dir_modDir]
  · exact laneReplacement_spec hd hi he hl hc hs
  · exact widthStep_spec hd hi he hf hc hs
  · dsimp only
    rw [exec_pilCtlGoSet hd hw, Bundle.writeCtl_go hw hgo]
  · exact exec_dluChangeover
  · exact dluChangeoverDone_spec
  · exact dluFailure_spec

end Sys2Proof.Machine
end

section
/-! SUPPORT. Wavelengths and spare units: what each reads after a change of one of them, and a state in which no lane
event and no changeover waits, where the end of a changeover starts nothing (10 R303 to R308). -/

namespace Sys2Proof.Machine

variable (s : State)

/-! ## Wavelengths -/

theorem State.modWave_eq (n k : Nat) (f : Wave → Wave) : s.modWave n k f =
    s.modPort n fun p => { p with waves := Tab.set Wave.init p.waves k (f (p.wave k)) } := rfl

@[simp] theorem State.wave_modWave (n k : Nat) (f : Wave → Wave) :
    ((s.modWave n k f).port n).wave k = f ((s.port n).wave k) := by
  rw [State.modWave_eq, State.port_modPort]
  exact Tab.get_set_self ..

theorem State.wave_modWave_ne {n k m j : Nat} (f : Wave → Wave) (h : ¬ (m = n ∧ j = k)) :
    ((s.modWave n k f).port m).wave j = (s.port m).wave j := by
  rw [State.modWave_eq]
  by_cases hm : m = n
  · subst hm
    rw [State.port_modPort]
    exact Tab.get_set_ne _ _ _ _ fun hj => h ⟨rfl, hj⟩
  · rw [State.port_modPort_ne _ _ _ hm]

/-- A port keeps its other registers when a wavelength changes. -/
theorem State.port_modWave (n k m : Nat) (f : Wave → Wave) :
    ∃ t, (s.modWave n k f).port m = { s.port m with waves := t } := by
  rw [State.modWave_eq]
  by_cases hm : m = n
  · subst hm
    exact ⟨_, State.port_modPort ..⟩
  · exact ⟨(s.port m).waves, State.port_modPort_ne _ _ _ hm⟩

@[simp] theorem State.modWave_spareUnit (n k u : Nat) (f : Wave → Wave) :
    (s.modWave n k f).spareUnit u = s.spareUnit u := rfl

/-! ## Spare units -/

theorem State.modSpare_cases (u : Nat) (f : Spare → Spare) :
    ∃ x y, s.modSpare u f = { s with spare0 := x, spare1 := y } := by
  unfold State.modSpare
  split
  · exact ⟨_, s.spare1, rfl⟩
  · exact ⟨s.spare0, _, rfl⟩

@[simp] theorem State.spareUnit_modSpare (u : Nat) (f : Spare → Spare) :
    (s.modSpare u f).spareUnit u = f (s.spareUnit u) := by
  unfold State.modSpare State.spareUnit
  split
  · rfl
  · rfl

@[simp] theorem State.modSpare_port (u : Nat) (f : Spare → Spare) (n : Nat) :
    (s.modSpare u f).port n = s.port n := by
  obtain ⟨x, y, h⟩ := s.modSpare_cases u f; rw [h]; rfl

@[simp] theorem State.modSpare_links (u : Nat) (f : Spare → Spare) : (s.modSpare u f).links = s.links := by
  obtain ⟨x, y, h⟩ := s.modSpare_cases u f; rw [h]

@[simp] theorem State.modSpare_mem (u : Nat) (f : Spare → Spare) : (s.modSpare u f).mem = s.mem := by
  obtain ⟨x, y, h⟩ := s.modSpare_cases u f; rw [h]

@[simp] theorem State.modSpare_laserJournal (u : Nat) (f : Spare → Spare) :
    (s.modSpare u f).laserJournal = s.laserJournal := by
  obtain ⟨x, y, h⟩ := s.modSpare_cases u f; rw [h]

@[simp] theorem State.modWave_links (n k : Nat) (f : Wave → Wave) : (s.modWave n k f).links = s.links := rfl
@[simp] theorem State.modWave_mem (n k : Nat) (f : Wave → Wave) : (s.modWave n k f).mem = s.mem := rfl
@[simp] theorem State.modWave_laserJournal (n k : Nat) (f : Wave → Wave) :
    (s.modWave n k f).laserJournal = s.laserJournal := rfl

/-- A bit that is set in a mask. -/
theorem getLsbD_or_bit {w k : Nat} (x : BitVec w) (hk : k < w) : (x ||| (1#w <<< k)).getLsbD k = true := by
  simp [hk]

/-! ## Nothing waits -/

/-- No lane event waits for the end of a changeover, and no changeover for a spare unit. -/
structure State.Calm : Prop where
  events : ∀ n < 8, (s.port n).events = []
  queue0 : s.spare0.queue = []
  queue1 : s.spare1.queue = []

variable {s}

theorem State.lasersQuiet.calm (h : s.lasersQuiet) : s.Calm := ⟨fun n hn => (h.1 n hn).1, h.2.1, h.2.2⟩

theorem State.Calm.queue (h : s.Calm) (u : Nat) : (s.spareUnit u).queue = [] := by
  unfold State.spareUnit
  split
  · exact h.queue0
  · exact h.queue1

theorem State.Calm.modWave (h : s.Calm) (n k : Nat) (f : Wave → Wave) : (s.modWave n k f).Calm where
  events m hm := by
    obtain ⟨t, ht⟩ := s.port_modWave n k m f
    rw [ht]
    exact h.events m hm
  queue0 := h.queue0
  queue1 := h.queue1

theorem State.Calm.modSpare (h : s.Calm) (u : Nat)
    {f : Spare → Spare} (hf : ∀ x : Spare, x.queue = [] → (f x).queue = []) :
    (s.modSpare u f).Calm := by
  have events : ∀ n < 8, ((s.modSpare u f).port n).events = [] := fun n hn => by
    rw [State.modSpare_port]
    exact h.events n hn
  refine ⟨events, ?_, ?_⟩ <;> unfold State.modSpare <;> split
  exacts [hf _ h.queue0, h.queue0, h.queue1, hf _ h.queue1]

/-- A spare unit for which no changeover waits starts none. -/
theorem State.unitNext_of_empty {u : Nat} (h : (s.spareUnit u).queue = []) (fuel : Nat) :
    State.unitNext fuel s u = s := by
  cases fuel with
  | zero => rfl
  | succ fuel =>
    unfold State.unitNext
    dsimp only
    rw [h]
    split
    · next heq => cases heq
    · rfl

/-- The other registers of every port stay while the waiting lane events of one that has none are handled. -/
theorem State.port_noEvents {n : Nat} (h : (s.port n).events = []) (m : Nat) :
    (s.modPort n fun p => { p with events := [] }).port m = s.port m := by
  by_cases hm : m = n
  · rw [hm, State.port_modPort, ← h]
  · exact State.port_modPort_ne _ _ _ hm

/-- `u` is `s` with every port reading as it did. -/
structure State.SamePorts (s u : State) : Prop where
  rest : ∃ t, u = { s with ports := t }
  port : ∀ n, u.port n = s.port n

/-- With nothing waiting, the end of a changeover changes no register. -/
theorem State.Calm.laserSettle (h : s.Calm) : s.SamePorts s.laserSettle := by
  unfold State.laserSettle
  dsimp only
  generalize hu : (List.range 8).foldl _ s = u
  have hwalk : s.SamePorts u := by
    rw [← hu]
    refine List.foldlRecOn (motive := s.SamePorts) _ _ ⟨⟨s.ports, rfl⟩, fun _ => rfl⟩ fun v hv n hn => ?_
    split
    · exact hv
    · have hevents : (v.port n).events = [] := by rw [hv.port]; exact h.events n (List.mem_range.1 hn)
      rw [hevents]
      refine ⟨?_, fun m => (State.port_noEvents hevents m).trans (hv.port m)⟩
      obtain ⟨t, rfl⟩ := hv.rest
      exact ⟨_, rfl⟩
  have hqueue (x : Nat) : (u.spareUnit x).queue = [] := by
    obtain ⟨t, rfl⟩ := hwalk.rest
    exact h.queue x
  rw [State.unitNext_of_empty (hqueue 0), State.unitNext_of_empty (hqueue 1)]
  exact hwalk

end Sys2Proof.Machine
end

section
/-! SUPPORT. Walks over all wavelengths: the bias loop and the laser sample visit each of them once (10 R299, R300). -/

namespace Sys2Proof.Machine

/-- After the first `i` turns of a walk from `s`: the wavelengths visited read as `g` says, nothing else has changed. -/
structure State.Swept (s : State) (g : Nat → Nat → Wave) (i : Nat) (u : State) : Prop where
  rest : ∃ t, u = { s with ports := t }
  port : ∀ n, ∃ t, u.port n = { s.port n with waves := t }
  wave : ∀ n < 8, ∀ k < 16, (u.port n).wave k = if 16 * n + k < i then g n k else (s.port n).wave k

variable {s u : State} {g : Nat → Nat → Wave} {i : Nat}

theorem State.Swept.refl (s : State) (g) : s.Swept g 0 s where
  rest := ⟨s.ports, rfl⟩
  port n := ⟨(s.port n).waves, rfl⟩
  wave _ _ _ _ := rfl

/-- A turn that leaves its wavelength as it is. -/
theorem State.Swept.skip (h : s.Swept g i u) (hg : g (i / 16) (i % 16) = (s.port (i / 16)).wave (i % 16)) :
    s.Swept g (i + 1) u where
  rest := h.rest
  port := h.port
  wave n hn k hk := by
    rw [h.wave n hn k hk]
    by_cases hi : 16 * n + k = i
    · have hn' : i / 16 = n := by omega
      have hk' : i % 16 = k := by omega
      rw [hn', hk'] at hg
      rw [if_neg (by omega), if_pos (by omega), hg]
    · simp only [show 16 * n + k < i + 1 ↔ 16 * n + k < i by omega]

/-- A turn that writes its wavelength. -/
theorem State.Swept.put (h : s.Swept g i u) : s.Swept g (i + 1)
    (u.modWave (i / 16) (i % 16) fun _ => g (i / 16) (i % 16)) where
  rest := by
    obtain ⟨t, rfl⟩ := h.rest
    exact ⟨_, rfl⟩
  port n := by
    obtain ⟨t, ht⟩ := u.port_modWave (i / 16) (i % 16) n fun _ => g (i / 16) (i % 16)
    obtain ⟨t', ht'⟩ := h.port n
    exact ⟨t, by rw [ht, ht']⟩
  wave n hn k hk := by
    by_cases hi : 16 * n + k = i
    · have hn' : i / 16 = n := by omega
      have hk' : i % 16 = k := by omega
      rw [hn', hk', State.wave_modWave, if_pos (by omega)]
    · rw [State.wave_modWave_ne _ _ (by omega), h.wave n hn k hk]
      simp only [show 16 * n + k < i + 1 ↔ 16 * n + k < i by omega]

/-- A walk each of whose turns writes what `g` says of its wavelength, or leaves it where that is what it reads. -/
theorem State.Swept.walk {f : State → Nat → Nat → State} (hf : ∀ u n k, (∃ t, u = { s with ports := t }) →
      (∀ m, ∃ t, u.port m = { s.port m with waves := t }) → n < 8 → k < 16 → (u.port n).wave k = (s.port n).wave k →
      f u n k = u ∧ g n k = (s.port n).wave k ∨ f u n k = u.modWave n k fun _ => g n k) :
    s.Swept g 128 ((List.range 128).foldl (fun s i => f s (i / 16) (i % 16)) s) := by
  have turns (i : Nat) (hi : i ≤ 128) : s.Swept g i ((List.range i).foldl (fun s i => f s (i / 16) (i % 16)) s) := by
    induction i with
    | zero => exact .refl s g
    | succ i ih =>
      have h := ih (by omega)
      rw [List.range_succ, List.foldl_append, List.foldl_cons, List.foldl_nil]
      generalize (List.range i).foldl _ s = u at h
      have hread : (u.port (i / 16)).wave (i % 16) = (s.port (i / 16)).wave (i % 16) := by
        rw [h.wave _ (by omega) _ (by omega), if_neg (by omega)]
      obtain ⟨hsame, hg⟩ | hput := hf u (i / 16) (i % 16) h.rest h.port (by omega) (by omega) hread
      · rw [hsame]
        exact h.skip hg
      · rw [hput]
        exact h.put
  exact turns 128 le_rfl

/-- At the end of a walk every wavelength reads as `g` says. -/
theorem State.Swept.wave_eq (h : s.Swept g 128 u) {n k : Nat} (hn : n < 8) (hk : k < 16) :
    (u.port n).wave k = g n k := by
  rw [h.wave n hn k hk, if_pos (by omega)]

/-! ## The bias loop -/

/-- Wavelength k of port n after the bias loop (R300). -/
def State.biased (s : State) (limit : List (Nat × Nat)) (n k : Nat) : Wave :=
  let p := s.port n
  let w := p.wave k
  if p.lit = false ∨ w.retired = true ∨ w.busy = true ∨ w.emb = 0xFF then w
  else if w.emb.toNat < p.embHold.toNat then
    if (n, k) ∈ limit ∨ 480 ≤ w.bias.toNat then w else { w with bias := w.bias + 1 }
  else if p.embHold.toNat + 10 < w.emb.toNat ∧ (s.startBias n k w.spare).toNat < w.bias.toNat then
    { w with bias := w.bias - 1 }
  else w

theorem State.biasWave_cases (s : State) (limit : List (Nat × Nat)) (n k : Nat) :
    State.biasWave limit s n k = s ∧ s.biased limit n k = (s.port n).wave k ∨
      State.biasWave limit s n k = s.modWave n k fun _ => s.biased limit n k := by
  have hidle : (!(s.port n).lit || ((s.port n).wave k).retired || ((s.port n).wave k).busy ||
      ((s.port n).wave k).emb == 0xFF) = true ↔ (s.port n).lit = false ∨ ((s.port n).wave k).retired = true ∨
      ((s.port n).wave k).busy = true ∨ ((s.port n).wave k).emb = 0xFF := by simp [or_assoc]
  have hlimit : (limit.contains (n, k) || decide (480 ≤ ((s.port n).wave k).bias.toNat)) = true ↔
      (n, k) ∈ limit ∨ 480 ≤ ((s.port n).wave k).bias.toNat := by simp
  have write (f : Wave → Wave) : s.modWave n k f = s.modWave n k fun _ => f ((s.port n).wave k) := rfl
  unfold State.biasWave State.biased
  dsimp only
  simp only [hidle, hlimit]
  split
  · exact .inl ⟨rfl, rfl⟩
  split
  · split
    · exact .inl ⟨rfl, rfl⟩
    · exact .inr (write _)
  split
  · exact .inr (write _)
  · exact .inl ⟨rfl, rfl⟩

theorem State.swept_biasLoop (s : State) (limit : List (Nat × Nat)) : s.Swept (s.biased limit) 128
    ((List.range 128).foldl (fun s i => State.biasWave limit s (i / 16) (i % 16)) s) := by
  refine .walk fun u n k hrest hport _ _ hread => ?_
  have hsame : u.biased limit n k = s.biased limit n k := by
    obtain ⟨t, rfl⟩ := hrest
    obtain ⟨t', ht'⟩ := hport n
    unfold State.biased
    dsimp only
    rw [hread, ht']
    rfl
  rw [← hsame, ← hread]
  exact u.biasWave_cases limit n k

/-! ## The laser sample -/

/-- Wavelength k of port n after a sample that starts nothing (R299, R309). -/
def State.sampled (s : State) (n k : Nat) : Wave :=
  let w := (s.port n).wave k
  if (s.port n).lit = true ∧ w.retired = false then { w with
    emb := BitVec.ofNat 8 (s.waveEmb n k)
    again := w.again && !s.activeLinks.any fun l => portOf l == n }
  else w

/-- With AUTO_CHG 0 a sample of a wavelength that no changeover holds only writes what it measures. -/
theorem State.sampleWave_cases {s : State} {n k : Nat} (hauto : (s.port n).autoChg = false)
    (hchg : ((s.port n).wave k).chg = none) :
    s.sampleWave n k = s ∧ s.sampled n k = (s.port n).wave k ∨
      s.sampleWave n k = s.modWave n k fun _ => s.sampled n k := by
  have hbusy : ((s.port n).wave k).busy = false := by rw [Wave.busy, hchg]
  unfold State.sampleWave State.sampled
  dsimp only
  rw [hbusy, hauto]
  cases (s.port n).lit with
  | false => exact .inl ⟨rfl, rfl⟩
  | true =>
    cases hr : ((s.port n).wave k).retired with
    | true => exact .inl ⟨rfl, rfl⟩
    | false =>
      refine .inr ?_
      simp only [Bool.not_true, Bool.or_self, Bool.not_false, Bool.true_or, Bool.false_eq_true, and_self, if_true,
        if_false]
      rw [← hr]
      rfl

theorem State.swept_sample (s : State) (hq : s.lasersQuiet) (hauto : ∀ n < 8, (s.port n).autoChg = false) :
    s.Swept s.sampled 128 ((List.range 128).foldl (fun s i => s.sampleWave (i / 16) (i % 16)) s) := by
  refine .walk fun u n k hrest hport hn hk hread => ?_
  obtain ⟨t', ht'⟩ := hport n
  have hsame : u.sampled n k = s.sampled n k := by
    obtain ⟨t, rfl⟩ := hrest
    unfold State.sampled
    dsimp only
    rw [hread, ht']
    rfl
  rw [← hsame, ← hread]
  exact State.sampleWave_cases (by rw [ht']; exact hauto n hn) (by rw [hread]; exact (hq.1 n hn).2 k hk)

theorem State.chg_sampled (s : State) (n k : Nat) : (s.sampled n k).chg = ((s.port n).wave k).chg := by
  unfold State.sampled
  dsimp only
  split
  · rfl
  · rfl

/-- No changeover is under way: none moves on. -/
theorem State.chgAdvance_of_none {s : State} {n k : Nat} (h : ((s.port n).wave k).chg = none) (fuel : Nat) :
    State.chgAdvance fuel s n k = s := by
  cases fuel with
  | zero => rfl
  | succ fuel =>
    unfold State.chgAdvance
    rw [h]

/-- A sample with AUTO_CHG 0 and nothing under way measures. -/
theorem State.swept_laserSample (s : State) (hq : s.lasersQuiet) (hauto : ∀ n < 8, (s.port n).autoChg = false) :
    s.Swept s.sampled 128 s.laserSample := by
  have h := s.swept_sample hq hauto
  unfold State.laserSample
  dsimp only
  generalize (List.range 128).foldl (fun s i => s.sampleWave (i / 16) (i % 16)) s = u at h
  have still : (List.range 128).foldl (fun s i => State.chgAdvance 3 s (i / 16) (i % 16)) u = u := by
    refine foldl_eq_self fun i hi => State.chgAdvance_of_none ?_ 3
    have hn : i / 16 < 8 := by have := List.mem_range.1 hi; omega
    rw [h.wave_eq hn (by omega), State.chg_sampled]
    exact (hq.1 _ hn).2 _ (by omega)
  obtain ⟨t, hu⟩ := h.rest
  have queue (x) : (u.spareUnit x).queue = [] := by rw [hu]; exact hq.calm.queue x
  rw [still, State.unitNext_of_empty (queue 0), State.unitNext_of_empty (queue 1)]
  exact h

end Sys2Proof.Machine
end

section
/-! SUPPORT. The stages of a changeover and of a retirement, each said once (10 R303 to R308). -/

namespace Sys2Proof.Machine

variable {s : State} {n k : Nat} {c : Chg}

theorem State.modSpare_modSpare (s : State) (u : Nat) (f g : Spare → Spare) :
    (s.modSpare u f).modSpare u g = s.modSpare u fun x => g (f x) := by
  unfold State.modSpare
  split
  · rfl
  · rfl

/-- An entry of the laser journal. -/
def State.journalled (s : State) (n k : Nat) (retired : Bool) : State :=
  { s with laserJournal := s.laserJournal ++ [(n, k, retired)] }

/-- A stage that awaits no link. -/
theorem State.portLinks_zero (s : State) (n : Nat) : s.portLinks n 0 = [] := by
  have none_of (i : Nat) : (0 : BitVec 6).getLsbD i = false := BitVec.getLsbD_zero
  rw [State.portLinks, selectBelow_eq_nil fun i _ => by rw [none_of, Bool.false_and]]
  rfl

section
variable (hc : ((s.port n).wave k).chg = some c) (hl : c.links = 0) (fuel : Nat)
include hc hl

/-- Drained, a changeover waits for the line of the spare to settle. -/
theorem State.chgAdvance_drain (hst : c.stage = .drain) (hr : c.retire = false) : State.chgAdvance (fuel + 1) s n k =
    s.modWave n k fun w => { w with chg := some { c with stage := .settle, links := 0 } } := by
  unfold State.chgAdvance
  simp only [hc, hl, State.portLinks_zero, hst, hr]
  rfl

/-- Drained, a wavelength that retires does. -/
theorem State.chgAdvance_retire (hst : c.stage = .drain) (hr : c.retire = true) :
    State.chgAdvance (fuel + 1) s n k = s.retireDone n k := by
  unfold State.chgAdvance
  simp only [hc, hl, State.portLinks_zero, hst, hr]
  rfl

/-- With every link back a changeover is recorded. -/
theorem State.chgAdvance_restore (hst : c.stage = .restore) :
    State.chgAdvance (fuel + 1) s n k = s.chgRecord n k c := by
  unfold State.chgAdvance
  simp only [hc, hl, State.portLinks_zero, hst]
  rfl

/-- A relock in which no link takes part ends at once. -/
theorem State.chgAdvance_relock (hst : c.stage = .relock) (ha : c.all = 0) :
    State.chgAdvance (fuel + 2) s n k =
      (s.modWave n k fun w => { w with chg := some { c with stage := .restore } }).chgRecord n k
        { c with stage := .restore } := by
  rw [State.chgAdvance]
  simp only [hc, hl, ha, State.portLinks_zero, hst, List.foldl_nil]
  refine State.chgAdvance_restore (c := { c with stage := .restore }) ?_ hl fuel rfl
  rw [State.wave_modWave, hl, ha]

end

/-! ## The end of a changeover -/

/-- The changeover is over, and the unit free for another. -/
def State.chgOver (s : State) (n k : Nat) (f : Wave → Wave) (g : Spare → Spare) : State :=
  (s.modWave n k fun w => { f w with chg := none }).modSpare (groupOf n) fun u => { g u with active := none }

/-- A changeover that has gone back leaves the assignment as it was. -/
theorem State.chgRecord_of_revert (hr : c.revert = true) : s.chgRecord n k c = s.chgOver n k id id := by
  unfold State.chgRecord
  simp only [hr, Bool.not_true, Bool.or_false, if_true]
  rfl

/-- Another one is recorded: the spare serves the wavelength. -/
theorem State.chgRecord_of_kept (hr : c.revert = false) : s.chgRecord n k c =
    (s.chgOver n k (fun w => { w with spare := true }) (·.serve n k)).journalled n k false := by
  unfold State.chgRecord
  simp only [hr, Bool.not_false, Bool.or_true, Bool.false_eq_true, if_false, State.modSpare_modSpare,
    State.modSpare_laserJournal]
  rw [State.journalled, State.chgOver, State.modSpare_laserJournal]
  rfl

end Sys2Proof.Machine
end

section
/-! SUPPORT. A changeover or retirement that is due, one that goes back, and the end of the settling time (10 R303 to
R308, R310); the statement about wavelengths. -/

namespace Sys2Proof.Machine

variable {s u : State} {n k : Nat} {c : Chg}

/-! ## What the end of a changeover keeps -/

theorem State.SamePorts.links (h : s.SamePorts u) : u.links = s.links := by
  obtain ⟨t, rfl⟩ := h.rest; rfl

theorem State.SamePorts.mem (h : s.SamePorts u) : u.mem = s.mem := by
  obtain ⟨t, rfl⟩ := h.rest; rfl

theorem State.SamePorts.err (h : s.SamePorts u) : u.err = s.err := by
  obtain ⟨t, rfl⟩ := h.rest; rfl

theorem State.SamePorts.laserJournal (h : s.SamePorts u) : u.laserJournal = s.laserJournal := by
  obtain ⟨t, rfl⟩ := h.rest; rfl

theorem State.SamePorts.spareUnit (h : s.SamePorts u) (x : Nat) : u.spareUnit x = s.spareUnit x := by
  obtain ⟨t, rfl⟩ := h.rest; rfl

theorem State.SamePorts.wave (h : s.SamePorts u) (n k : Nat) : (u.port n).wave k = (s.port n).wave k := by
  rw [h.port]

/-! ## The end of a changeover -/

section
variable (s n k) (f : Wave → Wave) (g : Spare → Spare)

theorem State.wave_chgOver : ((s.chgOver n k f g).port n).wave k = { f ((s.port n).wave k) with chg := none } := by
  rw [State.chgOver, State.modSpare_port, State.wave_modWave]

theorem State.spareUnit_chgOver :
    (s.chgOver n k f g).spareUnit (groupOf n) = { g (s.spareUnit (groupOf n)) with active := none } := by
  rw [State.chgOver, State.spareUnit_modSpare, State.modWave_spareUnit]

theorem State.laserJournal_chgOver : (s.chgOver n k f g).laserJournal = s.laserJournal := by
  rw [State.chgOver, State.modSpare_laserJournal, State.modWave_laserJournal]

theorem State.mem_chgOver : (s.chgOver n k f g).mem = s.mem := by
  rw [State.chgOver, State.modSpare_mem, State.modWave_mem]

end

theorem State.Calm.chgOver (h : s.Calm) (f : Wave → Wave)
    {g : Spare → Spare} (hg : ∀ x : Spare, (g x).queue = x.queue) :
    (s.chgOver n k f g).Calm :=
  (h.modWave ..).modSpare _ fun x hx => (hg x).trans hx

theorem State.Calm.journalled (h : s.Calm) (b : Bool) : (s.journalled n k b).Calm := ⟨h.events, h.queue0, h.queue1⟩

/-- Wavelength k of port n is recorded as on its spare, and its unit is free. -/
structure State.Recorded (s : State) (n k : Nat) (u : State) : Prop where
  chg : ((u.port n).wave k).chg = none
  spare : ((u.port n).wave k).spare = true
  journal : u.laserJournal = s.laserJournal ++ [(n, k, false)]
  used : (u.spareUnit (groupOf n)).used.getLsbD k = true
  active : (u.spareUnit (groupOf n)).active = none

theorem State.Recorded.congr {v : State} (h : v.Recorded n k u) (hj : v.laserJournal = s.laserJournal) :
    s.Recorded n k u := ⟨h.chg, h.spare, hj ▸ h.journal, h.used, h.active⟩

/-- The record of a changeover that is kept, once the module has settled. -/
theorem State.chgRecord_spec (h : s.Calm) (hk : k < 16) (hr : c.revert = false) :
    s.Recorded n k (s.chgRecord n k c).laserSettle ∧
      (((s.chgRecord n k c).laserSettle.port n).wave k).bias = ((s.port n).wave k).bias ∧
      (s.chgRecord n k c).laserSettle.mem = s.mem := by
  rw [State.chgRecord_of_kept hr]
  have settled := ((h.chgOver (n := n) (k := k) (fun w => { w with spare := true }) (g := (·.serve n k))
    fun _ => rfl).journalled (n := n) (k := k) false).laserSettle
  have hwave := (settled.wave n k).trans (s.wave_chgOver n k (fun w => { w with spare := true }) (·.serve n k))
  have hspare := (settled.spareUnit _).trans (s.spareUnit_chgOver n k (fun w => { w with spare := true }) (·.serve n k))
  refine ⟨⟨congrArg Wave.chg hwave, congrArg Wave.spare hwave, ?_, ?_, congrArg Spare.active hspare⟩,
    (congrArg Wave.bias hwave).trans rfl, settled.mem.trans (State.mem_chgOver ..)⟩
  · exact settled.laserJournal.trans (congrArg (· ++ [(n, k, false)]) (State.laserJournal_chgOver ..))
  · rw [hspare]
    exact getLsbD_or_bit _ hk

/-! ## A changeover that is due (R303, R306, R307) -/

theorem bitsOf_eq_zero {m : Nat} {p : Nat → Bool} (h : ∀ i < m, p i = false) : bitsOf m p = 0 := by
  induction m with
  | zero => rfl
  | succ m ih => rw [bitsOf_succ, ih fun i hi => h i (by omega), h m (by omega)]; rfl

/-- Where no link of the port carries flits nothing is left to drain. -/
theorem State.drainWave_of_untrained (hl : ∀ i < 6, (s.link (6 * n + i)).state.meets = false) (retire : Bool) :
    s.drainWave n k retire = State.chgAdvance 3
      (s.modWave n k fun w => { w with chg := some ⟨.drain, retire, false, 0, 0, w.bias⟩ }) n k := by
  unfold State.drainWave
  rw [bitsOf_eq_zero fun i hi => by rw [hl i hi, Bool.false_and]]
  have hzero : BitVec.ofNat 6 0 = 0 := rfl
  rw [hzero]
  dsimp only
  rw [State.portLinks_zero]
  rfl

/-- The retirement of a wavelength on its spare marks the spare failed, is recorded and notified (R306, R307). -/
theorem State.retireDone_of_spare (hs : ((s.port n).wave k).spare = true) : ∃ e p m o f, e.pend.getLsbD 7 = true ∧
    s.retireDone n k = { (((s.modWave n k fun w => { w with bias := 0, retired := true, chg := none, emb := 0xFF }).modSpare
      (groupOf n) fun u => { u with
        used := u.used &&& ~~~(1#16 <<< k)
        failed := u.failed ||| (1#16 <<< k) }).journalled n k true) with
      err := e, pcie := p, mmc := m, out := o, freeCtr := f } := by
  unfold State.retireDone State.degraded
  dsimp only
  rw [if_pos hs]
  generalize hv : ((s.modWave n k _).modSpare _ _) = v
  generalize hw : (State.takeFree { v with laserJournal := v.laserJournal ++ [(n, k, true)] }).2 = w
  generalize 6 * n + _ = l
  obtain ⟨e, p, m, o, h⟩ := w.notify_cases 7 false (l + k * 2 ^ 9) 0 ((w.port (portOf l)).wave k).word
  refine ⟨e, p, m, o, w.freeCtr, ?_, ?_⟩
  · have hpend := w.pend_notify 7 false (l + k * 2 ^ 9) 0 ((w.port (portOf l)).wave k).word
    rw [h] at hpend
    dsimp only at hpend
    rw [hpend]
    exact getLsbD_or_bit _ (by decide)
  · rw [h, ← hw]
    rfl

section
variable (hq : s.lasersQuiet) (hn : n < 8) (hk : k < 16) (hret : ((s.port n).wave k).retired = false)
  (hl : ∀ i < 6, (s.link (6 * n + i)).state.meets = false)
include hq hn hk hret hl

/-- A changeover starts on a free spare unit, and settles at once where no link carries flits. -/
theorem State.chgDue_free (hs : ((s.port n).wave k).spare = false)
    (hd : (s.spareUnit (groupOf n)).denied n k = false) (ha : (s.spareUnit (groupOf n)).active = none) :
    (s.chgDue n k).Calm ∧ ((s.chgDue n k).port n).wave k =
        { (s.port n).wave k with chg := some ⟨.settle, false, false, 0, 0, ((s.port n).wave k).bias⟩ } ∧
      ((s.chgDue n k).spareUnit (groupOf n)).active = some (n, k) ∧ (s.chgDue n k).links = s.links ∧
      (s.chgDue n k).mem = s.mem := by
  have hdue : s.chgDue n k = (s.modSpare (groupOf n) fun u => { u with
      active := some (n, k)
      queue := u.queue.filter (· != (n, k)) }).drainWave n k false := by
    unfold State.chgDue
    simp only [hret, (hq.1 n hn).2 k hk, hs, hd, ha, hq.calm.queue]
    rfl
  have calm := hq.calm.modSpare (groupOf n) (f := fun u => { u with
      active := some (n, k)
      queue := u.queue.filter (· != (n, k)) }) fun x hx => congrArg (List.filter _) hx
  rw [hdue]
  generalize hv : s.modSpare (groupOf n) _ = v at calm
  have hlinks : v.links = s.links := by rw [← hv, State.modSpare_links]
  have hmem : v.mem = s.mem := by rw [← hv, State.modSpare_mem]
  have hport : (v.port n).wave k = (s.port n).wave k := by rw [← hv, State.modSpare_port]
  have hactive : (v.spareUnit (groupOf n)).active = some (n, k) := by rw [← hv, State.spareUnit_modSpare]
  have hl' : ∀ i < 6, (v.link (6 * n + i)).state.meets = false := fun i hi => by
    rw [State.link, hlinks]
    exact hl i hi
  rw [State.drainWave_of_untrained hl', State.chgAdvance_drain (by rw [State.wave_modWave]) rfl 2 rfl rfl]
  refine ⟨(calm.modWave ..).modWave .., ?_, hactive, hlinks, hmem⟩
  rw [State.wave_modWave, State.wave_modWave, hport]

/-- A wavelength that runs on its spare is retired, and its spare has failed (R307). -/
theorem State.chgDue_onSpare (hs : ((s.port n).wave k).spare = true) :
    (s.chgDue n k).Calm ∧ ((s.chgDue n k).port n).wave k =
        { (s.port n).wave k with bias := 0, retired := true, chg := none, emb := 0xFF } ∧
      (s.chgDue n k).laserJournal = s.laserJournal ++ [(n, k, true)] ∧
      ((s.chgDue n k).spareUnit (groupOf n)).failed.getLsbD k = true ∧
      (s.chgDue n k).err.pend.getLsbD 7 = true := by
  have hdue : s.chgDue n k = (s.modSpare (groupOf n) fun u => { u with
      queue := u.queue.filter (· != (n, k)) }).drainWave n k true := by
    unfold State.chgDue
    simp only [hret, (hq.1 n hn).2 k hk, hs, hq.calm.queue]
    rfl
  have calm := hq.calm.modSpare (groupOf n) (f := fun u => { u with
      queue := u.queue.filter (· != (n, k)) }) fun x hx => congrArg (List.filter _) hx
  rw [hdue]
  generalize hv : s.modSpare (groupOf n) _ = v at calm
  have hlinks : v.links = s.links := by rw [← hv, State.modSpare_links]
  have hport : (v.port n).wave k = (s.port n).wave k := by rw [← hv, State.modSpare_port]
  have hjournal : v.laserJournal = s.laserJournal := by rw [← hv, State.modSpare_laserJournal]
  have hl' : ∀ i < 6, (v.link (6 * n + i)).state.meets = false := fun i hi => by
    rw [State.link, hlinks]
    exact hl i hi
  rw [State.drainWave_of_untrained hl', State.chgAdvance_retire (by rw [State.wave_modWave]) rfl 2 rfl rfl]
  generalize hw : v.modWave n k _ = w
  have hwave : (w.port n).wave k =
      { (s.port n).wave k with chg := some ⟨.drain, true, false, 0, 0, ((s.port n).wave k).bias⟩ } := by
    rw [← hw, State.wave_modWave, hport]
  obtain ⟨e, p, m, o, f, hpend, hdone⟩ := w.retireDone_of_spare (n := n) (k := k) (by rw [hwave]; exact hs)
  rw [hdone]
  generalize hx : State.modSpare _ _ _ = x
  have hxwave : (x.port n).wave k =
      { (s.port n).wave k with bias := 0, retired := true, chg := none, emb := 0xFF } := by
    rw [← hx, State.modSpare_port, State.wave_modWave, hwave]
  have hxcalm : x.Calm := by
    rw [← hx, ← hw]
    exact ((calm.modWave ..).modWave ..).modSpare _ fun _ h => h
  have hxfailed : (x.spareUnit (groupOf n)).failed.getLsbD k = true := by
    rw [← hx, State.spareUnit_modSpare]
    exact getLsbD_or_bit _ hk
  have hxjournal : x.laserJournal = s.laserJournal := by
    rw [← hx, ← hw, State.modSpare_laserJournal, State.modWave_laserJournal, State.modWave_laserJournal, hjournal]
  exact ⟨⟨hxcalm.events, hxcalm.queue0, hxcalm.queue1⟩, hxwave, congrArg (· ++ [(n, k, true)]) hxjournal, hxfailed,
    hpend⟩

end

/-! ## A changeover that goes back, and one that settles (R303, R308) -/

section
variable (h : s.Calm) (hk : k < 16) (hc : ((s.port n).wave k).chg = some c) (hr : c.retire = false)
  (hv : c.revert = false) (ha : c.all = 0)
include h hk hc hr hv ha

/-- Back to the primary at its bias; the spare has failed. -/
theorem State.chgRevert_spec : (s.chgRevert n k).Calm ∧
    ((s.chgRevert n k).port n).wave k = { (s.port n).wave k with bias := c.bias, chg := none } ∧
    ((s.chgRevert n k).spareUnit (groupOf n)).failed.getLsbD k = true ∧
    ((s.chgRevert n k).spareUnit (groupOf n)).active = none ∧ (s.chgRevert n k).laserJournal = s.laserJournal := by
  have hrevert : s.chgRevert n k = State.chgAdvance 3 ((s.modSpare (groupOf n) fun u =>
      { u with failed := u.failed ||| (1#16 <<< k) }).modWave n k fun w => { w with
        bias := c.bias
        chg := some { c with stage := .relock, revert := true, links := c.all } }) n k := by
    unfold State.chgRevert
    simp only [hc, hr, hv]
    rfl
  rw [hrevert, State.chgAdvance_relock (c := { c with stage := .relock, revert := true, links := c.all })
    (by rw [State.wave_modWave]) ha 1 rfl ha, State.chgRecord_of_revert rfl]
  have failed := h.modSpare (groupOf n) (f := fun u => { u with failed := u.failed ||| (1#16 <<< k) }) fun _ hx => hx
  refine ⟨((failed.modWave ..).modWave ..).chgOver _ fun _ => rfl, ?_, ?_, ?_, ?_⟩
  · rw [State.wave_chgOver, State.wave_modWave, State.wave_modWave, State.modSpare_port]
    rfl
  · rw [State.spareUnit_chgOver, State.modWave_spareUnit, State.modWave_spareUnit, State.spareUnit_modSpare]
    exact getLsbD_or_bit _ hk
  · rw [State.spareUnit_chgOver]
  · rw [State.laserJournal_chgOver, State.modWave_laserJournal, State.modWave_laserJournal, State.modSpare_laserJournal]

omit hr in
/-- The spare's line has settled: the wavelength runs on it at its start bias. -/
theorem State.chgSettled_spec : s.Recorded n k (s.chgSettled n k).laserSettle ∧
    (((s.chgSettled n k).laserSettle.port n).wave k).bias = s.startBias n k true := by
  have hsettled : s.chgSettled n k = State.chgAdvance 3 (s.modWave n k fun w => { w with
      bias := s.startBias n k true
      chg := some { c with stage := .relock, links := c.all } }) n k := by
    unfold State.chgSettled
    simp only [hc, ha, State.portLinks_zero]
    rfl
  rw [hsettled, State.chgAdvance_relock (c := { c with stage := .relock, links := c.all })
    (by rw [State.wave_modWave]) ha 1 rfl ha]
  generalize hw : State.modWave (s.modWave n k _) n k _ = w
  have hcalm : w.Calm := by
    rw [← hw]
    exact (h.modWave ..).modWave ..
  have hbias : ((w.port n).wave k).bias = s.startBias n k true := by
    rw [← hw, State.wave_modWave, State.wave_modWave]
  have hjournal : w.laserJournal = s.laserJournal := by rw [← hw]; rfl
  obtain ⟨hrec, hb, -⟩ := State.chgRecord_spec (n := n) (c := { c with stage := .restore, links := c.all }) hcalm hk hv
  exact ⟨hrec.congr hjournal, hb.trans hbias⟩

end

/-! ## The far ends (R303) -/

theorem lanesOf_bit (hk : k < 16) : lanesOf (1#16 <<< k) = [k] := by
  have every : ∀ k < 16, lanesOf (1#16 <<< k) = [k] := by decide
  exact every k hk

section
variable {l : Nat} (hk : k < 16) (hc : ((s.port (portOf l)).wave k).chg = some c) (hl : c.links = 1#6 <<< (l % 6))
include hk hc hl

/-- The last far end that a stage awaits moves the changeover on. -/
theorem State.heardLanes_last {st : ChgStage} (hst : c.stage = st) : s.heardLanes l (1#16 <<< k) st =
    (State.chgAdvance 3 (s.modWave (portOf l) k fun w => { w with chg := some { c with links := 0 } })
      (portOf l) k).laserSettle := by
  unfold State.heardLanes
  rw [lanesOf_bit hk, List.foldl_cons, List.foldl_nil, State.chgHeard]
  simp only [hc, hl, hst, if_true]
  rw [show (1#6 <<< (l % 6)) &&& ~~~(1#6 <<< (l % 6)) = 0 by simp]

variable (h : s.Calm)
include h

/-- The last LANE_OUT_ACK ends the drain. -/
theorem State.heardLanes_drain (hst : c.stage = .drain) (hr : c.retire = false) :
    ((s.heardLanes l (1#16 <<< k) .drain).port (portOf l)).wave k =
        { (s.port (portOf l)).wave k with chg := some { c with stage := .settle, links := 0 } } ∧
      (s.heardLanes l (1#16 <<< k) .drain).mem = s.mem := by
  rw [State.heardLanes_last hk hc hl hst,
    State.chgAdvance_drain (c := { c with links := 0 }) (by rw [State.wave_modWave]) rfl 2 hst hr]
  have settled := ((h.modWave (portOf l) k fun w => { w with chg := some { c with links := 0 } }).modWave (portOf l) k
    fun w => { w with chg := some { c with stage := .settle, links := 0 } }).laserSettle
  refine ⟨?_, settled.mem⟩
  rw [settled.wave, State.wave_modWave, State.wave_modWave]

/-- The last LANE_IN_ACK ends the changeover. -/
theorem State.heardLanes_restore (hst : c.stage = .restore) (hv : c.revert = false) :
    s.Recorded (portOf l) k (s.heardLanes l (1#16 <<< k) .restore) ∧
      (s.heardLanes l (1#16 <<< k) .restore).mem = s.mem := by
  rw [State.heardLanes_last hk hc hl hst,
    State.chgAdvance_restore (c := { c with links := 0 }) (by rw [State.wave_modWave]) rfl 2 hst]
  obtain ⟨hrec, -, hmem⟩ := State.chgRecord_spec (n := portOf l) (c := { c with links := 0 })
    (h.modWave (portOf l) k fun w => { w with chg := some { c with links := 0 } }) hk hv
  exact ⟨hrec.congr rfl, hmem⟩

end

/-! ## The instructions -/

theorem exec_changeDue (hn : n < 8) (hk : k < 16) (hlit : (s.port n).lit = true) (hun : (s.port n).unlocked = true)
    (hchg : ((s.port n).wave k).chg = none) {i : Instr} (hi : i ∈ [Instr.sourceOutputLost n k, .tklWaveForceChg n k]) :
    exec i s = .next (s.chgDue n k).laserSettle := by
  simp only [List.mem_cons, List.not_mem_nil, or_false] at hi
  obtain rfl | rfl := hi
  · refine (if_pos ⟨hn, hk⟩).trans (if_pos ?_)
    rw [hlit, Wave.busy, hchg]
    rfl
  · exact (if_pos ⟨hn, hk⟩).trans (if_pos hun)

theorem exec_spareLineSettled (hn : n < 8) (hk : k < 16) (hc : ((s.port n).wave k).chg = some c)
    (hst : c.stage = .settle) (ok : Bool) :
    exec (.spareLineSettled n k ok) s = .next (if ok then s.chgSettled n k else s.chgRevert n k).laserSettle := by
  refine (if_pos ⟨hn, hk⟩).trans ?_
  rw [hc]
  exact if_neg (not_not.2 hst)

theorem exec_goesBack (hn : n < 8) (hk : k < 16) (hc : ((s.port n).wave k).chg = some c) (hst : c.stage = .settle)
    {i : Instr} (hi : i ∈ [Instr.changeoverTimeout n k, .spareLineSettled n k false]) :
    exec i s = .next (s.chgRevert n k).laserSettle := by
  simp only [List.mem_cons, List.not_mem_nil, or_false] at hi
  obtain rfl | rfl := hi
  · exact if_pos ⟨hn, hk⟩
  · exact exec_spareLineSettled hn hk hc hst false

/-- A sideband message that arrives on a link that carries flits. -/
theorem onSideband_of_meets {l : Nat} (hl : l < 48) (hm : (s.link l).state.meets = true) (f : State → State) :
    onSideband l s f = .next (f s) := by
  unfold onSideband
  rw [if_pos hl, if_pos hm]

section
variable {l : Nat} (hl : l < 48) (hm : (s.link l).state.meets = true) (q : BitVec 8) (m : BitVec 16)
include hl hm

theorem exec_laneOutAck : exec (.laneOutAck l q m) s = .next (s.heardLanes l m .drain) :=
  onSideband_of_meets hl hm fun s => s.heardLanes l m .drain

theorem exec_laneInAck : exec (.laneInAck l q m) s = .next (s.heardLanes l m .restore) :=
  onSideband_of_meets hl hm fun s => s.heardLanes l m .restore

end

/-- Settles O47: the bias loop, the laser sample, and changeovers from their start to their end. -/
theorem portLasers : Obligations.PortLasers := by
  unfold Obligations.PortLasers
  refine ⟨fun limit s => ?_, fun s hq hauto => ?_, fun n k s hn hk => ⟨fun i hi hlit hun hret hq hl => ?_,
    fun c hc hr hv ha hev hq0 hq1 => ?_, fun l q c hln hm hc hr hv hlinks hev hq0 hq1 => ?_⟩⟩
  · have h := s.swept_biasLoop limit
    refine ⟨_, rfl, ?_, ?_, fun n hn k hk => h.wave_eq hn hk⟩ <;> obtain ⟨t, ht⟩ := h.rest <;> rw [ht]
  · have h := s.swept_laserSample hq hauto
    obtain ⟨t, ht⟩ := h.rest
    have hcalm : s.laserSample.Calm := by
      refine ⟨fun n hn => ?_, by rw [ht]; exact hq.2.1, by rw [ht]; exact hq.2.2⟩
      obtain ⟨t', ht'⟩ := h.port n
      rw [ht']
      exact (hq.1 n hn).1
    refine ⟨_, rfl, hcalm.laserSettle.mem.trans (by rw [ht]), fun n hn k hk hlit hret => ?_⟩
    rw [hcalm.laserSettle.wave, h.wave_eq hn hk]
    exact if_pos ⟨hlit, hret⟩
  · have hexec := exec_changeDue hn hk hlit hun ((hq.1 n hn).2 k hk) hi
    refine ⟨fun hs hd ha => ⟨_, hexec, ?_⟩, fun hs => ⟨_, hexec, ?_⟩⟩
    · obtain ⟨hcalm, hwave, hactive, hlinks, hmem⟩ := State.chgDue_free hq hn hk hret hl hs hd ha
      have settled := hcalm.laserSettle
      exact ⟨(settled.wave n k).trans hwave, by rw [settled.spareUnit, hactive], settled.links.trans hlinks,
        settled.mem.trans hmem⟩
    · obtain ⟨hcalm, hwave, hjournal, hfailed, hpend⟩ := State.chgDue_onSpare hq hn hk hret hl hs
      have settled := hcalm.laserSettle
      exact ⟨(settled.wave n k).trans hwave, settled.laserJournal.trans hjournal, by rw [settled.spareUnit, hfailed],
        by rw [settled.err, hpend]⟩
  · have hcalm : s.Calm := ⟨hev, hq0, hq1⟩
    refine ⟨fun i hi hst => ⟨_, exec_goesBack hn hk hc hst hi, ?_⟩,
      fun hst => ⟨_, exec_spareLineSettled hn hk hc hst true, ?_⟩⟩
    · obtain ⟨hcalm', hwave, hfailed, hactive, hjournal⟩ := State.chgRevert_spec hcalm hk hc hr hv ha
      have settled := hcalm'.laserSettle
      exact ⟨(settled.wave n k).trans hwave, by rw [settled.spareUnit, hfailed], by rw [settled.spareUnit, hactive],
        settled.laserJournal.trans hjournal⟩
    · obtain ⟨⟨hchg, hspare, hjournal, hused, hactive⟩, hbias⟩ := State.chgSettled_spec hcalm hk hc hv ha
      exact ⟨⟨hchg, hspare, hjournal, hused, hactive⟩, hbias⟩
  · have hcalm : s.Calm := ⟨hev, hq0, hq1⟩
    obtain rfl : portOf l = n := hln
    have hl : l < 48 := by unfold portOf at hn; omega
    refine ⟨fun hst => ⟨_, exec_laneOutAck hl hm q _, State.heardLanes_drain hk hc hlinks hcalm hst hr⟩,
      fun hst => ⟨_, exec_laneInAck hl hm q _, ?_⟩⟩
    obtain ⟨⟨hchg, hspare, hjournal, hused, hactive⟩, hmem⟩ := State.heardLanes_restore hk hc hlinks hcalm hst hv
    exact ⟨⟨hchg, hspare, hjournal, hused, hactive⟩, hmem⟩

end Sys2Proof.Machine
end

section
/-! SUPPORT. What the traffic of links changes in them, said once: flits and packets that are sent, queued, buffered or
given up, and the requests of the fabric endpoint, leave the state, the lanes and the lane control of every link, and
what discovery knows of it (10 R315 to R326; 11 R347 to R363). -/

namespace Sys2Proof.Machine

/-- A link whose flits, queues and buffers have changed: a NAK that is not due does not become so. -/
structure Link.Traffic (k k' : Link) : Prop where
  rest : k' = { k with
    rpt := k'.rpt
    nakDue := k'.nakDue
    txNext := k'.txNext
    held := k'.held
    inq := k'.inq
    rxPart := k'.rxPart
    queue := k'.queue
    sideband := k'.sideband
    spent := k'.spent }
  nak : k.nakDue = false → k'.nakDue = false

theorem Link.Traffic.refl (k : Link) : k.Traffic k := ⟨rfl, id⟩

theorem Link.Traffic.trans {k k' k'' : Link} (h : k.Traffic k') (h' : k'.Traffic k'') : k.Traffic k'' :=
  ⟨h'.rest.trans (by rw [h.rest]), fun hk => h'.nak (h.nak hk)⟩

/-- `u` follows `s` by traffic of links. -/
structure State.Traffic (s u : State) : Prop where
  link : ∀ l, (s.link l).Traffic (u.link l)
  disc : u.fab.disc = s.fab.disc

theorem State.link_congr {s u : State} (h : u.links = s.links) (l : Nat) : u.link l = s.link l :=
  congrArg (Tab.get Link.init · l) h

namespace State.Traffic

variable {s u v : State}

theorem refl (s : State) : s.Traffic s := ⟨fun _ => .refl _, rfl⟩

theorem trans (h : s.Traffic u) (h' : u.Traffic v) : s.Traffic v :=
  ⟨fun l => (h.link l).trans (h'.link l), h'.disc.trans h.disc⟩

theorem ite {p : Prop} [Decidable p] (h : s.Traffic u) (h' : s.Traffic v) : s.Traffic (if p then u else v) := by
  split <;> assumption

theorem foldl {α : Type} (f : State → α → State) (hf : ∀ s a, State.Traffic s (f s a)) (l : List α) (s : State) :
    s.Traffic (l.foldl f s) := by
  induction l generalizing s with
  | nil => exact .refl s
  | cons a l ih => exact (hf s a).trans (ih _)

/-- A step that leaves links and discovery alone. -/
theorem of_same (hl : u.links = s.links) (hd : u.fab.disc = s.fab.disc) : s.Traffic u :=
  ⟨fun l => by rw [State.link_congr hl]; exact .refl _, hd⟩

end State.Traffic

variable (s : State) {l : Nat}

theorem State.traffic_setLink {x : Link} (h : (s.link l).Traffic x) : s.Traffic (s.setLink l x) where
  link m := by
    by_cases hm : m = l
    · rw [hm, State.link_setLink]
      exact h
    · rw [State.link_setLink_ne _ _ _ hm]
      exact .refl _
  disc := rfl

theorem State.traffic_takeFree : s.Traffic s.takeFree.2 := .of_same rfl rfl

theorem State.traffic_perturbBy (tgt action place) : s.Traffic (s.perturbBy tgt action place).2 := by
  obtain ⟨e, h⟩ := s.perturbBy_cases tgt action place
  rw [h]
  exact .of_same rfl rfl

theorem State.traffic_perturb (tgt action place) : s.Traffic (s.perturb tgt action place).2 :=
  s.traffic_perturbBy ..

/-- A change of the endpoint that leaves discovery alone. -/
theorem State.traffic_modFab {f : Fab → Fab} (hf : (f s.fab).disc = s.fab.disc) : s.Traffic (s.modFab f) :=
  .of_same rfl hf

theorem State.traffic_spent (f : Link → Tab Nat) : s.Traffic (s.modLink l fun k => { k with spent := f k }) :=
  s.traffic_setLink ⟨rfl, id⟩

theorem State.traffic_queue (f : Link → List (Nat × Bytes)) :
    s.Traffic (s.modLink l fun k => { k with queue := f k }) := s.traffic_setLink ⟨rfl, id⟩

theorem State.traffic_sideband (x : List Bytes) : s.Traffic (s.setLink l { s.link l with sideband := x }) :=
  s.traffic_setLink ⟨rfl, id⟩

/-! ## Flits -/

theorem State.traffic_putFlit (l seq type crvc crcnt d) : s.Traffic (s.putFlit l seq type crvc crcnt d) := by
  unfold State.putFlit
  exact (s.traffic_setLink ⟨rfl, fun _ => rfl⟩).trans (.of_same rfl rfl)

theorem State.traffic_sendIdle (l crvc n) : s.Traffic (s.sendIdle l crvc n) := s.traffic_putFlit ..

theorem State.traffic_sendFlit (l type d ps) : s.Traffic (s.sendFlit l type d ps) := by
  unfold State.sendFlit
  exact (s.traffic_putFlit ..).trans (State.traffic_setLink _ ⟨rfl, id⟩)

theorem State.traffic_startLane (l) : s.Traffic (s.startLane l).2 := by
  unfold State.startLane
  split
  · exact .refl s
  · exact s.traffic_takeFree

theorem State.traffic_sendAlign (l) : s.Traffic (s.sendAlign l) :=
  (s.traffic_startLane l).trans (State.traffic_sendFlit ..)

theorem State.traffic_resend (l f) : s.Traffic (s.resend l f) := by
  unfold State.resend
  dsimp only
  refine .trans ?_ (State.traffic_putFlit ..)
  split
  · exact s.traffic_startLane l
  · exact .refl s

theorem State.traffic_sendNew (l type d ps) : s.Traffic (s.sendNew l type d ps) :=
  (State.Traffic.ite (s.traffic_sendAlign l) (.refl s)).trans (State.traffic_sendFlit ..)

theorem State.traffic_sendPacket (l vc d) : s.Traffic (s.sendPacket l vc d) := by
  have h := (s.traffic_perturbBy 5 1 (linkPlace l 0 vc)).trans (State.traffic_spent (l := l) _ fun k =>
    Tab.set 0 k.spent vc (Tab.get 0 k.spent vc + unitsOf d))
  unfold State.sendPacket
  exact .ite (h.trans ((State.traffic_takeFree _).trans (State.traffic_sendNew ..)))
    ((h.trans ((State.traffic_takeFree _).trans (State.traffic_sendNew ..))).trans (State.traffic_sendNew ..))

/-! ## Queues of a link -/

theorem State.traffic_drainQueue (l : Nat) (blocked : List Nat) (q : List (Nat × Bytes)) :
    s.Traffic (State.drainQueue l s blocked q).2 := by
  induction q generalizing s blocked with
  | nil => exact .refl s
  | cons p q ih =>
    unfold State.drainQueue
    rw [apply_ite Prod.snd]
    exact .ite ((s.traffic_sendPacket ..).trans (ih ..)) (ih ..)

theorem State.traffic_drainSideband (l fuel : Nat) : s.Traffic (State.drainSideband l fuel s) := by
  induction fuel generalizing s with
  | zero => exact .refl s
  | succ n ih =>
    unfold State.drainSideband
    exact .ite (.refl s) (((s.traffic_sideband _).trans (State.traffic_sendNew ..)).trans (ih _))

theorem State.traffic_flush (l : Nat) : s.Traffic (s.flush l) := by
  have h := s.traffic_drainSideband l (s.link l).sideband.length
  unfold State.flush
  exact .ite h (((h.trans (State.traffic_queue _ _)).trans (State.traffic_drainQueue ..)).trans
    (State.traffic_queue _ _))

theorem State.traffic_linkPut (l vc d) : s.Traffic (s.linkPut l vc d) := by
  have h := s.traffic_queue (l := l) fun k => k.queue ++ [(vc, d)]
  unfold State.linkPut
  exact .ite (h.trans (State.traffic_flush ..)) h

theorem State.traffic_sendRecord (l pending) : s.Traffic (s.sendRecord l pending) := by
  unfold State.sendRecord
  exact s.traffic_takeFree.trans (State.traffic_linkPut ..)

/-! ## Requests -/

theorem State.traffic_threads (ts : Tab Thread) : s.Traffic { s with threads := ts } := .of_same rfl rfl

theorem State.traffic_releaseMem (c) : s.Traffic (s.releaseMem c) := by
  obtain ⟨⟨ts, h⟩, -⟩ := s.releaseMem_cases c 0
  rw [h]
  exact s.traffic_threads ts

theorem State.traffic_endMsg (c t id status) : s.Traffic (s.endMsg c t id status) := by
  have failed (u : State) (cause unit dest pc) : u.Traffic (u.threadError c t cause unit dest pc) := by
    obtain ⟨ts, cs, h⟩ := u.threadError_cases c t cause unit dest pc
    rw [h]
    exact .of_same rfl rfl
  unfold State.endMsg
  dsimp only
  split
  · exact .refl s
  · exact .trans (.ite (s.traffic_threads _) ((s.traffic_threads _).trans (failed ..))) (State.traffic_releaseMem ..)

theorem State.traffic_endReq (q data status) : s.Traffic (s.endReq q data status) := by
  have h := s.traffic_modFab (f := fun f => { f with reqs := f.reqs.filter fun r => r.id != q.id }) rfl
  unfold State.endReq
  split
  · exact h.trans (State.traffic_threads ..)
  · exact h.trans (State.traffic_endMsg ..)
  · exact h.trans (.of_same rfl rfl)

theorem State.traffic_trySend (earlier q) : s.Traffic (s.trySend earlier q) := by
  have marked (u : State) {f : Fab → Fab} (hf : (f u.fab).disc = u.fab.disc) := u.traffic_modFab hf
  unfold State.trySend
  dsimp only
  generalize (if (q.node == s.fab.nodeId) = true then 48 else _) = l
  generalize (if (q.node == s.fab.nodeId) = true then 0 else portOf l) = port
  refine .ite (.refl s) (.ite ((s.traffic_modFab rfl).trans (State.traffic_endReq ..)) ?_)
  split
  · exact .refl s
  · have hit := (s.traffic_perturb 6 1 port).trans (State.traffic_perturb _ 6 4 port)
    refine .ite (.refl s) (.ite (hit.trans ((marked _ rfl).trans (marked _ rfl)))
      (.ite (hit.trans ((marked _ rfl).trans (State.traffic_linkPut ..))) (hit.trans ((marked _ rfl).trans
        ((State.traffic_perturb ..).trans (State.traffic_linkPut ..))))))

theorem State.traffic_kickFrom (done qs : List FabReq) : s.Traffic (s.kickFrom done qs) := by
  induction qs generalizing s done with
  | nil => exact .refl s
  | cons q qs ih =>
    rw [State.kickFrom]
    exact (State.Traffic.ite (.refl s) (s.traffic_trySend ..)).trans (ih ..)

theorem State.traffic_freeSlot (q) : s.Traffic (s.freeSlot q) := by
  unfold State.freeSlot
  split
  · exact .ite ((s.traffic_threads _).trans (State.traffic_releaseMem ..)) (.refl s)
  · exact .refl s

theorem State.traffic_kick : s.Traffic s.kick := by
  have accepted : s.Traffic s.hubAccept := by
    unfold State.hubAccept
    exact .ite (.refl s) ((s.traffic_modFab rfl).trans (.foldl _ State.traffic_freeSlot _ _))
  rw [State.kick_eq]
  exact .ite (accepted.trans (State.traffic_kickFrom ..)) accepted

/-! ## Packets that go on, wait, or are lost -/

theorem State.traffic_sendRsp (p) : s.Traffic (s.sendRsp p) := by
  unfold State.sendRsp
  exact .ite (s.traffic_linkPut ..) (.ite (s.traffic_modFab rfl) (.ite (s.traffic_modFab rfl) (s.traffic_linkPut ..)))

theorem State.traffic_losePacket (p) : s.Traffic (s.losePacket p) := by
  have counted : s.Traffic s.countDrop := s.traffic_modFab rfl
  have answered (q) : s.Traffic (s.countDrop.sendRsp q) := counted.trans (State.traffic_sendRsp ..)
  unfold State.losePacket
  refine .ite counted (.ite ?_ (.ite (answered _) (answered _)))
  split
  · exact counted.trans ((State.traffic_modFab _ rfl).trans (State.traffic_endReq ..))
  · exact counted

theorem State.traffic_routePacket (src p) : s.Traffic (s.routePacket src p) := by
  unfold State.routePacket
  exact .ite (.ite (.refl s) (s.traffic_linkPut ..)) (.ite (s.traffic_modFab rfl) (.ite (s.traffic_losePacket p)
    ((s.traffic_perturb ..).trans (State.traffic_linkPut ..))))

theorem State.traffic_loseAll (ps) : s.Traffic (s.loseAll ps) := by
  refine .foldl _ (fun s e => ?_) _ s
  split
  · exact s.traffic_losePacket _
  · exact s.traffic_modFab rfl

theorem State.traffic_reroute (ps) : s.Traffic (s.reroute ps) := by
  refine .foldl _ (fun s e => ?_) _ s
  split
  · exact .ite (.refl s) (.ite (s.traffic_modFab rfl) (s.traffic_routePacket ..))
  · exact s.traffic_modFab rfl

/-! ## Routes, and the end of discovery (11 R345; 14 R446) -/

theorem State.traffic_writeRoute (n w) : s.Traffic (s.writeRoute n w) := by
  unfold State.writeRoute
  exact (s.traffic_modFab rfl).trans (State.traffic_kick _)

theorem State.fabStep_writeRoute (n w) : s.FabStep (s.writeRoute n w) := by
  unfold State.writeRoute
  exact (s.fabStep_modFab _).trans (State.fabStep_kick _)

theorem State.traffic_discCheck : s.Traffic s.discCheck := by
  have done : s.Traffic (s.modFab fun f => { f with discDone := true }) := s.traffic_modFab rfl
  unfold State.discCheck
  exact .ite (.ite (done.trans (.foldl _ (fun s n => s.traffic_writeRoute ..) _ _)) done) (.refl s)

theorem State.fabStep_discCheck : s.FabStep s.discCheck := by
  have done := s.fabStep_modFab fun f => { f with discDone := true }
  unfold State.discCheck
  exact .ite (.ite (done.trans (.foldl _ (fun s n => s.fabStep_writeRoute ..) _ _)) done) (.refl s)

end Sys2Proof.Machine
end

section
/-! SUPPORT. What leaves the service of links alone, said once: traffic, sideband messages, notifications, collective
buckets, changeovers and retirements keep the state and the lanes of every link, the lock of every port, and what the
laser journal holds (10 R303 to R309, R318; 12 R399, R400). -/

namespace Sys2Proof.Machine

/-- A link in the same state with the same lanes. -/
structure Link.Steady (k k' : Link) : Prop where
  state : k'.state = k.state
  reason : k'.reason = k.reason
  txMask : k'.txMask = k.txMask
  rxMask : k'.rxMask = k.rxMask
  quar : k'.quar = k.quar
  relock : k'.relock = k.relock

theorem Link.Steady.refl (k : Link) : k.Steady k := ⟨rfl, rfl, rfl, rfl, rfl, rfl⟩

theorem Link.Steady.trans {k k' k'' : Link} (h : k.Steady k') (h' : k'.Steady k'') : k.Steady k'' :=
  ⟨h'.state.trans h.state, h'.reason.trans h.reason, h'.txMask.trans h.txMask, h'.rxMask.trans h.rxMask,
    h'.quar.trans h.quar, h'.relock.trans h.relock⟩

theorem Link.Traffic.steady {k k' : Link} (h : k.Traffic k') : k.Steady k' :=
  ⟨(congrArg Link.state h.rest :), (congrArg Link.reason h.rest :), (congrArg Link.txMask h.rest :),
    (congrArg Link.rxMask h.rest :), (congrArg Link.quar h.rest :), (congrArg Link.relock h.rest :)⟩

/-- `u` follows `s` without a change of the links that satisfy `P`, of the lock of a port, or of what stands in the laser
journal. -/
structure State.Steady (P : Nat → Prop) (s u : State) : Prop where
  link : ∀ l, P l → (s.link l).Steady (u.link l)
  unlocked : ∀ n, (u.port n).unlocked = (s.port n).unlocked
  journal : s.laserJournal <+: u.laserJournal

variable {P : Nat → Prop}

namespace State.Steady

variable {s u v : State}

theorem refl (s : State) : s.Steady P s := ⟨fun _ _ => .refl _, fun _ => rfl, List.prefix_rfl⟩

theorem trans (h : State.Steady P s u) (h' : State.Steady P u v) : State.Steady P s v :=
  ⟨fun l hl => (h.link l hl).trans (h'.link l hl), fun n => (h'.unlocked n).trans (h.unlocked n),
    h.journal.trans h'.journal⟩

theorem ite {p : Prop} [Decidable p] (h : State.Steady P s u) (h' : State.Steady P s v) :
    State.Steady P s (if p then u else v) := by split <;> assumption

theorem foldl {α : Type} (f : State → α → State) (hf : ∀ s a, State.Steady P s (f s a)) (l : List α) (s : State) :
    State.Steady P s (l.foldl f s) := by
  induction l generalizing s with
  | nil => exact .refl s
  | cons a l ih => exact (hf s a).trans (ih _)

/-- Links that are the same, with ports and journal. -/
theorem of_same (hl : u.links = s.links) (hp : u.ports = s.ports) (hj : u.laserJournal = s.laserJournal) :
    State.Steady P s u where
  link l _ := by rw [State.link_congr hl]; exact .refl _
  unlocked n := congrArg (fun t => (Tab.get Port.init t n).unlocked) hp
  journal := by rw [hj]

theorem of_memStep (h : s.MemStep u) : State.Steady P s u := by
  obtain ⟨_, _, _, _, _, _, _, rfl, -⟩ := h
  exact of_same rfl rfl rfl

/-- What the fabric endpoint does is traffic. -/
theorem of_fabStep (h : s.FabStep u) (ht : s.Traffic u) : State.Steady P s u := by
  refine ⟨fun l _ => (ht.link l).steady, fun n => ?_, ?_⟩ <;> obtain ⟨_, _, _, _, _, _, _, _, rfl⟩ := h
  · rfl
  · exact List.prefix_rfl

theorem of_linkStep (h : s.LinkStep u) (ht : s.Traffic u) : State.Steady P s u := of_fabStep (.of_linkStep h) ht

end State.Steady

variable (s : State)

theorem State.steady_setLink {l : Nat} {x : Link} (h : P l → (s.link l).Steady x) : s.Steady P (s.setLink l x) where
  link m hm := by
    by_cases hml : m = l
    · subst hml
      rw [State.link_setLink]
      exact h hm
    · rw [State.link_setLink_ne _ _ _ hml]
      exact .refl _
  unlocked _ := rfl
  journal := List.prefix_rfl

theorem State.steady_modFab (f : Fab → Fab) : s.Steady P (s.modFab f) := .of_same rfl rfl rfl
theorem State.steady_modCol (f : Col → Col) : s.Steady P (s.modCol f) := .of_same rfl rfl rfl
theorem State.steady_kick : s.Steady P s.kick := .of_fabStep s.fabStep_kick s.traffic_kick
theorem State.steady_discCheck : s.Steady P s.discCheck := .of_fabStep s.fabStep_discCheck s.traffic_discCheck
theorem State.steady_flush (l) : s.Steady P (s.flush l) := .of_linkStep (s.linkStep_flush l) (s.traffic_flush l)

theorem State.steady_notify (kind inj place code detail) : s.Steady P (s.notify kind inj place code detail) :=
  .of_memStep (s.memStep_notify ..)

theorem State.steady_newStream (l) : s.Steady P (s.newStream l) := by
  unfold State.newStream
  refine .trans (u := s.takeFree.2) (.of_same rfl rfl rfl) (State.steady_setLink _ ?_)
  exact fun _ => ⟨rfl, rfl, rfl, rfl, rfl, rfl⟩

/-! ## Sideband messages -/

theorem State.steady_sendSb (l kind lanes rest) : s.Steady P (s.sendSb l kind lanes rest) := by
  unfold State.sendSb
  refine .trans (s.steady_setLink ?_) (State.steady_flush ..)
  exact fun _ => ⟨rfl, rfl, rfl, rfl, rfl, rfl⟩

theorem State.steady_changes (l : Nat) (f : Link → List LaneChange) :
    s.Steady P (s.modLink l fun k => { k with changes := f k }) :=
  s.steady_setLink fun _ => ⟨rfl, rfl, rfl, rfl, rfl, rfl⟩

theorem State.steady_laneOutSend (l lanes) : s.Steady P (s.laneOutSend l lanes) := by
  unfold State.laneOutSend
  exact .ite (.refl s) ((s.steady_changes _ _).trans (State.steady_sendSb ..))

theorem State.steady_laneInSend (l lanes) : s.Steady P (s.laneInSend l lanes) := by
  unfold State.laneInSend
  exact .ite (.refl s) ((s.steady_changes _ _).trans (State.steady_sendSb ..))

/-! ## Buckets that lose a link (12 R399, R400) -/

theorem State.steady_opComplete (o) : s.Steady P (s.opComplete o) := by
  obtain ⟨ts, cs, h⟩ := s.opComplete_cases o
  rw [h]
  exact .of_same rfl rfl rfl

theorem State.steady_endContrib (b late x) : s.Steady P (s.endContrib b late x) := by
  have h := (State.Steady.of_memStep (P := P) (s.memStep_writeMem x.cist (b.record late x) 2)).trans
    (State.steady_modCol _ fun y => { y with
      digests := Tab.set 0 y.digests y.digestNext.toNat
        (b.digest late ((s.writeMem x.cist (b.record late x) 2).2.dieOf x.core) x)
      digestNext := y.digestNext + 1 })
  unfold State.endContrib
  dsimp only
  split
  · exact h.trans (State.steady_opComplete ..)
  · exact h

theorem State.steady_abortOne (b) : s.Steady P (s.abortOne b) := by
  unfold State.abortOne State.endBucket
  refine .trans (.foldl _ (fun s l => ?_) _ s) ((State.steady_modCol ..).trans
    (.foldl _ (fun s x => s.steady_endContrib b true x) _ _))
  unfold State.sendStep
  exact .ite (.refl s) (s.steady_sendSb ..)

theorem State.steady_stepLate (g k) : s.Steady P (s.stepLate g k) := by
  unfold State.stepLate
  dsimp only
  obtain ⟨ts, h⟩ := State.stepRelease_cases (s := s.setGroup g.toNat _) (g := g.toNat) (· == k) 1
  rw [h]
  exact .of_same rfl rfl rfl

theorem State.steady_abortBucket (tag) : s.Steady P (s.abortBucket tag) := by
  unfold State.abortBucket State.abortStep
  split
  · exact .refl s
  · exact .ite (.trans (.foldl _ State.steady_abortOne _ s) (State.steady_stepLate ..)) (s.steady_abortOne _)

theorem State.steady_colLinkLost (l) : s.Steady P (s.colLinkLost l) := .foldl _ State.steady_abortBucket _ s

/-! ## Routes and packets of a link that is lost (11 R362, R363) -/

theorem State.steady_leaveExch (l) : s.Steady P (s.leaveExch l) := by
  unfold State.leaveExch
  exact .ite (s.steady_modFab _) (.refl s)

theorem State.steady_routesWithout (l) : s.Steady P (s.routesWithout l) := by
  unfold State.routesWithout
  exact ((s.steady_modFab _).trans (State.steady_notify ..)).trans (State.steady_kick _)

theorem State.steady_reroute (ps) : s.Steady P (s.reroute ps) :=
  .of_fabStep (s.fabStep_reroute ps) (s.traffic_reroute ps)

theorem State.steady_loseAll (ps) : s.Steady P (s.loseAll ps) :=
  .of_fabStep (s.fabStep_loseAll ps) (s.traffic_loseAll ps)

/-- A link that ceases to carry traffic changes; the others keep their service. -/
theorem State.steady_linkGone (l x reason) :
    (((s.leaveExch l).setLink l { ((s.leaveExch l).link l).emptied with state := x, reason := reason, queue := [] })).Steady
      P (s.linkGone l x reason) := by
  unfold State.linkGone
  dsimp only
  exact ((((State.steady_routesWithout ..).trans (State.steady_loseAll ..)).trans (State.steady_reroute ..)).trans
    (State.steady_kick _)).trans (State.steady_colLinkLost ..)

theorem State.steady_breach (l reason) : s.Steady (· ≠ l) (s.breach l reason) := by
  have gone := ((s.steady_leaveExch (P := (· ≠ l)) l).trans (State.steady_setLink _ fun h => absurd rfl h)).trans
    ((s.steady_linkGone l .breached reason))
  unfold State.breach
  exact (gone.trans (State.steady_setLink _ fun h => absurd rfl h)).trans (State.steady_notify ..)

/-- A breach: the link's state and reason, its light off, and the notification (R328, R329). -/
theorem State.breach_spec (l : Nat) (reason : BitVec 8) : ((s.breach l reason).link l).state = .breached ∧
    ((s.breach l reason).link l).reason = reason ∧ ((s.breach l reason).link l).txMask = 0 ∧
    (s.breach l reason).err.pend.getLsbD 8 = true := by
  have gone := (s.steady_linkGone (P := fun _ => True) l .breached reason).link l trivial
  rw [State.link_setLink] at gone
  have hstate := gone.state
  have hreason := gone.reason
  dsimp only at hstate hreason
  unfold State.breach
  dsimp only
  generalize s.linkGone l .breached reason = v at hstate hreason
  generalize hw : v.modLink l (fun k => { k with txMask := 0, rxMask := 0, retry := false }) = w
  have hlink : w.link l = { v.link l with txMask := 0, rxMask := 0, retry := false } := by
    rw [← hw]
    exact State.link_setLink ..
  have dark := (w.steady_notify (P := fun _ => True) 8 false l reason.toNat (w.link l).statusWord).link l trivial
  refine ⟨dark.state.trans ?_, dark.reason.trans ?_, dark.txMask.trans ?_, ?_⟩
  · rw [hlink]
    exact hstate
  · rw [hlink]
    exact hreason
  · rw [hlink]
  rw [State.pend_notify]
  exact getLsbD_or_bit _ (by decide)

/-! ## Changeovers and retirements (10 R303 to R308) -/

theorem State.steady_modWave (n k f) : s.Steady P (s.modWave n k f) where
  link _ _ := .refl _
  unlocked m := by
    obtain ⟨t, h⟩ := s.port_modWave n k m f
    rw [h]
  journal := List.prefix_rfl

theorem State.steady_modSpare (u f) : s.Steady P (s.modSpare u f) := by
  obtain ⟨x, y, h⟩ := s.modSpare_cases u f
  rw [h]
  exact .of_same rfl rfl rfl

theorem State.steady_journalled (n k b) : s.Steady P (s.journalled n k b) :=
  ⟨fun _ _ => .refl _, fun _ => rfl, List.prefix_append ..⟩

theorem State.steady_retireDone (n k) : s.Steady P (s.retireDone n k) := by
  unfold State.retireDone
  dsimp only
  refine .trans ?_ (State.steady_notify ..)
  generalize hv : (if ((s.port n).wave k).spare then _ else _) = v
  have kept : s.Steady P v := by
    rw [← hv]
    exact .ite ((s.steady_modWave ..).trans (State.steady_modSpare ..)) (s.steady_modWave ..)
  exact (kept.trans (v.steady_journalled n k true)).trans (.of_same rfl rfl rfl)

theorem State.steady_chgRecord (n k c) : s.Steady P (s.chgRecord n k c) := by
  have ended (f g) : s.Steady P (s.chgOver n k f g) := (s.steady_modWave ..).trans (State.steady_modSpare ..)
  cases hr : c.revert with
  | true =>
    rw [State.chgRecord_of_revert hr]
    exact ended ..
  | false =>
    rw [State.chgRecord_of_kept hr]
    exact (ended ..).trans (State.steady_journalled ..)

theorem State.steady_chgAdvance (fuel n k : Nat) : s.Steady P (State.chgAdvance fuel s n k) := by
  induction fuel generalizing s with
  | zero => exact .refl s
  | succ fuel ih =>
    unfold State.chgAdvance
    split
    · exact .refl s
    next c hc =>
    refine .ite (.refl s) ?_
    split
    · exact .ite (s.steady_retireDone n k) (s.steady_modWave ..)
    · exact .refl s
    · exact ((s.steady_modWave ..).trans (.foldl _ (fun s l => s.steady_laneInSend ..) _ _)).trans (ih _)
    · exact s.steady_chgRecord n k c

theorem State.steady_drainWave (n k retire) : s.Steady P (s.drainWave n k retire) := by
  unfold State.drainWave
  exact ((s.steady_modWave ..).trans (.foldl _ (fun s l => s.steady_laneOutSend ..) _ _)).trans
    (State.steady_chgAdvance ..)

theorem State.steady_chgDue (n k) : s.Steady P (s.chgDue n k) := by
  have drained (u : State) (f r) : u.Steady P ((u.modSpare (groupOf n) f).drainWave n k r) :=
    (u.steady_modSpare ..).trans (State.steady_drainWave ..)
  unfold State.chgDue
  exact .ite (.refl s) (.ite (drained ..) (.ite (.ite (.refl s) (s.steady_modSpare ..)) (drained ..)))

theorem State.steady_unitNext (fuel u : Nat) : s.Steady P (State.unitNext fuel s u) := by
  induction fuel generalizing s with
  | zero => exact .refl s
  | succ fuel ih =>
    unfold State.unitNext
    dsimp only
    split
    · exact (s.steady_chgDue ..).trans (ih _)
    · exact .refl s

end Sys2Proof.Machine
end

section
/-! SUPPORT. Links that are dark stay dark: what the lane events that wait for the end of a changeover, and the resets of
links, leave of a link in OFF with no lane in service, of the lock of a port and of the laser journal (10 R308, R313,
R328, R330). -/

namespace Sys2Proof.Machine

/-- A link in OFF whose lanes are out of service, with none in relock. -/
structure Link.Dark (k : Link) : Prop where
  state : k.state = .off
  txMask : k.txMask = 0
  quar : k.quar = 0
  relock : k.relock = 0

theorem Link.Steady.dark {k k' : Link} (h : k.Steady k') (hk : k.Dark) : k'.Dark :=
  ⟨h.state.trans hk.state, h.txMask.trans hk.txMask, h.quar.trans hk.quar, h.relock.trans hk.relock⟩

/-- `u` follows `s` with every dark link dark, the locks of the ports, and what stands in the laser journal. -/
structure State.Settles (s u : State) : Prop where
  dark : ∀ l, (s.link l).Dark → (u.link l).Dark
  unlocked : ∀ n, (u.port n).unlocked = (s.port n).unlocked
  journal : s.laserJournal <+: u.laserJournal

namespace State.Settles

variable {s u v : State} {l : Nat}

theorem refl (s : State) : s.Settles s := ⟨fun _ => id, fun _ => rfl, List.prefix_rfl⟩

theorem trans (h : s.Settles u) (h' : u.Settles v) : s.Settles v :=
  ⟨fun l hl => h'.dark l (h.dark l hl), fun n => (h'.unlocked n).trans (h.unlocked n), h.journal.trans h'.journal⟩

theorem foldl {α : Type} (f : State → α → State) (hf : ∀ s a, State.Settles s (f s a)) (l : List α) (s : State) :
    s.Settles (l.foldl f s) := by
  induction l generalizing s with
  | nil => exact .refl s
  | cons a l ih => exact (hf s a).trans (ih _)

/-- A step that changes no link but one that is not dark. -/
theorem of_steady (h : State.Steady (· ≠ l) s u) (hl : ¬ (s.link l).Dark) : s.Settles u where
  dark m hm := by
    have hne : m ≠ l := fun hml => hl (hml ▸ hm)
    exact (h.link m hne).dark hm
  unlocked := h.unlocked
  journal := h.journal

theorem of_steady_all (h : State.Steady (fun _ => True) s u) : s.Settles u :=
  ⟨fun l hl => (h.link l trivial).dark hl, h.unlocked, h.journal⟩

end State.Settles

variable (s : State) {l : Nat}

/-! ## Lane events -/

theorem Link.not_dark_of_meets {k : Link} (h : k.state.meets = true) : ¬ k.Dark := fun hd => by
  rw [hd.state] at h
  exact Bool.false_ne_true h

theorem State.steady_enterRetrain : s.Steady (· ≠ l) (s.enterRetrain l) := by
  unfold State.enterRetrain
  exact .ite ((s.steady_leaveExch l).trans (State.steady_setLink _ fun h => absurd rfl h)) (s.steady_leaveExch l)

theorem State.steady_widthCheck (tx) : s.Steady (· ≠ l) (s.widthCheck l tx) := by
  unfold State.widthCheck
  generalize (if tx = true then s.txWidth l else _) = w
  exact .ite ((s.steady_breach ..).trans (State.steady_discCheck _)) (.refl s)

/-- Lanes that are found dark concern their link, which carries flits. -/
theorem State.settles_lanesLost (lanes) : s.Settles (s.lanesLost l lanes) := by
  unfold State.lanesLost
  dsimp only
  split
  · exact .refl s
  next h =>
  have hmeets : (s.link l).state.meets = true := by
    by_contra hm
    rw [Bool.not_eq_true] at hm
    simp [hm] at h
  refine .of_steady (l := l) (.ite ?_ ?_) (Link.not_dark_of_meets hmeets)
  · exact (s.steady_setLink fun h => absurd rfl h).trans (State.steady_sendSb ..)
  · exact (s.steady_sendSb ..).trans (State.steady_enterRetrain _)

theorem State.settles_lanesQuar (lanes) : s.Settles (s.lanesQuar l lanes) := by
  unfold State.lanesQuar
  dsimp only
  split
  · exact .refl s
  next h =>
  have hlit : ¬ (s.link l).Dark := fun hd => h (by rw [hd.txMask]; simp)
  exact .of_steady ((s.steady_setLink fun h => absurd rfl h).trans (State.steady_laneOutSend ..)) hlit

theorem State.steady_laneBack (P) (m) : s.Steady P (s.laneBack l m) := s.steady_laneInSend ..

theorem State.settles_ringDone (i ok) : s.Settles (s.ringDone l i ok) := by
  have set (x : Link) : s.Steady (· ≠ l) (s.setLink l x) := s.steady_setLink fun h => absurd rfl h
  have zero (i : Nat) : ¬ (0 : BitVec 16).getLsbD i = true := by simp
  unfold State.ringDone
  dsimp only
  split
  · next h =>
    refine .of_steady (l := l) (.ite ((set _).trans (State.steady_sendSb ..))
      ((set _).trans (State.steady_widthCheck ..))) fun hd => ?_
    rw [hd.quar] at h
    exact zero i h
  split
  · next h =>
    refine .of_steady (l := l) (.ite ((set _).trans (State.steady_laneBack ..))
      ((set _).trans (State.steady_widthCheck ..))) fun hd => ?_
    rw [hd.relock] at h
    exact zero i h
  · exact .refl s

theorem State.settles_laneEvent (e) : s.Settles (s.laneEvent e) := by
  cases e with
  | lost l m => exact s.settles_lanesLost m
  | quar l m => exact s.settles_lanesQuar m
  | relocked l i ok => exact s.settles_ringDone i ok

/-- The end of a changeover. -/
theorem State.settles_laserSettle : s.Settles s.laserSettle := by
  have noEvents (u : State) (n : Nat) : u.Settles (u.modPort n fun p => { p with events := [] }) := by
    refine ⟨fun _ => id, fun m => ?_, List.prefix_rfl⟩
    by_cases hm : m = n
    · rw [hm, State.port_modPort]
    · rw [State.port_modPort_ne _ _ _ hm]
  unfold State.laserSettle
  refine .trans (.foldl _ (fun u n => ?_) _ s)
    (.of_steady_all ((State.steady_unitNext ..).trans (State.steady_unitNext ..)))
  split
  · exact .refl u
  · exact (noEvents u n).trans (.foldl _ State.settles_laneEvent _ _)

/-! ## Port resets -/

/-- After its reset a link is dark, and no other link has changed its service (R330). -/
theorem State.linkReset_spec (l : Nat) : ((s.linkReset l).link l).Dark ∧ s.Steady (· ≠ l) (s.linkReset l) := by
  unfold State.linkReset
  dsimp only
  generalize hv : (s.leaveExch l).setLink l _ = v
  have set : s.Steady (· ≠ l) v := by
    rw [← hv]
    exact (s.steady_leaveExch l).trans (State.steady_setLink _ fun h => absurd rfl h)
  have hlink : (v.link l).Dark := by
    rw [← hv, State.link_setLink]
    exact ⟨rfl, rfl, rfl, rfl⟩
  have rest (P) : v.Steady P ((if ((s.leaveExch l).link l).state = .active ∨
      ((s.leaveExch l).link l).state = .isolated ∨
      ((s.leaveExch l).link l).state = .retrain then v.routesWithout l else v).reroute
        ((s.leaveExch l).link l).queue).kick :=
    ((State.Steady.ite (v.steady_routesWithout l) (.refl v)).trans
      (State.steady_reroute ..)).trans (State.steady_kick _)
  exact ⟨((rest fun _ => True).link l trivial).dark hlink, set.trans (rest _)⟩

/-- Resets of links darken each of them. -/
theorem State.linkResets_spec (ls : List Nat) : (∀ l ∈ ls, ((ls.foldl State.linkReset s).link l).Dark) ∧
    s.Settles (ls.foldl State.linkReset s) := by
  have one (u : State) (l : Nat) : u.Settles (u.linkReset l) := by
    obtain ⟨hdark, hsteady⟩ := u.linkReset_spec l
    refine ⟨fun m hm => ?_, hsteady.unlocked, hsteady.journal⟩
    by_cases hml : m = l
    · exact hml ▸ hdark
    · exact (hsteady.link m hml).dark hm
  refine ⟨?_, .foldl _ one ls s⟩
  induction ls generalizing s with
  | nil => exact fun l hl => absurd hl List.not_mem_nil
  | cons a ls ih =>
    intro l hl
    obtain rfl | hl := List.mem_cons.1 hl
    · exact (State.Settles.foldl _ one ls _).dark l (s.linkReset_spec l).1
    · exact ih (s.linkReset a) l hl

/-- A port reset: its links are dark and it is locked; the laser journal is kept (R309, R330). -/
theorem State.portReset_spec (n : Nat) : (∀ i < 6, ((s.portReset n).link (6 * n + i)).Dark) ∧
    ((s.portReset n).port n).unlocked = false ∧ s.laserJournal <+: (s.portReset n).laserJournal := by
  obtain ⟨hdark, hsettles⟩ := s.linkResets_spec ((List.range 6).map (6 * n + ·))
  unfold State.portReset
  dsimp only
  generalize ((List.range 6).map (6 * n + ·)).foldl State.linkReset s = u at hdark hsettles
  have lost : u.Steady (fun _ => True) (((List.range 6).map (6 * n + ·)).foldl State.colLinkLost u) :=
    .foldl _ State.steady_colLinkLost _ u
  generalize ((List.range 6).map (6 * n + ·)).foldl State.colLinkLost u = v at lost
  refine ⟨fun i hi => ?_, ?_, hsettles.journal.trans lost.journal⟩
  · exact (lost.link _ trivial).dark (hdark _ (List.mem_map_of_mem (List.mem_range.2 hi)))
  · rw [State.port_modPort]

end Sys2Proof.Machine
end

section
/-! SUPPORT. Training and retraining of links, TKL_CTL (10 R327, R328, R331, R548), and the statement about link
states. -/

namespace Sys2Proof.Machine

variable {s : State} {l : Nat}

/-! ## Training -/

/-- A link that waits in OFF begins to train, with nothing held; no other link changes. -/
theorem State.toLight_spec (s : State) (l : Nat) : ((s.toLight l).link l).state = .light ∧
    ((s.toLight l).link l).txNext = 0 ∧ ((s.toLight l).link l).rxNext = 0 ∧ ((s.toLight l).link l).held = [] ∧
    ((s.toLight l).link l).spent = [] ∧ ∀ m, m ≠ l → (s.toLight l).link m = s.link m := by
  unfold State.toLight
  rw [State.modLink_eq, State.link_setLink]
  exact ⟨rfl, rfl, rfl, rfl, rfl, fun m hm => State.link_setLink_ne _ _ _ hm⟩

theorem exec_waitsOff (hl : l < 48) (hw : s.waitsOff l = true) {c : Instr}
    (hc : c ∈ [Instr.linkOffRetry l, .linkLightDetect l]) : exec c s = .next (s.toLight l) := by
  simp only [List.mem_cons, List.not_mem_nil, or_false] at hc
  obtain rfl | rfl := hc
  · exact (if_pos hl).trans (if_pos hw)
  · exact (if_pos hl).trans (if_pos hw)

theorem exec_linkTrainDone (hl : l < 48) {tx rx : BitVec 16} (hs : (s.link l).state = .train)
    (htx : s.minLanes l ≤ width (tx &&& s.lit l)) (hrx : s.minLanes l ≤ width rx) :
    exec (.linkTrainDone l tx rx) s = .next (s.setLink l { s.link l with
      state := .align, txMask := tx &&& s.lit l, rxMask := rx }) :=
  (if_pos hl).trans (if_pos ⟨hs, htx, hrx⟩)

/-! ## Lanes that take part in a changeover -/

theorem State.disc_congr {s u : State} (h : u.fab.disc = s.fab.disc) (l : Nat) : u.disc l = s.disc l :=
  congrArg (Tab.get Disc.init · l) h

/-- `u` follows `s` as a link joins changeovers: the links keep their service, and discovery and memory are as before. -/
structure State.Joins (s u : State) : Prop where
  steady : State.Steady (fun _ => True) s u
  fab : u.fab = s.fab
  mem : u.mem = s.mem

theorem State.Joins.refl (s : State) : s.Joins s := ⟨.refl s, rfl, rfl⟩

theorem State.Joins.trans {s u v : State} (h : s.Joins u) (h' : u.Joins v) : s.Joins v :=
  ⟨h.steady.trans h'.steady, h'.fab.trans h.fab, h'.mem.trans h.mem⟩

theorem State.Joins.of_linkStep {s u : State} (h : s.LinkStep u) (hs : State.Steady (fun _ => True) s u) : s.Joins u :=
  ⟨hs, h.threads.2, h.mem⟩

theorem State.linkStep_laneOutSend (s : State) (l lanes) : s.LinkStep (s.laneOutSend l lanes) := by
  unfold State.laneOutSend
  exact .ite (.refl s) ((s.linkStep_modLink ..).trans (State.linkStep_sendSb ..))

theorem State.joins_chgJoin (s : State) (l was) : s.Joins (s.chgJoin l was) := by
  have wave (u : State) (n k f) : u.Joins (u.modWave n k f) := ⟨u.steady_modWave .., rfl, rfl⟩
  have send (u : State) (l lanes) : u.Joins (u.laneOutSend l lanes) :=
    .of_linkStep (u.linkStep_laneOutSend ..) (u.steady_laneOutSend ..)
  unfold State.chgJoin
  refine List.foldlRecOn (motive := s.Joins) _ _ (.refl s) fun u hu k _ => hu.trans ?_
  dsimp only
  split
  · exact .refl u
  split
  · exact .refl u
  split
  · exact (wave ..).trans (send ..)
  · exact wave ..
  · exact wave ..
  · exact .refl u

theorem State.joins_newStream (s : State) (l) : s.Joins (s.newStream l) := by
  refine .of_linkStep ?_ (s.steady_newStream l)
  unfold State.newStream
  exact s.linkStep_takeFree.trans (State.linkStep_modLink ..)

theorem State.joins_flush (s : State) (l) : s.Joins (s.flush l) := .of_linkStep (s.linkStep_flush l) (s.steady_flush l)

theorem State.joins_resend (s : State) (l f) : s.Joins (s.resend l f) := by
  have sent : s.LinkStep (s.resend l f) := by
    unfold State.resend
    dsimp only
    refine .trans ?_ (State.linkStep_putFlit ..)
    split
    · exact s.linkStep_startLane l
    · exact .refl s
  exact .of_linkStep sent (.of_linkStep sent (s.traffic_resend l f))

theorem State.joins_sendRecord (s : State) (l pending) : s.Joins (s.sendRecord l pending) := by
  have sent : s.LinkStep (s.sendRecord l pending) := by
    unfold State.sendRecord
    exact s.linkStep_takeFree.trans (State.linkStep_linkPut ..)
  exact .of_linkStep sent (.of_linkStep sent (s.traffic_sendRecord l pending))

/-- The link at the end of ALIGN: nothing is decided about it, and its stream begins anew on the lanes with a source. -/
def State.aligned (s : State) (l : Nat) : State :=
  ((s.enterExch l false).newStream l).modLink l fun k =>
    { k with txMask := k.txMask &&& State.lit ((s.enterExch l false).newStream l) l }

theorem State.aligned_spec (s : State) (l : Nat) : ((s.aligned l).link l).state = .exch ∧
    ((s.aligned l).disc l).mine = 0 ∧ ((s.aligned l).disc l).theirs = 0 ∧ ((s.aligned l).disc l).rxok = false ∧
    (s.aligned l).mem = s.mem := by
  have streamed := (s.enterExch l false).joins_newStream l
  have hexch : ((s.enterExch l false).link l).state = .exch :=
    congrArg Link.state (State.link_setLink s l { s.link l with state := .exch })
  have hdisc : (s.aligned l).disc l = (s.enterExch l false).disc l :=
    State.disc_congr (congrArg Fab.disc streamed.fab) l
  have hund : (s.enterExch l false).disc l =
      { s.disc l with mine := 0, theirs := 0, minor := 0, observed := false, rxok := false, again := false } :=
    State.disc_modDisc ..
  rw [hdisc, hund]
  refine ⟨?_, rfl, rfl, rfl, streamed.mem⟩
  unfold State.aligned
  rw [State.modLink_eq, State.link_setLink]
  exact (streamed.steady.link l trivial).state.trans hexch

theorem exec_linkAlignDone (hl : l < 48) (hs : (s.link l).state = .align) : exec (.linkAlignDone l) s =
    let v := (s.aligned l).chgJoin l (s.link l).txMask
    .next (if v.fab.go then v.sendRecord l false else v) := by
  change execLinkAlignDone l s = _
  unfold execLinkAlignDone State.aligned
  rw [if_pos hl, if_pos hs]
  exact (apply_ite Host.Outcome.next _ _ _).symm

/-- ALIGN ends: the link is in EXCH, and nothing is decided about it. -/
theorem linkAlignDone_spec (hl : l < 48) (hs : (s.link l).state = .align) : ∃ u, exec (.linkAlignDone l) s = .next u ∧
    (u.link l).state = .exch ∧ (u.disc l).mine = 0 ∧ (u.disc l).theirs = 0 ∧ (u.disc l).rxok = false ∧
    u.mem = s.mem := by
  refine ⟨_, exec_linkAlignDone hl hs, ?_⟩
  obtain ⟨hstate, hmine, htheirs, hrxok, hmem⟩ := s.aligned_spec l
  have joined := (s.aligned l).joins_chgJoin l (s.link l).txMask
  have sent : (s.aligned l).Joins (let v := (s.aligned l).chgJoin l (s.link l).txMask
      if v.fab.go then v.sendRecord l false else v) := by
    dsimp only
    split
    · exact joined.trans (State.joins_sendRecord ..)
    · exact joined
  generalize (let v := (s.aligned l).chgJoin l (s.link l).txMask
      if v.fab.go then v.sendRecord l false else v) = u at sent
  have hdisc : u.disc l = (s.aligned l).disc l := State.disc_congr (congrArg Fab.disc sent.fab) l
  rw [hdisc]
  exact ⟨(sent.steady.link l trivial).state.trans hstate, hmine, htheirs, hrxok, sent.mem.trans hmem⟩

/-! ## Retraining -/

/-- The link back in the state that it came from, on the lanes `tx` and `rx`, with what it holds sent again and what has
waited after it. -/
def State.retrained (s : State) (l : Nat) (tx rx : BitVec 16) : State :=
  let k := s.link l
  let s := (s.setLink l { k with
    state := k.prior, txMask := tx, rxMask := rx, nakked := false, nakDue := false }).newStream l
  let s := k.held.foldl (fun s f => s.resend l f) s
  ((s.flush l).chgJoin l k.txMask).discCheck.kick

theorem State.retrained_spec (s : State) (l : Nat) (tx rx : BitVec 16) :
    ((s.retrained l tx rx).link l).state = (s.link l).prior ∧ ((s.retrained l tx rx).link l).txMask = tx ∧
    ((s.retrained l tx rx).link l).rxMask = rx ∧ (s.retrained l tx rx).mem = s.mem ∧
    (s.retrained l tx rx).disc l = s.disc l := by
  unfold State.retrained
  dsimp only
  generalize hv : s.setLink l _ = v
  have hlink : v.link l = { s.link l with
      state := (s.link l).prior, txMask := tx, rxMask := rx, nakked := false, nakDue := false } := by
    rw [← hv, State.link_setLink]
  have hmem : v.mem = s.mem := by rw [← hv]; rfl
  have hfab : v.fab = s.fab := by rw [← hv]; rfl
  have resent : (v.newStream l).Joins ((s.link l).held.foldl (fun s f => s.resend l f) (v.newStream l)) :=
    List.foldlRecOn (motive := (v.newStream l).Joins) _ _ (.refl _) fun u hu f _ => hu.trans (u.joins_resend l f)
  have joined := (((v.joins_newStream l).trans resent).trans (State.joins_flush _ l)).trans
    (State.joins_chgJoin _ l (s.link l).txMask)
  generalize State.chgJoin _ l (s.link l).txMask = u at joined
  have kicked := (u.steady_discCheck (P := fun _ => True)).trans (State.steady_kick _)
  have service := (joined.steady.trans kicked).link l trivial
  refine ⟨service.state.trans (by rw [hlink]),
    service.txMask.trans (by rw [hlink]), service.rxMask.trans (by rw [hlink]),
    ((State.fabStep_discCheck u).trans (State.fabStep_kick _)).mem.trans (joined.mem.trans hmem), ?_⟩
  have hdisc := ((State.traffic_discCheck u).trans (State.traffic_kick _)).disc
  rw [joined.fab, hfab] at hdisc
  exact State.disc_congr hdisc l

theorem exec_linkRetrainDone (hl : l < 48) {tx rx : BitVec 16} (hs : (s.link l).state = .retrain)
    (htx : s.minLanes l ≤ width (tx &&& (s.link l).txMask &&& s.lit l))
    (hrx : s.minLanes l ≤ width (rx &&& (s.link l).rxMask))
    (hagain : (s.disc l).again = false) : exec (.linkRetrainDone l tx rx) s =
      .next (s.retrained l (tx &&& (s.link l).txMask &&& s.lit l) (rx &&& (s.link l).rxMask)) := by
  refine ((if_pos hl).trans (if_pos ⟨hs, htx, hrx⟩)).trans (congrArg Host.Outcome.next (if_neg ?_))
  obtain ⟨-, -, -, -, hdisc⟩ := s.retrained_spec l (tx &&& (s.link l).txMask &&& s.lit l) (rx &&& (s.link l).rxMask)
  rw [Bool.not_eq_true]
  exact (congrArg Disc.again hdisc).trans hagain

/-- LIGHT, TRAIN or ALIGN times out. -/
theorem linkStageTimeout_spec (hl : l < 48) (hs : (s.link l).state ∈ [LState.light, .train, .align]) :
    ∃ u, exec (.linkStageTimeout l) s = .next u ∧ (u.link l).state = .off ∧
      (u.link l).retry = true ∧ u.mem = s.mem := by
  refine ⟨_, (if_pos hl).trans (if_pos (List.contains_iff_mem.2 hs)), ?_⟩
  generalize hv : s.modLink l _ = v
  have hlink : v.link l = { (s.link l).emptied with state := .off, retry := true, txMask := 0, rxMask := 0 } := by
    rw [← hv, State.modLink_eq, State.link_setLink]
  have checked := (v.traffic_discCheck.link l).rest
  rw [hlink] at checked
  refine ⟨congrArg Link.state checked, congrArg Link.retry checked, v.fabStep_discCheck.mem.trans ?_⟩
  rw [← hv]
  rfl

theorem State.FabStep.pend {s u : State} (h : s.FabStep u) : u.err.pend = s.err.pend := by
  obtain ⟨_, _, _, _, _, _, _, _, rfl⟩ := h; rfl

/-- A retrain that times out breaches the link. -/
theorem linkRetrainTimeout_spec (hl : l < 48) (hs : (s.link l).state = .retrain) :
    ∃ u, exec (.linkRetrainTimeout l) s = .next u ∧ (u.link l).state = .breached ∧ (u.link l).reason = 0x34 ∧
      (u.link l).txMask = 0 ∧ u.err.pend.getLsbD 8 = true := by
  refine ⟨_, (if_pos hl).trans (if_pos hs), ?_⟩
  obtain ⟨hstate, hreason, htx, hpend⟩ := s.breach_spec l 0x34
  have checked := ((s.breach l 0x34).steady_discCheck (P := fun _ => True)).link l trivial
  exact ⟨checked.state.trans hstate, checked.reason.trans hreason, checked.txMask.trans htx,
    by rw [(s.breach l 0x34).fabStep_discCheck.pend, hpend]⟩

/-! ## Ports -/

/-- A port reset of a module that is not stopped, once what waited for its changeovers has happened. -/
theorem portReset_spec {n : Nat} (hn : n < 8) (hs : s.dev.stopped = false) : ∃ u, exec (.portReset n) s = .next u ∧
    (∀ i < 6, (u.link (6 * n + i)).state = .off) ∧ (u.port n).unlocked = false ∧
    u.laserJournal.take s.laserJournal.length = s.laserJournal := by
  refine ⟨(s.portReset n).laserSettle.discCheck, ?_, ?_⟩
  · refine (if_pos hn).trans (congrArg Host.Outcome.next (if_neg ?_))
    rw [hs]
    exact Bool.false_ne_true
  · obtain ⟨hdark, hlock, hjournal⟩ := s.portReset_spec n
    have settled := (s.portReset n).settles_laserSettle.trans (.of_steady_all (State.steady_discCheck _))
    exact ⟨fun i hi => (settled.dark _ (hdark i hi)).state, (settled.unlocked n).trans hlock,
      List.prefix_iff_eq_take.1 (hjournal.trans settled.journal) |>.symm⟩

/-- Links in OFF among `ls` enter LIGHT. -/
theorem State.state_lights (s : State) (ls : List Nat) (m : Nat) :
    ((ls.foldl (fun s l => if (s.link l).state = .off then s.toLight l else s) s).link m).state =
      if m ∈ ls ∧ (s.link m).state = .off then .light else (s.link m).state := by
  induction ls generalizing s with
  | nil => rw [if_neg (by simp)]; rfl
  | cons l ls ih =>
    rw [List.foldl_cons, ih]
    obtain ⟨hlight, -, -, -, -, hother⟩ := s.toLight_spec l
    by_cases hm : m = l
    · subst hm
      by_cases hoff : (s.link m).state = .off
      · simp [hoff, hlight]
      · simp [hoff]
    · have hsame : (if (s.link l).state = .off then s.toLight l else s).link m = s.link m := by
        split
        · exact hother m hm
        · rfl
      rw [hsame]
      simp [hm]

/-! ## TKL_CTL -/

/-- The fields that a write of TKL_CTL with GO 0 changes (R331, R440). -/
def Port.configured (p : Port) (w : BitVec 32) : Port := { p with
  replayLimit := w.extractLsb' 8 8
  minLanes := if p.unlocked then w.extractLsb' 16 5 else p.minLanes }

theorem Port.configured_of_goClear {p : Port} (h : p.go = false) (w : BitVec 32) : { p with
    replayLimit := if p.go then p.replayLimit else w.extractLsb' 8 8
    minLanes := if p.go || !p.unlocked then p.minLanes else w.extractLsb' 16 5 } = p.configured w := by
  unfold Port.configured
  rw [h]
  cases p.unlocked <;> rfl

section
variable {n : Nat} {w : BitVec 32} (hw : w.getLsbD 0 = true) (hgo : (s.port n).go = false)
include hw hgo

theorem State.writeTklCtl_of_goSet : s.writeTklCtl n w =
    let v := s.modPort n fun p => p.configured w
    match ((s.port n).configured w).refuse with
    | some r => v.modPort n fun p => { p with reason := r }
    | none =>
      let v := v.modPort n fun p => { p with go := true }
      if s.dev.stopped then v
      else (List.range 6).foldl
        (fun s i => if (s.link (6 * n + i)).state = .off then s.toLight (6 * n + i) else s) v := by
  have hset : (s.modPort n fun p => { p with
      replayLimit := if p.go then p.replayLimit else w.extractLsb' 8 8
      minLanes := if p.go || !p.unlocked then p.minLanes else w.extractLsb' 16 5 }) =
      s.modPort n fun p => p.configured w :=
    congrArg (fun p => { s with ports := Tab.set Port.init s.ports n p }) (Port.configured_of_goClear hgo w)
  unfold State.writeTklCtl
  dsimp only
  rw [hset, if_pos hw, hgo, State.port_modPort, if_neg Bool.false_ne_true]
  rfl

/-- GO refused: the reason is written, and no link changes. -/
theorem State.writeTklCtl_refused {r : BitVec 8} (hr : ((s.port n).configured w).refuse = some r) :
    (s.writeTklCtl n w).port n = { (s.port n).configured w with reason := r } ∧
      (s.writeTklCtl n w).links = s.links := by
  rw [State.writeTklCtl_of_goSet hw hgo, hr]
  dsimp only
  rw [State.port_modPort, State.port_modPort]
  exact ⟨rfl, rfl⟩

/-- GO set: the links of the port that are in OFF begin to train, unless the module is stopped. -/
theorem State.writeTklCtl_accepted (hr : ((s.port n).configured w).refuse = none) :
    (s.writeTklCtl n w).port n = { (s.port n).configured w with go := true } ∧ (s.dev.stopped = false →
      ∀ l, ((s.writeTklCtl n w).link l).state =
        if l / 6 = n ∧ (s.link l).state = .off then .light else (s.link l).state) := by
  rw [State.writeTklCtl_of_goSet hw hgo, hr]
  dsimp only
  generalize hv : (s.modPort n fun p => p.configured w).modPort n (fun p => { p with go := true }) = v
  have hport : v.port n = { (s.port n).configured w with go := true } := by
    rw [← hv, State.port_modPort, State.port_modPort]
  have hlink (l) : v.link l = s.link l := by rw [← hv]; rfl
  have hfold : (List.range 6).foldl
      (fun s i => if (s.link (6 * n + i)).state = .off then s.toLight (6 * n + i) else s) v =
      ((List.range 6).map (6 * n + ·)).foldl (fun s l => if (s.link l).state = .off then s.toLight l else s) v := by
    rw [List.foldl_map]
  rw [hfold]
  constructor
  · split
    · exact hport
    · refine Eq.trans ?_ hport
      refine List.foldlRecOn (motive := fun u : State => u.port n = v.port n) _ _ rfl fun u hu l _ => ?_
      split
      · exact hu
      · exact hu
  · intro hstopped l
    rw [hstopped, if_neg Bool.false_ne_true, State.state_lights, hlink]
    have hmem : l ∈ (List.range 6).map (6 * n + ·) ↔ l / 6 = n := by
      simp only [List.mem_map, List.mem_range]
      exact ⟨fun ⟨i, hi, h⟩ => by omega, fun h => ⟨l % 6, by omega, by omega⟩⟩
    simp only [hmem]

end

theorem exec_tklCtlGoSet {n : Nat} (hn : n < 8) {w : BitVec 32} (hw : w.getLsbD 0 = true) :
    exec (.tklCtlGoSet n w) s = .next (s.writeTklCtl n w) := if_pos ⟨hn, hw⟩

/-- The reasons to refuse GO, in their order (R331). -/
theorem Port.refuse_cases (p : Port) : p.refuse =
    if p.replayLimit = 0 then some 0x30
    else if p.minLanes.toNat < 12 ∨ 16 < p.minLanes.toNat then some 0x31
    else if p.embHold.toNat ≤ p.embChg.toNat then some 0x32
    else if p.biasChg.toNat < 50 ∨ 95 < p.biasChg.toNat then some 0x33
    else none := rfl

/-- A write of TKL_CTL that sets GO: refused with the first reason there is, or accepted. -/
theorem tklCtlGoSet_spec {n : Nat} (hn : n < 8) {w : BitVec 32} (hw : w.getLsbD 0 = true)
    (hgo : (s.port n).go = false) :
    let q := (s.port n).configured w
    let refused := fun r => ∃ u, exec (.tklCtlGoSet n w) s = .next u ∧ u.port n = { q with reason := r } ∧
      u.links = s.links
    if q.replayLimit = 0 then refused 0x30
    else if q.minLanes.toNat < 12 ∨ 16 < q.minLanes.toNat then refused 0x31
    else if q.embHold.toNat ≤ q.embChg.toNat then refused 0x32
    else if q.biasChg.toNat < 50 ∨ 95 < q.biasChg.toNat then refused 0x33
    else ∃ u, exec (.tklCtlGoSet n w) s = .next u ∧ u.port n = { q with go := true } ∧ (s.dev.stopped = false →
      ∀ l, (u.link l).state = if l / 6 = n ∧ (s.link l).state = .off then .light else (s.link l).state) := by
  intro q refused
  have refuses {r : BitVec 8} (hr : q.refuse = some r) : refused r :=
    ⟨_, exec_tklCtlGoSet hn hw, State.writeTklCtl_refused hw hgo hr⟩
  have hcases := q.refuse_cases
  by_cases h1 : q.replayLimit = 0
  · rw [if_pos h1] at hcases ⊢
    exact refuses hcases
  by_cases h2 : q.minLanes.toNat < 12 ∨ 16 < q.minLanes.toNat
  · rw [if_neg h1, if_pos h2] at hcases ⊢
    exact refuses hcases
  by_cases h3 : q.embHold.toNat ≤ q.embChg.toNat
  · rw [if_neg h1, if_neg h2, if_pos h3] at hcases ⊢
    exact refuses hcases
  by_cases h4 : q.biasChg.toNat < 50 ∨ 95 < q.biasChg.toNat
  · rw [if_neg h1, if_neg h2, if_neg h3, if_pos h4] at hcases ⊢
    exact refuses hcases
  · rw [if_neg h1, if_neg h2, if_neg h3, if_neg h4] at hcases ⊢
    exact ⟨_, exec_tklCtlGoSet hn hw, State.writeTklCtl_accepted hw hgo hcases⟩

/-- Settles O46: the stages of training, retraining and their ends, then port resets and TKL_CTL.GO. -/
theorem linkStates : Obligations.LinkStates := by
  unfold Obligations.LinkStates
  refine ⟨fun l s hl => ⟨fun hw c hc => ⟨_, exec_waitsOff hl hw hc, s.toLight_spec l⟩,
    fun hs => (if_pos hl).trans (if_pos hs), fun tx rx hs htx hrx => exec_linkTrainDone hl hs htx hrx,
    linkAlignDone_spec hl, fun tx rx hs htx hrx hagain => ⟨_, exec_linkRetrainDone hl hs htx hrx hagain, ?_⟩,
    linkStageTimeout_spec hl, linkRetrainTimeout_spec hl⟩, fun n s hn => ⟨fun hs => ?_, portReset_spec hn,
    fun w hw hgo => tklCtlGoSet_spec hn hw hgo⟩⟩
  · obtain ⟨hstate, htx', hrx', hmem, -⟩ := s.retrained_spec l
      (tx &&& (s.link l).txMask &&& s.lit l) (rx &&& (s.link l).rxMask)
    exact ⟨hstate, htx', hrx', hmem⟩
  · exact (if_pos hn).trans (congrArg Host.Outcome.next (if_pos hs))

end Sys2Proof.Machine
end

section
/-! SUPPORT. Flits on an optical link: the header of the acknowledgements and NAKs that a link sends, and what it does
with a flit that it receives (10 R315, R316, R320 to R322). -/

namespace Sys2Proof.Machine

variable {s : State} {l : Nat}

/-! ## Headers -/

/-- The header of a flit is the number that it was made with. -/
theorem leField_header {x : Nat} (d : Bytes) (h : x < 2 ^ 128) : leField (toLE 16 x ++ d) 0 16 = x := by
  have head : slice (toLE 16 x ++ d) 0 16 = toLE 16 x := by
    rw [slice, List.drop_zero, List.take_left' (length_toLE ..)]
  rw [leField, head, fromLE_toLE, Nat.mod_eq_of_lt (by simpa using h)]

/-- An IDLE flit without credits acknowledges the next flit expected, and carries NAK where one is due. -/
theorem State.sendIdle_spec (s : State) (l : Nat) : ∃ a, s.sendIdle l 0 0 =
      (s.setLink l { s.link l with rpt := (s.link l).rpt + 1, nakDue := false }).emit (.flit l a) ∧
    flitFld a 32 1 = 1 ∧ flitFld a 33 1 = b2n (s.link l).nakDue ∧ flitFld a 16 16 = (s.link l).rxNext.toNat := by
  refine ⟨_, rfl, ?_⟩
  have hseq := (s.link l).txNext.isLt
  have hack := (s.link l).rxNext.isLt
  have hlane := (s.link l).rpt.isLt
  have hnak : b2n (s.link l).nakDue < 2 := by cases (s.link l).nakDue <;> decide
  unfold flitBytes
  dsimp only
  generalize hemb : (if (s.link l).rxMask.getLsbD (s.link l).rpt.toNat then _ else 0xFF) = emb
  have hlt : emb < 256 := by
    rw [← hemb]
    split
    · exact BitVec.isLt _
    · decide
  simp only [flitFld, List.append_assoc]
  rw [leField_header _ (by omega)]
  simp only [fieldNat, Nat.shiftRight_eq_div_pow]
  refine ⟨?_, ?_, ?_⟩ <;> omega

/-! ## What a flit brings -/

/-- A packet that a flit brings waits in a buffer, fails its checks, or returns its credits. -/
theorem State.takeBuffered_cases (s : State) (l : Nat) (b : Bytes) :
    s.Traffic (s.takeBuffered l b) ∧ s.FabStep (s.takeBuffered l b) := by
  have bad : s.Traffic (s.modFab fun x => { x with e2e := satInc16 x.e2e }) ∧
      s.FabStep (s.modFab fun x => { x with e2e := satInc16 x.e2e }) := ⟨s.traffic_modFab rfl, s.fabStep_modFab _⟩
  have back {u : State} (h : s.Traffic u ∧ s.FabStep u) (vc n : Nat) :
      s.Traffic (u.sendIdle l vc n) ∧ s.FabStep (u.sendIdle l vc n) :=
    ⟨h.1.trans (u.traffic_sendIdle ..), h.2.trans (.of_linkStep (u.linkStep_sendIdle ..))⟩
  have same : s.Traffic s ∧ s.FabStep s := ⟨.refl s, .refl s⟩
  unfold State.takeBuffered
  dsimp only
  split
  · split
    · exact same
    · exact bad
  split
  · exact back bad ..
  split
  · exact back bad ..
  split
  · exact back same ..
  · exact ⟨s.traffic_setLink ⟨rfl, id⟩, .of_linkStep (s.linkStep_setLink ..)⟩

/-- The packets of a DATA flit. -/
theorem State.takeContent_cases (s : State) (l : Nat) {f : Bytes} (hf : flitFld f 34 2 = 1) :
    s.Traffic (s.takeContent l f) ∧ s.FabStep (s.takeContent l f) := by
  unfold State.takeContent
  rw [if_pos hf]
  dsimp only
  generalize (splitPackets 32 _) = r
  have part : s.Traffic (s.modLink l fun k => { k with rxPart := r.2 }) ∧
      s.FabStep (s.modLink l fun k => { k with rxPart := r.2 }) :=
    ⟨s.traffic_setLink ⟨rfl, id⟩, .of_linkStep (s.linkStep_setLink ..)⟩
  exact ⟨part.1.trans (.foldl _ (fun u b => (u.takeBuffered_cases l b).1) _ _),
    part.2.trans (.foldl _ (fun u b => (u.takeBuffered_cases l b).2) _ _)⟩

/-- The header of a good flit without ACK: what its sender reports of a lane, and the credits that it returns. -/
theorem State.takeHeader_cases (s : State) (l : Nat) {f : Bytes} (hf : flitFld f 32 1 = 0) : ∃ e p,
    (s.setLink l { s.link l with emb := e, spent := p }).Traffic (s.takeHeader l f) ∧ s.FabStep (s.takeHeader l f) := by
  have hack : ¬ flitFld f 32 1 = 1 := by rw [hf]; decide
  have hnak : ¬ (flitFld f 33 1 = 1 ∧ flitFld f 32 1 = 1) := fun h => hack h.2
  unfold State.takeHeader
  dsimp only
  rw [if_neg hack, if_neg hnak]
  refine ⟨_, _, (State.traffic_flush _ l).trans (State.traffic_kick _), ?_⟩
  exact (State.FabStep.of_linkStep ((s.linkStep_setLink ..).trans (State.linkStep_flush ..))).trans
    (State.fabStep_kick _)

/-- Only ALIGN flits carry markers. -/
theorem State.takeMarkers_of_ne {f : Bytes} (hf : flitFld f 34 2 ≠ 3) (s : State) (l : Nat) : s.takeMarkers l f = s :=
  if_neg hf

/-! ## A flit arrives -/

theorem State.setLink_setLink (s : State) (l : Nat) (x y : Link) : (s.setLink l x).setLink l y = s.setLink l y := by
  simp [State.setLink]

/-- A flit without codewords of its own counts no symbol errors. -/
theorem Link.takeFec_nil (k : Link) : k.takeFec [] = k := by
  have hcorr : BitVec.ofNat 48 (satAdd k.fecCorr.toNat 0 (2 ^ 48 - 1)) = k.fecCorr := by
    rw [satAdd, Nat.add_zero, min_eq_left (by have := k.fecCorr.isLt; omega), BitVec.ofNat_toNat, BitVec.setWidth_eq]
  have huncorr : BitVec.ofNat 12 (satAdd k.fecUncorr.toNat 0 0xFFF) = k.fecUncorr := by
    rw [satAdd, Nat.add_zero, min_eq_left (by have := k.fecUncorr.isLt; omega), BitVec.ofNat_toNat, BitVec.setWidth_eq]
  unfold Link.takeFec
  simp only [List.filter_nil, List.foldl_nil, List.length_nil, hcorr, huncorr]

theorem exec_flitReceive (hl : l < 48) (hh : (s.link l).state.hears = true) {f cw : Bytes} (hf : f.length = 256)
    (hcw : cw.length ≤ 32) : exec (.flitReceive l (f ++ cw)) s =
      .next (s.takeFlit l f (cw.map fun b => (b.toNat % 128, b.getLsbD 7))) := by
  have hlen : 256 ≤ (f ++ cw).length ∧ (f ++ cw).length ≤ 288 := by
    rw [List.length_append]
    omega
  refine ((if_pos ⟨hl, hlen⟩).trans (if_pos hh)).trans ?_
  rw [codewords, List.take_left' hf, List.drop_left' hf]

section
variable (hp : s.err.perturbGo = false) {f : Bytes}
include hp

/-- A good DATA flit that is expected is accepted, and acknowledged after its content. -/
theorem State.takeFlit_accepted {cw : List (Nat × Bool)} (hok : flitOk f = true) (ht : flitFld f 34 2 = 1)
    (hq : flitFld f 0 16 = (s.link l).rxNext.toNat) (hcw : ∀ c ∈ cw, c.1 ≤ 4) : s.takeFlit l f cw =
      let v := (s.modLink l fun k => k.takeFec cw).modLink l fun k =>
        { k with rxNext := k.rxNext + 1, nakked := false, nakDue := false }
      ((v.takeHeader l f).takeContent l f).sendIdle l 0 0 := by
  have hgood : (cw.any fun c => decide (4 < c.1)) = false := by simpa using hcw
  have hlink : (s.modLink l fun k => k.takeFec cw).link l = (s.link l).takeFec cw := State.link_setLink ..
  unfold State.takeFlit
  simp only [State.perturbBy_off _ hp, hok, hgood, hlink, ht]
  have hexpected : (flitFld f 0 16 == ((s.link l).takeFec cw).rxNext.toNat) = true := beq_iff_eq.2 hq
  simp only [hexpected, Bool.not_true, Option.isSome_none, Bool.or_self, Bool.false_eq_true, if_false, Bool.not_false,
    Bool.and_self, if_true, one_ne_zero]
  rw [State.takeMarkers_of_ne (by rw [ht]; decide)]

/-- A DATA or sideband flit that fails its CRC is counted, and answered with a NAK unless one was sent before. -/
theorem State.takeFlit_failed (hok : flitOk f = false) (ht : flitFld f 34 2 = 1 ∨ flitFld f 34 2 = 2) :
    s.takeFlit l f [] =
      if (s.link l).nakked then s.setLink l { s.link l with crcErr := satInc16 (s.link l).crcErr }
      else (s.setLink l { s.link l with
        crcErr := satInc16 (s.link l).crcErr, nakked := true, nakDue := true }).sendIdle l 0 0 := by
  have hidle : ¬ flitFld f 34 2 = 0 := by omega
  have hmark : flitFld f 34 2 ≠ 3 := by omega
  unfold State.takeFlit
  simp only [State.perturbBy_off _ hp, hok, hidle, State.takeMarkers_of_ne hmark, State.modLink_eq, State.link_setLink,
    Link.takeFec_nil, State.setLink_setLink, Bool.not_false, Bool.true_or, if_true, Bool.not_true, Bool.false_and,
    Bool.false_eq_true, if_false]

end

/-- The link after a flit that is accepted: the next one is expected and acknowledged. -/
theorem flitReceive_accepted (hl : l < 48) (hp : s.err.perturbGo = false) (hh : (s.link l).state.hears = true)
    {f cw : Bytes} (hf : f.length = 256) (hok : flitOk f = true) (ht : flitFld f 34 2 = 1)
    (hq : flitFld f 0 16 = (s.link l).rxNext.toNat) (hack : flitFld f 32 1 = 0) (hlen : cw.length ≤ 32)
    (hcw : ∀ x ∈ cw, x.toNat % 128 ≤ 4) : ∃ u o a, exec (.flitReceive l (f ++ cw)) s = .next u ∧
      (u.link l).rxNext = (s.link l).rxNext + 1 ∧ (u.link l).nakked = false ∧ u.mem = s.mem ∧
      u.out = o ++ [.flit l a] ∧ flitFld a 32 1 = 1 ∧ flitFld a 33 1 = 0 ∧
      flitFld a 16 16 = ((s.link l).rxNext + 1).toNat := by
  have hgood : ∀ c ∈ cw.map fun b => (b.toNat % 128, b.getLsbD 7), c.1 ≤ 4 := by
    simpa using hcw
  have hexec := exec_flitReceive hl hh hf hlen
  rw [State.takeFlit_accepted hp hok ht hq hgood] at hexec
  generalize hv : State.modLink _ l (fun k => { k with rxNext := k.rxNext + 1, nakked := false, nakDue := false }) = v
    at hexec
  have hlink : v.link l = { (s.link l).takeFec (cw.map fun b => (b.toNat % 128, b.getLsbD 7)) with
      rxNext := (s.link l).rxNext + 1, nakked := false, nakDue := false } := by
    rw [← hv, State.modLink_eq, State.link_setLink, State.modLink_eq, State.link_setLink]
    rfl
  have hmem : v.mem = s.mem := by rw [← hv]; rfl
  obtain ⟨e, p, header, headed⟩ := v.takeHeader_cases l hack
  obtain ⟨content, contained⟩ := (v.takeHeader l f).takeContent_cases l ht
  have taken := (header.trans content).link l
  rw [State.link_setLink, hlink] at taken
  dsimp only at hexec
  generalize (v.takeHeader l f).takeContent l f = w at taken contained hexec
  have hnext : (w.link l).rxNext = (s.link l).rxNext + 1 := (congrArg Link.rxNext taken.rest :)
  have hnakked : (w.link l).nakked = false := (congrArg Link.nakked taken.rest :)
  have hdue : (w.link l).nakDue = false := taken.nak rfl
  obtain ⟨a, hsend, ha, hnak, hseq⟩ := w.sendIdle_spec l
  rw [hsend] at hexec
  refine ⟨_, w.out, a, hexec, ?_, ?_, (headed.trans contained).mem.trans hmem, rfl, ha, ?_, ?_⟩
  · exact (congrArg Link.rxNext (State.link_setLink w l _)).trans hnext
  · exact (congrArg Link.nakked (State.link_setLink w l _)).trans hnakked
  · rw [hnak, hdue]
    rfl
  · rw [hseq, hnext]

/-- The link after a flit that fails its CRC. -/
theorem flitReceive_failed (hl : l < 48) (hp : s.err.perturbGo = false) (hh : (s.link l).state.hears = true)
    {f : Bytes} (hf : f.length = 256) (hok : flitOk f = false) (ht : flitFld f 34 2 = 1 ∨ flitFld f 34 2 = 2) :
    let k := s.link l
    ∃ u, exec (.flitReceive l f) s = .next u ∧
      if k.nakked then u.link l = { k with crcErr := satInc16 k.crcErr } ∧ u.out = s.out
      else u.link l = { k with crcErr := satInc16 k.crcErr, nakked := true, nakDue := false, rpt := k.rpt + 1 } ∧
        ∃ a, u.out = s.out ++ [.flit l a] ∧ flitFld a 33 1 = 1 ∧ flitFld a 16 16 = k.rxNext.toNat := by
  intro k
  have hexec := exec_flitReceive (cw := []) hl hh hf (by decide)
  rw [List.append_nil, List.map_nil, State.takeFlit_failed hp hok ht] at hexec
  refine ⟨_, hexec, ?_⟩
  split
  · exact ⟨State.link_setLink .., rfl⟩
  · obtain ⟨a, hsend, -, hnak, hseq⟩ := (s.setLink l { s.link l with
      crcErr := satInc16 (s.link l).crcErr, nakked := true, nakDue := true }).sendIdle_spec l
    rw [State.link_setLink] at hnak hseq hsend
    rw [hsend]
    exact ⟨State.link_setLink .., a, rfl, hnak, hseq⟩

/-- A NAK is repeated. -/
theorem flitNakRepeat_spec (hl : l < 48) (hh : (s.link l).state.hears = true) (hn : (s.link l).nakked = true) :
    ∃ a, exec (.flitNakRepeat l) s =
      .next { s.setLink l { s.link l with nakDue := false, rpt := (s.link l).rpt + 1 } with
      out := s.out ++ [.flit l a] } ∧ flitFld a 33 1 = 1 ∧ flitFld a 16 16 = (s.link l).rxNext.toNat := by
  obtain ⟨a, hsend, -, hnak, hseq⟩ := (s.setLink l { s.link l with nakDue := true }).sendIdle_spec l
  rw [State.link_setLink] at hnak hseq hsend
  refine ⟨a, ((if_pos hl).trans (if_pos (by rw [hh, hn]; rfl))).trans ?_, hnak, hseq⟩
  rw [State.modLink_eq, hsend, State.setLink_setLink]
  rfl

end Sys2Proof.Machine
end

section
/-! SUPPORT. Lane control of an optical link: its messages, the changes of its lane sets, quarantine and relock (10 R313,
R314, R318, R326, R328, R549). -/

namespace Sys2Proof.Machine

variable {s : State} {l : Nat}

/-! ## Messages -/

/-- A sideband message takes the next MSEQ; sending it is traffic. -/
theorem State.link_sendSb (s : State) (l kind lanes rest : Nat) : ∃ sb, Link.Traffic { s.link l with
    sideband := sb, mseq := (s.link l).mseq + 1 } ((s.sendSb l kind lanes rest).link l) := by
  have h := (State.traffic_flush (s.setLink l { s.link l with
    sideband := (s.link l).sideband ++ [sbMsg kind (s.link l).mseq.toNat lanes rest],
    mseq := (s.link l).mseq + 1 }) l).link l
  rw [State.link_setLink] at h
  exact ⟨_, h⟩

/-- LANE_OUT and LANE_IN: the change of the transmit set waits for the 32nd slot, and a message announces it. -/
def State.announce (s : State) (l : Nat) (add : Bool) (kind : Nat) (lanes : BitVec 16) : State :=
  (s.modLink l fun k => { k with changes := k.changes ++ [⟨true, add, lanes⟩] }).sendSb l kind lanes.toNat 0

theorem State.laneOutSend_of_ne {lanes : BitVec 16} (h : lanes ≠ 0) (s : State) (l : Nat) :
    s.laneOutSend l lanes = s.announce l false 0x01 lanes := if_neg h

theorem State.laneInSend_of_ne {lanes : BitVec 16} (h : lanes ≠ 0) (s : State) (l : Nat) :
    s.laneInSend l lanes = s.announce l true 0x03 lanes := if_neg h

theorem State.link_announce (s : State) (l : Nat) (add : Bool) (kind : Nat) (lanes : BitVec 16) : ∃ sb, Link.Traffic
    { s.link l with changes := (s.link l).changes ++ [⟨true, add, lanes⟩], sideband := sb, mseq := (s.link l).mseq + 1 }
    ((s.announce l add kind lanes).link l) := by
  obtain ⟨sb, h⟩ := (s.modLink l fun k => { k with changes := k.changes ++ [⟨true, add, lanes⟩] }).link_sendSb l kind
    lanes.toNat 0
  rw [State.modLink_eq, State.link_setLink] at h
  exact ⟨sb, h⟩

theorem State.linkStep_announce (s : State) (l add kind lanes) : s.LinkStep (s.announce l add kind lanes) :=
  (s.linkStep_modLink ..).trans (State.linkStep_sendSb ..)

theorem State.traffic_sendSbEcho (s : State) (l kind lanes : Nat) (q : BitVec 8) :
    s.Traffic (s.sendSbEcho l kind lanes q) := (s.traffic_sideband _).trans (State.traffic_flush _ l)

theorem State.linkStep_sendSbEcho (s : State) (l kind lanes : Nat) (q : BitVec 8) :
    s.LinkStep (s.sendSbEcho l kind lanes q) := (s.linkStep_setLink ..).trans (State.linkStep_flush _ l)

/-- A message of the far end: the receive set changes at the 32nd slot. -/
theorem State.laneMsg_spec (s : State) (l : Nat) (add : Bool) (q : BitVec 8) (m : BitVec 16) :
    ((s.laneMsg l add q m).link l).changes = (s.link l).changes ++ [⟨false, add, m⟩] ∧
      (s.laneMsg l add q m).mem = s.mem := by
  unfold State.laneMsg
  dsimp only
  have sent := ((s.modLink l fun k => { k with changes := k.changes ++ [⟨false, add, m⟩] }).traffic_sendSbEcho l
    (if add then 0x04 else 0x02) m.toNat q).link l
  rw [State.modLink_eq, State.link_setLink] at sent
  exact ⟨(congrArg Link.changes sent.rest :), (State.linkStep_sendSbEcho ..).mem⟩

/-! ## The 32nd slot -/

theorem State.link_newStream (s : State) (l : Nat) : ∃ x, (s.newStream l).link l = { s.link l with stream := x } := by
  unfold State.newStream
  dsimp only
  rw [State.modLink_eq, State.link_setLink]
  exact ⟨_, rfl⟩

theorem State.mem_newStream (s : State) (l : Nat) : (s.newStream l).mem = s.mem := rfl

/-- Enough lanes remain. -/
theorem State.widthCheck_of_le {tx : Bool}
    (h : s.minLanes l ≤ if tx then s.txWidth l else (s.link l).rxWidth) : s.widthCheck l tx = s :=
  if_neg (Nat.not_lt.2 h)

section
variable {m : BitVec 16} {rest : List LaneChange}

theorem State.laneSet_txAdd (h : (s.link l).changes = ⟨true, true, m⟩ :: rest) : s.laneSet l true =
    (s.setLink l { s.link l with changes := rest, txMask := (s.link l).txMask ||| m }).newStream l := by
  unfold State.laneSet
  simp [h]

theorem State.laneSet_txRemove (h : (s.link l).changes = ⟨true, false, m⟩ :: rest) : s.laneSet l true =
    ((s.setLink l { s.link l with changes := rest, txMask := (s.link l).txMask &&& ~~~m }).newStream l).widthCheck l
      true := by
  unfold State.laneSet
  simp [h]

theorem State.laneSet_rxAdd (h : (s.link l).changes = ⟨false, true, m⟩ :: rest) : s.laneSet l false =
    s.setLink l { s.link l with
      changes := rest, rxMask := (s.link l).rxMask ||| m, quar := (s.link l).quar &&& ~~~m } := by
  unfold State.laneSet
  simp [h]

theorem State.laneSet_rxRemove (h : (s.link l).changes = ⟨false, false, m⟩ :: rest) : s.laneSet l false =
    (s.setLink l { s.link l with changes := rest, rxMask := (s.link l).rxMask &&& ~~~m }).widthCheck l false := by
  unfold State.laneSet
  simp [h]

end

section
variable (hl : l < 48) (hm : (s.link l).state.meets = true)
include hl hm

theorem exec_laneOut (q : BitVec 8) (m : BitVec 16) : exec (.laneOut l q m) s = .next (s.laneMsg l false q m) :=
  onSideband_of_meets hl hm fun s => s.laneMsg l false q m

theorem exec_laneIn (q : BitVec 8) (m : BitVec 16) : exec (.laneIn l q m) s = .next (s.laneMsg l true q m) :=
  onSideband_of_meets hl hm fun s => s.laneMsg l true q m

theorem exec_laneSetChange (tx : Bool) : exec (.laneSetChange l tx) s = .next (s.laneSet l tx) :=
  (if_pos hl).trans (if_pos hm)

theorem exec_retrainReq : exec (.retrainReq l) s = .next (s.enterRetrain l) :=
  onSideband_of_meets hl hm fun s => s.enterRetrain l

end

/-- Lanes join the transmit set. -/
theorem State.laneSet_txAdd_spec {m : BitVec 16} {rest : List LaneChange}
    (h : (s.link l).changes = ⟨true, true, m⟩ :: rest) :
    (s.laneSet l true).mem = s.mem ∧ (s.laneSet l true).link l = { s.link l with
      changes := rest, txMask := (s.link l).txMask ||| m, stream := ((s.laneSet l true).link l).stream } := by
  rw [State.laneSet_txAdd h]
  obtain ⟨x, hx⟩ := (s.setLink l { s.link l with changes := rest, txMask := (s.link l).txMask ||| m }).link_newStream l
  rw [hx, State.link_setLink]
  exact ⟨State.mem_newStream .., rfl⟩

/-- Lanes leave the transmit set, and enough of them remain. -/
theorem State.laneSet_txRemove_spec {m : BitVec 16} {rest : List LaneChange}
    (h : (s.link l).changes = ⟨true, false, m⟩ :: rest)
    (hw : s.minLanes l ≤ (s.setLink l { s.link l with txMask := (s.link l).txMask &&& ~~~m }).txWidth l) :
    (s.laneSet l true).mem = s.mem ∧ (s.laneSet l true).link l = { s.link l with
      changes := rest, txMask := (s.link l).txMask &&& ~~~m, stream := ((s.laneSet l true).link l).stream } := by
  obtain ⟨x, hx⟩ := (s.setLink l { s.link l with
    changes := rest, txMask := (s.link l).txMask &&& ~~~m }).link_newStream l
  rw [State.link_setLink] at hx
  rw [State.laneSet_txRemove h, State.widthCheck_of_le, hx]
  · exact ⟨State.mem_newStream .., rfl⟩
  · rw [State.txWidth, State.link_setLink] at hw
    rw [if_pos rfl, State.txWidth, hx]
    exact hw

section
variable {m : BitVec 16} {rest : List LaneChange} (h : (s.link l).changes = ⟨false, false, m⟩ :: rest)
include h

/-- Lanes leave the receive set, and enough of them remain. -/
theorem State.laneSet_rxRemove_kept (hw : s.minLanes l ≤ width ((s.link l).rxMask &&& ~~~m &&& ~~~(s.link l).quar)) :
    s.laneSet l false = s.setLink l { s.link l with changes := rest, rxMask := (s.link l).rxMask &&& ~~~m } := by
  rw [State.laneSet_rxRemove h, State.widthCheck_of_le]
  rw [if_neg Bool.false_ne_true, State.link_setLink]
  exact hw

/-- Lanes leave the receive set, and too few remain (R328). -/
theorem State.laneSet_rxRemove_breached
    (hw : width ((s.link l).rxMask &&& ~~~m &&& ~~~(s.link l).quar) < s.minLanes l) :
    ((s.laneSet l false).link l).state = .breached ∧ ((s.laneSet l false).link l).reason = 0x35 := by
  rw [State.laneSet_rxRemove h]
  generalize hv : s.setLink l _ = v
  have hfew : v.widthCheck l false = (v.breach l 0x35).discCheck := by
    refine if_pos ?_
    rw [if_neg Bool.false_ne_true, ← hv, State.link_setLink]
    exact hw
  obtain ⟨hstate, hreason, -⟩ := v.breach_spec l 0x35
  have steady := (State.steady_discCheck (P := fun _ => True) (v.breach l 0x35)).link l trivial
  rw [hfew]
  exact ⟨steady.state.trans hstate, steady.reason.trans hreason⟩

end

/-! ## Retraining (R327) -/

/-- A link that carries flits retrains; no other link changes. -/
theorem State.enterRetrain_spec (hm : (s.link l).state.meets = true) :
    (s.enterRetrain l).mem = s.mem ∧ (s.enterRetrain l).link l = { s.link l with
      state := .retrain, prior := (s.link l).state,
      retrains := BitVec.ofNat 4 (min ((s.link l).retrains.toNat + 1) 15), replays := 0 } ∧
    ∀ m, m ≠ l → (s.enterRetrain l).link m = s.link m := by
  have left : (s.leaveExch l).mem = s.mem ∧ (s.leaveExch l).links = s.links := by
    unfold State.leaveExch
    split <;> exact ⟨rfl, rfl⟩
  have hlink := State.link_congr left.2
  unfold State.enterRetrain
  dsimp only
  rw [hlink, if_pos hm]
  exact ⟨left.1, State.link_setLink .., fun m h => (State.link_setLink_ne _ _ _ h).trans (hlink m)⟩

end Sys2Proof.Machine
end

section
/-! SUPPORT. Lane events while no changeover is under way or due: loss of signal, quarantine and relock (10 R308, R313,
R314, R549). -/

namespace Sys2Proof.Machine

variable {s : State} {l : Nat}

theorem and_not_zero (m : BitVec 16) : m &&& ~~~0 = m := BitVec.and_allOnes

/-! ## No changeover is under way -/

section
variable (h : s.lasersQuiet) {n : Nat} (hn : n < 8)
include h hn

theorem State.lasersQuiet.busyLanes : s.busyLanes n = 0 := by
  unfold State.busyLanes
  rw [bitsOf_eq_zero fun i hi => by rw [(h.1 n hn).2 i hi, Option.isSome_none]]
  rfl

theorem State.lasersQuiet.portBusy : s.portBusy n = false := by
  refine List.any_eq_false.2 fun i hi => ?_
  rw [Wave.busy, (h.1 n hn).2 i (List.mem_range.1 hi)]
  exact Bool.false_ne_true

/-- A lane event is handled at once. -/
theorem State.lasersQuiet.laneEventOn (e : LinkEv) : s.laneEventOn n e = s.laneEvent e := by
  unfold State.laneEventOn
  dsimp only
  rw [h.portBusy hn, if_neg Bool.false_ne_true]
  cases e with
  | quar l m =>
    dsimp only
    rw [h.busyLanes hn, and_not_zero]
  | lost l m => rfl
  | relocked l i ok => rfl

end

/-- Sending on links leaves the lasers quiet. -/
theorem State.lasersQuiet.linkStep {u : State} (h : s.lasersQuiet) (hu : s.LinkStep u) : u.lasersQuiet := by
  obtain ⟨ls, e, f, o, rfl⟩ := hu
  exact h

/-- A far end that no changeover awaits is not heard. -/
theorem State.lasersQuiet.heardLanes (h : s.lasersQuiet) (hl : portOf l < 8) (m : BitVec 16) (st : ChgStage) :
    s.SamePorts (s.heardLanes l m st) := by
  have unheard : ∀ k ∈ lanesOf m, s.chgHeard l k st = s := fun k hk => by
    unfold State.chgHeard
    dsimp only
    rw [(h.1 _ hl).2 k (List.mem_range.1 (List.mem_filter.1 hk).1)]
  unfold State.heardLanes
  rw [foldl_eq_self unheard]
  exact h.calm.laserSettle

/-! ## Loss of signal -/

section
variable (hm : (s.link l).state.meets = true) {m : BitVec 16} (hg : m &&& (s.link l).rxMask &&& ~~~(s.link l).quar ≠ 0)
include hm hg

theorem State.lanesLost_eq : s.lanesLost l m =
    let gone := m &&& (s.link l).rxMask &&& ~~~(s.link l).quar
    if s.minLanes l ≤ width ((s.link l).rxMask &&& ~~~(s.link l).quar &&& ~~~m) then
      (s.setLink l { s.link l with
        quar := (s.link l).quar ||| gone
        mislocks := BitVec.ofNat 8 (satAdd (s.link l).mislocks.toNat (width gone) 0xFF) }).sendSb l 0x05 gone.toNat 0
    else (s.sendSb l 0x07 0 0).enterRetrain l := by
  have hlost : ¬ (!(s.link l).state.meets || m &&& (s.link l).rxMask &&& ~~~(s.link l).quar == 0) = true := by
    rw [hm, beq_false_of_ne hg]
    decide
  have hwork : (s.link l).rxMask &&& ~~~(s.link l).quar &&& ~~~(m &&& (s.link l).rxMask &&& ~~~(s.link l).quar) =
      (s.link l).rxMask &&& ~~~(s.link l).quar &&& ~~~m := by
    ext i
    simp only [BitVec.getElem_and, BitVec.getElem_not]
    cases (s.link l).rxMask[i] <;> cases (s.link l).quar[i] <;> simp
  unfold State.lanesLost
  dsimp only
  rw [if_neg hlost, hwork]

/-- Lanes that lose their signal are quarantined, or the link retrains. -/
theorem State.lanesLost_spec : (s.lanesLost l m).mem = s.mem ∧
    if s.minLanes l ≤ width ((s.link l).rxMask &&& ~~~(s.link l).quar &&& ~~~m) then
      ((s.lanesLost l m).link l).quar = (s.link l).quar ||| (m &&& (s.link l).rxMask &&& ~~~(s.link l).quar) ∧
        ((s.lanesLost l m).link l).state = (s.link l).state
    else ((s.lanesLost l m).link l).state = .retrain ∧ ((s.lanesLost l m).link l).quar = (s.link l).quar := by
  rw [State.lanesLost_eq hm hg]
  dsimp only
  split
  · generalize hv : s.setLink l _ = v
    obtain ⟨sb, sent⟩ := v.link_sendSb l 0x05 (m &&& (s.link l).rxMask &&& ~~~(s.link l).quar).toNat 0
    rw [← hv, State.link_setLink, hv] at sent
    refine ⟨(State.linkStep_sendSb v ..).mem.trans (by rw [← hv]; rfl), ?_, ?_⟩
    · exact (congrArg Link.quar sent.rest :)
    · exact (congrArg Link.state sent.rest :)
  · obtain ⟨sb, sent⟩ := s.link_sendSb l 0x07 0 0
    have hmeets : ((s.sendSb l 0x07 0 0).link l).state.meets = true :=
      (congrArg (fun k : Link => k.state.meets) sent.rest).trans hm
    obtain ⟨hmem, hlink, -⟩ := State.enterRetrain_spec hmeets
    rw [hlink]
    exact ⟨hmem.trans (State.linkStep_sendSb ..).mem, rfl, (congrArg Link.quar sent.rest :)⟩

end

/-- Loss of signal with a laser at rest, whatever its size. -/
theorem exec_laneLossOfSignal (hl : l < 48) (hm : (s.link l).state.meets = true) (h : s.lasersQuiet) (m : BitVec 16) :
    exec (.laneLossOfSignal l m) s = .next (s.lanesLost l m) := by
  have hn : portOf l < 8 := by unfold portOf; omega
  have heard : exec (.laneLossOfSignal l m) s =
      .next (if width ((s.link l).rxMask &&& ~~~(s.link l).quar &&& ~~~m) < s.minLanes l then s.lanesLost l m
        else s.laneEventOn (portOf l) (.lost l m)) :=
    onSideband_of_meets hl hm fun s =>
      if width ((s.link l).rxMask &&& ~~~(s.link l).quar &&& ~~~m) < s.minLanes l then s.lanesLost l m
      else s.laneEventOn (portOf l) (.lost l m)
  rw [heard, h.laneEventOn hn]
  exact congrArg Host.Outcome.next (ite_self _)

/-! ## LANE_QUAR and LANE_READY -/

theorem State.lanesQuar_eq (h : s.lasersQuiet) (hn : portOf l < 8) {m : BitVec 16} (hg : m &&& (s.link l).txMask ≠ 0) :
    s.lanesQuar l m = (s.setLink l { s.link l with
      relock := (s.link l).relock ||| (m &&& (s.link l).txMask)
      await := (s.link l).await ||| (m &&& (s.link l).txMask) }).announce l false 0x01 (m &&& (s.link l).txMask) := by
  unfold State.lanesQuar
  dsimp only
  rw [h.busyLanes hn, and_not_zero, if_neg hg,
    State.laneOutSend_of_ne hg]

/-- LANE_QUAR takes lanes out of transmit service. -/
theorem laneQuar_spec (hl : l < 48) (hm : (s.link l).state.meets = true) (h : s.lasersQuiet) {m : BitVec 16}
    (hg : m &&& (s.link l).txMask ≠ 0) (q : BitVec 8) : ∃ u, exec (.laneQuar l q m) s = .next u ∧ u.mem = s.mem ∧
      (u.link l).changes = (s.link l).changes ++ [⟨true, false, m &&& (s.link l).txMask⟩] ∧
      (u.link l).relock = (s.link l).relock ||| (m &&& (s.link l).txMask) ∧
      (u.link l).await = (s.link l).await ||| (m &&& (s.link l).txMask) := by
  have hn : portOf l < 8 := by unfold portOf; omega
  have hexec : exec (.laneQuar l q m) s = .next (s.lanesQuar l m) :=
    (onSideband_of_meets hl hm fun s => s.laneEventOn (portOf l) (.quar l m)).trans
      (congrArg Host.Outcome.next (h.laneEventOn hn _))
  rw [State.lanesQuar_eq h hn hg] at hexec
  generalize hv : s.setLink l _ = v at hexec
  obtain ⟨sb, sent⟩ := v.link_announce l false 0x01 (m &&& (s.link l).txMask)
  rw [← hv, State.link_setLink, hv] at sent
  have hmem : v.mem = s.mem := by rw [← hv]; rfl
  refine ⟨_, hexec, (State.linkStep_announce v ..).mem.trans hmem, ?_, ?_, ?_⟩
  · exact (congrArg Link.changes sent.rest :)
  · exact (congrArg Link.relock sent.rest :)
  · exact (congrArg Link.await sent.rest :)

/-- Lanes that the far end reports ready are awaited no more. -/
def State.awaited (s : State) (l : Nat) (m : BitVec 16) : State :=
  s.modLink l fun k => { k with await := k.await &&& ~~~m }

theorem State.link_awaited (s : State) (l : Nat) (m : BitVec 16) :
    (s.awaited l m).link l = { s.link l with await := (s.link l).await &&& ~~~m } := by
  rw [State.awaited, State.modLink_eq, State.link_setLink]

/-- Lanes whose own rings are locked return at once. -/
theorem State.laneBack_awaited {m : BitVec 16} (hne : m ≠ 0) (hr : (s.link l).relock = 0) :
    (s.awaited l m).laneBack l m = (s.awaited l m).announce l true 0x03 m := by
  have hready : m &&& ~~~((s.link l).await &&& ~~~m) = m := by
    ext i
    simp only [BitVec.getElem_and, BitVec.getElem_not]
    cases m[i] <;> simp
  unfold State.laneBack
  dsimp only
  rw [State.link_awaited]
  dsimp only
  rw [hr, and_not_zero, hready, State.laneInSend_of_ne hne]

theorem exec_laneReady (hl : l < 48) (hm : (s.link l).state.meets = true) (q : BitVec 8) (m : BitVec 16) :
    exec (.laneReady l q m) s = .next (((s.awaited l (m &&& (s.link l).await)).laneBack l
      (m &&& (s.link l).await)).heardLanes l m .relock) :=
  onSideband_of_meets hl hm fun s => ((s.awaited l (m &&& (s.link l).await)).laneBack l
    (m &&& (s.link l).await)).heardLanes l m .relock

/-- LANE_READY returns lanes whose own rings are locked to transmit service. -/
theorem laneReady_spec (hl : l < 48) (hm : (s.link l).state.meets = true) (h : s.lasersQuiet) {m : BitVec 16}
    (hne : m ≠ 0) (ha : m &&& (s.link l).await = m) (hr : (s.link l).relock = 0) (q : BitVec 8) :
    ∃ u, exec (.laneReady l q m) s = .next u ∧ u.mem = s.mem ∧ (u.link l).await = (s.link l).await &&& ~~~m ∧
      (u.link l).changes = (s.link l).changes ++ [⟨true, true, m⟩] := by
  have hn : portOf l < 8 := by unfold portOf; omega
  have hexec := exec_laneReady hl hm q m
  rw [ha, State.laneBack_awaited hne hr] at hexec
  have steps : s.LinkStep ((s.awaited l m).announce l true 0x03 m) :=
    (s.linkStep_modLink ..).trans (State.linkStep_announce ..)
  have heard := (h.linkStep steps).heardLanes hn m .relock
  obtain ⟨sb, sent⟩ := (s.awaited l m).link_announce l true 0x03 m
  rw [State.link_awaited] at sent
  refine ⟨_, hexec, heard.mem.trans steps.mem, ?_, ?_⟩ <;> rw [State.link_congr heard.links]
  · exact (congrArg Link.await sent.rest :)
  · exact (congrArg Link.changes sent.rest :)

/-! ## The end of a relock -/

section
variable {i : Nat} (hq : (s.link l).quar.getLsbD i = true)
include hq

/-- A lane that relocks is quarantined no more, and its sender hears of it. -/
theorem State.ringDone_locked : ((s.ringDone l i true).link l).quar = (s.link l).quar &&& ~~~(1#16 <<< i) ∧
    ((s.ringDone l i true).link l).rxMask = (s.link l).rxMask ∧
    ((s.ringDone l i true).link l).mseq = (s.link l).mseq + 1 ∧ (s.ringDone l i true).mem = s.mem := by
  have hring : s.ringDone l i true = (s.setLink l { s.link l with
      quar := (s.link l).quar &&& ~~~(1#16 <<< i) }).sendSb l 0x06 (1#16 <<< i).toNat 0 := if_pos hq
  rw [hring]
  generalize hv : s.setLink l _ = v
  obtain ⟨sb, sent⟩ := v.link_sendSb l 0x06 (1#16 <<< i).toNat 0
  rw [← hv, State.link_setLink, hv] at sent
  refine ⟨?_, ?_, ?_, (State.linkStep_sendSb v ..).mem.trans (by rw [← hv]; rfl)⟩
  · exact (congrArg Link.quar sent.rest :)
  · exact (congrArg Link.rxMask sent.rest :)
  · exact (congrArg Link.mseq sent.rest :)

/-- A lane that fails to relock leaves service, and enough lanes remain. -/
theorem State.ringDone_failed (hw : s.minLanes l ≤
      width ((s.link l).rxMask &&& ~~~(1#16 <<< i) &&& ~~~((s.link l).quar &&& ~~~(1#16 <<< i)))) :
    s.ringDone l i false = s.setLink l { s.link l with
      quar := (s.link l).quar &&& ~~~(1#16 <<< i), rxMask := (s.link l).rxMask &&& ~~~(1#16 <<< i) } := by
  refine (if_pos hq).trans (State.widthCheck_of_le ?_)
  rw [if_neg Bool.false_ne_true, State.link_setLink]
  exact hw

end

theorem exec_ringRelockDone (hl : l < 48) (hm : (s.link l).state.meets = true) (h : s.lasersQuiet)
    {i : Nat} (hi : i < 16)
    (ok : Bool) : exec (.ringRelockDone l i ok) s = .next (s.ringDone l i ok) := by
  have hn : portOf l < 8 := by unfold portOf; omega
  refine (if_pos ⟨hl, hi⟩).trans ((if_pos ?_).trans (congrArg Host.Outcome.next (h.laneEventOn hn _)))
  rw [hm]
  rfl

/-! ## Lanes that return from a changeover -/

theorem laneRetrained_spec (hl : l < 48) (hm : (s.link l).state.meets = true) {i : Nat} (hi : i < 16)
    (hr : (s.link l).rxMask.getLsbD i = false) : ∃ u, exec (.laneRetrained l i true) s = .next u ∧
      (u.link l).mseq = (s.link l).mseq + 1 ∧ u.mem = s.mem := by
  obtain ⟨sb, sent⟩ := s.link_sendSb l 0x06 (2 ^ i) 0
  refine ⟨s.sendSb l 0x06 (2 ^ i) 0, (if_pos ⟨hl, hi⟩).trans (if_pos ?_), ?_, (State.linkStep_sendSb ..).mem⟩
  · rw [hm, hr]
    rfl
  · exact (congrArg Link.mseq sent.rest :)

end Sys2Proof.Machine
end

section
/-! SUPPORT. O45: flits and lane control on an optical link, put together. -/

namespace Sys2Proof.Machine

/-- Settles O45: what a link does with flits, lane control messages, loss of signal and relocks. -/
theorem linkFlits : Obligations.LinkFlits := by
  unfold Obligations.LinkFlits
  intro l s hl k
  refine ⟨fun hp hh => ⟨fun f cw hf hok ht hq hack hlen hcw => ?_, fun f hf hok ht => ?_, fun hn => ?_⟩,
    fun hm => ⟨fun q m => ⟨?_, ?_⟩, fun m rest => ⟨?_, ?_, ?_, ?_, ?_⟩, fun h m => ⟨fun hg => ?_, fun q => ⟨?_, ?_⟩⟩,
      fun h i hi hq => ⟨?_, fun hw => ?_⟩, fun i hi hr => ?_, ?_⟩, fun i e hi hr => ?_, rfl⟩
  · exact flitReceive_accepted hl hp hh hf hok ht hq hack hlen hcw
  · exact flitReceive_failed hl hp hh hf hok ht
  · exact flitNakRepeat_spec hl hh hn
  · exact ⟨_, exec_laneOut hl hm q m, s.laneMsg_spec l false q m⟩
  · exact ⟨_, exec_laneIn hl hm q m, s.laneMsg_spec l true q m⟩
  · exact fun hc => ⟨_, exec_laneSetChange hl hm true, State.laneSet_txAdd_spec hc⟩
  · exact fun hc hw => ⟨_, exec_laneSetChange hl hm true, State.laneSet_txRemove_spec hc hw⟩
  · exact fun hc => (exec_laneSetChange hl hm false).trans (congrArg _ (State.laneSet_rxAdd hc))
  · exact fun hc hw => (exec_laneSetChange hl hm false).trans (congrArg _ (State.laneSet_rxRemove_kept hc hw))
  · exact fun hc hw => ⟨_, exec_laneSetChange hl hm false, State.laneSet_rxRemove_breached hc hw⟩
  · exact ⟨_, exec_laneLossOfSignal hl hm h m, State.lanesLost_spec hm hg⟩
  · exact fun hg => laneQuar_spec hl hm h hg q
  · exact fun hne ha hr => laneReady_spec hl hm h hne ha hr q
  · exact ⟨_, exec_ringRelockDone hl hm h hi true, State.ringDone_locked hq⟩
  · refine ⟨_, exec_ringRelockDone hl hm h hi false, ?_⟩
    rw [State.ringDone_failed hq hw, State.link_setLink]
    exact ⟨rfl, rfl, rfl, rfl⟩
  · exact laneRetrained_spec hl hm hi hr
  · exact ⟨_, exec_retrainReq hl hm, State.enterRetrain_spec hm⟩
  · exact (if_pos ⟨hl, hi⟩).trans (if_pos hr)

end Sys2Proof.Machine
end
